-- ==== Sys2Proof/Word.lean ====
section
/-! DEFINITION. The word types of the F2 and their plainest arithmetic (R2, R6, R10). -/

namespace Sys2Proof

/-- A byte (R2). -/
abbrev Byte := BitVec 8
/-- A 32-bit word: one lane of a vector register (R151). -/
abbrev W32 := BitVec 32
/-- A 64-bit word: a scalar, an address, a system register (R113, R118). -/
abbrev W64 := BitVec 64
/-- A tensor handle (R115). -/
abbrev W256 := BitVec 256

/-- A sparse table: keys in strictly rising order; an absent key reads as the table's default. -/
abbrev Tbl (α : Type) := List (Nat × α)

end Sys2Proof
end

