-- ==== Sys2Proof/Fields.lean ====
section
/-! DEFINITION. Enumerations that fields of the syntax take. -/

namespace Sys2Proof

/-- The accesses that the Drift counter window takes (R367). -/
inductive CounterAcc where
  | load | store | add
  deriving DecidableEq, Repr

/-- What a device asks of this device's memory, and which device of the panel asks: an atomic or a reduction has its operation
(R270), its width, and the scope at which it is a release, if it is one (R365, R367). -/
inductive PeerAcc where
  | load (peer : Nat)
  | store (peer : Nat)
  | atomic (peer : Nat) (aop : Nat) (wide : Bool) (rel : Option Nat)
  deriving DecidableEq, Repr

end Sys2Proof
end

