-- ==== Sys2Proof/Syntax.lean ====
section
/-! DEFINITION. The syntax of every step of the F2: one constructor for each row of the opcode table. -/

namespace Sys2Proof

/-- The fields of a VEA or VEB word (R75); the opcode is the constructor. -/
structure VArgs where
  g : BitVec 8
  k : BitVec 3
  rm : BitVec 3
  d : BitVec 6
  x : BitVec 13
  a : BitVec 8
  b : BitVec 8
  c : BitVec 8
  deriving DecidableEq, Repr

/-- The fields of a MOV word (R76). -/
structure MovArgs where
  gs : BitVec 3
  gd : BitVec 3
  a : BitVec 8
  d : BitVec 6
  x : BitVec 7
  deriving DecidableEq, Repr

/-- The fields of a MEM word (R77). -/
structure MemArgs where
  g : BitVec 8
  k : BitVec 3
  h : BitVec 5
  s : BitVec 6
  v : BitVec 8
  lat : BitVec 10
  x : BitVec 14
  deriving DecidableEq, Repr

/-- The fields of an ENG word (R78). -/
structure EngArgs where
  scope : BitVec 3
  rel : BitVec 1
  acq : BitVec 1
  sinc : BitVec 4
  wsem : BitVec 8
  wthr : BitVec 8
  ssem : BitVec 8
  p : BitVec 24
  deriving DecidableEq, Repr

/-- The header of a Drift work entry (R368). -/
structure DHdr where
  rel : BitVec 1
  acq : BitVec 1
  scope : BitVec 3
  re : BitVec 4
  rn : BitVec 4
  trig : BitVec 12
  thresh : BitVec 32
  ctra : BitVec 16
  ctrb : BitVec 16
  deriving DecidableEq, Repr

/-- A link-state beat: width, lane map and speed (R364). -/
structure Beat where
  width : Nat
  lanes : Nat
  speed : Nat
  deriving DecidableEq, Repr

/-- The steps of the F2, one constructor for each row of spec/opcode_table.json. -/
inductive Instr where
  /-- BR (R122): Unconditional branch by a signed byte offset from the bundle. -/
  | br (ofs : BitVec 26)
  /-- BRC (R122): Branch if the condition holds for scalar sC compared as signed with zero. -/
  | brc (sc : BitVec 6) (cond : BitVec 3) (ofs : BitVec 17)
  /-- JR (R122): Jump to the address held in scalar sS. -/
  | jr (rs : BitVec 6)
  /-- CALL (R122): Branch by offset and write the return address F to s62. -/
  | call (ofs : BitVec 26)
  /-- RET (R122): Jump to the address in s62. -/
  | ret
  /-- LOOP (R124): Start a hardware loop at level LVL with the count taken from a scalar. -/
  | loop (lvl : BitVec 2) (eo : BitVec 14) (rs : BitVec 6)
  /-- LOOPI (R124): Start a hardware loop at level LVL with an immediate count. -/
  | loopi (lvl : BitVec 2) (eo : BitVec 14) (cnt : BitVec 10)
  /-- LBRK (R126): End the innermost active loop level after the bundle. -/
  | lbrk
  /-- WAIT (R129): Block until a semaphore reaches VAL, then subtract it. -/
  | wait (sem : BitVec 8) (val : BitVec 8)
  /-- POST (R129): Add VAL to a semaphore after the other slots, or raise SEMOVF. -/
  | post (sem : BitVec 8) (val : BitVec 8)
  /-- WAITP (R129): Consume VAL from a semaphore if available and report success in a scalar. -/
  | waitp (sem : BitVec 8) (val : BitVec 8) (rd : BitVec 6)
  /-- YIELD (R135): Hand the issue slot to the next ready context, or let the shadow context yield. -/
  | yield
  /-- CKPT (R136): Mark a checkpoint: set CKPT_PC, or commit the segment in a guarded launch. -/
  | ckpt
  /-- TRAP (R137): Execute the bundle and raise SWTRAP with CODE in TRAP_INFO. -/
  | trap (code : BitVec 16)
  /-- ERET (R138): Wait for handler results, restore the held landing buffer and loop state, and resume at TRAP_PC. -/
  | eret
  /-- HALT (R139): End the tile task after the bundle, discarding results in flight. -/
  | halt
  /-- FENCE (R132): Hold the bundle until earlier accesses are performed at SCOPE and earlier ENG commands are issued. -/
  | fence (scope : BitVec 3)
  /-- ACQ (R133): Hold the bundle until a latch, barrier or name acquire is satisfied at SCOPE. -/
  | acq (sa : BitVec 6) (sb : BitVec 6) (scope : BitVec 3) (kind : BitVec 2)
  /-- REL (R134): Add sB to a sequence latch as a release at SCOPE. -/
  | rel (sa : BitVec 6) (sb : BitVec 6) (scope : BitVec 3)
  /-- MFS (R140): Read a system register into a scalar. -/
  | mfs (rd : BitVec 6) (sys : BitVec 12)
  /-- MTS (R140): Write a scalar to a system register from the next bundle. -/
  | mts (rs : BitVec 6) (sys : BitVec 12)
  /-- ADD (R141): Scalar add modulo 2^64. -/
  | add (rd : BitVec 6) (ra : BitVec 6) (rb : BitVec 6)
  /-- SUB (R141): Scalar subtract modulo 2^64. -/
  | sub (rd : BitVec 6) (ra : BitVec 6) (rb : BitVec 6)
  /-- ADDI (R141): Scalar add of a sign-extended 14-bit immediate. -/
  | addi (rd : BitVec 6) (ra : BitVec 6) (imm : BitVec 14)
  /-- AND (R141): Scalar bitwise AND. -/
  | and (rd : BitVec 6) (ra : BitVec 6) (rb : BitVec 6)
  /-- OR (R141): Scalar bitwise OR. -/
  | or (rd : BitVec 6) (ra : BitVec 6) (rb : BitVec 6)
  /-- XOR (R141): Scalar bitwise XOR. -/
  | xor (rd : BitVec 6) (ra : BitVec 6) (rb : BitVec 6)
  /-- ANDI (R141): Scalar AND with a zero-extended immediate. -/
  | andi (rd : BitVec 6) (ra : BitVec 6) (imm : BitVec 14)
  /-- ORI (R141): Scalar OR with a zero-extended immediate. -/
  | ori (rd : BitVec 6) (ra : BitVec 6) (imm : BitVec 14)
  /-- XORI (R141): Scalar XOR with a zero-extended immediate. -/
  | xori (rd : BitVec 6) (ra : BitVec 6) (imm : BitVec 14)
  /-- SHL (R141): Scalar shift left by b[5:0]. -/
  | shl (rd : BitVec 6) (ra : BitVec 6) (rb : BitVec 6)
  /-- SHR (R141): Scalar logical shift right by b[5:0]. -/
  | shr (rd : BitVec 6) (ra : BitVec 6) (rb : BitVec 6)
  /-- SRA (R141): Scalar arithmetic shift right by b[5:0]. -/
  | sra (rd : BitVec 6) (ra : BitVec 6) (rb : BitVec 6)
  /-- SHLI (R141): Scalar shift left by an immediate. -/
  | shli (rd : BitVec 6) (ra : BitVec 6) (sh : BitVec 6)
  /-- SHRI (R141): Scalar logical shift right by an immediate. -/
  | shri (rd : BitVec 6) (ra : BitVec 6) (sh : BitVec 6)
  /-- SRAI (R141): Scalar arithmetic shift right by an immediate. -/
  | srai (rd : BitVec 6) (ra : BitVec 6) (sh : BitVec 6)
  /-- MUL (R141): Low 64 bits of the scalar product. -/
  | mul (rd : BitVec 6) (ra : BitVec 6) (rb : BitVec 6)
  /-- MULH (R141): High 64 bits of the signed 128-bit product. -/
  | mulh (rd : BitVec 6) (ra : BitVec 6) (rb : BitVec 6)
  /-- MULHU (R141): High 64 bits of the unsigned 128-bit product. -/
  | mulhu (rd : BitVec 6) (ra : BitVec 6) (rb : BitVec 6)
  /-- DIVS (R142): Signed division truncated toward zero, with defined results for zero and overflow. -/
  | divs (rd : BitVec 6) (ra : BitVec 6) (rb : BitVec 6)
  /-- DIVU (R142): Unsigned division, 2^64-1 on division by zero. -/
  | divu (rd : BitVec 6) (ra : BitVec 6) (rb : BitVec 6)
  /-- MIN (R141): Signed scalar minimum. -/
  | min (rd : BitVec 6) (ra : BitVec 6) (rb : BitVec 6)
  /-- MAX (R141): Signed scalar maximum. -/
  | max (rd : BitVec 6) (ra : BitVec 6) (rb : BitVec 6)
  /-- MINU (R141): Unsigned scalar minimum. -/
  | minu (rd : BitVec 6) (ra : BitVec 6) (rb : BitVec 6)
  /-- MAXU (R141): Unsigned scalar maximum. -/
  | maxu (rd : BitVec 6) (ra : BitVec 6) (rb : BitVec 6)
  /-- SLT (R141): Set 1 if a is less than b, signed. -/
  | slt (rd : BitVec 6) (ra : BitVec 6) (rb : BitVec 6)
  /-- SLTU (R141): Set 1 if a is less than b, unsigned. -/
  | sltu (rd : BitVec 6) (ra : BitVec 6) (rb : BitVec 6)
  /-- SEQ (R141): Set 1 if a equals b. -/
  | seq (rd : BitVec 6) (ra : BitVec 6) (rb : BitVec 6)
  /-- SNE (R141): Set 1 if a differs from b. -/
  | sne (rd : BitVec 6) (ra : BitVec 6) (rb : BitVec 6)
  /-- SELZ (R141): Select a if c is zero, else b. -/
  | selz (rd : BitVec 6) (ra : BitVec 6) (rb : BitVec 6) (rc : BitVec 6)
  /-- LI (R141): Load a sign-extended 20-bit immediate. -/
  | li (rd : BitVec 6) (imm : BitVec 20)
  /-- LUI (R141): Shift the old sD left 20 and insert a 20-bit immediate. -/
  | lui (rd : BitVec 6) (imm : BitVec 20)
  /-- CLZ (R141): Count leading zero bits. -/
  | clz (rd : BitVec 6) (ra : BitVec 6)
  /-- POPC (R141): Count one bits. -/
  | popc (rd : BitVec 6) (ra : BitVec 6)
  /-- LDS (R143): Scalar load from virtual memory, blocking until the value returns. -/
  | lds (rd : BitVec 6) (ra : BitVec 6) (sz : BitVec 3) (imm : BitVec 11)
  /-- STS (R143): Scalar store to virtual memory. -/
  | sts (rd : BitVec 6) (ra : BitVec 6) (sz : BitVec 3) (imm : BitVec 11)
  /-- LDF (R143): Scalar load from the local store. -/
  | ldf (rd : BitVec 6) (ra : BitVec 6) (sz : BitVec 3) (imm : BitVec 11)
  /-- STF (R143): Scalar store to the local store. -/
  | stf (rd : BitVec 6) (ra : BitVec 6) (sz : BitVec 3) (imm : BitVec 11)
  /-- HSET (R145): Write a handle field from a scalar, with range checks. -/
  | hset (hh : BitVec 5) (rs : BitVec 6) (fld : BitVec 5)
  /-- HGET (R145): Read a handle field into a scalar. -/
  | hget (hh : BitVec 5) (rs : BitVec 6) (fld : BitVec 5)
  /-- HADV (R146): Advance a handle's BASE by sS steps along one dimension. -/
  | hadv (hh : BitVec 5) (rs : BitVec 6) (dim : BitVec 2)
  /-- HTILE (R147): Move a handle to tile (sS, sT) and update its TILE. -/
  | htile (hh : BitVec 5) (rs : BitVec 6) (rt : BitVec 6) (fld : BitVec 5)
  /-- HNAME (R148): Change a handle's ITER or TILE. -/
  | hname (hh : BitVec 5) (rs : BitVec 6) (rt : BitVec 6) (fld : BitVec 5)
  /-- FADD (R175): FP32 add with one rounding. -/
  | fadd (o : VArgs)
  /-- FSUB (R175): FP32 subtract with one rounding. -/
  | fsub (o : VArgs)
  /-- FMUL (R175): FP32 multiply with one rounding. -/
  | fmul (o : VArgs)
  /-- FMA (R175): FP32 fused multiply-add. -/
  | fma (o : VArgs)
  /-- FMS (R175): FP32 fused multiply-subtract. -/
  | fms (o : VArgs)
  /-- FNMA (R175): FP32 negated fused multiply-add. -/
  | fnma (o : VArgs)
  /-- FMIN (R176): FP32 minimum preferring the non-NaN operand. -/
  | fmin (o : VArgs)
  /-- FMAX (R176): FP32 maximum preferring the non-NaN operand. -/
  | fmax (o : VArgs)
  /-- FABS (R180): Clear the sign bit. -/
  | fabs (o : VArgs)
  /-- FNEG (R180): Invert the sign bit. -/
  | fneg (o : VArgs)
  /-- FCMP (R177): FP32 compare into a mask. -/
  | fcmp (o : VArgs)
  /-- FSEL (R178): Select a or b per lane by a mask. -/
  | fsel (o : VArgs)
  /-- FCLASS (R179): Classify an FP32 value into a one-hot integer. -/
  | fclass (o : VArgs)
  /-- RNDI (R181): Round to an integral FP32 value. -/
  | rndi (o : VArgs)
  /-- FTOI (R182): Convert FP32 to a saturated 32-bit integer. -/
  | ftoi (o : VArgs)
  /-- ITOF (R183): Convert a 32-bit integer to FP32. -/
  | itof (o : VArgs)
  /-- GETEXP (R184): Extract the unbiased exponent as FP32. -/
  | getexp (o : VArgs)
  /-- GETMANT (R184): Extract the significand in [1, 2). -/
  | getmant (o : VArgs)
  /-- EXPINS (R185): Multiply by 2^N and round once. -/
  | expins (o : VArgs)
  /-- FADDX (R186): Add returning the rounded sum and its exact error as a pair. -/
  | faddx (o : VArgs)
  /-- FSUBX (R186): Subtract returning the rounded difference and its error. -/
  | fsubx (o : VArgs)
  /-- FMULX (R186): Multiply returning the rounded product and its error. -/
  | fmulx (o : VArgs)
  /-- DWADD (R187): Double-word add of two pairs. -/
  | dwadd (o : VArgs)
  /-- DWSUB (R187): Double-word subtract of two pairs. -/
  | dwsub (o : VArgs)
  /-- DWMUL (R187): Double-word multiply of two pairs. -/
  | dwmul (o : VArgs)
  /-- DWADDS (R187): Add a single to a pair. -/
  | dwadds (o : VArgs)
  /-- DWNORM (R187): Renormalise a pair. -/
  | dwnorm (o : VArgs)
  /-- DWTOF (R187): Round a pair to one FP32 value. -/
  | dwtof (o : VArgs)
  /-- RSUM (R189): Sequential rounded sum of a group's active lanes into lane 0. -/
  | rsum (o : VArgs)
  /-- RSUMC (R190): Compensated sum of a group's active lanes into a pair. -/
  | rsumc (o : VArgs)
  /-- RMAX (R189): Maximum of a group's active lanes. -/
  | rmax (o : VArgs)
  /-- RMIN (R189): Minimum of a group's active lanes. -/
  | rmin (o : VArgs)
  /-- RSUMI (R189): Integer sum of a group's active lanes. -/
  | rsumi (o : VArgs)
  /-- FDOT4 (R192): Scaled dot of four narrow pairs added to an FP32 accumulator. -/
  | fdot4 (o : VArgs)
  /-- IDOTB (R193): INT8 dot of four pairs with a saturated total. -/
  | idotb (o : VArgs)
  /-- IDOTN (R193): INT4 dot of eight pairs with a saturated total. -/
  | idotn (o : VArgs)
  /-- CVTF (R194): Convert FP32 to a narrow code placed in a field of b. -/
  | cvtf (o : VArgs)
  /-- CVTN (R196): Widen a narrow or integer field to FP32, optionally scaled. -/
  | cvtn (o : VArgs)
  /-- CVTB (R195): Convert two FP32 values to packed BF16. -/
  | cvtb (o : VArgs)
  /-- IADD (R197): Integer add per lane. -/
  | iadd (o : VArgs)
  /-- ISUB (R197): Integer subtract per lane. -/
  | isub (o : VArgs)
  /-- IMUL (R197): Low 32 bits of the lane product. -/
  | imul (o : VArgs)
  /-- IMULH (R197): High 32 bits of the lane product. -/
  | imulh (o : VArgs)
  /-- IMIN (R197): Integer minimum per lane. -/
  | imin (o : VArgs)
  /-- IMAX (R197): Integer maximum per lane. -/
  | imax (o : VArgs)
  /-- IAND (R197): Bitwise AND per lane. -/
  | iand (o : VArgs)
  /-- IOR (R197): Bitwise OR per lane. -/
  | ior (o : VArgs)
  /-- IXOR (R197): Bitwise XOR per lane. -/
  | ixor (o : VArgs)
  /-- ISHL (R197): Shift left per lane. -/
  | ishl (o : VArgs)
  /-- ISHR (R197): Logical shift right per lane. -/
  | ishr (o : VArgs)
  /-- ISRA (R197): Arithmetic shift right per lane. -/
  | isra (o : VArgs)
  /-- ICMP (R197): Integer compare into a mask. -/
  | icmp (o : VArgs)
  /-- IABS (R197): Integer absolute value per lane. -/
  | iabs (o : VArgs)
  /-- LANEID (R198): Write each lane's index. -/
  | laneid (o : VArgs)
  /-- BCAST (R198): Broadcast one lane of a group to all its lanes. -/
  | bcast (o : VArgs)
  /-- PERM (R198): Permute lanes of a group by an index register. -/
  | perm (o : VArgs)
  /-- MOVP (R205): Write a vector into an SFU port, starting a function on a trigger port. -/
  | movp (o : MovArgs)
  /-- MOVR (R205): Copy sf.y of a group into a vector register. -/
  | movr (o : MovArgs)
  /-- XGC (R206): Copy a register from one lane group to another or to all. -/
  | xgc (o : MovArgs)
  /-- POP (R207): Take the head entry of a result queue, stalling or returning a not-ready flag. -/
  | pop (o : MovArgs)
  /-- KMOV (R208): Move between masks and vector registers. -/
  | kmov (o : MovArgs)
  /-- KAND (R208): AND a mask with another, optionally inverted. -/
  | kand (o : MovArgs)
  /-- KOR (R208): OR a mask with another, optionally inverted. -/
  | kor (o : MovArgs)
  /-- MOVS (R209): Write a scalar's low word to all lanes or one lane of a register. -/
  | movs (o : MovArgs)
  /-- MOVV (R209): Move one vector lane to a scalar. -/
  | movv (o : MovArgs)
  /-- SRSEED (R210): Reseed lane and Serac Frazil generators from a seed word. -/
  | srseed (o : MovArgs)
  /-- VLD (R212): Vector load from the local store at issue. -/
  | vld (o : MemArgs)
  /-- VST (R212): Vector store to the local store after the bundle. -/
  | vst (o : MemArgs)
  /-- VLDX (R212): Indexed gather from the local store. -/
  | vldx (o : MemArgs)
  /-- VSTX (R212): Indexed scatter to the local store. -/
  | vstx (o : MemArgs)
  /-- LDG (R214): Declared-latency load from Firn, HBM or the window, taking a replay slot. -/
  | ldg (o : MemArgs)
  /-- LDR (R214): Declared-latency load from the remote range or aperture. -/
  | ldr (o : MemArgs)
  /-- RELD (R219): Reissue the poisoned groups of a replay slot's load. -/
  | reld (o : MemArgs)
  /-- VATOM (R220): Vector atomic per lane returning old values through q.mem. -/
  | vatom (o : MemArgs)
  /-- VRED (R220): Vector reduction per lane with no return. -/
  | vred (o : MemArgs)
  /-- COPY (R267): Copy a source window into a destination window, optionally naming a barrier. -/
  | copy (o : EngArgs)
  /-- COPYS (R267): Copy and signal a semaphore of another core of the rectangle. -/
  | copys (o : EngArgs)
  /-- ROTQ (R269): Join a quad rendezvous that rotates one tile around the quad. -/
  | rotq (o : EngArgs)
  /-- ASK (R264): Place an interest in the handle's name and write the tile into its window. -/
  | ask (o : EngArgs)
  /-- ANNOUNCE (R265): Publish a contiguous tile under its name as a release. -/
  | announce (o : EngArgs)
  /-- SEAL (R266): Close iterations of a tensor at every home. -/
  | seal (o : EngArgs)
  /-- ATOM (R270): Atomic operation on a word at its home, returning the old value. -/
  | atom (o : EngArgs)
  /-- RED (R270): Reduction on a word at its home with no return. -/
  | red (o : EngArgs)
  /-- BINIT (R271): Initialise a barrier's count, optionally binding it to a subgroup. -/
  | binit (o : EngArgs)
  /-- BARR (R271): Arrive at a barrier as a release. -/
  | barr (o : EngArgs)
  /-- BARRX (R271): Arrive at a barrier adding expected bytes. -/
  | barrx (o : EngArgs)
  /-- BWAIT (R272): Wait without limit for a barrier phase. -/
  | bwait (o : EngArgs)
  /-- BTWAIT (R272): Wait for a barrier phase with a microsecond limit. -/
  | btwait (o : EngArgs)
  /-- SCALL (R312): Run a Serac routine on an array, taking ownership and copying parameters. -/
  | scall (o : EngArgs)
  /-- SCFG (R310): Set an array's format pair. -/
  | scfg (o : EngArgs)
  /-- SDRAIN (R311): Clear DIRTY and STALE and optionally free the array once earlier commands complete. -/
  | sdrain (o : EngArgs)
  /-- SMLOAD (R313): Write the microprogram store or routine table from a window. -/
  | smload (o : EngArgs)
  /-- SINTF (R314): Set INTFMT, effective three bundles later. -/
  | sintf (o : EngArgs)
  /-- MSUB (R341): Submit a command block to the target Moraine units. -/
  | msub (o : EngArgs)
  /-- MSTAT (R352): Read, and optionally clear, one Moraine unit register into q.mor. -/
  | mstat (o : EngArgs)
  /-- DARM (R373): Check and arm a Drift work list. -/
  | darm (o : EngArgs)
  /-- DPUT (R374): One immediate Drift put or multicast put. -/
  | dput (o : EngArgs)
  /-- LAUNCH (R273): Start a direct launch from a record in memory. -/
  | launch (o : EngArgs)
  /-- LAUNCHI (R273): Start an indirect launch from a record in memory. -/
  | launchi (o : EngArgs)
  /-- FLUSHH (R274): Make a window of device memory readable by the host. -/
  | flushh (o : EngArgs)
  /-- SLDW (R317): Serac micro-word loading W rows and block scales. -/
  | sldw (pa : BitVec 3) (ps : BitVec 3) (cnt : BitVec 4) (row : BitVec 7) (rstr : BitVec 16)
  /-- SSTRM (R318): Serac micro-word streaming rows in row or column mode. -/
  | sstrm (pa : BitVec 3) (ps : BitVec 3) (cnt : BitVec 4) (row : BitVec 7) (md : BitVec 1) (ga : BitVec 1) (inc : BitVec 1) (rstr : BitVec 16)
  /-- SOUTR (R318): Serac micro-word forming outer products into G. -/
  | soutr (pa : BitVec 3) (pb : BitVec 3) (ps : BitVec 3) (pt : BitVec 3) (cnt : BitVec 4) (ga : BitVec 1) (inc : BitVec 1) (rstr : BitVec 16) (dstr : BitVec 16)
  /-- SACC (R319): Serac micro-word clearing or loading accumulator or G rows. -/
  | sacc (sub : BitVec 2) (pa : BitVec 3) (cnt : BitVec 4) (row : BitVec 7) (inc : BitVec 1) (rstr : BitVec 16)
  /-- SDRN (R320): Serac micro-word draining accumulator or G rows to the local store. -/
  | sdrn (pa : BitVec 3) (cnt : BitVec 4) (row : BitVec 7) (md : BitVec 1) (rstr : BitVec 16) (opx : BitVec 16)
  /-- SGATH (R321): Serac micro-word arming the gather unit. -/
  | sgath (pa : BitVec 3) (pb : BitVec 3) (ps : BitVec 3) (ni : BitVec 6) (rstr : BitVec 16) (sstr : BitVec 16)
  /-- MLOOP (R322): Serac micro-word starting a micro loop. -/
  | mloop (lvl : BitVec 2) (cs : BitVec 1) (pc : BitVec 3) (eo : BitVec 11) (count : BitVec 32)
  /-- MADD (R322): Serac micro-word adding to a parameter register copy. -/
  | madd (pd : BitVec 3) (ps : BitVec 3) (us : BitVec 1) (imm : BitVec 32)
  /-- YP (R322): Serac micro-word marking a yield point. -/
  | yp
  /-- MSIG (R323): Serac micro-word signalling a context semaphore after earlier writes. -/
  | msig (sem : BitVec 8) (inc : BitVec 4)
  /-- MWAIT (R323): Serac micro-word waiting on and consuming a context semaphore. -/
  | mwait (sem : BitVec 8) (val : BitVec 8)
  /-- MEND (R322): Serac micro-word ending the routine. -/
  | mend
  /-- MORAINE_VLD (R337): Moraine stream load of 16 elements into a z register. -/
  | moraineVld (z : BitVec 5) (st : BitVec 3) (fmt : BitVec 2)
  /-- MORAINE_VST (R337): Moraine stream store of a z register. -/
  | moraineVst (z : BitVec 5) (st : BitVec 3) (fmt : BitVec 2)
  /-- MORAINE_FADD (R336): Moraine lane add. -/
  | moraineFadd (zd : BitVec 5) (za : BitVec 5) (zb : BitVec 5)
  /-- MORAINE_FSUB (R336): Moraine lane subtract. -/
  | moraineFsub (zd : BitVec 5) (za : BitVec 5) (zb : BitVec 5)
  /-- MORAINE_FMUL (R336): Moraine lane multiply. -/
  | moraineFmul (zd : BitVec 5) (za : BitVec 5) (zb : BitVec 5)
  /-- MORAINE_FMA (R336): Moraine fused multiply-add. -/
  | moraineFma (zd : BitVec 5) (za : BitVec 5) (zb : BitVec 5) (zc : BitVec 5)
  /-- MORAINE_FMIN (R336): Moraine lane minimum. -/
  | moraineFmin (zd : BitVec 5) (za : BitVec 5) (zb : BitVec 5)
  /-- MORAINE_FMAX (R336): Moraine lane maximum. -/
  | moraineFmax (zd : BitVec 5) (za : BitVec 5) (zb : BitVec 5)
  /-- MORAINE_FCMP (R336): Moraine lane compare into all-ones or zero. -/
  | moraineFcmp (zd : BitVec 5) (za : BitVec 5) (zb : BitVec 5) (cond : BitVec 3)
  /-- MORAINE_FSEL (R336): Moraine lane select by a nonzero c lane. -/
  | moraineFsel (zd : BitVec 5) (za : BitVec 5) (zb : BitVec 5) (zc : BitVec 5)
  /-- MORAINE_RCP (R336): Moraine reciprocal. -/
  | moraineRcp (zd : BitVec 5) (za : BitVec 5)
  /-- MORAINE_RSQ (R336): Moraine reciprocal square root. -/
  | moraineRsq (zd : BitVec 5) (za : BitVec 5)
  /-- MORAINE_CVTB (R336): Moraine round to BF16 held as FP32. -/
  | moraineCvtb (zd : BitVec 5) (za : BitVec 5)
  /-- MOVI (R336): Moraine write of a 16-bit immediate into half of a q register. -/
  | movi (q : BitVec 3) (half : BitVec 1) (imm : BitVec 16)
  /-- MORAINE_BCAST (R336): Moraine broadcast of a q register to a z register. -/
  | moraineBcast (zd : BitVec 5) (q : BitVec 3)
  /-- LOOPA (R339): Moraine outer loop start. -/
  | loopa (cs : BitVec 1) (q : BitVec 3) (eo : BitVec 7) (cnt : BitVec 16)
  /-- LOOPB (R339): Moraine inner loop start. -/
  | loopb (cs : BitVec 1) (q : BitVec 3) (eo : BitVec 7) (cnt : BitVec 16)
  /-- MORAINE_END (R345): Moraine instruction ending the RUN. -/
  | moraineEnd
  /-- MBXS (R340): Moraine mailbox send to a unit's slot, setting its wake bit. -/
  | mbxs (unit : BitVec 8) (slot : BitVec 4) (q : BitVec 3)
  /-- MBXW (R340): Moraine mailbox wait on masked wake bits. -/
  | mbxw (q : BitVec 3) (msk : BitVec 16)
  /-- MAILBOX_WAKE (R340): A waiting MBXW resumes when a wake bit of its launch is set. -/
  | mailboxWake (unit : Nat)
  /-- LOADP (R344): Moraine command loading program words or the parameter record. -/
  | loadp (kind : BitVec 8) (first : BitVec 8) (count : BitVec 8) (addr : BitVec 64)
  /-- RUN (R345): Moraine command running the instruction buffer until END. -/
  | run (start : BitVec 8) (limit : BitVec 16)
  /-- ROWSH (R345): Moraine command copying a DRAM row to an adjacent subarray. -/
  | rowsh (src : BitVec 64) (dst : BitVec 64)
  /-- MBX (R345): Moraine command writing a mailbox slot. -/
  | mbx (unit : BitVec 8) (slot : BitVec 8) (value : BitVec 64)
  /-- TRIG (R345): Moraine command waiting on a latch or placing a data-free interest in a name. -/
  | trig (kind : BitVec 8) (scope : BitVec 8) (limit : BitVec 32) (obj : BitVec 64) (target : BitVec 64)
  /-- TRIG_SATISFIED (R345): A waiting TRIG is satisfied as an acquire and the block continues. -/
  | trigSatisfied (unit : Nat)
  /-- MORAINE_LIMIT_EXPIRY (R345): A RUN or TRIG limit passes and the block stops with TIMEOUT. -/
  | moraineLimitExpiry (unit : Nat)
  /-- FENCEM (R347): Moraine command waiting for earlier writes, a barrier among units when joined. -/
  | fencem (scope : BitVec 8) (join : BitVec 8)
  /-- RELM (R347): Moraine command releasing a latch after earlier writes. -/
  | relm (scope : BitVec 8) (join : BitVec 8) (latch : BitVec 64) (inc : BitVec 64)
  /-- ANNM (R347): Moraine command announcing a tile under a name. -/
  | annm (scope : BitVec 8) (join : BitVec 8) (len : BitVec 32) (name : BitVec 64) (src : BitVec 64)
  /-- JOIN_COMPLETE (R347): All target units reach a joined command and rank 0 performs it, or the others stop PARTNER. -/
  | joinComplete (blk : Nat)
  /-- BLOCK_START (R341): A unit starts its next queued block, clearing state on a launch change. -/
  | blockStart (unit : Nat)
  /-- MSUB_COMPLETION (R341): Every target unit has finished the block; the q.mor slot and signal are applied. -/
  | msubCompletion (blk : Nat)
  /-- PUT (R370): A fired Drift entry writes bytes at a target window. -/
  | put (hd : DHdr) (src : BitVec 64) (dst : BitVec 64) (len : BitVec 32) (rctr : BitVec 16)
  /-- PUTRED (R370): A fired Drift entry adds words at a target's home. -/
  | putred (hd : DHdr) (src : BitVec 64) (dst : BitVec 64) (len : BitVec 32) (rctr : BitVec 16) (fop : BitVec 8)
  /-- PUTMC (R370): A fired Drift entry puts through the aperture and writes an ack record. -/
  | putmc (hd : DHdr) (src : BitVec 64) (dst : BitVec 64) (len : BitVec 32) (rctr : BitVec 16) (ack : BitVec 64)
  /-- GET (R370): A fired Drift entry reads a source window and writes locally. -/
  | get (hd : DHdr) (src : BitVec 64) (dst : BitVec 64) (len : BitVec 32)
  /-- SIGNAL (R370): A fired Drift entry adds to a remote counter. -/
  | signal (hd : DHdr) (dst : BitVec 64) (inc : BitVec 32) (rctr : BitVec 16)
  /-- RSSTEP (R380): A fired Drift entry performs one reduce-scatter step of a ring. -/
  | rsstep (hd : DHdr) (buf : BitVec 64) (recv : BitVec 64) (dst : BitVec 64) (len : BitVec 32) (succ : BitVec 16) (sctr : BitVec 16) (np : BitVec 8) (q : BitVec 8) (st : BitVec 8) (sig : BitVec 64)
  /-- DELIVER (R381): A fired Drift entry writes a shard to HBM and announces its tiles. -/
  | deliver (hd : DHdr) (src : BitVec 64) (dst : BitVec 64) (len : BitVec 32) (tsize : BitVec 32) (name : BitVec 64)
  /-- RING_SLOT_TRANSFER (R380): A step's data enters the successor's receive slot once it is free, raising its counter. -/
  | ringSlotTransfer (msg : Nat)
  /-- DRIFT_ENTRY_COMPLETION (R370): An entry's writes and RCTR increments are done and CTRA and CTRB advance. -/
  | driftEntryCompletion (ent : Nat)
  /-- DRIFT_RETRY (R371): After 2^RE microseconds a CAPACITY-refused put is tried again. -/
  | driftRetry (ent : Nat)
  /-- DARM_COMPLETION (R373): Every entry of a list has completed or one failed; q.drift slot and signal applied. -/
  | darmCompletion (lst : Nat)
  /-- DRIFT_COUNTER_ACCESS (R367): A load, store or add to the Drift counter window, which tests armed entries. -/
  | driftCounterAccess (acc : CounterAcc) (ctr : Nat) (val : BitVec 64)
  /-- MULTICAST_LINE (R377): A switch replicates an aperture line to group members and aggregates their answers. -/
  | multicastLine (put : Nat)
  /-- REDUCE_CONTRIBUTION (R378): A switch takes a member's line of a reduce group and folds it once all have contributed. -/
  | reduceContribution (member : Nat) (grp : Nat) (off : Nat) (line : List (BitVec 8))
  /-- APERTURE_LOAD (R375): A load through the aperture reads the lowest member up or gets an error. -/
  | apertureLoad (core : Nat) (ctx : Nat) (va : BitVec 64)
  /-- PEER_ACCESS (R365): A peer checks a remote access against its exposure table and performs or refuses it. -/
  | peerAccess (acc : PeerAcc) (dpa : Nat) (len : Nat) (data : List (BitVec 8))
  /-- PEER_ISOLATION (R366): A silent or reset peer's port is isolated and requests are answered PEER_DOWN. -/
  | peerIsolation (peer : Nat) (byReset : Bool)
  /-- LINK_FAILURE (R363): A Floe link stops and its in-flight flits are resent on other links. -/
  | linkFailure (link : Nat)
  /-- LINK_RETRAIN (R364): A link retrains and exchanges link-state beats, holding or declaring it down. -/
  | linkRetrain (link : Nat) (near : Beat) (far : Beat)
  /-- EMPTY_BUNDLE (R65): One bundle of a folded empty run issues. -/
  | emptyBundle
  /-- RESULT_LANDING (R156): A landing-buffer entry whose count reaches zero writes its result and flags. -/
  | resultLanding
  /-- SFU_RESULT_LANDING (R202): An SFU trigger's result lands in sf.y 14 bundles after issue. -/
  | sfuResultLanding
  /-- DECLARED_LOAD_LANDING (R215): A declared-latency load lands group by group, poisoning missing groups. -/
  | declaredLoadLanding
  /-- LOAD_DATA_ARRIVAL (R215): Data for a declared-latency load arrives and is held, or discarded if late. -/
  | loadDataArrival (core : Nat) (ctx : Nat) (slot : Nat) (grp : Nat)
  /-- LDS_DATA_RETURN (R114): An LDS value or error response returns and unblocks the context. -/
  | ldsDataReturn (core : Nat) (ctx : Nat)
  /-- STS_ERROR_RESPONSE (R144): An error response to a store is recorded in SMEM_ERR or the event log. -/
  | stsErrorResponse (core : Nat) (ctx : Nat) (cause : Nat) (va : BitVec 64)
  /-- TRAP_ENTRY (R138): A trap is entered: state held and control passes to the vector. -/
  | trapEntry (cause : Nat) (info : BitVec 64)
  /-- FAIRNESS_SWITCH (R40): A normal context is switched out after the fairness counts expire. -/
  | fairnessSwitch (core : Nat)
  /-- PRIORITY_TAKEOVER (R41): A ready priority tile task takes the core and freezes normal contexts. -/
  | priorityTakeover (core : Nat)
  /-- NORMAL_RESUME (R41): Normal contexts resume when the priority task blocks or its yield count ends. -/
  | normalResume (core : Nat)
  /-- LAUNCH_RECORD_COPY (R28): A launch unit copies and checks a launch record from a slot. -/
  | launchRecordCopy (slot : Nat)
  /-- COUNT_BLOCK_READ (R43): An indirect launch reads its count block after its acquire. -/
  | countBlockRead (lnch : Nat)
  /-- RESERVATION_ROUND (R32): A launch unit obtains a round number, picks an origin and sends RESERVE. -/
  | reservationRound (lnch : Nat)
  /-- RESERVE (R32): A core grants or refuses a reservation round. -/
  | reserve (lnch : Nat) (core : Nat)
  /-- COMMIT (R32): Granted cores give the launch contexts, zero and fill shares, and tile tasks start. -/
  | commit (lnch : Nat)
  /-- RELEASE (R32): A refused round's grants are returned and the launch backs off. -/
  | release (lnch : Nat)
  /-- BACKOFF_EXPIRY (R34): A launch's back-off delay ends and it rejoins its queue. -/
  | backoffExpiry (lnch : Nat)
  /-- TILE_TASK_START (R36): The next tile of a core starts in its context with the entry state. -/
  | tileTaskStart (core : Nat) (ctx : Nat)
  /-- LAUNCH_COMPLETION (R30): All tile tasks and commands of a launch end; resources freed and record written. -/
  | launchCompletion (lnch : Nat)
  /-- COPY_COMPLETION (R241): A copy's last line is written or it faults; status and signals apply. -/
  | copyCompletion (core : Nat) (ent : Nat)
  /-- BARRIER_DELIVERED (R251): A written copy line decrements a barrier's pending bytes at its home. -/
  | barrierDelivered (core : Nat) (ent : Nat)
  /-- ROTQ_EXCHANGE (R243): The fourth ROTQ of a quad arrives and the tiles rotate. -/
  | rotqExchange (lnch : Nat) (quad : Nat)
  /-- ROT_TIMEOUT (R243): A ROTQ rendezvous ends ROT_TIMEOUT after 1,000 microseconds. -/
  | rotTimeout (lnch : Nat) (quad : Nat)
  /-- ATOM_APPLY (R270): A home slice applies an atomic word update and returns the old value. -/
  | atomApply (req : Nat)
  /-- RED_APPLY (R248): A home slice applies a reduction or merged reduction. -/
  | redApply (req : Nat)
  /-- ROUTER_RED_MERGE (R248): A router merges two compatible reduction requests. -/
  | routerRedMerge (reqA : Nat) (reqB : Nat)
  /-- RED_HOLD_EXPIRY (R248): A reduction held for merging is sent on after 16 ACLK. -/
  | redHoldExpiry (req : Nat)
  /-- BARRIER_INIT (R250): BINIT resets a barrier's counts at its home. -/
  | barrierInit (req : Nat)
  /-- BARRIER_ARRIVE (R251): An arrival is counted at the barrier home and completion tested. -/
  | barrierArrive (req : Nat)
  /-- BARRIER_WAIT_ARRIVAL (R272): A BWAIT or BTWAIT reaches the home and tests the phase. -/
  | barrierWaitArrival (req : Nat)
  /-- BTWAIT_TIMEOUT (R272): A BTWAIT limit passes and it ends TIMEOUT. -/
  | btwaitTimeout (req : Nat)
  /-- INTEREST_ARRIVAL (R255): An interest reaches a router and merges, takes an entry, or waits. -/
  | interestArrival (pkt : Nat)
  /-- INTEREST_ADMIT (R255): A waiting interest takes a freed pending-interest entry. -/
  | interestAdmit (router : Nat)
  /-- INTEREST_EXPIRY (R260): A requester's lifetime ends; it is removed and told EXPIRED. -/
  | interestExpiry (router : Nat)
  /-- ANNOUNCEMENT_ARRIVAL (R257): An announcement reaches the home directory and pending faces are served. -/
  | announcementArrival (pkt : Nat)
  /-- TILE_ARRIVAL (R259): A tile reaches a router and satisfies unexpired requesters. -/
  | tileArrival (pkt : Nat)
  /-- SEAL_ARRIVAL (R261): A seal reaches a home and fails pending interests of sealed iterations. -/
  | sealArrival (pkt : Nat)
  /-- FLUSHH_COMPLETION (R274): A flushed window becomes readable by the host and the signal applies. -/
  | flushhCompletion (req : Nat)
  /-- ROUTINE_START (R312): An SCALL's routine starts once earlier commands to the array complete. -/
  | routineStart (core : Nat) (arr : Nat)
  /-- ROUTINE_SUSPEND (R297): A normal routine stops at a yield point for a priority routine. -/
  | routineSuspend (core : Nat) (arr : Nat)
  /-- ROUTINE_RESUME (R297): A suspended routine resumes after the last priority routine ends. -/
  | routineResume (core : Nat) (arr : Nat)
  /-- GATHER_FILL (R293): The gather unit reads an indexed row into the operand latch. -/
  | gatherFill (core : Nat) (arr : Nat)
  /-- SDRAIN_COMPLETION (R311): Earlier commands to the array complete and the SDRAIN completes, freeing if asked. -/
  | sdrainCompletion (core : Nat) (arr : Nat)
  /-- SMLOAD_WRITE (R313): An SMLOAD writes the store once no routine uses the words. -/
  | smloadWrite (req : Nat)
  /-- SERAC_DATA_ERROR (R299): A detected uncorrectable error stops a routine and causes MCHK or rollback. -/
  | seracDataError (core : Nat) (arr : Nat)
  /-- CHECKPOINT_COMMIT (R302): A guarded segment commits, releasing held effects and snapshotting arrays. -/
  | checkpointCommit (core : Nat) (ctx : Nat)
  /-- ROLLBACK (R303): A detected error in a guarded segment restores state and starts reruns. -/
  | rollback (core : Nat) (ctx : Nat)
  /-- RERUN_COMPARE (R303): The two reruns are compared and the commit proceeds or the core is retired. -/
  | rerunCompare (core : Nat) (ctx : Nat)
  /-- TRANSLATION_WALK (R406): A die walker completes a page-table walk for merged requests. -/
  | translationWalk (asid : Nat) (va : BitVec 64)
  /-- XINV_INVALIDATE (R407): Writing GO starts a translation invalidation. -/
  | xinvInvalidate
  /-- INVALIDATION_COMPLETE (R407): Covered cache entries and walks are gone and DONE is set. -/
  | invalidationComplete
  /-- EVICT (R400): A control-block command saves a context at its next preemption point. -/
  | evict (core : Nat)
  /-- RESTORE (R401): A control-block command loads a save image into a free context. -/
  | restore (core : Nat)
  /-- CONTROL_STATUS_READ (R399): A read of the control block STATUS returns it and clears it. -/
  | controlStatusRead (core : Nat)
  /-- HOST_CXL_WRITE (R58): A host CXL.mem write to the coherent window. -/
  | hostCxlWrite (dpa : Nat) (data : List (BitVec 8))
  /-- HOST_CXL_READ (R58): A host CXL.mem read of the coherent window. -/
  | hostCxlRead (dpa : Nat) (len : Nat)
  /-- REGISTER_WRITE (R8): A write to a device register with no behaviour of its own. -/
  | registerWrite (dpa : Nat) (data : List (BitVec 8))
  /-- LOAD_REQUEST (R109): Nunatak serves a load slot, checking and mapping a CGVO object. -/
  | loadRequest (slot : Nat)
  /-- UNLOAD_REQUEST (R112): Nunatak unloads an image or refuses with BUSY. -/
  | unloadRequest (slot : Nat)
  /-- CANCEL (R422): Management command cancelling named launches. -/
  | cancel
  /-- RETIRE (R422): Management command retiring a core. -/
  | retire
  /-- LINKUP (R422): Management command retraining a down link. -/
  | linkup
  /-- REINSTATE (R422): Management command reinstating an isolated peer port. -/
  | reinstate
  /-- POWERCAP (R422): Management command setting the power cap. -/
  | powercap
  /-- FWUPDATE (R422): Management command verifying and writing firmware to the inactive slot. -/
  | fwupdate
  /-- FWCONFIRM (R422): Management command blowing fuses to the active SECVER. -/
  | fwconfirm
  /-- KEYCMD (R423): Management command applying a signed owner key command. -/
  | keycmd
  /-- ATTEST (R416): Management command writing a signed attestation report. -/
  | attest
  /-- IDKEY (R422): Management command writing the device identity public keys. -/
  | idkey
  /-- RESET (R417): A cold or link reset zeroes memories and boots firmware. -/
  | reset (cold : Bool)
  /-- SCRUB_DONE (R417): The HBM scrub after reset completes and admissions may start. -/
  | scrubDone
  /-- MARGIN_STEP (R418): A margin shortfall steps ACLK down, repeating every millisecond. -/
  | marginStep (core : Nat)
  /-- REPLAN (R418): Voltage and ACLK are re-planned after 90 days of powered time. -/
  | replan (mhz : Nat)
  /-- POWER_CAP_STEP (R419): Each millisecond ACLK steps or gates by the power cap or junction rule. -/
  | powerCapStep (watts : Nat) (junction : Nat) (inlet : Bool)
  /-- THERMAL_TRIP (R419): Junction at 115 C stops issue, logs and resets the device. -/
  | thermalTrip (junction : Nat)
  /-- CAP4_OFF (R418): Nunatak's monitors find that a Serac array fails 4-bit timing, so it restricts the array to the 8-bit and 16-bit classes, clears CAP4 while no launch owns it, and logs the restriction before the next admission it affects. -/
  | cap4Off (core : Nat) (arr : Nat)
  deriving DecidableEq, Repr

end Sys2Proof
end

