-- ==== Sys2Proof/Machine/Shape.lean ====
section
/-! DEFINITION. What each slot instruction reads and writes, and for how long: the operand columns of R171 to R198,
R204 and R211, the latencies of R114 and R155, and the system-register numbers of R118. -/

namespace Sys2Proof

/-- The eight slots of a bundle, in header-bit order (R64). -/
inductive Slot where
  | ctl | sca | scb | vea | veb | mov | mem | eng
  deriving DecidableEq, Repr

/-- The header bit of a slot (R64). -/
def Slot.bit : Slot → Nat
  | .ctl => 0 | .sca => 1 | .scb => 2 | .vea => 3 | .veb => 4 | .mov => 5 | .mem => 6 | .eng => 7

/-- Bytes of a slot's word (R64). -/
def Slot.bytes : Slot → Nat
  | .vea | .veb | .mem | .eng => 8
  | _ => 4

/-- How an instruction uses one vector operand field (R69, R153). -/
inductive Use where
  | none | single | pair
  deriving DecidableEq, Repr

/-- What a vector instruction writes (R71, R153, R171). -/
inductive Dest where
  | reg | pair | mask
  deriving DecidableEq, Repr

/-- The columns of a vector arithmetic instruction: operands, destination, greatest legal RM, the bits of X that it
names, its latency in bundles, and whether VEB takes it too (R171, R172, R155, R79). -/
structure VShape where
  a : Use
  b : Use
  c : Use
  dst : Dest
  rmMax : Nat
  xbits : Nat
  lat : Nat
  veb : Bool
  deriving DecidableEq, Repr

namespace VShape
/-- a op b, rounded (R175). -/
def round2 : VShape := ⟨.single, .single, .none, .reg, 4, 0, 4, true⟩
def round3 : VShape := ⟨.single, .single, .single, .reg, 4, 0, 4, true⟩
def exact2 (x : Nat) : VShape := ⟨.single, .single, .none, .reg, 0, x, 4, true⟩
def exact1 : VShape := ⟨.single, .none, .none, .reg, 0, 0, 4, true⟩
def cmp (lat : Nat) : VShape := ⟨.single, .single, .none, .mask, 0, 7, lat, true⟩
def round1 (x : Nat) : VShape := ⟨.single, .none, .none, .reg, 4, x, 4, true⟩
def toPair : VShape := ⟨.single, .single, .none, .pair, 0, 0, 5, true⟩
def dw (b : Use) (d : Dest) : VShape := ⟨.pair, b, .none, d, 0, 0, 8, false⟩
def reduce (rm : Nat) : VShape := ⟨.single, .none, .none, .reg, rm, 0, 6, false⟩
def dot (c : Use) (x : Nat) : VShape := ⟨.single, .single, c, .reg, 0, x, 4, false⟩
def int2 (x : Nat) : VShape := ⟨.single, .single, .none, .reg, 0, x, 2, true⟩
end VShape

/-- The shape and the fields of a vector arithmetic instruction; none for any other. -/
def vShape : Instr → Option (VShape × VArgs)
  | .fadd o | .fsub o | .fmul o => some (.round2, o)
  | .fma o | .fms o | .fnma o => some (.round3, o)
  | .fmin o | .fmax o => some (.exact2 0, o)
  | .fabs o | .fneg o | .fclass o | .getexp o | .getmant o => some (.exact1, o)
  | .fcmp o => some (.cmp 4, o)
  | .fsel o => some (.exact2 7, o)
  | .rndi o => some (.round1 0, o)
  | .ftoi o | .itof o => some (.round1 1, o)
  | .expins o => some (⟨.single, .single, .none, .reg, 4, 1, 4, true⟩, o)
  | .faddx o | .fsubx o | .fmulx o => some (.toPair, o)
  | .dwadd o | .dwsub o | .dwmul o => some (.dw .pair .pair, o)
  | .dwadds o => some (.dw .single .pair, o)
  | .dwnorm o => some (.dw .none .pair, o)
  | .dwtof o => some (.dw .none .reg, o)
  | .rsum o => some (.reduce 3, o)
  | .rsumc o => some (⟨.single, .none, .none, .pair, 0, 0, 10, false⟩, o)
  | .rmax o | .rmin o | .rsumi o => some (.reduce 0, o)
  | .fdot4 o => some (.dot .pair 15, o)
  | .idotb o | .idotn o => some (.dot .single 1, o)
  | .cvtf o => some (⟨.single, .single, .none, .reg, 4, 0x7F, 4, true⟩, o)
  | .cvtn o => some (⟨.single, if o.x.getLsbD 7 then .single else .none, .none, .reg, 4, 0xF7, 4, true⟩, o)
  | .cvtb o => some (⟨.single, .single, .none, .reg, 4, 8, 4, true⟩, o)
  | .iadd o | .isub o | .imul o | .iand o | .ior o | .ixor o | .ishl o | .ishr o | .isra o => some (.int2 0, o)
  | .imulh o | .imin o | .imax o => some (.int2 1, o)
  | .icmp o => some (.cmp 2, o)
  | .iabs o => some (⟨.single, .none, .none, .reg, 0, 0, 2, true⟩, o)
  | .laneid o => some (⟨.none, .none, .none, .reg, 0, 1, 2, true⟩, o)
  | .bcast o => some (⟨.single, .none, .none, .reg, 0, 15, 2, true⟩, o)
  | .perm o => some (⟨.single, .single, .none, .reg, 0, 0, 3, true⟩, o)
  | _ => none

/-- The opcodes that use the floating-point pipeline: 0x01 to 0x27 (R173). -/
def usesFpPipe : Instr → Bool
  | .iadd _ | .isub _ | .imul _ | .imulh _ | .imin _ | .imax _ | .iand _ | .ior _ | .ixor _ | .ishl _ | .ishr _
  | .isra _ | .icmp _ | .iabs _ | .laneid _ | .bcast _ | .perm _ => false
  | i => (vShape i).isSome

/-- The system-register numbers that name a register (R118, R158 to R160, R218, R309, R394). -/
def sysNamed (n : Nat) : Bool :=
  (1 ≤ n && n ≤ 0x00E) || (0x010 ≤ n && n ≤ 0x014) || n == 0x018 || (0x020 ≤ n && n ≤ 0x022) ||
  (0x080 ≤ n && n ≤ 0x086) || (0x100 ≤ n && n ≤ 0x102) || (0x110 ≤ n && n ≤ 0x117) || n == 0x180 || n == 0x181

/-- Latency of a scalar or handle result (R114); 1 where the table has no row of its own. -/
def scalarLatency : Instr → Nat
  | .mul .. | .mulh .. | .mulhu .. | .ldf .. => 3
  | .divs .. | .divu .. => 12
  | _ => 1

/-- The register number of a vector operand field (R69). -/
def opReg (f : BitVec 8) : Nat := (f.extractLsb' 2 6).toNat
/-- The read port of a vector operand field (R69). -/
def opPort (f : BitVec 8) : Nat := (f.extractLsb' 0 2).toNat

/-- The index operand field of a MEM word: X[13:6] (R211). -/
def MemArgs.idx (o : MemArgs) : BitVec 8 := o.x.extractLsb' 6 8
/-- The word offset of a MEM word: X, signed (R211). -/
def MemArgs.ofs (o : MemArgs) : Int := o.x.toInt

/-- ALL of a MOV word: X[6] (R204). -/
def MovArgs.all (o : MovArgs) : Bool := o.x.getLsbD 6

/-- A read of a vector register through a port, in the groups of a mask: (groups, port, register) (R69, R70). -/
structure PortRead where
  groups : BitVec 8
  port : Nat
  reg : Nat
  deriving DecidableEq, Repr

/-- The one-hot mask of a group. -/
def groupBit (g : Nat) : BitVec 8 := BitVec.ofNat 8 (2 ^ g)

/-- The port reads of one operand field (R70, R153). -/
def fieldReads (u : Use) (g f : BitVec 8) : List PortRead :=
  match u with
  | .none => []
  | .single => [⟨g, opPort f, opReg f⟩]
  | .pair => [⟨g, opPort f, opReg f⟩, ⟨g, opPort f + 1, opReg f + 1⟩]

/-- The groups that a MOV instruction reads: its group GS, or every group under ALL (R70, R204). -/
def MovArgs.readGroups (o : MovArgs) : BitVec 8 := if o.all then 0xFF else groupBit o.gs.toNat

/-- Every vector operand that an instruction reads, through its port (R69, R70). -/
def portReads (i : Instr) : List PortRead :=
  match i with
  | .movp o => fieldReads .single o.readGroups o.a
  | .xgc o => fieldReads .single (groupBit o.gs.toNat) o.a
  | .movv o => fieldReads .single (groupBit o.gs.toNat) o.a
  | .kmov o => if o.x.extractLsb' 0 2 = 1 then fieldReads .single o.readGroups o.a else []
  | .vst o => fieldReads .single o.g o.v
  | .vldx o => fieldReads .single o.g o.idx
  | .vstx o | .vatom o | .vred o => fieldReads .single o.g o.v ++ fieldReads .single o.g o.idx
  | i =>
    match vShape i with
    | some (sh, o) => fieldReads sh.a o.g o.a ++ fieldReads sh.b o.g o.b ++ fieldReads sh.c o.g o.c
    | none => []

/-- A write into the groups of a mask, some bundles after issue: (groups, registers written per group, latency). -/
structure PortWrite where
  groups : BitVec 8
  count : Nat
  lat : Nat
  deriving DecidableEq, Repr

/-- The register writes that a slot instruction brings to the files (R71, R152, R204, R212, R215); RELD's groups
depend on its replay slot and are counted at issue. -/
def portWrites (i : Instr) : List PortWrite :=
  match i with
  | .movr o | .movs o => [⟨o.readGroups, 1, 2⟩]
  | .xgc o => [⟨if o.all then 0xFF else groupBit o.gd.toNat, 1, 3⟩]
  | .kmov o => if o.x.extractLsb' 0 2 = 2 then [⟨o.readGroups, 1, 2⟩] else []
  | .vld o | .vldx o => [⟨o.g, 1, 6⟩]
  | .ldg o | .ldr o => [⟨o.g, 1, o.lat.toNat⟩]
  | i =>
    match vShape i with
    | some (sh, o) =>
      match sh.dst with
      | .reg => [⟨o.g, 1, sh.lat⟩]
      | .pair => [⟨o.g, 2, sh.lat⟩]
      | .mask => []
    | none => []

end Sys2Proof
end

