-- ==== Sys2Proof/Machine/Legal.lean ====
section
/-! DEFINITION. The field values that an encoding may hold: what raises ILL at decode for a slot instruction (R72,
R199, R222), and what an engine refuses in its own words (R80). -/

namespace Sys2Proof

/-- A field of P (R78), as a number. -/
def EngArgs.pf (o : EngArgs) (lo len : Nat) : Nat := (o.p.extractLsb' lo len).toNat

/-- A pair operand field holds an even register and port 0 or 2 (R153). -/
def pairField (f : BitVec 8) : Bool := f &&& 5 == 0

/-- One vector operand field against its use: unused is 0, a pair is even in register and port (R69, R153). -/
def useLegal (u : Use) (f : BitVec 8) : Bool :=
  match u with
  | .none => f == 0
  | .single => true
  | .pair => pairField f

/-- The destination field: a pair is even (R153), a mask has D[5:3] = 0 (R171). -/
def destLegal (d : Dest) (f : BitVec 6) : Bool :=
  match d with
  | .reg => true
  | .pair => !f.getLsbD 0
  | .mask => f.extractLsb' 3 3 == 0

/-- The values of the X subfields that are reserved beyond the unused bits: POS, FMT, AFMT and BFMT (R172, R194,
R196, R199). -/
def xLegal (i : Instr) : Bool :=
  match i with
  | .cvtf o =>
    let pos := (o.x.extractLsb' 4 3).toNat
    match (o.x.extractLsb' 0 3).toNat with
    | 0 => pos ≤ 1
    | 1 | 2 => pos ≤ 3
    | 3 => true
    | _ => false
  | .cvtn o =>
    let pos := (o.x.extractLsb' 4 3).toNat
    match (o.x.extractLsb' 0 3).toNat with
    | 0 => pos ≤ 1
    | 3 | 6 | 7 => true
    | _ => pos ≤ 3
  | .fdot4 o => o.x.extractLsb' 0 2 != 3 && o.x.extractLsb' 2 2 != 3
  | _ => true

/-- A vector arithmetic instruction's fields (R199). -/
def vecLegal (i : Instr) : Bool :=
  match vShape i with
  | some (sh, o) =>
    o.g != 0 && o.rm.toNat ≤ sh.rmMax && o.x &&& ~~~ (BitVec.ofNat 13 sh.xbits) == 0 &&
    useLegal sh.a o.a && useLegal sh.b o.b && useLegal sh.c o.c && destLegal sh.dst o.d && xLegal i
  | none => true

/-- A MOV field value that its row of R204 leaves blank. -/
def allGs (o : MovArgs) : Bool := !o.all || o.gs == 0

/-- The MOV instructions' fields (R204, R222). -/
def movLegal (i : Instr) : Bool :=
  match i with
  | .movp o => allGs o && o.gd == 0 && o.d == 0 && o.x &&& 0x30 == 0 && (o.x.extractLsb' 0 4).toNat ≤ 7
  | .movr o => allGs o && o.gd == 0 && o.a == 0 && o.x &&& 0x3F == 0
  | .xgc o => allGs o && (!o.all || o.gd == 0) && o.x &&& 0x20 == 0
  | .pop o => o.gs == 0 && o.gd == 0 && o.a == 0 && o.x &&& 0x70 == 0 && (o.x.extractLsb' 0 3).toNat ≤ 5 &&
      (o.x.getLsbD 3 || !o.d.getLsbD 0)
  | .kmov o => allGs o && o.gd == 0 && o.x &&& 0x3C == 0 &&
      (match (o.x.extractLsb' 0 2).toNat with
       | 0 => o.a.extractLsb' 3 5 == 0 && o.d.extractLsb' 3 3 == 0
       | 1 => o.d.extractLsb' 3 3 == 0
       | 2 => o.a.extractLsb' 3 5 == 0
       | _ => false)
  | .kand o | .kor o => allGs o && o.gd == 0 && o.a.extractLsb' 3 5 == 0 && o.d.extractLsb' 3 3 == 0 && o.x &&& 0x30 == 0
  | .movs o => allGs o && o.gd == 0 && o.a.extractLsb' 6 2 == 0 && o.x &&& 0x20 == 0
  | .movv o => o.gd == 0 && o.x &&& 0x50 == 0
  | .srseed o => o.gs == 0 && o.gd == 0 && o.a.extractLsb' 6 2 == 0 && o.d == 0 && o.x &&& 0x7C == 0 &&
      o.x.extractLsb' 0 2 != 0
  | _ => true

/-- The MEM instructions' fields (R77, R211, R221, R222). -/
def memLegal (i : Instr) : Bool :=
  match i with
  | .vld o => o.g != 0 && o.lat == 0 && o.v.extractLsb' 0 2 == 0
  | .vst o => o.g != 0 && o.lat == 0
  | .vldx o => o.g != 0 && o.lat == 0 && o.v.extractLsb' 0 2 == 0 && o.x &&& 0x38 == 0 && o.x.extractLsb' 0 3 != 7
  | .vstx o => o.g != 0 && o.lat == 0 && o.x &&& 0x38 == 0 && o.x.extractLsb' 0 3 != 7
  | .ldg o | .ldr o => o.g != 0 && o.lat != 0 && o.v.extractLsb' 0 2 == 0
  | .reld o => o.g != 0 && o.lat != 0 && o.h == 0 && o.k == 0 && o.v == 0 && o.x == 0
  | .vatom o => o.g != 0 && o.lat == 0 && (o.x.extractLsb' 0 4).toNat ≤ 11 &&
      (List.range 8).countP (fun g => o.g.getLsbD g) ≤ 4
  | .vred o => o.g != 0 && o.lat == 0 && (o.x.extractLsb' 0 4).toNat ≤ 11 && o.x.extractLsb' 0 4 != 8
  | _ => true

/-- The ACQ and REL flags that a command's table rows allow: (ACQ, REL) (R263, R307, R352, R373, R374). -/
def engFlags : Instr → Bool × Bool
  | .ask _ | .sdrain _ => (false, true)
  | .seal _ | .binit _ | .barr _ | .barrx _ | .bwait _ | .btwait _ | .scfg _ | .sintf _ | .mstat _ => (false, false)
  | .smload _ | .darm _ => (true, false)
  | _ => (true, true)

/-- The fields of an ENG word of an instruction. -/
def engArgs : Instr → Option EngArgs
  | .copy o | .copys o | .rotq o | .ask o | .announce o | .seal o | .atom o | .red o | .binit o | .barr o | .barrx o
  | .bwait o | .btwait o | .scall o | .scfg o | .sdrain o | .smload o | .sintf o | .msub o | .mstat o | .darm o
  | .dput o | .launch o | .launchi o | .flushh o => some o
  | _ => none

/-- The bits of P that a command's layout does not name (R264 to R274, R310 to R314, R341, R352, R373, R374). -/
def engReservedP : Instr → Nat
  | .copy _ => 0x7F
  | .copys _ => 1
  | .rotq _ => 0x3FFF
  | .ask _ => 0x7F
  | .announce _ | .darm _ | .launch _ | .launchi _ | .flushh _ => 0x7FFFF
  | .seal _ => 0x3FFFF
  | .atom _ => 1
  | .red _ => 0xFC1
  | .binit _ => 0x7C0
  | .barr _ => 0x3FFFF
  | .barrx _ => 0xFFF
  | .bwait _ => 0x1FFFF
  | .btwait _ => 0x1F
  | .scall _ => 0x3FFF
  | .scfg _ => 0xFFFF
  | .sdrain _ => 0x1FFFFF
  | .smload _ => 0x7F
  | .sintf _ => 0xFF0000
  | .msub _ => 0x1FFF
  | .mstat _ => 0x3FF
  | .dput _ => 0x7F
  | _ => 0

/-- The format pairs of R290, as SCFG codes (streamed, weight): e4m3 0, e5m2 1, int8 2, e2m1 3, int4 4, bf16 5. -/
def pairLegal (sf wf : Nat) : Bool :=
  (sf ≤ 1 && wf ≤ 1) || (sf == wf && 2 ≤ sf && sf ≤ 5)

/-- One side of INTFMT: a SUB of 0 or 1, a width of 0 or 2 to 8 (R160, R314). -/
def intSideLegal (b : Nat) : Bool :=
  (b / 32) % 4 ≤ 1 && (b % 16 == 0 || (2 ≤ b % 16 && b % 16 ≤ 8))

/-- The operand rules of the ENG commands (R38, R270, R271, R274, R310, R313, R314, R352). -/
def engValues (i : Instr) : Bool :=
  match i with
  | .atom o => o.pf 2 4 ≤ 12 && !(9 ≤ o.pf 2 4 && o.pf 2 4 ≤ 11 && o.pf 1 1 == 1) && (o.pf 2 4 == 12 || o.pf 6 6 == 0)
  | .red o => o.pf 2 4 ≤ 11 && o.pf 2 4 != 8 && !(9 ≤ o.pf 2 4 && o.pf 1 1 == 1)
  | .binit o => if o.pf 11 1 == 0 then o.pf 0 6 == 0 else o.pf 0 3 ≤ 5 && o.pf 3 3 ≤ 4
  | .scfg o => pairLegal (o.pf 19 3) (o.pf 16 3)
  | .smload o => o.pf 18 1 == 0 || o.pf 15 3 == 0
  | .sintf o => intSideLegal (o.pf 0 8) && intSideLegal (o.pf 8 8)
  | .mstat o => o.pf 11 5 ≤ 18
  | .flushh o => o.scope == 6
  | _ => true

/-- The ENG commands' fields (R54, R72, R263). -/
def engLegal (i : Instr) : Bool :=
  match engArgs i with
  | some o =>
    o.scope != 7 && ((engFlags i).1 || o.acq == 0) && ((engFlags i).2 || o.rel == 0) &&
    o.p &&& BitVec.ofNat 24 (engReservedP i) == 0 && engValues i
  | none => true

/-- The CTL instructions' fields (R54, R73, R118). -/
def ctlLegal (i : Instr) : Bool :=
  match i with
  | .brc _ cond _ => cond.toNat ≤ 5
  | .loop lvl _ _ | .loopi lvl _ _ => lvl != 3
  | .fence scope => scope != 7
  | .acq _ _ scope kind => scope != 7 && kind != 3
  | .rel _ _ scope => scope != 7
  | .mfs _ sys | .mts _ sys => sysNamed sys.toNat
  | _ => true

/-- The scalar instructions' fields (R74, R145, R147, R148). -/
def scalarLegal (i : Instr) : Bool :=
  match i with
  | .lds _ _ sz _ | .ldf _ _ sz _ => sz != 7
  | .sts _ _ sz _ | .stf _ _ sz _ => sz.toNat ≤ 3
  | .hset _ _ fld | .hget _ _ fld => fld.toNat ≤ 20
  | .htile _ _ _ fld => fld.toNat ≤ 23
  | .hname _ _ rt fld => fld.toNat ≤ 2 && (fld == 2 || rt == 0)
  | _ => true

/-- The micro-words' fields that do not depend on the pair (R318 to R323). -/
def microLegal (i : Instr) : Bool :=
  match i with
  | .sstrm pa ps _ _ _ ga _ _ => ga == 0 || (pa == 0 && ps == 0)
  | .soutr pa _ ps _ _ ga _ _ _ => ga == 0 || (pa == 0 && ps == 0)
  | .sacc sub pa _ _ inc rstr => sub.getLsbD 1 || (pa == 0 && inc == 0 && rstr == 0)
  | .sdrn _ _ _ _ _ opx => (opx.extractLsb' 13 3).toNat ≤ 5 && (opx.extractLsb' 10 3).toNat ≤ 4
  | .mloop lvl _ _ eo _ => lvl != 3 && eo != 0
  | .msig _ inc => inc != 0
  | _ => true

/-- A Moraine z register number (R336). -/
def zReg (z : BitVec 5) : Bool := z.toNat ≤ 23

/-- The Moraine instructions' fields (R336). -/
def moraineLegal (i : Instr) : Bool :=
  match i with
  | .moraineVld z _ fmt | .moraineVst z _ fmt => zReg z && fmt.toNat ≤ 1
  | .moraineFadd d a b | .moraineFsub d a b | .moraineFmul d a b | .moraineFmin d a b | .moraineFmax d a b
  | .moraineFcmp d a b _ => zReg d && zReg a && zReg b
  | .moraineFma d a b c | .moraineFsel d a b c => zReg d && zReg a && zReg b && zReg c
  | .moraineRcp d a | .moraineRsq d a | .moraineCvtb d a => zReg d && zReg a
  | .moraineBcast d _ => zReg d
  | .loopa cs q eo cnt | .loopb cs q eo cnt => eo.toNat ≤ 95 && (if cs == 1 then cnt == 0 else q == 0)
  | .mbxw q _ => !q.getLsbD 0
  | _ => true

/-- The Moraine commands' values (R343). -/
def commandLegal (i : Instr) : Bool :=
  match i with
  | .loadp kind first count addr =>
    (kind == 0 && first.toNat ≤ 95 && 1 ≤ count.toNat && first.toNat + count.toNat ≤ 96 && addr.toNat % 4 == 0) ||
    (kind == 1 && first.toNat ≤ 95 && count == 0 && addr.toNat % 32 == 0)
  | .run start _ => start.toNat ≤ 95
  | .mbx _ slot value => slot.toNat ≤ 15 && value.toNat < 2 ^ 32
  | .trig kind scope _ _ target => kind.toNat ≤ 1 && scope.toNat ≤ 6 && (kind == 0 || target == 0)
  | .fencem scope join => scope.toNat ≤ 6 && join.toNat ≤ 1
  | .relm scope join _ _ => scope.toNat ≤ 6 && join.toNat ≤ 1
  | .annm scope join len _ _ => scope.toNat ≤ 6 && join.toNat ≤ 1 && 1 ≤ len.toNat && len.toNat ≤ 65536
  | _ => true

/-- A 16-bit counter field: [15] EN and [11:0], nothing between (R368, R370). -/
def ctrField (c : BitVec 16) : Bool := c &&& 0x7000 == 0

/-- The header of a Drift entry (R368). -/
def dhdrLegal (h : DHdr) : Bool :=
  h.scope != 7 && h.re.toNat ≤ 10 && ctrField h.ctra && ctrField h.ctrb

/-- A destination descriptor with the MC bit that its entry kind needs and its reserved bits 0 (R369). -/
def descLegal (mc : Bool) (d : BitVec 64) : Bool :=
  d.getLsbD 63 == mc && !d.getLsbD 62 && d.extractLsb' 40 4 == 0 &&
  (!mc || (d.extractLsb' 58 4 == 0 && d.extractLsb' 44 4 == 0))

/-- The Drift entries' values that R372 lists under ILL and that need no state (R368, R370, R380, R381). -/
def driftLegal (i : Instr) : Bool :=
  match i with
  | .put hd _ dst len rctr => dhdrLegal hd && descLegal false dst && ctrField rctr && 1 ≤ len.toNat && len.toNat ≤ 2 ^ 24
  | .putred hd _ dst len rctr fop => dhdrLegal hd && descLegal false dst && ctrField rctr && 1 ≤ len.toNat && len.toNat ≤ 2 ^ 24 &&
      len.toNat % 4 == 0 && fop.toNat ≤ 1
  | .putmc hd _ dst len rctr ack => dhdrLegal hd && descLegal true dst && ctrField rctr && 1 ≤ len.toNat && len.toNat ≤ 2 ^ 24 &&
      ack.toNat % 32 == 0
  | .get hd src _ len => dhdrLegal hd && descLegal false src && 1 ≤ len.toNat && len.toNat ≤ 2 ^ 24
  | .signal hd dst _ rctr => dhdrLegal hd && descLegal false dst && dst.extractLsb' 0 48 == 0 && ctrField rctr && rctr.getLsbD 15
  | .rsstep hd _ _ _ len succ sctr np q st sig => dhdrLegal hd && 64 ≤ len.toNat && len.toNat ≤ 2 ^ 26 &&
      len.toNat % 64 == 0 && succ.toNat < 2 ^ 14 && sctr.toNat < 2 ^ 12 && 1 ≤ np.toNat && np.toNat ≤ 16 &&
      q.toNat < np.toNat && st.toNat < np.toNat && sig.toNat % 8 == 0
  | .deliver hd _ _ len tsize _ => dhdrLegal hd && 1 ≤ len.toNat && len.toNat ≤ 2 ^ 26 && 64 ≤ tsize.toNat &&
      tsize.toNat ≤ 65536 && tsize.toNat % 64 == 0
  | _ => true

/-- Every field value that the encoding of the instruction may hold (R72, R80). -/
def legal (i : Instr) : Bool :=
  ctlLegal i && scalarLegal i && vecLegal i && movLegal i && memLegal i && engLegal i && microLegal i &&
  moraineLegal i && commandLegal i && driftLegal i

end Sys2Proof
end

