-- ==== Sys2Proof/WellFormed.lean ====
section
/-! DEFINITION. Well-formed instructions: those whose fields the encodings allow. Events carry no encoding and are
always well-formed. -/

namespace Sys2Proof

/-- The instruction holds no reserved value and no nonzero unused field (R72, R80, R199, R222). -/
abbrev Instr.WellFormed (i : Instr) : Prop := legal i = true

end Sys2Proof
end

