-- ==== Sys2Proof/Decode.lean ====
section
/-! DEFINITION. The decoder of bundles and of the engines' words (R64 to R80, R316 to R323, R336, R343, R368), total
on any bits and refusing by name; after it the encoder, from the same tables. -/

namespace Sys2Proof

/-- Why the decoder refuses (R72, R80). -/
inductive Reject where
  /-- An opcode value that the map does not assign (R79). -/
  | unassigned (op : Nat)
  /-- An opcode of another slot (R72). -/
  | wrongSlot (op : Nat)
  /-- A nonzero reserved bit (R72). -/
  | reservedBit
  /-- A field value that its table reserves (R72). -/
  | reservedValue
  /-- Too few bytes. -/
  | short
  deriving DecidableEq, Repr

/-- The instruction, when the word's reserved bits are 0 and its values are admitted (R72). -/
def checked {n : Nat} (w : BitVec n) (reserved : Nat) (i : Instr) : Except Reject Instr :=
  if w &&& BitVec.ofNat n reserved != 0 then .error .reservedBit
  else if legal i then .ok i else .error .reservedValue

/-- CTL words (R73, R79). -/
def decodeCtl (w : W32) : Except Reject Instr :=
  match (w.extractLsb' 26 6).toNat with
  | 0x01 => checked w 0x0 (.br (w.extractLsb' 0 26))
  | 0x02 => checked w 0x0 (.brc (w.extractLsb' 20 6) (w.extractLsb' 17 3) (w.extractLsb' 0 17))
  | 0x03 => checked w 0xFFFFF (.jr (w.extractLsb' 20 6))
  | 0x04 => checked w 0x0 (.call (w.extractLsb' 0 26))
  | 0x05 => checked w 0x3FFFFFF .ret
  | 0x06 => checked w 0xF (.loop (w.extractLsb' 24 2) (w.extractLsb' 10 14) (w.extractLsb' 4 6))
  | 0x07 => checked w 0x0 (.loopi (w.extractLsb' 24 2) (w.extractLsb' 10 14) (w.extractLsb' 0 10))
  | 0x08 => checked w 0x3FFFFFF .lbrk
  | 0x09 => checked w 0x3FF (.wait (w.extractLsb' 18 8) (w.extractLsb' 10 8))
  | 0x0A => checked w 0x3FF (.post (w.extractLsb' 18 8) (w.extractLsb' 10 8))
  | 0x0B => checked w 0xF (.waitp (w.extractLsb' 18 8) (w.extractLsb' 10 8) (w.extractLsb' 4 6))
  | 0x0C => checked w 0x3FFFFFF .yield
  | 0x0D => checked w 0x3FFFFFF .ckpt
  | 0x0E => checked w 0x3FF0000 (.trap (w.extractLsb' 0 16))
  | 0x0F => checked w 0x3FFFFFF .eret
  | 0x10 => checked w 0x3FFFFFF .halt
  | 0x11 => checked w 0x7FFFFF (.fence (w.extractLsb' 23 3))
  | 0x12 => checked w 0x1FF (.acq (w.extractLsb' 20 6) (w.extractLsb' 14 6) (w.extractLsb' 11 3) (w.extractLsb' 9 2))
  | 0x13 => checked w 0x7FF (.rel (w.extractLsb' 20 6) (w.extractLsb' 14 6) (w.extractLsb' 11 3))
  | 0x14 => checked w 0xFF (.mfs (w.extractLsb' 20 6) (w.extractLsb' 8 12))
  | 0x15 => checked w 0xFF (.mts (w.extractLsb' 20 6) (w.extractLsb' 8 12))
  | op => .error (.unassigned op)

/-- Scalar words that SCA and SCB take (R74, R79). -/
def decodeScalarBoth (w : W32) : Except Reject Instr :=
  match (w.extractLsb' 26 6).toNat with
  | 0x01 => checked w 0xFF (.add (w.extractLsb' 20 6) (w.extractLsb' 14 6) (w.extractLsb' 8 6))
  | 0x02 => checked w 0xFF (.sub (w.extractLsb' 20 6) (w.extractLsb' 14 6) (w.extractLsb' 8 6))
  | 0x03 => checked w 0x0 (.addi (w.extractLsb' 20 6) (w.extractLsb' 14 6) (w.extractLsb' 0 14))
  | 0x04 => checked w 0xFF (.and (w.extractLsb' 20 6) (w.extractLsb' 14 6) (w.extractLsb' 8 6))
  | 0x05 => checked w 0xFF (.or (w.extractLsb' 20 6) (w.extractLsb' 14 6) (w.extractLsb' 8 6))
  | 0x06 => checked w 0xFF (.xor (w.extractLsb' 20 6) (w.extractLsb' 14 6) (w.extractLsb' 8 6))
  | 0x07 => checked w 0x0 (.andi (w.extractLsb' 20 6) (w.extractLsb' 14 6) (w.extractLsb' 0 14))
  | 0x08 => checked w 0x0 (.ori (w.extractLsb' 20 6) (w.extractLsb' 14 6) (w.extractLsb' 0 14))
  | 0x09 => checked w 0x0 (.xori (w.extractLsb' 20 6) (w.extractLsb' 14 6) (w.extractLsb' 0 14))
  | 0x0A => checked w 0xFF (.shl (w.extractLsb' 20 6) (w.extractLsb' 14 6) (w.extractLsb' 8 6))
  | 0x0B => checked w 0xFF (.shr (w.extractLsb' 20 6) (w.extractLsb' 14 6) (w.extractLsb' 8 6))
  | 0x0C => checked w 0xFF (.sra (w.extractLsb' 20 6) (w.extractLsb' 14 6) (w.extractLsb' 8 6))
  | 0x0D => checked w 0x3FC0 (.shli (w.extractLsb' 20 6) (w.extractLsb' 14 6) (w.extractLsb' 0 6))
  | 0x0E => checked w 0x3FC0 (.shri (w.extractLsb' 20 6) (w.extractLsb' 14 6) (w.extractLsb' 0 6))
  | 0x0F => checked w 0x3FC0 (.srai (w.extractLsb' 20 6) (w.extractLsb' 14 6) (w.extractLsb' 0 6))
  | 0x10 => checked w 0xFF (.mul (w.extractLsb' 20 6) (w.extractLsb' 14 6) (w.extractLsb' 8 6))
  | 0x11 => checked w 0xFF (.mulh (w.extractLsb' 20 6) (w.extractLsb' 14 6) (w.extractLsb' 8 6))
  | 0x12 => checked w 0xFF (.mulhu (w.extractLsb' 20 6) (w.extractLsb' 14 6) (w.extractLsb' 8 6))
  | 0x13 => checked w 0xFF (.divs (w.extractLsb' 20 6) (w.extractLsb' 14 6) (w.extractLsb' 8 6))
  | 0x14 => checked w 0xFF (.divu (w.extractLsb' 20 6) (w.extractLsb' 14 6) (w.extractLsb' 8 6))
  | 0x15 => checked w 0xFF (.min (w.extractLsb' 20 6) (w.extractLsb' 14 6) (w.extractLsb' 8 6))
  | 0x16 => checked w 0xFF (.max (w.extractLsb' 20 6) (w.extractLsb' 14 6) (w.extractLsb' 8 6))
  | 0x17 => checked w 0xFF (.minu (w.extractLsb' 20 6) (w.extractLsb' 14 6) (w.extractLsb' 8 6))
  | 0x18 => checked w 0xFF (.maxu (w.extractLsb' 20 6) (w.extractLsb' 14 6) (w.extractLsb' 8 6))
  | 0x19 => checked w 0xFF (.slt (w.extractLsb' 20 6) (w.extractLsb' 14 6) (w.extractLsb' 8 6))
  | 0x1A => checked w 0xFF (.sltu (w.extractLsb' 20 6) (w.extractLsb' 14 6) (w.extractLsb' 8 6))
  | 0x1B => checked w 0xFF (.seq (w.extractLsb' 20 6) (w.extractLsb' 14 6) (w.extractLsb' 8 6))
  | 0x1C => checked w 0xFF (.sne (w.extractLsb' 20 6) (w.extractLsb' 14 6) (w.extractLsb' 8 6))
  | 0x1D => checked w 0x3 (.selz (w.extractLsb' 20 6) (w.extractLsb' 14 6) (w.extractLsb' 8 6) (w.extractLsb' 2 6))
  | 0x1E => checked w 0x0 (.li (w.extractLsb' 20 6) (w.extractLsb' 0 20))
  | 0x1F => checked w 0x0 (.lui (w.extractLsb' 20 6) (w.extractLsb' 0 20))
  | 0x20 => checked w 0x3FFF (.clz (w.extractLsb' 20 6) (w.extractLsb' 14 6))
  | 0x21 => checked w 0x3FFF (.popc (w.extractLsb' 20 6) (w.extractLsb' 14 6))
  | op => .error (.unassigned op)

/-- Scalar words that SCB alone takes (R74, R79). -/
def decodeScalarB (w : W32) : Except Reject Instr :=
  match (w.extractLsb' 26 6).toNat with
  | 0x22 => checked w 0x0 (.lds (w.extractLsb' 20 6) (w.extractLsb' 14 6) (w.extractLsb' 11 3) (w.extractLsb' 0 11))
  | 0x23 => checked w 0x0 (.sts (w.extractLsb' 20 6) (w.extractLsb' 14 6) (w.extractLsb' 11 3) (w.extractLsb' 0 11))
  | 0x24 => checked w 0x0 (.ldf (w.extractLsb' 20 6) (w.extractLsb' 14 6) (w.extractLsb' 11 3) (w.extractLsb' 0 11))
  | 0x25 => checked w 0x0 (.stf (w.extractLsb' 20 6) (w.extractLsb' 14 6) (w.extractLsb' 11 3) (w.extractLsb' 0 11))
  | 0x26 => checked w 0x7E0F (.hset (w.extractLsb' 21 5) (w.extractLsb' 15 6) (w.extractLsb' 4 5))
  | 0x27 => checked w 0x7E0F (.hget (w.extractLsb' 21 5) (w.extractLsb' 15 6) (w.extractLsb' 4 5))
  | 0x28 => checked w 0x7FCF (.hadv (w.extractLsb' 21 5) (w.extractLsb' 15 6) (w.extractLsb' 4 2))
  | 0x29 => checked w 0xF (.htile (w.extractLsb' 21 5) (w.extractLsb' 15 6) (w.extractLsb' 9 6) (w.extractLsb' 4 5))
  | 0x2A => checked w 0xF (.hname (w.extractLsb' 21 5) (w.extractLsb' 15 6) (w.extractLsb' 9 6) (w.extractLsb' 4 5))
  | op => .error (.unassigned op)

/-- SCA words: an opcode of SCB alone is refused (R72). -/
def decodeSca (w : W32) : Except Reject Instr :=
  let op := (w.extractLsb' 26 6).toNat
  if 0x22 ≤ op ∧ op ≤ 0x2A then .error (.wrongSlot op) else decodeScalarBoth w

/-- SCB words. -/
def decodeScb (w : W32) : Except Reject Instr :=
  if (w.extractLsb' 26 6).toNat < 0x22 then decodeScalarBoth w else decodeScalarB w

/-- The fields of a vector word (R75). -/
def vArgsOf (w : W64) : VArgs :=
  { g := w.extractLsb' 49 8, k := w.extractLsb' 46 3, rm := w.extractLsb' 43 3, d := w.extractLsb' 37 6,
    x := w.extractLsb' 32 5 ++ w.extractLsb' 0 8,
    a := w.extractLsb' 24 8, b := w.extractLsb' 16 8, c := w.extractLsb' 8 8 }

/-- The vector opcodes in value order (R79). -/
def vecOfOp (op : Nat) (o : VArgs) : Option Instr :=
  match op with
  | 0x01 => some (.fadd o)
  | 0x02 => some (.fsub o)
  | 0x03 => some (.fmul o)
  | 0x04 => some (.fma o)
  | 0x05 => some (.fms o)
  | 0x06 => some (.fnma o)
  | 0x07 => some (.fmin o)
  | 0x08 => some (.fmax o)
  | 0x09 => some (.fabs o)
  | 0x0A => some (.fneg o)
  | 0x0B => some (.fcmp o)
  | 0x0C => some (.fsel o)
  | 0x0D => some (.fclass o)
  | 0x0E => some (.rndi o)
  | 0x0F => some (.ftoi o)
  | 0x10 => some (.itof o)
  | 0x11 => some (.getexp o)
  | 0x12 => some (.getmant o)
  | 0x13 => some (.expins o)
  | 0x14 => some (.faddx o)
  | 0x15 => some (.fsubx o)
  | 0x16 => some (.fmulx o)
  | 0x17 => some (.dwadd o)
  | 0x18 => some (.dwsub o)
  | 0x19 => some (.dwmul o)
  | 0x1A => some (.dwadds o)
  | 0x1B => some (.dwnorm o)
  | 0x1C => some (.dwtof o)
  | 0x1D => some (.rsum o)
  | 0x1E => some (.rsumc o)
  | 0x1F => some (.rmax o)
  | 0x20 => some (.rmin o)
  | 0x21 => some (.rsumi o)
  | 0x22 => some (.fdot4 o)
  | 0x23 => some (.idotb o)
  | 0x24 => some (.idotn o)
  | 0x25 => some (.cvtf o)
  | 0x26 => some (.cvtn o)
  | 0x27 => some (.cvtb o)
  | 0x28 => some (.iadd o)
  | 0x29 => some (.isub o)
  | 0x2A => some (.imul o)
  | 0x2B => some (.imulh o)
  | 0x2C => some (.imin o)
  | 0x2D => some (.imax o)
  | 0x2E => some (.iand o)
  | 0x2F => some (.ior o)
  | 0x30 => some (.ixor o)
  | 0x31 => some (.ishl o)
  | 0x32 => some (.ishr o)
  | 0x33 => some (.isra o)
  | 0x34 => some (.icmp o)
  | 0x35 => some (.iabs o)
  | 0x36 => some (.laneid o)
  | 0x37 => some (.bcast o)
  | 0x38 => some (.perm o)
  | _ => none

/-- VEA words (R75, R79). -/
def decodeVea (w : W64) : Except Reject Instr :=
  let op := (w.extractLsb' 57 7).toNat
  match vecOfOp op (vArgsOf w) with
  | some i => checked w 0 i
  | none => .error (.unassigned op)

/-- VEB words: the opcodes of VEA alone are refused (R72, R79). -/
def decodeVeb (w : W64) : Except Reject Instr :=
  let op := (w.extractLsb' 57 7).toNat
  if 0x17 ≤ op ∧ op ≤ 0x24 then .error (.wrongSlot op) else decodeVea w

/-- The fields of a MOV word (R76). -/
def movArgsOf (w : W32) : MovArgs :=
  { gs := w.extractLsb' 24 3, gd := w.extractLsb' 21 3, a := w.extractLsb' 13 8, d := w.extractLsb' 7 6,
    x := w.extractLsb' 0 7 }

/-- The MOV opcodes in value order (R79). -/
def movOfOp (op : Nat) (o : MovArgs) : Option Instr :=
  match op with
  | 0x01 => some (.movp o)
  | 0x02 => some (.movr o)
  | 0x03 => some (.xgc o)
  | 0x04 => some (.pop o)
  | 0x05 => some (.kmov o)
  | 0x06 => some (.kand o)
  | 0x07 => some (.kor o)
  | 0x08 => some (.movs o)
  | 0x09 => some (.movv o)
  | 0x0A => some (.srseed o)
  | _ => none

/-- MOV words (R76, R79, R204). -/
def decodeMov (w : W32) : Except Reject Instr :=
  let op := (w.extractLsb' 27 5).toNat
  match movOfOp op (movArgsOf w) with
  | some i => checked w 0 i
  | none => .error (.unassigned op)

/-- The fields of a MEM word (R77). -/
def memArgsOf (w : W64) : MemArgs :=
  { g := w.extractLsb' 50 8, k := w.extractLsb' 47 3, h := w.extractLsb' 42 5, s := w.extractLsb' 36 6,
    v := w.extractLsb' 24 8, lat := w.extractLsb' 14 10, x := w.extractLsb' 0 14 }

/-- The MEM opcodes in value order (R79). -/
def memOfOp (op : Nat) (o : MemArgs) : Option Instr :=
  match op with
  | 0x01 => some (.vld o)
  | 0x02 => some (.vst o)
  | 0x03 => some (.vldx o)
  | 0x04 => some (.vstx o)
  | 0x05 => some (.ldg o)
  | 0x06 => some (.ldr o)
  | 0x07 => some (.reld o)
  | 0x08 => some (.vatom o)
  | 0x09 => some (.vred o)
  | _ => none

/-- MEM words; [35:32] is reserved (R77, R79, R211). -/
def decodeMem (w : W64) : Except Reject Instr :=
  let op := (w.extractLsb' 58 6).toNat
  match memOfOp op (memArgsOf w) with
  | some i => checked w 0xF00000000 i
  | none => .error (.unassigned op)

/-- The fields of an ENG word (R78). -/
def engArgsOf (w : W64) : EngArgs :=
  { scope := w.extractLsb' 55 3, rel := w.extractLsb' 54 1, acq := w.extractLsb' 53 1, sinc := w.extractLsb' 49 4,
    wsem := w.extractLsb' 41 8, wthr := w.extractLsb' 33 8, ssem := w.extractLsb' 24 8, p := w.extractLsb' 0 24 }

/-- The ENG opcodes in value order (R79). -/
def engOfOp (op : Nat) (o : EngArgs) : Option Instr :=
  match op with
  | 0x01 => some (.copy o)
  | 0x02 => some (.copys o)
  | 0x03 => some (.rotq o)
  | 0x04 => some (.ask o)
  | 0x05 => some (.announce o)
  | 0x06 => some (.seal o)
  | 0x07 => some (.atom o)
  | 0x08 => some (.red o)
  | 0x09 => some (.binit o)
  | 0x0A => some (.barr o)
  | 0x0B => some (.barrx o)
  | 0x0C => some (.bwait o)
  | 0x0D => some (.btwait o)
  | 0x0E => some (.scall o)
  | 0x0F => some (.scfg o)
  | 0x10 => some (.sdrain o)
  | 0x11 => some (.smload o)
  | 0x12 => some (.sintf o)
  | 0x13 => some (.msub o)
  | 0x14 => some (.mstat o)
  | 0x15 => some (.darm o)
  | 0x16 => some (.dput o)
  | 0x17 => some (.launch o)
  | 0x18 => some (.launchi o)
  | 0x19 => some (.flushh o)
  | _ => none

/-- ENG words; [32] is reserved (R78, R79). -/
def decodeEng (w : W64) : Except Reject Instr :=
  let op := (w.extractLsb' 58 6).toNat
  match engOfOp op (engArgsOf w) with
  | some i => checked w 0x100000000 i
  | none => .error (.unassigned op)

/-- Serac micro-words (R80, R316 to R323). -/
def decodeMicro (w : W64) : Except Reject Instr :=
  match (w.extractLsb' 59 5).toNat with
  | 0x01 => checked w 0xE3800F0000FFFF (.sldw (w.extractLsb' 56 3) (w.extractLsb' 50 3) (w.extractLsb' 43 4) (w.extractLsb' 36 7) (w.extractLsb' 16 16))
  | 0x02 => checked w 0xE380010000FFFF (.sstrm (w.extractLsb' 56 3) (w.extractLsb' 50 3) (w.extractLsb' 43 4) (w.extractLsb' 36 7) (w.extractLsb' 35 1) (w.extractLsb' 34 1) (w.extractLsb' 33 1) (w.extractLsb' 16 16))
  | 0x03 => checked w 0x7F900000000 (.soutr (w.extractLsb' 56 3) (w.extractLsb' 53 3) (w.extractLsb' 50 3) (w.extractLsb' 47 3) (w.extractLsb' 43 4) (w.extractLsb' 34 1) (w.extractLsb' 33 1) (w.extractLsb' 16 16) (w.extractLsb' 0 16))
  | 0x04 => checked w 0xFF800D0000FFFC (.sacc (w.extractLsb' 0 2) (w.extractLsb' 56 3) (w.extractLsb' 43 4) (w.extractLsb' 36 7) (w.extractLsb' 33 1) (w.extractLsb' 16 16))
  | 0x05 => checked w 0xFF800700000000 (.sdrn (w.extractLsb' 56 3) (w.extractLsb' 43 4) (w.extractLsb' 36 7) (w.extractLsb' 35 1) (w.extractLsb' 16 16) (w.extractLsb' 0 16))
  | 0x06 => checked w 0x381FF00000000 (.sgath (w.extractLsb' 56 3) (w.extractLsb' 53 3) (w.extractLsb' 50 3) (w.extractLsb' 41 6) (w.extractLsb' 16 16) (w.extractLsb' 0 16))
  | 0x07 => checked w 0x1FF80000000000 (.mloop (w.extractLsb' 57 2) (w.extractLsb' 56 1) (w.extractLsb' 53 3) (w.extractLsb' 32 11) (w.extractLsb' 0 32))
  | 0x08 => checked w 0xFFFFF00000000 (.madd (w.extractLsb' 56 3) (w.extractLsb' 53 3) (w.extractLsb' 52 1) (w.extractLsb' 0 32))
  | 0x09 => checked w 0x7FFFFFFFFFFFFFF .yp
  | 0x0A => checked w 0x7FFFFFFFFFFF (.msig (w.extractLsb' 51 8) (w.extractLsb' 47 4))
  | 0x0B => checked w 0x7FFFFFFFFFF (.mwait (w.extractLsb' 51 8) (w.extractLsb' 43 8))
  | 0x0C => checked w 0x7FFFFFFFFFFFFFF .mend
  | op => .error (.unassigned op)

/-- Moraine instructions (R80, R336). -/
def decodeMoraine (w : W32) : Except Reject Instr :=
  match (w.extractLsb' 27 5).toNat with
  | 0x01 => checked w 0x1FFFF (.moraineVld (w.extractLsb' 22 5) (w.extractLsb' 19 3) (w.extractLsb' 17 2))
  | 0x02 => checked w 0x1FFFF (.moraineVst (w.extractLsb' 22 5) (w.extractLsb' 19 3) (w.extractLsb' 17 2))
  | 0x03 => checked w 0xFFF (.moraineFadd (w.extractLsb' 22 5) (w.extractLsb' 17 5) (w.extractLsb' 12 5))
  | 0x04 => checked w 0xFFF (.moraineFsub (w.extractLsb' 22 5) (w.extractLsb' 17 5) (w.extractLsb' 12 5))
  | 0x05 => checked w 0xFFF (.moraineFmul (w.extractLsb' 22 5) (w.extractLsb' 17 5) (w.extractLsb' 12 5))
  | 0x06 => checked w 0x7F (.moraineFma (w.extractLsb' 22 5) (w.extractLsb' 17 5) (w.extractLsb' 12 5) (w.extractLsb' 7 5))
  | 0x07 => checked w 0xFFF (.moraineFmin (w.extractLsb' 22 5) (w.extractLsb' 17 5) (w.extractLsb' 12 5))
  | 0x08 => checked w 0xFFF (.moraineFmax (w.extractLsb' 22 5) (w.extractLsb' 17 5) (w.extractLsb' 12 5))
  | 0x09 => checked w 0xFF8 (.moraineFcmp (w.extractLsb' 22 5) (w.extractLsb' 17 5) (w.extractLsb' 12 5) (w.extractLsb' 0 3))
  | 0x0A => checked w 0x7F (.moraineFsel (w.extractLsb' 22 5) (w.extractLsb' 17 5) (w.extractLsb' 12 5) (w.extractLsb' 7 5))
  | 0x0B => checked w 0x1FFFF (.moraineRcp (w.extractLsb' 22 5) (w.extractLsb' 17 5))
  | 0x0C => checked w 0x1FFFF (.moraineRsq (w.extractLsb' 22 5) (w.extractLsb' 17 5))
  | 0x0D => checked w 0x1FFFF (.moraineCvtb (w.extractLsb' 22 5) (w.extractLsb' 17 5))
  | 0x0E => checked w 0x7F0000 (.movi (w.extractLsb' 24 3) (w.extractLsb' 23 1) (w.extractLsb' 0 16))
  | 0x0F => checked w 0x7FFFF (.moraineBcast (w.extractLsb' 22 5) (w.extractLsb' 19 3))
  | 0x10 => checked w 0x0 (.loopa (w.extractLsb' 26 1) (w.extractLsb' 23 3) (w.extractLsb' 16 7) (w.extractLsb' 0 16))
  | 0x11 => checked w 0x0 (.loopb (w.extractLsb' 26 1) (w.extractLsb' 23 3) (w.extractLsb' 16 7) (w.extractLsb' 0 16))
  | 0x12 => checked w 0x7FFFFFF .moraineEnd
  | 0x13 => checked w 0xFFF (.mbxs (w.extractLsb' 19 8) (w.extractLsb' 15 4) (w.extractLsb' 12 3))
  | 0x14 => checked w 0xFF0000 (.mbxw (w.extractLsb' 24 3) (w.extractLsb' 0 16))
  | op => .error (.unassigned op)

/-- A little-endian number (R2). -/
def leNat : List Byte → Nat
  | [] => 0
  | b :: bs => b.toNat + 256 * leNat bs

/-- The n low bytes of a number, lowest first (R2). -/
def leBytes : Nat → Nat → List Byte
  | 0, _ => []
  | n + 1, v => BitVec.ofNat 8 v :: leBytes n (v / 256)

/-- n bytes of a list from an offset, as a word of 8n bits. -/
def field (bs : List Byte) (off n : Nat) : BitVec (8 * n) := BitVec.ofNat (8 * n) (leNat ((bs.drop off).take n))

/-- The bytes of a record outside the named ranges (offset, length) are 0. -/
def zeroOutside (bs : List Byte) (named : List (Nat × Nat)) : Bool :=
  bs.zipIdx.all (fun p => p.1 == 0 || named.any (fun r => r.1 ≤ p.2 && p.2 < r.1 + r.2))

/-- The record's instruction, when its unnamed bytes are 0 and its values are admitted (R80, R343, R368). -/
def checkedBytes (bs : List Byte) (named : List (Nat × Nat)) (i : Instr) : Except Reject Instr :=
  if !zeroOutside bs named then .error .reservedBit
  else if legal i then .ok i else .error .reservedValue

/-- Moraine commands: 32 bytes, the opcode in byte 0 (R80, R343). -/
def decodeCommand (bs : List Byte) : Except Reject Instr :=
  if bs.length ≠ 32 then .error .short
  else match (field bs 0 1).toNat with
  | 0x01 => checkedBytes bs [(0, 4), (8, 8)] (.loadp (field bs 1 1) (field bs 2 1) (field bs 3 1) (field bs 8 8))
  | 0x02 => checkedBytes bs [(0, 4)] (.run (field bs 1 1) (field bs 2 2))
  | 0x03 => checkedBytes bs [(0, 1), (8, 16)] (.rowsh (field bs 8 8) (field bs 16 8))
  | 0x04 => checkedBytes bs [(0, 3), (8, 8)] (.mbx (field bs 1 1) (field bs 2 1) (field bs 8 8))
  | 0x05 => checkedBytes bs [(0, 3), (4, 20)]
      (.trig (field bs 1 1) (field bs 2 1) (field bs 4 4) (field bs 8 8) (field bs 16 8))
  | 0x06 => checkedBytes bs [(0, 3)] (.fencem (field bs 1 1) (field bs 2 1))
  | 0x07 => checkedBytes bs [(0, 3), (8, 16)] (.relm (field bs 1 1) (field bs 2 1) (field bs 8 8) (field bs 16 8))
  | 0x08 => checkedBytes bs [(0, 3), (4, 20)]
      (.annm (field bs 1 1) (field bs 2 1) (field bs 4 4) (field bs 8 8) (field bs 16 8))
  | op => .error (.unassigned op)

/-- The header of a Drift entry (R368). -/
def dhdrOf (bs : List Byte) : DHdr :=
  { rel := (field bs 1 1).extractLsb' 4 1, acq := (field bs 1 1).extractLsb' 3 1,
    scope := (field bs 1 1).extractLsb' 0 3, re := (field bs 2 1).extractLsb' 4 4, rn := (field bs 2 1).extractLsb' 0 4,
    trig := (field bs 4 2).extractLsb' 0 12, thresh := field bs 8 4, ctra := field bs 12 2, ctrb := field bs 14 2 }

/-- The header's bits that R368 reserves. -/
def dhdrReserved (bs : List Byte) : Bool :=
  (field bs 1 1).extractLsb' 5 3 == 0 && (field bs 4 2).extractLsb' 12 4 == 0

/-- Drift work entries: 64 bytes, the opcode in byte 0 (R80, R368, R370, R380, R381). -/
def decodeDrift (bs : List Byte) : Except Reject Instr :=
  if bs.length ≠ 64 then .error .short
  else if !dhdrReserved bs then .error .reservedBit
  else
    let h := dhdrOf bs
    let hd : List (Nat × Nat) := [(0, 3), (4, 2), (8, 8)]
    match (field bs 0 1).toNat with
    | 0x01 => checkedBytes bs (hd ++ [(16, 22)]) (.put h (field bs 16 8) (field bs 24 8) (field bs 32 4) (field bs 36 2))
    | 0x02 => checkedBytes bs (hd ++ [(16, 23)])
        (.putred h (field bs 16 8) (field bs 24 8) (field bs 32 4) (field bs 36 2) (field bs 38 1))
    | 0x03 => checkedBytes bs (hd ++ [(16, 22), (40, 8)])
        (.putmc h (field bs 16 8) (field bs 24 8) (field bs 32 4) (field bs 36 2) (field bs 40 8))
    | 0x04 => checkedBytes bs (hd ++ [(16, 20)]) (.get h (field bs 16 8) (field bs 24 8) (field bs 32 4))
    | 0x05 => checkedBytes bs (hd ++ [(24, 14)]) (.signal h (field bs 24 8) (field bs 32 4) (field bs 36 2))
    | 0x06 => checkedBytes bs (hd ++ [(16, 35), (56, 8)])
        (.rsstep h (field bs 16 8) (field bs 24 8) (field bs 32 8) (field bs 40 4) (field bs 44 2) (field bs 46 2)
          (field bs 48 1) (field bs 49 1) (field bs 50 1) (field bs 56 8))
    | 0x07 => checkedBytes bs (hd ++ [(16, 32)])
        (.deliver h (field bs 16 8) (field bs 24 8) (field bs 32 4) (field bs 36 4) (field bs 40 8))
    | op => .error (.unassigned op)

/-- The word of one slot, from its bytes (R2, R64). -/
def decodeSlot (sl : Slot) (bs : List Byte) : Except Reject Instr :=
  if bs.length < sl.bytes then .error .short
  else
    match sl with
    | .ctl => decodeCtl (field bs 0 4)
    | .sca => decodeSca (field bs 0 4)
    | .scb => decodeScb (field bs 0 4)
    | .vea => decodeVea (field bs 0 8)
    | .veb => decodeVeb (field bs 0 8)
    | .mov => decodeMov (field bs 0 4)
    | .mem => decodeMem (field bs 0 8)
    | .eng => decodeEng (field bs 0 8)

/-- The slots in header-bit order (R64). -/
def allSlots : List Slot := [.ctl, .sca, .scb, .vea, .veb, .mov, .mem, .eng]

/-- The slots that a header byte names (R64). -/
def headerSlots (h : Byte) : List Slot := allSlots.filter (fun sl => h.getLsbD sl.bit)

/-- What fetch finds at a byte of a line (R65, R66). -/
inductive Fetched where
  /-- A bundle: its slot instructions in header-bit order, and its length in bytes. -/
  | bundle (slots : List (Slot × Instr)) (len : Nat)
  /-- A folded empty run of so many bundles. -/
  | emptyRun (bundles : Nat)
  /-- A line pad, or a last byte of the line: fetch goes on at the next line. -/
  | nextLine
  /-- ILL, with TRAP_INFO[3:0] (R391). -/
  | ill (info : Nat)
  deriving DecidableEq, Repr

/-- The slot words after a header, in order; the lowest slot that is refused gives its header bit (R64, R391). -/
def decodeSlots : List Slot → List Byte → Except Nat (List (Slot × Instr))
  | [], _ => .ok []
  | sl :: sls, bs =>
    match decodeSlot sl bs with
    | .error _ => .error sl.bit
    | .ok i =>
      match decodeSlots sls (bs.drop sl.bytes) with
      | .ok r => .ok ((sl, i) :: r)
      | .error e => .error e

/-- One fetch in a line: the bytes from the fetch address to the end of its 64-byte line (R65, R66). -/
def decodeLine (bs : List Byte) : Fetched :=
  match bs with
  | h :: n :: _ =>
    if h = 0 then if n = 0xFF then .nextLine else .emptyRun (n.toNat + 1)
    else
      let len := 1 + ((headerSlots h).map Slot.bytes).sum
      if bs.length < len then .ill 8
      else match decodeSlots (headerSlots h) (bs.drop 1) with
        | .ok r => .bundle r len
        | .error b => .ill b
  | _ => .nextLine

/-! The encoder, from the same tables. -/

/-- The MOV form (R76). -/
def encodeMov (op : BitVec 5) (o : MovArgs) : W32 := op ++ o.gs ++ o.gd ++ o.a ++ o.d ++ o.x

/-- The MOV opcode and fields of an instruction (R79). -/
def movOp : Instr → Option (BitVec 5 × MovArgs)
  | .movp o => some (0x01, o)
  | .movr o => some (0x02, o)
  | .xgc o => some (0x03, o)
  | .pop o => some (0x04, o)
  | .kmov o => some (0x05, o)
  | .kand o => some (0x06, o)
  | .kor o => some (0x07, o)
  | .movs o => some (0x08, o)
  | .movv o => some (0x09, o)
  | .srseed o => some (0x0A, o)
  | _ => none

/-- The VEA and VEB form (R75). -/
def encodeVec (op : BitVec 7) (o : VArgs) : W64 :=
  op ++ o.g ++ o.k ++ o.rm ++ o.d ++ o.x.extractLsb' 8 5 ++ o.a ++ o.b ++ o.c ++ o.x.extractLsb' 0 8

/-- The vector opcode and fields of an instruction (R79). -/
def vecOp : Instr → Option (BitVec 7 × VArgs)
  | .fadd o => some (0x01, o)
  | .fsub o => some (0x02, o)
  | .fmul o => some (0x03, o)
  | .fma o => some (0x04, o)
  | .fms o => some (0x05, o)
  | .fnma o => some (0x06, o)
  | .fmin o => some (0x07, o)
  | .fmax o => some (0x08, o)
  | .fabs o => some (0x09, o)
  | .fneg o => some (0x0A, o)
  | .fcmp o => some (0x0B, o)
  | .fsel o => some (0x0C, o)
  | .fclass o => some (0x0D, o)
  | .rndi o => some (0x0E, o)
  | .ftoi o => some (0x0F, o)
  | .itof o => some (0x10, o)
  | .getexp o => some (0x11, o)
  | .getmant o => some (0x12, o)
  | .expins o => some (0x13, o)
  | .faddx o => some (0x14, o)
  | .fsubx o => some (0x15, o)
  | .fmulx o => some (0x16, o)
  | .dwadd o => some (0x17, o)
  | .dwsub o => some (0x18, o)
  | .dwmul o => some (0x19, o)
  | .dwadds o => some (0x1A, o)
  | .dwnorm o => some (0x1B, o)
  | .dwtof o => some (0x1C, o)
  | .rsum o => some (0x1D, o)
  | .rsumc o => some (0x1E, o)
  | .rmax o => some (0x1F, o)
  | .rmin o => some (0x20, o)
  | .rsumi o => some (0x21, o)
  | .fdot4 o => some (0x22, o)
  | .idotb o => some (0x23, o)
  | .idotn o => some (0x24, o)
  | .cvtf o => some (0x25, o)
  | .cvtn o => some (0x26, o)
  | .cvtb o => some (0x27, o)
  | .iadd o => some (0x28, o)
  | .isub o => some (0x29, o)
  | .imul o => some (0x2A, o)
  | .imulh o => some (0x2B, o)
  | .imin o => some (0x2C, o)
  | .imax o => some (0x2D, o)
  | .iand o => some (0x2E, o)
  | .ior o => some (0x2F, o)
  | .ixor o => some (0x30, o)
  | .ishl o => some (0x31, o)
  | .ishr o => some (0x32, o)
  | .isra o => some (0x33, o)
  | .icmp o => some (0x34, o)
  | .iabs o => some (0x35, o)
  | .laneid o => some (0x36, o)
  | .bcast o => some (0x37, o)
  | .perm o => some (0x38, o)
  | _ => none

/-- The MEM form (R77). -/
def encodeMem (op : BitVec 6) (o : MemArgs) : W64 :=
  op ++ o.g ++ o.k ++ o.h ++ o.s ++ (0 : BitVec 4) ++ o.v ++ o.lat ++ o.x

/-- The MEM opcode and fields of an instruction (R79). -/
def memOp : Instr → Option (BitVec 6 × MemArgs)
  | .vld o => some (0x01, o)
  | .vst o => some (0x02, o)
  | .vldx o => some (0x03, o)
  | .vstx o => some (0x04, o)
  | .ldg o => some (0x05, o)
  | .ldr o => some (0x06, o)
  | .reld o => some (0x07, o)
  | .vatom o => some (0x08, o)
  | .vred o => some (0x09, o)
  | _ => none

/-- The ENG form (R78). -/
def encodeEng (op : BitVec 6) (o : EngArgs) : W64 :=
  op ++ o.scope ++ o.rel ++ o.acq ++ o.sinc ++ o.wsem ++ o.wthr ++ (0 : BitVec 1) ++ o.ssem ++ o.p

/-- The ENG opcode and fields of an instruction (R79). -/
def engOp : Instr → Option (BitVec 6 × EngArgs)
  | .copy o => some (0x01, o)
  | .copys o => some (0x02, o)
  | .rotq o => some (0x03, o)
  | .ask o => some (0x04, o)
  | .announce o => some (0x05, o)
  | .seal o => some (0x06, o)
  | .atom o => some (0x07, o)
  | .red o => some (0x08, o)
  | .binit o => some (0x09, o)
  | .barr o => some (0x0A, o)
  | .barrx o => some (0x0B, o)
  | .bwait o => some (0x0C, o)
  | .btwait o => some (0x0D, o)
  | .scall o => some (0x0E, o)
  | .scfg o => some (0x0F, o)
  | .sdrain o => some (0x10, o)
  | .smload o => some (0x11, o)
  | .sintf o => some (0x12, o)
  | .msub o => some (0x13, o)
  | .mstat o => some (0x14, o)
  | .darm o => some (0x15, o)
  | .dput o => some (0x16, o)
  | .launch o => some (0x17, o)
  | .launchi o => some (0x18, o)
  | .flushh o => some (0x19, o)
  | _ => none

/-- The word of a CTL, scalar, MOV or Moraine instruction; 0 for any other (R73, R74, R76, R336). -/
def encode32 (i : Instr) : W32 :=
  match i with
  | .br ofs => (0x01 : BitVec 6) ++ ofs
  | .brc sc cond ofs => (0x02 : BitVec 6) ++ sc ++ cond ++ ofs
  | .jr rs => (0x03 : BitVec 6) ++ rs ++ (0 : BitVec 20)
  | .call ofs => (0x04 : BitVec 6) ++ ofs
  | .ret => (0x05 : BitVec 6) ++ (0 : BitVec 26)
  | .loop lvl eo rs => (0x06 : BitVec 6) ++ lvl ++ eo ++ rs ++ (0 : BitVec 4)
  | .loopi lvl eo cnt => (0x07 : BitVec 6) ++ lvl ++ eo ++ cnt
  | .lbrk => (0x08 : BitVec 6) ++ (0 : BitVec 26)
  | .wait sem val => (0x09 : BitVec 6) ++ sem ++ val ++ (0 : BitVec 10)
  | .post sem val => (0x0A : BitVec 6) ++ sem ++ val ++ (0 : BitVec 10)
  | .waitp sem val rd => (0x0B : BitVec 6) ++ sem ++ val ++ rd ++ (0 : BitVec 4)
  | .yield => (0x0C : BitVec 6) ++ (0 : BitVec 26)
  | .ckpt => (0x0D : BitVec 6) ++ (0 : BitVec 26)
  | .trap code => (0x0E : BitVec 6) ++ (0 : BitVec 10) ++ code
  | .eret => (0x0F : BitVec 6) ++ (0 : BitVec 26)
  | .halt => (0x10 : BitVec 6) ++ (0 : BitVec 26)
  | .fence scope => (0x11 : BitVec 6) ++ scope ++ (0 : BitVec 23)
  | .acq sa sb scope kind => (0x12 : BitVec 6) ++ sa ++ sb ++ scope ++ kind ++ (0 : BitVec 9)
  | .rel sa sb scope => (0x13 : BitVec 6) ++ sa ++ sb ++ scope ++ (0 : BitVec 11)
  | .mfs rd sys => (0x14 : BitVec 6) ++ rd ++ sys ++ (0 : BitVec 8)
  | .mts rs sys => (0x15 : BitVec 6) ++ rs ++ sys ++ (0 : BitVec 8)
  | .add rd ra rb => (0x01 : BitVec 6) ++ rd ++ ra ++ rb ++ (0 : BitVec 8)
  | .sub rd ra rb => (0x02 : BitVec 6) ++ rd ++ ra ++ rb ++ (0 : BitVec 8)
  | .addi rd ra imm => (0x03 : BitVec 6) ++ rd ++ ra ++ imm
  | .and rd ra rb => (0x04 : BitVec 6) ++ rd ++ ra ++ rb ++ (0 : BitVec 8)
  | .or rd ra rb => (0x05 : BitVec 6) ++ rd ++ ra ++ rb ++ (0 : BitVec 8)
  | .xor rd ra rb => (0x06 : BitVec 6) ++ rd ++ ra ++ rb ++ (0 : BitVec 8)
  | .andi rd ra imm => (0x07 : BitVec 6) ++ rd ++ ra ++ imm
  | .ori rd ra imm => (0x08 : BitVec 6) ++ rd ++ ra ++ imm
  | .xori rd ra imm => (0x09 : BitVec 6) ++ rd ++ ra ++ imm
  | .shl rd ra rb => (0x0A : BitVec 6) ++ rd ++ ra ++ rb ++ (0 : BitVec 8)
  | .shr rd ra rb => (0x0B : BitVec 6) ++ rd ++ ra ++ rb ++ (0 : BitVec 8)
  | .sra rd ra rb => (0x0C : BitVec 6) ++ rd ++ ra ++ rb ++ (0 : BitVec 8)
  | .shli rd ra sh => (0x0D : BitVec 6) ++ rd ++ ra ++ (0 : BitVec 8) ++ sh
  | .shri rd ra sh => (0x0E : BitVec 6) ++ rd ++ ra ++ (0 : BitVec 8) ++ sh
  | .srai rd ra sh => (0x0F : BitVec 6) ++ rd ++ ra ++ (0 : BitVec 8) ++ sh
  | .mul rd ra rb => (0x10 : BitVec 6) ++ rd ++ ra ++ rb ++ (0 : BitVec 8)
  | .mulh rd ra rb => (0x11 : BitVec 6) ++ rd ++ ra ++ rb ++ (0 : BitVec 8)
  | .mulhu rd ra rb => (0x12 : BitVec 6) ++ rd ++ ra ++ rb ++ (0 : BitVec 8)
  | .divs rd ra rb => (0x13 : BitVec 6) ++ rd ++ ra ++ rb ++ (0 : BitVec 8)
  | .divu rd ra rb => (0x14 : BitVec 6) ++ rd ++ ra ++ rb ++ (0 : BitVec 8)
  | .min rd ra rb => (0x15 : BitVec 6) ++ rd ++ ra ++ rb ++ (0 : BitVec 8)
  | .max rd ra rb => (0x16 : BitVec 6) ++ rd ++ ra ++ rb ++ (0 : BitVec 8)
  | .minu rd ra rb => (0x17 : BitVec 6) ++ rd ++ ra ++ rb ++ (0 : BitVec 8)
  | .maxu rd ra rb => (0x18 : BitVec 6) ++ rd ++ ra ++ rb ++ (0 : BitVec 8)
  | .slt rd ra rb => (0x19 : BitVec 6) ++ rd ++ ra ++ rb ++ (0 : BitVec 8)
  | .sltu rd ra rb => (0x1A : BitVec 6) ++ rd ++ ra ++ rb ++ (0 : BitVec 8)
  | .seq rd ra rb => (0x1B : BitVec 6) ++ rd ++ ra ++ rb ++ (0 : BitVec 8)
  | .sne rd ra rb => (0x1C : BitVec 6) ++ rd ++ ra ++ rb ++ (0 : BitVec 8)
  | .selz rd ra rb rc => (0x1D : BitVec 6) ++ rd ++ ra ++ rb ++ rc ++ (0 : BitVec 2)
  | .li rd imm => (0x1E : BitVec 6) ++ rd ++ imm
  | .lui rd imm => (0x1F : BitVec 6) ++ rd ++ imm
  | .clz rd ra => (0x20 : BitVec 6) ++ rd ++ ra ++ (0 : BitVec 14)
  | .popc rd ra => (0x21 : BitVec 6) ++ rd ++ ra ++ (0 : BitVec 14)
  | .lds rd ra sz imm => (0x22 : BitVec 6) ++ rd ++ ra ++ sz ++ imm
  | .sts rd ra sz imm => (0x23 : BitVec 6) ++ rd ++ ra ++ sz ++ imm
  | .ldf rd ra sz imm => (0x24 : BitVec 6) ++ rd ++ ra ++ sz ++ imm
  | .stf rd ra sz imm => (0x25 : BitVec 6) ++ rd ++ ra ++ sz ++ imm
  | .hset hh rs fld => (0x26 : BitVec 6) ++ hh ++ rs ++ (0 : BitVec 6) ++ fld ++ (0 : BitVec 4)
  | .hget hh rs fld => (0x27 : BitVec 6) ++ hh ++ rs ++ (0 : BitVec 6) ++ fld ++ (0 : BitVec 4)
  | .hadv hh rs dim => (0x28 : BitVec 6) ++ hh ++ rs ++ (0 : BitVec 9) ++ dim ++ (0 : BitVec 4)
  | .htile hh rs rt fld => (0x29 : BitVec 6) ++ hh ++ rs ++ rt ++ fld ++ (0 : BitVec 4)
  | .hname hh rs rt fld => (0x2A : BitVec 6) ++ hh ++ rs ++ rt ++ fld ++ (0 : BitVec 4)
  | .moraineVld z st fmt => (0x01 : BitVec 5) ++ z ++ st ++ fmt ++ (0 : BitVec 17)
  | .moraineVst z st fmt => (0x02 : BitVec 5) ++ z ++ st ++ fmt ++ (0 : BitVec 17)
  | .moraineFadd zd za zb => (0x03 : BitVec 5) ++ zd ++ za ++ zb ++ (0 : BitVec 12)
  | .moraineFsub zd za zb => (0x04 : BitVec 5) ++ zd ++ za ++ zb ++ (0 : BitVec 12)
  | .moraineFmul zd za zb => (0x05 : BitVec 5) ++ zd ++ za ++ zb ++ (0 : BitVec 12)
  | .moraineFma zd za zb zc => (0x06 : BitVec 5) ++ zd ++ za ++ zb ++ zc ++ (0 : BitVec 7)
  | .moraineFmin zd za zb => (0x07 : BitVec 5) ++ zd ++ za ++ zb ++ (0 : BitVec 12)
  | .moraineFmax zd za zb => (0x08 : BitVec 5) ++ zd ++ za ++ zb ++ (0 : BitVec 12)
  | .moraineFcmp zd za zb cond => (0x09 : BitVec 5) ++ zd ++ za ++ zb ++ (0 : BitVec 9) ++ cond
  | .moraineFsel zd za zb zc => (0x0A : BitVec 5) ++ zd ++ za ++ zb ++ zc ++ (0 : BitVec 7)
  | .moraineRcp zd za => (0x0B : BitVec 5) ++ zd ++ za ++ (0 : BitVec 17)
  | .moraineRsq zd za => (0x0C : BitVec 5) ++ zd ++ za ++ (0 : BitVec 17)
  | .moraineCvtb zd za => (0x0D : BitVec 5) ++ zd ++ za ++ (0 : BitVec 17)
  | .movi q half imm => (0x0E : BitVec 5) ++ q ++ half ++ (0 : BitVec 7) ++ imm
  | .moraineBcast zd q => (0x0F : BitVec 5) ++ zd ++ q ++ (0 : BitVec 19)
  | .loopa cs q eo cnt => (0x10 : BitVec 5) ++ cs ++ q ++ eo ++ cnt
  | .loopb cs q eo cnt => (0x11 : BitVec 5) ++ cs ++ q ++ eo ++ cnt
  | .moraineEnd => (0x12 : BitVec 5) ++ (0 : BitVec 27)
  | .mbxs unit slot q => (0x13 : BitVec 5) ++ unit ++ slot ++ q ++ (0 : BitVec 12)
  | .mbxw q msk => (0x14 : BitVec 5) ++ q ++ (0 : BitVec 8) ++ msk
  | i => match movOp i with
    | some (op, o) => encodeMov op o
    | none => 0

/-- The word of a micro-word, vector, MEM or ENG instruction; 0 for any other (R75, R77, R78, R316 to R323). -/
def encode64 (i : Instr) : W64 :=
  match i with
  | .sldw pa ps cnt row rstr => (0x01 : BitVec 5) ++ pa ++ (0 : BitVec 3) ++ ps ++ (0 : BitVec 3) ++ cnt ++ row ++ (0 : BitVec 4) ++ rstr ++ (0 : BitVec 16)
  | .sstrm pa ps cnt row md ga inc rstr => (0x02 : BitVec 5) ++ pa ++ (0 : BitVec 3) ++ ps ++ (0 : BitVec 3) ++ cnt ++ row ++ md ++ ga ++ inc ++ (0 : BitVec 1) ++ rstr ++ (0 : BitVec 16)
  | .soutr pa pb ps pt cnt ga inc rstr dstr => (0x03 : BitVec 5) ++ pa ++ pb ++ ps ++ pt ++ cnt ++ (0 : BitVec 8) ++ ga ++ inc ++ (0 : BitVec 1) ++ rstr ++ dstr
  | .sacc sub pa cnt row inc rstr => (0x04 : BitVec 5) ++ pa ++ (0 : BitVec 9) ++ cnt ++ row ++ (0 : BitVec 2) ++ inc ++ (0 : BitVec 1) ++ rstr ++ (0 : BitVec 14) ++ sub
  | .sdrn pa cnt row md rstr opx => (0x05 : BitVec 5) ++ pa ++ (0 : BitVec 9) ++ cnt ++ row ++ md ++ (0 : BitVec 3) ++ rstr ++ opx
  | .sgath pa pb ps ni rstr sstr => (0x06 : BitVec 5) ++ pa ++ pb ++ ps ++ (0 : BitVec 3) ++ ni ++ (0 : BitVec 9) ++ rstr ++ sstr
  | .mloop lvl cs pc eo count => (0x07 : BitVec 5) ++ lvl ++ cs ++ pc ++ (0 : BitVec 10) ++ eo ++ count
  | .madd pd ps us imm => (0x08 : BitVec 5) ++ pd ++ ps ++ us ++ (0 : BitVec 20) ++ imm
  | .yp => (0x09 : BitVec 5) ++ (0 : BitVec 59)
  | .msig sem inc => (0x0A : BitVec 5) ++ sem ++ inc ++ (0 : BitVec 47)
  | .mwait sem val => (0x0B : BitVec 5) ++ sem ++ val ++ (0 : BitVec 43)
  | .mend => (0x0C : BitVec 5) ++ (0 : BitVec 59)
  | i =>
    match vecOp i with
    | some (op, o) => encodeVec op o
    | none =>
      match memOp i with
      | some (op, o) => encodeMem op o
      | none =>
        match engOp i with
        | some (op, o) => encodeEng op o
        | none => 0

/-- The header bytes of a Drift entry (R368). -/
def encodeDhdr (op : Nat) (h : DHdr) : List Byte :=
  [BitVec.ofNat 8 op, ((0 : BitVec 3) ++ h.rel ++ h.acq ++ h.scope), (h.re ++ h.rn), 0] ++
  leBytes 4 h.trig.toNat ++ leBytes 4 h.thresh.toNat ++ leBytes 2 h.ctra.toNat ++ leBytes 2 h.ctrb.toNat

/-- The bytes of a Moraine command or a Drift entry; none for any other instruction (R343, R370, R380, R381). -/
def encodeRecord (i : Instr) : List Byte :=
  match i with
  | .loadp kind first count addr => [1, kind, first, count] ++ leBytes 4 0 ++ leBytes 8 addr.toNat ++ leBytes 16 0
  | .run start limit => [2, start] ++ leBytes 2 limit.toNat ++ leBytes 28 0
  | .rowsh src dst => [3] ++ leBytes 7 0 ++ leBytes 8 src.toNat ++ leBytes 8 dst.toNat ++ leBytes 8 0
  | .mbx unit slot value => [4, unit, slot] ++ leBytes 5 0 ++ leBytes 8 value.toNat ++ leBytes 16 0
  | .trig kind scope limit obj target =>
    [5, kind, scope, 0] ++ leBytes 4 limit.toNat ++ leBytes 8 obj.toNat ++ leBytes 8 target.toNat ++ leBytes 8 0
  | .fencem scope join => [6, scope, join] ++ leBytes 29 0
  | .relm scope join latch inc =>
    [7, scope, join] ++ leBytes 5 0 ++ leBytes 8 latch.toNat ++ leBytes 8 inc.toNat ++ leBytes 8 0
  | .annm scope join len name src =>
    [8, scope, join, 0] ++ leBytes 4 len.toNat ++ leBytes 8 name.toNat ++ leBytes 8 src.toNat ++ leBytes 8 0
  | .put hd src dst len rctr =>
    encodeDhdr 1 hd ++ leBytes 8 src.toNat ++ leBytes 8 dst.toNat ++ leBytes 4 len.toNat ++ leBytes 2 rctr.toNat ++
    leBytes 26 0
  | .putred hd src dst len rctr fop =>
    encodeDhdr 2 hd ++ leBytes 8 src.toNat ++ leBytes 8 dst.toNat ++ leBytes 4 len.toNat ++ leBytes 2 rctr.toNat ++
    [fop] ++ leBytes 25 0
  | .putmc hd src dst len rctr ack =>
    encodeDhdr 3 hd ++ leBytes 8 src.toNat ++ leBytes 8 dst.toNat ++ leBytes 4 len.toNat ++ leBytes 2 rctr.toNat ++
    leBytes 2 0 ++ leBytes 8 ack.toNat ++ leBytes 16 0
  | .get hd src dst len =>
    encodeDhdr 4 hd ++ leBytes 8 src.toNat ++ leBytes 8 dst.toNat ++ leBytes 4 len.toNat ++ leBytes 28 0
  | .signal hd dst inc rctr =>
    encodeDhdr 5 hd ++ leBytes 8 0 ++ leBytes 8 dst.toNat ++ leBytes 4 inc.toNat ++ leBytes 2 rctr.toNat ++ leBytes 26 0
  | .rsstep hd buf recv dst len succ sctr np q st sig =>
    encodeDhdr 6 hd ++ leBytes 8 buf.toNat ++ leBytes 8 recv.toNat ++ leBytes 8 dst.toNat ++ leBytes 4 len.toNat ++
    leBytes 2 succ.toNat ++ leBytes 2 sctr.toNat ++ [np, q, st] ++ leBytes 5 0 ++ leBytes 8 sig.toNat
  | .deliver hd src dst len tsize name =>
    encodeDhdr 7 hd ++ leBytes 8 src.toNat ++ leBytes 8 dst.toNat ++ leBytes 4 len.toNat ++ leBytes 4 tsize.toNat ++
    leBytes 8 name.toNat ++ leBytes 16 0
  | _ => []

/-- Bits of an instruction's encoding: 32, 64, 256, 512, or 0 for an event. -/
def encodingBits (i : Instr) : Nat :=
  if encode32 i != 0 then 32 else if encode64 i != 0 then 64 else 8 * (encodeRecord i).length

/-- The bytes of a well-formed instruction in storage order (R2); none for an event. -/
def encode (i : Instr) : List Byte :=
  if encode32 i != 0 then leBytes 4 (encode32 i).toNat
  else if encode64 i != 0 then leBytes 8 (encode64 i).toNat
  else encodeRecord i

/-- The first of several decoders that accepts. -/
def firstOk : List (Except Reject Instr) → Option Instr
  | [] => none
  | .ok i :: _ => some i
  | .error _ :: r => firstOk r

/-- The instruction in a word numbered as the opcode table numbers it. The slots of a bundle share opcode values, so
one word can stand for one instruction in each of several slots: the order tried is SCB, CTL, MOV, Moraine for 32
bits, and VEA, MEM, ENG, micro-word for 64 (DESIGN CHOICE, log 1). -/
def decodeTableWord (nbits w : Nat) : Option Instr :=
  if nbits ≤ 32 then
    let x : W32 := BitVec.ofNat 32 w
    firstOk [decodeScb x, decodeCtl x, decodeMov x, decodeMoraine x]
  else if nbits ≤ 64 then
    let x : W64 := BitVec.ofNat 64 w
    firstOk [decodeVea x, decodeMem x, decodeEng x, decodeMicro x]
  else if nbits ≤ 256 then firstOk [decodeCommand (leBytes 32 w)]
  else firstOk [decodeDrift (leBytes 64 w)]

end Sys2Proof
end

