-- ==== Sys2Proof/Config.lean ====
section
/-! DEFINITION. What one part or its surroundings fix, and the free values: the spec gives no value for any of these, so
each is a constant that nothing in Lean can evaluate (log 4, log 7, log 8). -/

namespace Sys2Proof.Config

/-- The n-th value that the spec calls X after a detected error (R144, R213, R299, R393): any word (log 7). -/
opaque freeWord : Nat → BitVec 64
/-- The n-th row of lanes that the spec calls X (R213, R393): any lanes (log 7). -/
opaque freeRow : Nat → BitVec 512
/-- The n-th choice that the spec leaves to an arbiter or to the device (R200, R246, R258): any number (log 8). -/
opaque freeChoice : Nat → Nat

/-- Micro-words 0 to 255, which boot firmware holds: the spec gives none of them (R313, R324; log 9). -/
opaque libraryWord : Nat → BitVec 64

/-- STEP of DEVINFO (R414). -/
opaque stepping : BitVec 8
/-- XLATVER of a firmware object, less 1 and modulo 4,095 (R414). -/
opaque xlatVer : List (BitVec 8) → Nat
/-- DEVID: the device's number in its panel (R119). -/
opaque devId : BitVec 6
/-- The torus coordinates of the panel (R118, R369). -/
opaque torusX : BitVec 4
opaque torusY : BitVec 4
/-- Whether the torus holds a device of another panel (R372). -/
opaque torusHolds : Nat → Bool
/-- The Node item that a ring hop between two devices appends when its torus link is down: the panel that it detours through
and the plane there (R382). -/
opaque detourNode : Nat → Nat → Nat

/-- The secrets of the device identity key: its P-384 scalar, and of its LMS key the name I and the start of each chain of each
one-time key (R416; log 10). -/
opaque identityScalar : Nat
opaque identityLmsName : BitVec 128
opaque identityLmsStart : Nat → Nat → BitVec 256
/-- What the key takes anew for each signature: the number of an ECDSA signature, and the one-time key and the randomizer of an
LMS signature (R416; log 10). -/
opaque identityNonce : List (BitVec 8) → Nat
opaque identityLeaf : List (BitVec 8) → Nat
opaque identityRandom : List (BitVec 8) → BitVec 256
/-- The two vendor public keys, whose digests are fused at manufacture: P-384 and LMS, in the layouts of R415 (R413; log 10). -/
opaque vendorEc : List (BitVec 8)
opaque vendorLms : List (BitVec 8)

/-- The virtual base that the loader chooses for a region, the DPA behind it, and the DPA of a table that it adds, each for
the n-th choice (R110; log 8). -/
opaque placeVa : Nat → Nat
opaque placeDpa : Nat → Nat
opaque placeTable : Nat → Nat

/-- Lanes per group, groups per context, cores of the mesh (R6, R12, R151). -/
def lanesPerGroup : Nat := 16
def groupsPerContext : Nat := 8
def meshWidth : Nat := 32
def meshHeight : Nat := 16
def cores : Nat := 512

/-- The memory map (R47). -/
def hbmEnd : Nat := 0x008000000000
def firnBase : Nat := 0x008000000000
def firnEnd : Nat := 0x008008000000
def windowBase : Nat := 0x008010000000
def windowEnd : Nat := 0x008010400000
def regsBase : Nat := 0x008100000000
def regsEnd : Nat := 0x008101000000
def remoteBase : Nat := 0x400000000000
def remoteEnd : Nat := 0x800000000000
def apertureBase : Nat := 0x800000000000
def apertureEnd : Nat := 0x810000000000

/-- Device registers (R44, R254, R351, R365, R367, R369, R376, R399, R402, R407, R414, R421, R424). -/
def devinfoDpa : Nat := 0x008100000000
def retiredMapDpa : Nat := 0x008100000040
def nameTableDpa : Nat := 0x008100100000
def msumAddrDpa : Nat := 0x008100200000
def windowsDpa : Nat := 0x008100280000
def exposureDpa : Nat := 0x008100290000
def aprxDpa : Nat := 0x0081002A0000
def groupTableDpa : Nat := 0x008100300000
def countersDpa : Nat := 0x008100400000
def countersEnd : Nat := 0x008100408000
def xlatCtxDpa : Nat := 0x008100500000
def xinvDpa : Nat := 0x008100600000
def mailboxDpa : Nat := 0x008100700000
def controlDpa : Nat := 0x008100800000
def eventLogDpa : Nat := 0x008100A00000
def eventLogEnd : Nat := 0x008100C00000

/-- MCLK, the rate of the Moraine units, in MHz (R17). -/
def mclkMhz : Nat := 1000

/-- A time limit of R243 and the default lifetime of R256, in µs. -/
def rotLimit : Nat := 1000
def defaultLife : Nat := 1000

end Sys2Proof.Config
end

