-- ==== Sys2Proof/Machine/Event.lean ====
section
/-! DEFINITION. The events of the opcode table as data of the state. -/

namespace Sys2Proof.Machine

open Sys2Proof

/-- An event of the opcode table that is due or scheduled: the same names and arguments as the constructors of Instr,
whose docstrings say what each is. A type of its own because the state holds events as plain data. -/
inductive Event where
  | mailboxWake (unit : Nat)
  | trigSatisfied (unit : Nat)
  | moraineLimitExpiry (unit : Nat)
  | joinComplete (blk : Nat)
  | blockStart (unit : Nat)
  | msubCompletion (blk : Nat)
  | ringSlotTransfer (msg : Nat)
  | driftEntryCompletion (ent : Nat)
  | driftRetry (ent : Nat)
  | darmCompletion (lst : Nat)
  | driftCounterAccess (acc : CounterAcc) (ctr : Nat) (val : BitVec 64)
  | multicastLine (put : Nat)
  | reduceContribution (member : Nat) (grp : Nat) (off : Nat) (line : List (BitVec 8))
  | apertureLoad (core : Nat) (ctx : Nat) (va : BitVec 64)
  | peerAccess (acc : PeerAcc) (dpa : Nat) (len : Nat) (data : List (BitVec 8))
  | peerIsolation (peer : Nat) (byReset : Bool)
  | linkFailure (link : Nat)
  | linkRetrain (link : Nat) (near : Beat) (far : Beat)
  | emptyBundle
  | resultLanding
  | sfuResultLanding
  | declaredLoadLanding
  | loadDataArrival (core : Nat) (ctx : Nat) (slot : Nat) (grp : Nat)
  | ldsDataReturn (core : Nat) (ctx : Nat)
  | stsErrorResponse (core : Nat) (ctx : Nat) (cause : Nat) (va : BitVec 64)
  | trapEntry (cause : Nat) (info : BitVec 64)
  | fairnessSwitch (core : Nat)
  | priorityTakeover (core : Nat)
  | normalResume (core : Nat)
  | launchRecordCopy (slot : Nat)
  | countBlockRead (lnch : Nat)
  | reservationRound (lnch : Nat)
  | reserve (lnch : Nat) (core : Nat)
  | commit (lnch : Nat)
  | release (lnch : Nat)
  | backoffExpiry (lnch : Nat)
  | tileTaskStart (core : Nat) (ctx : Nat)
  | launchCompletion (lnch : Nat)
  | copyCompletion (core : Nat) (ent : Nat)
  | barrierDelivered (core : Nat) (ent : Nat)
  | rotqExchange (lnch : Nat) (quad : Nat)
  | rotTimeout (lnch : Nat) (quad : Nat)
  | atomApply (req : Nat)
  | redApply (req : Nat)
  | routerRedMerge (reqA : Nat) (reqB : Nat)
  | redHoldExpiry (req : Nat)
  | barrierInit (req : Nat)
  | barrierArrive (req : Nat)
  | barrierWaitArrival (req : Nat)
  | btwaitTimeout (req : Nat)
  | interestArrival (pkt : Nat)
  | interestAdmit (router : Nat)
  | interestExpiry (router : Nat)
  | announcementArrival (pkt : Nat)
  | tileArrival (pkt : Nat)
  | sealArrival (pkt : Nat)
  | flushhCompletion (req : Nat)
  | routineStart (core : Nat) (arr : Nat)
  | routineSuspend (core : Nat) (arr : Nat)
  | routineResume (core : Nat) (arr : Nat)
  | gatherFill (core : Nat) (arr : Nat)
  | sdrainCompletion (core : Nat) (arr : Nat)
  | smloadWrite (req : Nat)
  | seracDataError (core : Nat) (arr : Nat)
  | checkpointCommit (core : Nat) (ctx : Nat)
  | rollback (core : Nat) (ctx : Nat)
  | rerunCompare (core : Nat) (ctx : Nat)
  | translationWalk (asid : Nat) (va : BitVec 64)
  | xinvInvalidate
  | invalidationComplete
  | evict (core : Nat)
  | restore (core : Nat)
  | controlStatusRead (core : Nat)
  | hostCxlWrite (dpa : Nat) (data : List (BitVec 8))
  | hostCxlRead (dpa : Nat) (len : Nat)
  | registerWrite (dpa : Nat) (data : List (BitVec 8))
  | loadRequest (slot : Nat)
  | unloadRequest (slot : Nat)
  | cancel
  | retire
  | linkup
  | reinstate
  | powercap
  | fwupdate
  | fwconfirm
  | keycmd
  | attest
  | idkey
  | reset (cold : Bool)
  | scrubDone
  | marginStep (core : Nat)
  | replan (mhz : Nat)
  | powerCapStep (watts : Nat) (junction : Nat) (inlet : Bool)
  | thermalTrip (junction : Nat)
  | cap4Off (core : Nat) (arr : Nat)
  deriving DecidableEq, Repr

end Sys2Proof.Machine
end

