-- ==== Sys2Proof/Machine/Table.lean ====
section
/-! DEFINITION. Sparse tables in one canonical form: keys strictly rising, no entry equal to the default. -/

namespace Sys2Proof.Machine

/-- The value at a key; the default where the table lists none. -/
def tget {α : Type} (d : α) : Tbl α → Nat → α
  | [], _ => d
  | (k, v) :: r, j => if j = k then v else tget d r j

/-- Put an entry in its place. -/
def tset {α : Type} : Tbl α → Nat → α → Tbl α
  | [], j, v => [(j, v)]
  | (k, w) :: r, j, v =>
    if j < k then (j, v) :: (k, w) :: r
    else if j = k then (j, v) :: r
    else (k, w) :: tset r j v

/-- Remove the entry of a key. -/
def tdel {α : Type} (t : Tbl α) (j : Nat) : Tbl α := t.filter (fun p => p.1 != j)

/-- Write a value: the default is not listed. -/
def tput {α : Type} [DecidableEq α] (d : α) (t : Tbl α) (j : Nat) (v : α) : Tbl α :=
  if v = d then tdel t j else tset t j v

/-- A key is listed. -/
def tmem {α : Type} (t : Tbl α) (j : Nat) : Bool := t.any (fun p => p.1 == j)

/-- The entry of a key, if listed. -/
def tfind {α : Type} : Tbl α → Nat → Option α
  | [], _ => none
  | (k, v) :: r, j => if j = k then some v else tfind r j

/-- The least number that is no key of the table, trying from n, with fuel. -/
def tfreeFrom {α : Type} (t : Tbl α) : Nat → Nat → Nat
  | 0, n => n
  | fuel + 1, n => if tmem t n then tfreeFrom t fuel (n + 1) else n

/-- The least number that is no key of the table. -/
def tfree {α : Type} (t : Tbl α) : Nat := tfreeFrom t t.length 0

/-- Keys strictly rising. -/
def tsorted {α : Type} : Tbl α → Bool
  | [] => true
  | [_] => true
  | p :: q :: r => decide (p.1 < q.1) && tsorted (q :: r)

/-- The canonical form of a table with a default. -/
def twf {α : Type} [DecidableEq α] (d : α) (t : Tbl α) : Bool := tsorted t && t.all (fun p => p.2 != d)

/-! Byte tables: an unlisted byte reads as 0. -/

/-- n bytes from an address. -/
def readBytes (t : Tbl Byte) (a : Nat) : Nat → List Byte
  | 0 => []
  | n + 1 => tget 0 t a :: readBytes t (a + 1) n

/-- Write bytes from an address, lowest first. -/
def writeBytes (t : Tbl Byte) (a : Nat) : List Byte → Tbl Byte
  | [] => t
  | b :: bs => writeBytes (tput 0 t a b) (a + 1) bs

/-! Little-endian numbers (R2). -/

/-- The value of bytes, lowest first. -/
def natOfBytes : List Byte → Nat
  | [] => 0
  | b :: bs => b.toNat + 256 * natOfBytes bs

/-- The n low bytes of a number, lowest first. -/
def bytesOfNat : Nat → Nat → List Byte
  | 0, _ => []
  | n + 1, v => BitVec.ofNat 8 v :: bytesOfNat n (v / 256)

/-- A little-endian number of n bytes at an address. -/
def readNat (t : Tbl Byte) (a n : Nat) : Nat := natOfBytes (readBytes t a n)

/-- Write a little-endian number of n bytes. -/
def writeNat (t : Tbl Byte) (a n v : Nat) : Tbl Byte := writeBytes t a (bytesOfNat n v)

/-! Vector rows: 16 lanes of 32 bits. -/

/-- Lane l of a row. -/
def lane (r : BitVec 512) (l : Nat) : W32 := r.extractLsb' (32 * l) 32

/-- The number whose 32-bit digits are f 0 to f (n - 1). -/
def lanesNat (f : Nat → W32) : Nat → Nat
  | 0 => 0
  | n + 1 => lanesNat f n + (f n).toNat * 2 ^ (32 * n)

/-- The row whose lane l is f l. -/
def rowOf (f : Nat → W32) : BitVec 512 := BitVec.ofNat 512 (lanesNat f 16)

/-- A 16-bit mask whose bit l is f l. -/
def maskOf (f : Nat → Bool) : BitVec 16 :=
  BitVec.ofNat 16 ((List.range 16).foldl (fun n l => if f l then n + 2 ^ l else n) 0)

end Sys2Proof.Machine
end

