-- ==== Sys2Proof/Machine/CoreState.lean ====
section
/-! DEFINITION. The state of a context: what its save image holds, and what the core keeps beside it. -/

namespace Sys2Proof.Machine

/-- An entry of a translation cache (R406). -/
structure TlbEnt where
  asid : BitVec 16
  /-- VA divided by the page size. -/
  vpn : Nat
  /-- log2 of the page size: 16, 21 or 30. -/
  bits : Nat
  dpa : Nat
  perm : BitVec 3
  deriving DecidableEq, Repr

/-- Why a translation fails: KIND and LEVEL of R394. -/
structure XFault where
  kind : Nat
  level : Nat
  deriving DecidableEq, Repr

/-- The outcome of a walk for a context whose bundle is held for it: the page number VA[56:16], and the page or the fault
(R406). -/
structure Walked where
  page : Nat
  out : Except XFault TlbEnt
  deriving DecidableEq, Repr

/-- What comes back for a group of a declared-latency load (R215, R218). -/
inductive Arrival where
  /-- Its data. -/
  | ok
  /-- No data; the cause of R218 (2 XLATE, 3 UE, 4 PEER_DOWN, 5 PREEMPT). -/
  | bad (cause : Nat)
  /-- Its words have not been read yet (R59, R224). -/
  | unread
  deriving DecidableEq, Repr

/-- Where a landing entry writes (R156). -/
inductive LandDest where
  | vec (reg : Nat) | pair (reg : Nat) | mask (k : Nat) | scal (s : Nat) | hnd (h : Nat) | sfy
  deriving DecidableEq, Repr

/-- The part of a landing entry for one group: lane activity, data (two rows for a pair; mask bits in lane bit 0), the
flags it raises (a group byte of VFLAGS, R158), and for a declared-latency load what its home answered and whether the
answer is still on its way, which makes it LATE at the landing (R156, R215). -/
structure GroupLand where
  grp : Nat
  act : BitVec 16
  lo : BitVec 512
  hi : BitVec 512
  flags : BitVec 8
  arr : Arrival
  late : Bool
  deriving DecidableEq, Repr

/-- A landing-buffer entry (R156). count is the number of bundles still to issue before the one in which it lands: 0
lands in the next bundle. -/
structure Landing where
  count : Nat
  dest : LandDest
  groups : List GroupLand
  value : W256
  /-- The replay slot of a declared-latency load. -/
  slot : Option Nat
  deriving DecidableEq, Repr

/-- A replay slot in use (R214, R218). -/
structure RSlot where
  hnd : W256
  /-- The scalar index with the offset added. -/
  idx : W64
  /-- Lane activity of g0 to g7. -/
  act : List (BitVec 16)
  grps : BitVec 8
  dst : Nat
  lat : Nat
  remote : Bool
  cause : Nat
  pgrp : BitVec 8
  /-- A load of the slot is in flight. -/
  flying : Bool
  deriving DecidableEq, Repr

/-- A slot of a result queue: reserved, or filled with an entry (R238). The id tells the command that holds it; seq is
its ISEQ (R239). -/
structure QSlot where
  id : Nat
  seq : Nat
  entry : Option W64
  deriving DecidableEq, Repr

/-- The loop state: counts, starts, lasts, and the active levels in the order activated (R120, R124). -/
structure LoopSt where
  lc : Tbl W64
  start : Tbl W64
  last : Tbl W64
  order : List Nat
  deriving DecidableEq, Repr

/-- No level active. -/
def LoopSt.none : LoopSt := { lc := [], start := [], last := [], order := [] }

/-- What trap entry holds until ERET (R138). -/
structure Held where
  landing : List Landing
  loops : LoopSt
  runLeft : Nat
  /-- The address at which the interrupted code goes on, unless the handler writes TRAP_PC (R67). -/
  pc : W64
  deriving DecidableEq, Repr

/-- The control core's registers of a context (R113 to R121, R394). -/
structure CtlSt where
  scal : Tbl W64
  hnd : Tbl W256
  sem : Tbl (BitVec 16)
  loops : LoopSt
  runLeft : Nat
  trapVec : W64
  trapPc : W64
  trapCause : W64
  trapInfo : W64
  replayVec : W64
  active : Bool
  held : Option Held
  ckptPc : W64
  smemErr : W64
  xlateInfo : W64
  bcount : W64
  pc : W64
  deriving DecidableEq, Repr

/-- The vector engine's state of a context (R151, R158 to R160, R201, R214). Registers and poison are keyed by 64 × group +
register, masks by 8 × group + mask, ports by group; a poisoned register is listed with the replay slot that poisoned
it. A Frazil generator not listed has the state that its seed word gives (R168). -/
structure VecSt where
  vreg : Tbl (BitVec 512)
  mask : Tbl (BitVec 16)
  poison : Tbl Nat
  frazil : Tbl W32
  seedLanes : W32
  seedSerac : W32
  vflags : W64
  ftz : Bool
  intfmt : BitVec 16
  /-- SINTF values not yet in force, with the bundles still to issue before they are (R160). -/
  intPend : List (Nat × BitVec 16)
  sfA : Tbl (BitVec 512)
  sfB : Tbl (BitVec 512)
  sfY : Tbl (BitVec 512)
  landing : List Landing
  replay : Tbl RSlot
  replaySel : Nat
  deriving DecidableEq, Repr

/-- The Serac registers of a context (R309, R282, R291). -/
structure SerSt where
  mp : Tbl W64
  spair : BitVec 24
  dirty : BitVec 4
  stale : BitVec 4
  sflags : BitVec 32
  deriving DecidableEq, Repr

/-- The result queues of a context, by the code of R207, and the counters of reported commands (R238, R239). -/
structure QueueSt where
  q : Tbl (List QSlot)
  seq : Tbl Nat
  /-- The next slot id of each queue. -/
  nextId : Tbl Nat
  deriving DecidableEq, Repr

/-- Causes taken before the next bundle (R392): MCHK and SDATA with their TRAP_INFO, and the lowest saturated
semaphore. -/
structure PendSt where
  mchk : Option W64
  sdata : Option W64
  semovf : Option Nat
  /-- An SDATA that a machine check came before: due again after ERET (R392; DEDUCED, log 14). -/
  after : Option W64
  deriving DecidableEq, Repr

/-- The context state that an eviction saves and a rollback restores (R395 to R398). -/
structure Arch where
  c : CtlSt
  v : VecSt
  r : SerSt
  q : QueueSt
  p : PendSt
  deriving DecidableEq, Repr

/-- What a context knows of its launch (R27, R32, R33, R118). -/
structure LaunchEnv where
  lid : Nat
  asid : BitVec 16
  lsneed : Nat
  ox : Nat
  oy : Nat
  w : Nat
  h : Nat
  gx : Nat
  gy : Nat
  gz : Nat
  param : W64
  guard : Bool
  prio : Bool
  /-- The launch's regions: virtual base, size, KIND, SYNC (R48). -/
  regions : List (Nat × Nat × Nat × Nat)
  /-- The entry bundle of a tile task (R27). -/
  entry : W64
  /-- The 16 KiB units of the local store behind the share, in order (R234). -/
  umap : List Nat
  /-- The launch handle that each tile task finds in h0 (R37). -/
  h0 : W256
  deriving DecidableEq, Repr

/-- Effects due after the bundle (R68, R129, R137 to R140, R201, R210, R212, R314). -/
inductive Post where
  | semAdd (sem val : Nat)
  | sysWrite (sys : Nat) (val : W64)
  | port (op : Bool) (grp : Nat) (row : BitVec 512)
  | lsWrites (ws : List (Nat × W32))
  | seed (lanes serac : Bool) (s : W32)
  | ckptPc (a : W64)
  | commit
  | trap (code : Nat)
  | eret
  | halt
  | yield
  | lbrk
  | skip (last : W64)
  deriving DecidableEq, Repr

/-- The bundle under issue: the address of its header, the fetch address after it (F of R122), the next bundle's
address, whether a transfer is taken (and whether it can leave loops, R127), what the ENG slot of the bundle needs of
semaphores (R129), the VFLAGS bits landed in it (R158), whether the causes of R39 and R390 have been tested for the
bundle as a whole (R68), and the effects due after it. -/
structure Issue where
  addr : W64
  fall : W64
  next : W64
  taken : Bool
  leaves : Bool
  need : List (Nat × Nat)
  raised : W64
  checked : Bool
  /-- ACLK that the bundle takes (R40). -/
  aclk : Nat
  post : List Post
  deriving DecidableEq, Repr

/-- No bundle under issue. -/
def Issue.idle : Issue :=
  { addr := 0, fall := 0, next := 0, taken := false, leaves := false, need := [], raised := 0, checked := false, aclk := 0, post := [] }

/-- An LDS that has issued and not returned (R114, R143). -/
structure LdsOut where
  dst : Nat
  /-- Its virtual address and size code. -/
  va : W64
  sz : BitVec 3
  /-- The results in flight that stand before its own in issue order (R71). -/
  pos : Nat
  /-- The value read, or the error response of R144 that came instead. -/
  result : Except Nat W64
  deriving DecidableEq, Repr

/-- A data-free interest that an ACQ placed, or an object it waits on, and its outcome (R133). -/
structure AcqWait where
  /-- KIND, the name or the address, the target or the phase of a latch or a barrier, and the flight that waits at the home or
  carries the interest. -/
  kind : Nat
  name : W64
  target : W64
  id : Nat
  status : Option Nat
  deriving DecidableEq, Repr

/-- An outbound effect held by a guarded segment (R300). -/
inductive HeldEff where
  /-- Bytes to store at a virtual address (STS). -/
  | store (va : W64) (bytes : List Byte)
  /-- A slot instruction that is sent at the commit, with the operands it took at issue (VRED, REL, ENG commands), and a command's number. -/
  | send (num : Nat) (i : Instr) (scal : Tbl W64) (hnd : Tbl W256) (vreg : Tbl (BitVec 512)) (mask : Tbl (BitVec 16)) (qid : Option Nat)
  deriving DecidableEq, Repr

/-- What entered a guarded context from outside the core (R300). -/
inductive Input where
  /-- A signal of a semaphore, and the fill of a reserved queue slot: what WAIT, WAITP, wait fields and POP then find. -/
  | signal (sem inc : Nat)
  | fill (queue id : Nat) (v : W64)
  /-- The value that an LDS returned. -/
  | lds (v : W64)
  /-- What an MFS of ACYCLE or WALLUS read. -/
  | mfs (v : W64)
  /-- The lanes of one group of a declared-latency load as they landed: the cause 0 for data, else of R218. -/
  | load (slot grp : Nat) (cause : Nat) (row : BitVec 512)
  /-- An ATOM or a VATOM has been sent: a rerun does not send it again (R303). -/
  | sent
  deriving DecidableEq, Repr

/-- An input and the bundle count at which it entered (R300). -/
structure Record where
  at' : W64
  what : Input
  deriving DecidableEq, Repr

/-- The segment of a guarded launch's context (R300 to R303). -/
structure Guard where
  /-- Outbound effects held until the next commit, in issue order. -/
  hold : List HeldEff
  /-- Bytes of the hold buffer and of the journal and record in use (R300). -/
  holdUsed : Nat
  journalUsed : Nat
  /-- Pre-images: the physical offset of a local-store chunk, and its 32 bytes at its first write of the segment. -/
  journal : Tbl (List Byte)
  record : List Record
  /-- The context state of the last commit or of the tile task's entry, and the tile. -/
  point : Option Arch
  tile : Option (Nat × Nat × Nat)
  /-- The run of the segment: 0 the first, 1 and 2 the reruns after an error (R303). -/
  rerun : Nat
  /-- Records still to replay in a rerun. -/
  replayLeft : List Record
  /-- ACLK of issue held in this run. -/
  aclk : Nat
  /-- What the first rerun ended with: its ACLK, and the CRC-32C of its held effects and journaled chunks (R303). -/
  firstAclk : Nat
  firstCrc : W32
  /-- A commit is due, and the context does not issue before it (R301, R302). -/
  commitDue : Bool
  deriving DecidableEq, Repr

/-- An empty segment with no commit yet. -/
def Guard.none : Guard :=
  { hold := [], holdUsed := 0, journalUsed := 0, journal := [], record := [], point := .none, tile := .none, rerun := 0,
    replayLeft := [], aclk := 0, firstAclk := 0, firstCrc := 0, commitDue := false }

end Sys2Proof.Machine
end

