-- ==== Sys2Proof/Machine/EngineState.lean ====
section
/-! DEFINITION. The state of a core: its contexts, its Serac arrays, its copy engine, its local store. -/

namespace Sys2Proof.Machine

/-- A command queued at an array, with what it copied at issue (R307, R312). -/
structure ArrCmd where
  /-- The SCALL or SDRAIN. -/
  op : Nat
  eng : EngArgs
  lid : Nat
  /-- Issued by the shadow context: plane set 1 (R295). -/
  shadow : Bool
  qid : Nat
  mp : Tbl W64
  pair : BitVec 6
  ftz : Bool
  intfmt : BitVec 16
  deriving DecidableEq, Repr

/-- A row of the gather latch: 48 bytes and its scale codes (R293). -/
structure LatchRow where
  row : List Byte
  scales : List Byte
  deriving DecidableEq, Repr

/-- The gather unit armed by SGATH: rows still to read, and the latch (R293, R321). -/
structure Gather where
  idxAddr : Nat
  left : Nat
  base : W64
  rstr : Nat
  sbase : W64
  sstr : Nat
  latch : List LatchRow
  deriving DecidableEq, Repr

/-- A micro loop that is active (R322). -/
structure MicroLoop where
  lvl : Nat
  start : Nat
  last : Nat
  left : Nat
  deriving DecidableEq, Repr

/-- The micro-state of a routine (R297). -/
structure Routine where
  cmd : ArrCmd
  /-- The next micro-word's address; for a library routine, the number of rows done (R324). -/
  pc : Nat
  /-- A library routine of entries 0 to 4, by its index (R324). -/
  lib : Option Nat
  mp : Tbl W64
  loops : List MicroLoop
  gather : Option Gather
  steps : Nat
  sinceYield : Nat
  flags : BitVec 8
  /-- It stands at a yield point (R296). -/
  atYield : Bool
  deriving DecidableEq, Repr

/-- One hardware context (R39). -/
structure Ctx where
  /-- The launch that holds the context; none when it is free. -/
  env : Option LaunchEnv
  /-- The tile of the tile task that it runs (R36). -/
  tile : Option (Nat × Nat × Nat)
  /-- The tile that the context starts next (R36). -/
  next : Option (Nat × Nat × Nat)
  a : Arch
  iss : Issue
  lds : Option LdsOut
  acq : Option AcqWait
  guard : Guard
  /-- The context was found blocked at its last test (R39). -/
  blocked : Bool
  /-- ACLK that it has been ready without issuing (R40). -/
  waited : Nat
  /-- Outcomes of walks that its held bundle has waited for (R406). -/
  walked : List Walked
  /-- While the context is evicted: its routines by array, and its commands that had not started (R298). -/
  routines : Tbl Routine
  pendCmds : List (Nat × ArrCmd)
  deriving DecidableEq, Repr

/-- A plane set (R282). W byte b of row i stands at 48i + b, the scale of block (b, c) at 3b + c or 6b + c, G[i][j] at
48i + j, and column c of accumulator row r at Nr + c (log 18). A scale not listed is 0x7F. -/
structure Plane where
  w : Tbl Byte
  wscale : Tbl Byte
  g : Tbl W32
  acc : Tbl W32
  /-- The launch that last wrote the set (R295). -/
  lastLid : Nat
  deriving DecidableEq, Repr

/-- A plane set zeroed (R295), which is what the model takes at cold reset (log 2). -/
def Plane.reset : Plane := { w := [], wscale := [], g := [], acc := [], lastLid := 0 }

/-- One Serac array (R282). -/
structure Arr where
  p0 : Plane
  p1 : Plane
  /-- The launch whose context owns plane set 0. -/
  owner : Option Nat
  snapv : Bool
  cap4 : Bool
  susp : Option Routine
  run : Option Routine
  queue : List ArrCmd
  /-- Steps run, as ACLK of the time that has passed (the model's own; log 5). -/
  clock : W64
  deriving DecidableEq, Repr

/-- An array at cold reset (R282, log 3). -/
def Arr.reset : Arr :=
  { p0 := .reset, p1 := .reset, owner := none, snapv := false, cap4 := true, susp := none, run := none, queue := [], clock := 0 }

/-- An entry of the copy table, with what its command copied at issue (R240, R267, R269). -/
structure CopyEnt where
  /-- The command's number (R50). -/
  num : Nat
  /-- COPY 1, COPYS 2, ROTQ 3: the ENG opcode. -/
  op : Nat
  eng : EngArgs
  lid : Nat
  /-- The context is the shadow context. -/
  shadow : Bool
  hs : W256
  hd : W256
  barrier : W64
  st : W64
  qid : Nat
  /-- The status and the detail of the copy once its bytes have moved (R241). -/
  moved : Option (Nat × Nat)
  /-- Lines of reduce groups whose acknowledgement it awaits: group, offset and virtual address (R378). -/
  acks : List (Nat × Nat × W64)
  /-- Barrier decrements of lines written that have not reached their home: bytes of each line, in order (R251). -/
  delivers : List Nat
  /-- It has completed, and only decrements are left. -/
  ended : Bool
  deriving DecidableEq, Repr

/-- A parking record of an evicted context (R401), with the context as it was saved: what the variable records of its
image hold, and what the core keeps beside the image (R398). -/
structure Parking where
  lid : Nat
  ctx : Ctx
  deltas : Tbl (BitVec 16)
  /-- Completions that fill reserved queue slots: queue, slot id, entry. -/
  fills : List (Nat × Nat × W64)
  deriving DecidableEq, Repr

/-- One core (R15, R39). -/
structure Core where
  /-- Contexts 0 to 4; from 5 on, what is left of launches that held the shadow context, until they complete (R41). -/
  ctxs : Tbl Ctx
  /-- The normal context that holds the issue slot. -/
  run : Nat
  /-- Normal contexts are frozen (R41). -/
  frozen : Bool
  /-- Bundles issued and ACLK held by the running context since it began issuing (R40). -/
  issued : Nat
  heldAclk : Nat
  /-- Restored contexts that have not issued since, in the order restored: last in the rotation (R401). -/
  late : List Nat
  /-- Bundles that normal contexts may still issue after a YIELD of the shadow context (R41). -/
  shYield : Nat
  acycle : W64
  ls : Tbl Byte
  /-- 32-byte chunks that hold an uncorrectable error (R236). -/
  lsUe : Tbl Bool
  /-- The launch that holds each 16 KiB unit; 0 for a free unit (R234, R235). -/
  units : Tbl Nat
  copies : Tbl CopyEnt
  arrays : Tbl Arr
  micro : Tbl W64
  rtab : Tbl (BitVec 16)
  /-- The control block (R399). -/
  evCtx : Nat
  evImage : W64
  evStatus : Nat
  evCmd : Nat
  /-- The context had an LDS outstanding when the EVICT under way was given (R400). -/
  evLds : Bool
  parking : List Parking
  tlb : List TlbEnt
  /-- Reservation grants made and not committed: launch reference and bytes (R32). -/
  grants : List (Nat × Nat)
  deriving DecidableEq, Repr

/-- The registers of a context at cold reset (R8, R118; log 2 for the values that the spec leaves open). -/
def Arch.reset : Arch :=
  { c := { scal := [], hnd := [], sem := [], loops := .none, runLeft := 0, trapVec := 0, trapPc := 0, trapCause := 0,
           trapInfo := 0, replayVec := 0, active := false, held := none, ckptPc := 0, smemErr := 0, xlateInfo := 0,
           bcount := 0, pc := 0 }
    v := { vreg := [], mask := [], poison := [], frazil := [], seedLanes := 0, seedSerac := 0, vflags := 0, ftz := false,
           intfmt := 0x1010, intPend := [], sfA := [], sfB := [], sfY := [], landing := [], replay := [], replaySel := 0 }
    r := { mp := [], spair := 0, dirty := 0, stale := 0, sflags := 0 }
    q := { q := [], seq := [], nextId := [] }
    p := { mchk := none, sdata := none, semovf := none, after := none } }

/-- A free context. -/
def Ctx.reset : Ctx :=
  { env := none, tile := none, next := none, a := .reset, iss := .idle, lds := none, acq := none, guard := .none, blocked := false,
    waited := 0, walked := [], routines := [], pendCmds := [] }

/-- A core at cold reset. -/
def Core.reset : Core :=
  { ctxs := [], run := 0, frozen := false, issued := 0, heldAclk := 0, late := [], shYield := 0, acycle := 0, ls := [], lsUe := [],
    units := [], copies := [], arrays := [], micro := [], rtab := [], evCtx := 0, evImage := 0, evStatus := 0, evCmd := 0, evLds := false,
    parking := [], tlb := [], grants := [] }

end Sys2Proof.Machine
end

