-- ==== Sys2Proof/Machine/FabricState.lean ====
section
/-! DEFINITION. Requests on their way to a home, and the routers' named data (R245 to R261). -/

namespace Sys2Proof.Machine

/-- The context that a request answers to: its core and its launch, whichever hardware context or parking record holds
the launch there (R242, R401). -/
structure Origin where
  core : Nat
  lid : Nat
  shadow : Bool
  /-- The number of the command among all that were issued; 0 for what a context does itself (R50). -/
  cmd : Nat
  deriving DecidableEq, Repr

/-- The signal field and release flag that a command applies at completion (R55, R263). -/
structure Signal where
  sem : Nat
  inc : Nat
  rel : Bool
  scope : Nat
  deriving DecidableEq, Repr

/-- Who performs accesses (R50): each command, by its number, is an agent of its own. -/
inductive Agent where
  | ctx (core lid : Nat)
  | cmd (core lid n : Nat)
  | unit (u : Nat)
  | drift
  | launcher (die : Nat)
  /-- Another device, by its TDEV. -/
  | peer (dev : Nat)
  | host
  deriving DecidableEq, Repr

/-- What a release and an acquire meet on (R51, R52): a latch or a barrier by its DPA, a name, a semaphore or a result-queue
slot of a launch's context on a core, a Drift counter of a device, and the arming of a Drift list; and the completion of a
command, by the semaphore or the slot through which its context observes it (R50). -/
inductive SyncObj where
  | latch (dpa : Nat)
  | barrier (dpa : Nat)
  | name (n : W64)
  | sem (core lid sem : Nat)
  | slot (core lid queue id : Nat)
  | ctr (dev c : Nat)
  | list (n : Nat)
  | doneSem (core lid sem : Nat)
  | doneSlot (core lid queue id : Nat)
  deriving DecidableEq, Repr

/-- A write of a byte that some agent has not seen yet: its place in the coherence order, what the byte holds after it and
whether its granule holds an uncorrectable error then, whether it came through the panel edge (R47, R54), its writers and the
agents that have acquired it, and the releases that cover it with their scope and agent (R51 to R57). -/
structure Unseen where
  seq : Nat
  byte : Byte
  bad : Bool
  edge : Bool
  writers : List Agent
  holders : List Agent
  released : List (SyncObj × Nat × Agent)
  deriving DecidableEq, Repr

/-- An agent that does not see a byte of a device as its home holds it: what it sees, or that it meets an uncorrectable error
there, and the writes that have not reached it, oldest first (R53, R57; log 6). -/
structure Lag where
  agent : Agent
  dev : Nat
  at' : Nat
  seen : Byte
  bad : Bool
  unseen : List Unseen
  deriving DecidableEq, Repr

/-- A reduction's command: who issued it and at which address, its signal, and for a lane of a VRED the flight that gathers
its errors and the lane's place (R220, R247, R248). -/
structure RedWho where
  org : Origin
  va : W64
  sig : Option Signal
  vred : Option (Nat × Nat)
  deriving DecidableEq, Repr

/-- A place where an error of a stored bit shows (R236, R246, R299, R349, R393, R424): the local store of a core by physical
offset, memory by DPA, an array's accumulators, memory read by a Moraine unit, and a context's own state by SRC and UNIT. -/
inductive Cell where
  | own (core ctx src grp : Nat)
  | ls (core off : Nat)
  | mem (dpa : Nat)
  | acc (core arr : Nat)
  | stream (unit dpa : Nat)
  deriving DecidableEq, Repr

/-- A request in flight from a context to a home (R246 to R252, R272), or a command that another unit carries. -/
inductive Flight where
  /-- An ATOM: its word, operation (R270) and operands, and its q.mem slot. -/
  | atom (org : Origin) (va : W64) (dpa width aop : Nat) (v c : W64) (qid : Nat) (sig : Signal)
  /-- One VATOM: the lanes still to apply, in (group, lane) order: address, operand, entry and half (R220, R221). -/
  | vatom (org : Origin) (aop : Nat) (lanes : List (W64 × Nat × W32 × Nat × Nat)) (qids : List Nat)
  /-- A RED or one lane of a VRED, with the commands it stands for after merging (R247, R248). -/
  | red (dpa width aop : Nat) (v : W64) (who : List RedWho) (held : Bool)
  /-- A VRED whose lanes are not all applied: the lanes still to apply, and those that failed: place, address, cause (R220). -/
  | vred (org : Origin) (left : Nat) (bad : List (Nat × W64 × Nat))
  /-- A BINIT: count and subgroup fields (R271). -/
  | binit (org : Origin) (addr : Nat) (n : Nat) (sg : Option (Nat × Nat × Nat × Nat)) (qid : Nat) (sig : Signal)
  /-- A BARR or BARRX: the bytes it adds, signed (R271). -/
  | barr (org : Origin) (addr : Nat) (op : Nat) (b : Int) (qid : Nat) (sig : Signal)
  /-- A BWAIT or BTWAIT; the time limit as WALLUS, if any; whether it tests once (LIM 0); GEN of its last test, once
  arrived at the home (R272). -/
  | bwait (org : Origin) (addr : Nat) (op : Nat) (ph : Bool) (limit : Option Nat) (once : Bool) (gen : Option Nat) (qid : Nat) (sig : Signal)
  /-- An ASK in the routers (R264). -/
  | ask (org : Origin) (hd : W256) (expiry : Nat) (qid : Nat) (sig : Signal)
  /-- A data-free interest of an ACQ or of a Moraine unit's TRIG (R133, R345). -/
  | acqName (org : Origin) (expiry : Nat)
  | trigName (unit : Nat) (expiry : Nat)
  /-- An ACQ that waits at the home of a latch for a count, or of a barrier for a phase in bit 0 (R133, R252). -/
  | acqObj (org : Origin) (dpa : Nat) (bar : Bool) (target : W64)
  /-- An ANNOUNCE on its way, or an announcement of a Moraine unit or a Drift entry (R257, R265). -/
  | announce (org : Origin) (qid : Nat) (sig : Signal) (len : Nat)
  | annUnit (unit scope : Nat)
  | annDrift (ent : Nat) (tile scope : Nat)
  /-- A SEAL: the homes that it has reached and those still to answer, and its status so far (R266). -/
  | seal (org : Origin) (qid : Nat) (sig : Signal) (reached left status : Nat)
  /-- A REL that waits for an ANNOUNCE issued before it: its latch, virtual and physical, and the increment (R61, R134). -/
  | rel (org : Origin) (va : W64) (dpa : Nat) (inc : W64) (scope : Nat)
  /-- A FLUSHH and its window (R274). -/
  | flush (org : Origin) (hf : W256) (sig : Signal)
  /-- An SMLOAD and its window (R313). -/
  | smload (org : Origin) (eng : EngArgs) (hs : W256) (qid : Nat) (sig : Signal)
  deriving DecidableEq, Repr

/-- The faces of a router (R255). -/
inductive Face where
  | north | south | east | west | dieEdge | localFace
  /-- The panel fabric, toward or from a router of another device. -/
  | fabric (router : Nat)
  deriving DecidableEq, Repr

/-- An entry of a pending-interest table (R255): the faces that asked with their expiries, and the local requesters
(flights) with theirs. -/
structure PitEnt where
  name : W64
  faces : List (Face × Nat)
  locals : List (Nat × Nat)
  /-- The entry stands upstream. -/
  sent : Bool
  deriving DecidableEq, Repr

/-- A message between routers (R253 to R261). -/
inductive Packet where
  /-- An interest at a router, from a face or from a local requester, with its expiry and the routers passed. -/
  | interest (router : Nat) (name : W64) (from' : Face) (req : Option Nat) (expiry hops : Nat)
  /-- An announcement record on its way to its home: the tile's pages (DPA, bytes) and its flight. -/
  | announce (router : Nat) (name : W64) (pages : List (Nat × Nat)) (len : Nat) (flight : Nat) (hops : Nat)
  /-- A seal at a router. -/
  | seal (router home : Nat) (tensor : Nat) (iter : Nat) (flight : Nat) (hops : Nat)
  /-- A tile, or the failure NEVER_PRODUCED, UE or NOROUTE in its place, on its way along the reverse path. -/
  | tile (router : Nat) (name : W64) (bytes : Except Nat (List Byte))
  deriving DecidableEq, Repr

/-- A directory record (R257). -/
structure DirRec where
  name : W64
  pages : List (Nat × Nat)
  len : Nat
  /-- The copy of the névé store, if kept (R258). -/
  copy : Option (List Byte)
  deriving DecidableEq, Repr

/-- One die's directory and seal table (R257, R261). -/
structure DieNames where
  recs : List DirRec
  seals : Tbl Nat
  deriving DecidableEq, Repr

/-- A router's pending-interest table, and the interests that wait at its input (R255). -/
structure Router where
  pit : List PitEnt
  wait : List Packet
  deriving DecidableEq, Repr

/-- A ROTQ rendezvous: the time of its first issue, and the copy-table entries that have joined, by core (R243). -/
structure Rot where
  lid : Nat
  quad : Nat
  since : Nat
  joined : Tbl Nat
  deriving DecidableEq, Repr

end Sys2Proof.Machine
end

