-- ==== Sys2Proof/Machine/UnitState.lean ====
section
/-! DEFINITION. The state of the Moraine units, of Drift and the panel, and of the launch units and Nunatak. -/

namespace Sys2Proof.Machine

/-- A Moraine loop level (R339): body, passes left, passes completed. -/
structure MorLoop where
  start : Nat
  last : Nat
  left : Nat
  done : Nat
  deriving DecidableEq, Repr

/-- What a unit does in the block that it executes (R343 to R347). -/
inductive MorPhase where
  /-- At a command not yet begun. -/
  | atCmd
  /-- In a RUN, at an instruction; the time limit as WALLUS, if any. -/
  | running (pc : Nat) (limit : Option Nat)
  /-- A MBXW that waits (R340). -/
  | mbxWait (pc : Nat) (limit : Option Nat)
  /-- A TRIG that waits: the command, its limit, the flight of its interest if it waits on a name, and how that interest
  ended, if it has (R345). -/
  | trigWait (cmd : Instr) (limit : Option Nat) (flight : Option Nat) (ending : Option Nat)
  /-- An ANNM whose announcement is on its way, and how it ended, if it has (R347). -/
  | annWait (flight : Nat) (ending : Option Nat)
  /-- At a joined command, having reached it (R347). -/
  | joined (cmd : Instr)
  deriving DecidableEq, Repr

/-- A unit's execution of a block (R346). -/
structure MorExec where
  blk : Nat
  cmd : Nat
  phase : MorPhase
  deriving DecidableEq, Repr

/-- A Moraine unit (R335, R350). -/
structure MUnit where
  ib : Tbl W32
  z : Tbl (BitVec 512)
  zpois : Tbl Bool
  q : Tbl W32
  base : Tbl W64
  stride : Tbl W32
  rstep : Tbl W32
  cur : Tbl W64
  /-- Accesses of each stream completed in this RUN (R346). -/
  accs : Tbl Nat
  outer : Option MorLoop
  inner : Option MorLoop
  /-- Mailbox slots: the word of R340 and its writer's launch. -/
  mbox : Tbl (W64 × Nat)
  wake : BitVec 16
  queue : List Nat
  exec : Option MorExec
  bstat : Tbl W64
  must : W64
  /-- The launch of the block that last ran (R335). -/
  lastLid : Nat
  tlb : List TlbEnt
  /-- Steps run, as MCLK of the time that has passed (R17; the model's own, log 5). -/
  clock : W64
  deriving DecidableEq, Repr

/-- A unit at cold reset (log 2 for the values that the spec leaves open). -/
def MUnit.reset : MUnit :=
  { ib := [], z := [], zpois := [], q := [], base := [], stride := [], rstep := [], cur := [], accs := [], outer := none,
    inner := none, mbox := [], wake := 0, queue := [], exec := none, bstat := [], must := 0, lastLid := 0, tlb := [], clock := 0 }

/-- How a unit's execution of a block ended (R342, R346): the code of R342, 0 for OK, the command and the element. -/
structure MorEnd where
  unit : Nat
  code : Nat
  cmd : Nat
  elem : Nat
  deriving DecidableEq, Repr

/-- A submitted block (R341). -/
structure Block where
  org : Origin
  asid : BitVec 16
  addr : W64
  ncmd : Nat
  units : List Nat
  acq : Bool
  ends : List MorEnd
  qid : Nat
  sig : Signal
  deriving DecidableEq, Repr

/-- The life of an armed Drift entry (R368, R371). -/
inductive DriftPhase where
  | armed
  /-- Fired: not yet performed. -/
  | fired
  /-- Begun: lines of a multicast put, a ring message or announcements are on their way. -/
  | sending
  /-- Performed: its completion is due, with a status and the lines written. -/
  | ended (status lines : Nat)
  /-- Waiting to retry from a time on (R371). -/
  | retry (at' : Nat)
  deriving DecidableEq, Repr

/-- An entry of the armed table, or a DPUT (R368, R374). -/
structure DriftEnt where
  list : Nat
  idx : Nat
  entry : Instr
  phase : DriftPhase
  /-- Its number as a writer (R50, R51). -/
  num : Nat
  /-- Retries used (R371). -/
  tries : Nat
  /-- Bytes of a multicast put already sent, and what its ack record gathers: the cause of each member that answered
  negatively, the first one it gave, and the signature of the last line (R377, R379). -/
  mcOff : Nat
  naks : Tbl Nat
  sig : BitVec 64
  /-- Lines of a reduce group, by group and offset, whose acknowledgement it awaits (R378). -/
  acks : List (Nat × Nat)
  /-- DELIVER: the tile whose announcement is on its way, and how it ended, if it has (R381). -/
  tile : Option Nat
  ending : Option Nat
  deriving DecidableEq, Repr

/-- A list that a DARM armed, or the one entry of a DPUT (R373, R374). -/
structure DriftList where
  org : Origin
  asid : BitVec 16
  /-- Entries of the list; for a DPUT, 1. -/
  n : Nat
  left : Nat
  ok : Nat
  failed : Option (Nat × Nat)
  qid : Nat
  /-- The second slot of a multicast DPUT (R374). -/
  qid2 : Option Nat
  dput : Bool
  /-- A DPUT whose source is the local store: its bytes as taken at issue, and the status of the first fault (R374). -/
  src : Option (List Byte × Option Nat)
  /-- A DPUT's lines written and the members that answered negatively (R374). -/
  lines : Nat
  nakmap : BitVec 64
  sig : Signal
  /-- A list that waits for room: its address (R373). -/
  waiting : Option W64
  deriving DecidableEq, Repr

/-- Who sends a message of a ring step: an entry of this device, or another device, with the scope of its release if its entry
has REL (R367, R380). -/
inductive RingFrom where
  | ent (n : Nat) | dev (tdev : Nat) (rel : Option Nat)
  deriving DecidableEq, Repr

/-- A message of a ring step on its way to the successor (R380). -/
structure RingMsg where
  src : RingFrom
  /-- The successor and its counter, the step and the shard's bytes. -/
  dest : Nat
  sctr : Nat
  st : Nat
  data : List Byte
  sig : BitVec 64
  deriving DecidableEq, Repr

/-- A receive slot of a ring that holds a step's data: the order signature that came with it (R380). -/
structure RingSlot where
  addr : Nat
  sig : BitVec 64
  deriving DecidableEq, Repr

/-- Another device: its memory and device registers by its own DPA, its counters, the receive slots of its rings that hold
data, by 2 × counter + step mod 2, and whether it answers (R365 to R370, R380). -/
structure Peer where
  mem : Tbl Byte
  regs : Tbl Byte
  ctrs : Tbl W32
  slots : Tbl (List Byte × BitVec 64)
  up : Bool
  deriving DecidableEq, Repr

/-- A device as its reset leaves it: zero memory, nothing exposed (R365, R417). -/
def Peer.reset : Peer := { mem := [], regs := [], ctrs := [], slots := [], up := true }

/-- A Floe link (R364). -/
inductive LinkState where
  | up | held (retrainings : Nat) | down
  deriving DecidableEq, Repr

/-- Who wrote a line of a reduce group: on this device a copy-table entry of a core or a Drift entry, which await its
acknowledgement, or another command of a context, which does not; or another member (R378). -/
inductive LineWriter where
  | copy (core ent : Nat) | drift (ent : Nat) | cmd (org : Origin) | other (dev : Nat)
  deriving DecidableEq, Repr

/-- A line of a reduce group in the switch: the contributions of this round and those that wait, and this device's
writers of them, oldest first (R378). -/
structure RedLine where
  grp : Nat
  off : Nat
  have' : Tbl (BitVec 512)
  next : List (Nat × BitVec 512)
  own : List LineWriter
  deriving DecidableEq, Repr

/-- Where a launch record came from (R27, R273). -/
inductive LaunchSrc where
  | slot (n : Nat)
  | cmd (org : Origin) (va : W64) (asid : BitVec 16) (sig : Signal)
  deriving DecidableEq, Repr

/-- The progress of a launch (R32 to R35, R43). -/
inductive LaunchPhase where
  /-- In its queue. -/
  | queued
  /-- Waits for its count's sync object, off the head of its queue. -/
  | counting
  /-- A round under way: its number, the cores still to ask, and whether one has refused. -/
  | round (num : Nat) (left : List Nat) (refused : Bool)
  /-- Backing off until a time. -/
  | backoff (until' : Nat)
  /-- Committed and running. -/
  | running
  /-- Stopped early with a code, its tile tasks ending (R31). -/
  | stopping (code : Nat)
  /-- Ended: only its completion is due. -/
  | ended (code : Nat)
  deriving DecidableEq, Repr

/-- A launch (R27 to R36). -/
structure Launch where
  src : LaunchSrc
  /-- The 128 bytes of the record as copied. -/
  record : List Byte
  phase : LaunchPhase
  lid : Nat
  die : Nat
  prio : Bool
  refusals : Nat
  /-- The back-off state x of R34. -/
  x : W32
  gx : Nat
  gy : Nat
  gz : Nat
  counted : Bool
  ox : Nat
  oy : Nat
  tasks : Nat
  /-- The region table as the launch unit read it: virtual base, size, KIND, SYNC (R48). -/
  regions : List (Nat × Nat × Nat × Nat)
  deriving DecidableEq, Repr

/-- A region of a loaded image (R110): its virtual base, the DPA behind it, and its size. -/
structure Mapped where
  va : Nat
  dpa : Nat
  size : Nat
  deriving DecidableEq, Repr

/-- A loaded image (R110, R112): its address space, the eight bases of its load record, its regions, its tensor ids, and
its digest (R108). -/
structure Image where
  asid : BitVec 16
  bases : List Nat
  regions : List Mapped
  tensors : List Nat
  digest : List Byte
  deriving DecidableEq, Repr

/-- A walk of a die's walker, under way or waiting for one of its 64 places: the page number VA[56:16], and the contexts whose
bundles are held for it, by core and launch (R406). -/
structure Walk where
  die : Nat
  asid : BitVec 16
  page : Nat
  reqs : List (Nat × Nat)
  deriving DecidableEq, Repr

/-- An entry of the event log (R420). -/
structure LogEnt where
  seq : Nat
  wallus : Nat
  source : Nat
  code : Nat
  data : List Byte
  deriving DecidableEq, Repr

/-- A firmware slot (R413). -/
structure FwSlot where
  object : List Byte
  secver : Nat
  /-- It holds an image that passed verification. -/
  valid : Bool
  /-- It was written by an update that no command has confirmed yet (R413, R422). -/
  fresh : Bool
  deriving DecidableEq, Repr

/-- The parts of Nunatak that survive a reset, and its boot state (R413 to R424). -/
structure Nunatak where
  /-- RETIRED_MAP: cores listed (R44). -/
  retired : Tbl Bool
  log : List LogEnt
  nextSeq : Nat
  fuseCnt : Nat
  /-- The 256 bytes of each owner key slot (R415). -/
  keys : Tbl (List Byte)
  keySeq : W64
  fwA : FwSlot
  fwB : FwSlot
  /-- The active slot, and the one that becomes active at the next reset (R413). -/
  fwActive : Bool
  fwNext : Bool
  /-- The device stays in recovery (R413). -/
  recovery : Bool
  scrubbed : Bool
  /-- ACLK as the last plan and its margin steps allow it, and as it runs (R418, R419). -/
  planMhz : Nat
  aclkMhz : Nat
  capWatts : Nat
  /-- Gated steps of 25 MHz below 350 MHz (R419). -/
  gating : Nat
  /-- The command under way in the mailbox, 0 for none; STATUS and RESULT (R421). -/
  op : Nat
  status : Nat
  result : W32
  /-- The arguments that the command took when it started (R421). -/
  args : List W64
  /-- WALLUS at which the next re-plan is due (R418). -/
  planDue : Nat
  deriving DecidableEq, Repr

end Sys2Proof.Machine
end

