-- ==== Sys2Proof/Machine/State.lean ====
section
/-! DEFINITION. The state of the F2, its reset, and the reasons a step can stop. -/

namespace Sys2Proof.Machine

/-- A request performed at a peer whose response is lost (R366): a flight; a copy of a core of which n lines were acknowledged;
a Drift entry of which n lines were. -/
inductive Lost where
  | flight (id : Nat)
  | copy (core ent n : Nat)
  | entry (ent n : Nat)
  deriving DecidableEq, Repr

/-- What moves next (the model's own; log 5). -/
inductive Act where
  /-- A core issues from one of its contexts, or does what stands before its next bundle. -/
  | issue (core : Nat)
  /-- An event of the opcode table, or a step of an engine, happens. -/
  | event (e : Event)
  /-- An array of a core runs its next micro-word, or its next row of a library routine. -/
  | array (core arr : Nat)
  /-- A Moraine unit runs its next instruction or command. -/
  | unit (u : Nat)
  /-- The oldest fired entry of the Drift engine is performed. -/
  | drift
  /-- An agent keeps n bytes of a device as they stand, and misses the writes that follow (R53, R57; log 6). -/
  | lag (agent : Agent) (dev at' n : Nat)
  /-- The oldest write that an agent misses of a byte reaches it; with none missed, it sees the byte as its home does. -/
  | see (agent : Agent) (dev at' : Nat)
  /-- A stored bit is found wrong and corrected (R213, R236, R299, R349; log 25). -/
  | corrected (c : Cell)
  /-- Bits of a cell are lost beyond correction (R236, R246; log 25). -/
  | decay (c : Cell)
  /-- The lines of a switch plane are folded by a plane from now on: another one where it has failed, itself where it is up
  (R382). -/
  | plane (p by' : Nat)
  /-- The torus toward a panel: 0 its link is up, 1 data detours through a neighbouring panel, 2 no path reaches it (R372,
  R382). -/
  | torus (panel st : Nat)
  /-- The links toward a torus device are isolated, or reinstated (R372). -/
  | isolate (tdev : Nat) (on : Bool)
  /-- A peer's port is isolated, with requests performed at it whose responses are lost (R366). -/
  | cut (peer : Nat) (done : List Lost)
  /-- Privileged software of another device writes its registers: exposure table, windows, APRX (R365, R369, R376). -/
  | peerRegs (tdev dpa : Nat) (data : List Byte)
  /-- A put of another device into a receive window of this one, with its RCTR, and the scope of its release, if it is one
  (R369, R370). -/
  | peerPut (tdev win off : Nat) (data : List Byte) (rctr : BitVec 16) (rel : Option Nat)
  /-- Another device of the panel writes a line of a multicast group (R377). -/
  | peerLine (dev grp off : Nat) (line : List Byte)
  /-- A message of a ring step comes from another device, for a counter of this one (R380). -/
  | ringFrom (tdev ctr st : Nat) (data : List Byte) (sig : BitVec 64) (rel : Option Nat)
  /-- Another device has taken the data of a receive slot of its ring (R380). -/
  | ringTaken (tdev key : Nat)
  /-- Privileged software removes the record of a tile from a die's directory, or a tensor's seal and records (R257, R261). -/
  | forget (die tensor : Nat) (tile : Option Nat)
  /-- Microseconds pass. -/
  | tick (us : Nat)
  deriving DecidableEq, Repr

/-- The whole machine. -/
structure State where
  /-- Cores by 16x + y (R44). -/
  cores : Tbl Core
  /-- The core that the next issue or slot instruction acts on, and its context (log 5). -/
  focusCore : Nat
  focusCtx : Nat
  /-- The array of the core in focus that a micro-word acts on, the Moraine unit that an instruction or a command acts
  on, and the Drift entry that is performed (log 5). -/
  focusArr : Nat
  focusUnit : Nat
  focusEnt : Nat
  /-- HBM, Firn and the host coherent window by DPA; an unlisted byte is 0 (R47, R417). -/
  mem : List Host.Cell
  /-- Granules that hold an uncorrectable error, by their first 8-byte unit: 64 bytes of HBM, 8 bytes of Firn (R246, R358). -/
  memUe : Tbl Bool
  /-- Agents that do not see some byte as its home holds it (R53, R57; log 6). -/
  lags : List Lag
  /-- The number of the command that is issued or sent now, and of the next one (R50; the model's own). -/
  cmdNow : Nat
  cmdNext : Nat
  /-- Walks under way or waiting, in the order of arrival (R406). -/
  walks : List Walk
  /-- Device-register bytes by DPA that have no field of their own below (R47). -/
  regs : Tbl Byte
  /-- Drift counters (R367). -/
  ctrs : Tbl W32
  /-- The group table of the panel's switches, by byte (R376). -/
  groups : Tbl Byte
  wallus : W64
  /-- The ACLK of the microseconds that have passed: no core's ACYCLE is below it (R118, log 5). -/
  aclks : W64
  flights : Tbl Flight
  packets : Tbl Packet
  routers : Tbl Router
  dies : Tbl DieNames
  rots : Tbl Rot
  units : Tbl MUnit
  blocks : Tbl Block
  drifts : Tbl DriftEnt
  dlists : Tbl DriftList
  rings : Tbl RingMsg
  ringSlots : List RingSlot
  peers : Tbl Peer
  /-- Ports isolated toward a device (R366). -/
  isolated : Tbl Bool
  links : Tbl LinkState
  redLines : List RedLine
  /-- Which switch plane folds the lines of a failed one, and the panels to which data detours (1) or no path leads (2) (R372,
  R382). -/
  planes : Tbl Nat
  torusDown : Tbl Nat
  launches : Tbl Launch
  /-- Launch queues by 2 × die + class, of launch references (R35). -/
  lqueues : Tbl (List Nat)
  /-- Slots of the coherent window whose V the host has set and that have not been read, by DPA, in the order of the writes
  (R35, R112). -/
  doorbells : List Nat
  nextLid : Nat
  nextRound : Nat
  images : List Image
  /-- The translation caches of Drift and, by die, of the launch units (R406). -/
  driftTlb : List TlbEnt
  unitTlbs : Tbl (List TlbEnt)
  /-- An invalidation under way (R407). -/
  xinvBusy : Bool
  nun : Nunatak
  /-- Engine events caused and not yet happened, oldest first (log 5). -/
  queue : List Event
  /-- What moves next, chosen from outside; empty for the default order (log 5). -/
  sched : List Act
  /-- The counter of free values (log 7). -/
  free : Nat
  deriving DecidableEq, Repr

/-- Why the machine stops. -/
inductive Fault where
  /-- Raised by the step alone: the order that the state was given from outside names a core, an array, a unit or a
  Drift entry that the device does not have or that has nothing to do (log 5). Safe: no device meets such an order. -/
  | noAgent
  deriving DecidableEq, Repr

/-- Why the model has no meaning for a step. -/
inductive Refusal where
  /-- An arm of exec whose meaning is not written. Safe: nothing is claimed of it. -/
  | notModelled (mnemonic : String)
  deriving DecidableEq, Repr

/-- 90 days of powered time, in µs (R418). -/
def planEvery : Nat := 90 * 24 * 3600 * 1000000

/-- The persistent parts as the model takes them on a new part (log 3, log 4). -/
def Nunatak.new : Nunatak :=
  { retired := [], log := [{ seq := 1, wallus := 0, source := 0x3FF, code := 1, data := List.replicate 12 0 }],
    nextSeq := 2, fuseCnt := 0, keys := [], keySeq := 0,
    fwA := { object := [], secver := 0, valid := true, fresh := false },
    fwB := { object := [], secver := 0, valid := false, fresh := false },
    fwActive := false, fwNext := false, recovery := false, scrubbed := false, planMhz := 700, aclkMhz := 700,
    capWatts := 1600, gating := 0, op := 0, status := 0, result := 0, args := [], planDue := 0 }

/-- The machine right after a cold reset (R8, R417; log 2, log 3 for the values that the spec leaves open). -/
def State.reset : State :=
  { cores := [], focusCore := 0, focusCtx := 0, focusArr := 0, focusUnit := 0, focusEnt := 0, mem := [], memUe := [], lags := [], cmdNow := 0, cmdNext := 1, walks := [], regs := [], ctrs := [], groups := [],
    wallus := 0, aclks := 0, flights := [], packets := [], routers := [], dies := [], rots := [], units := [], blocks := [],
    drifts := [], dlists := [], rings := [], ringSlots := [], peers := [], isolated := [], links := [], redLines := [], planes := [], torusDown := [],
    launches := [], lqueues := [], doorbells := [], nextLid := 1, nextRound := 1, images := [], driftTlb := [], unitTlbs := [],
    xinvBusy := false, nun := .new, queue := [], sched := [], free := 0 }

end Sys2Proof.Machine
end

