-- ==== Sys2Proof/Machine/Ops.lean ====
section
/-! DEFINITION. The named operations over state: cores and contexts, the event log, memory by region, translation,
signals and result queues, taking an exception and returning from one. -/

namespace Sys2Proof.Machine

open Sys2Proof

/-! Cores and contexts. -/

/-- Core c = 16x + y (R6, R44). -/
def State.core (s : State) (c : Nat) : Core := tget Core.reset s.cores c
def State.setCore (s : State) (c : Nat) (k : Core) : State := { s with cores := tput Core.reset s.cores c k }
/-- A clock, never less than the ACLK of the time that has passed (log 5). -/
def State.caughtUp (s : State) (clock : W64) : W64 := if clock < s.aclks then s.aclks else clock
/-- ACYCLE of a core: what it has issued, and never less than the time that has passed (R118). -/
def State.acycleOf (s : State) (c : Nat) : W64 := s.caughtUp (s.core c).acycle
/-- Context n of a core (R39). -/
def Core.ctx (k : Core) (n : Nat) : Ctx := tget Ctx.reset k.ctxs n
def Core.setCtx (k : Core) (n : Nat) (x : Ctx) : Core := { k with ctxs := tput Ctx.reset k.ctxs n x }

def State.ctxAt (s : State) (c n : Nat) : Ctx := (s.core c).ctx n
def State.setCtxAt (s : State) (c n : Nat) (x : Ctx) : State := s.setCore c ((s.core c).setCtx n x)

/-- The core in focus: the one whose bundle is under issue. -/
def State.fcore (s : State) : Core := s.core s.focusCore
def State.setFcore (s : State) (k : Core) : State := s.setCore s.focusCore k
/-- The context in focus. -/
def State.cx (s : State) : Ctx := s.fcore.ctx s.focusCtx
def State.setCx (s : State) (x : Ctx) : State := s.setFcore (s.fcore.setCtx s.focusCtx x)
def State.modCx (s : State) (f : Ctx → Ctx) : State := s.setCx (f s.cx)
/-- The context's control registers, vector state and Serac registers. -/
def State.modCtl (s : State) (f : CtlSt → CtlSt) : State := s.modCx (fun x => { x with a := { x.a with c := f x.a.c } })
def State.modVec (s : State) (f : VecSt → VecSt) : State := s.modCx (fun x => { x with a := { x.a with v := f x.a.v } })
def State.modSer (s : State) (f : SerSt → SerSt) : State := s.modCx (fun x => { x with a := { x.a with r := f x.a.r } })
def State.modPend (s : State) (f : PendSt → PendSt) : State := s.modCx (fun x => { x with a := { x.a with p := f x.a.p } })
def State.modIss (s : State) (f : Issue → Issue) : State := s.modCx (fun x => { x with iss := f x.iss })
/-- An effect due after the bundle. -/
def State.post (s : State) (p : Post) : State := s.modIss (fun i => { i with post := i.post ++ [p] })
/-- The launch of the context in focus; an empty one where it holds none. -/
def noLaunch : LaunchEnv :=
  { lid := 0, asid := 0, lsneed := 0, ox := 0, oy := 0, w := 0, h := 0, gx := 0, gy := 0, gz := 0, param := 0,
    guard := false, prio := false, regions := [], entry := 0, umap := [], h0 := 0 }
def Ctx.launch (x : Ctx) : LaunchEnv := x.env.getD noLaunch
/-- Who a command of the context in focus answers to. -/
def State.origin (s : State) : Origin :=
  { core := s.focusCore, lid := s.cx.launch.lid, shadow := s.focusCtx == 4, cmd := s.cmdNow }
/-- The context alone. -/
def Origin.own (o : Origin) : Origin := { o with cmd := 0 }
/-- Two commands are of one context. -/
def Origin.same (o p : Origin) : Bool := o.own == p.own
/-- A command is issued: it takes the next number (R50). -/
def State.newCmd (s : State) : State := { s with cmdNow := s.cmdNext, cmdNext := s.cmdNext + 1 }

/-- The context in focus as an agent (R50). -/
def State.ctxAgent (s : State) : Agent := .ctx s.focusCore s.cx.launch.lid
/-- A command as an agent, and its context (R50). -/
def Origin.agent (o : Origin) : Agent := .cmd o.core o.lid o.cmd
def Origin.ctxAgent (o : Origin) : Agent := .ctx o.core o.lid

/-- The mesh coordinates and the die of a core (R6, R12). -/
def coreX (c : Nat) : Nat := c / 16
def coreY (c : Nat) : Nat := c % 16
def coreDie (c : Nat) : Nat := coreX c / 8

/-- ACLK that the bundle under issue takes beyond those before (R40, R123). -/
def State.spend (s : State) (n : Nat) : State := s.modIss (fun i => { i with aclk := i.aclk + n })

/-- An event that the machine has caused and that will happen. -/
def State.enqueue (s : State) (e : Event) : State := { s with queue := s.queue ++ [e] }

/-- The next free value's number (log 7). -/
def State.nextFree (s : State) : State := { s with free := s.free + 1 }

/-- Put a flight into the table after the others, so that ids rise in issue order; its id is the number returned. -/
def State.addFlight (s : State) (f : Flight) : Nat × State :=
  let id := match s.flights.getLast? with | some p => p.1 + 1 | none => 0
  (id, { s with flights := tset s.flights id f })
def State.dropFlight (s : State) (id : Nat) : State := { s with flights := tdel s.flights id }
def State.setFlight (s : State) (id : Nat) (f : Flight) : State := { s with flights := tset s.flights id f }

/-- Put a message between routers on its way, and let its arrival be due (R253). -/
def State.addPacket (s : State) (p : Packet) : State :=
  let id := match s.packets.getLast? with | some q => q.1 + 1 | none => 0
  let ev := match p with
    | .interest .. => Event.interestArrival id
    | .announce .. => .announcementArrival id
    | .seal .. => .sealArrival id
    | .tile .. => .tileArrival id
  { s with packets := tset s.packets id p, queue := s.queue ++ [ev] }

/-- An interest of a local requester enters the router of a core (R253, R255). -/
def State.placeInterest (s : State) (router : Nat) (name : W64) (flight expiry : Nat) : State :=
  s.addPacket (.interest router name .localFace (some flight) expiry 0)

/-! The event log (R420, R424). -/

/-- The newest events of a list: 65,536 at most. -/
def newestEvents (l : List LogEnt) : List LogEnt := (l.reverse.take 65536).reverse

/-- Append an event; the log keeps the newest 65,536. -/
def State.log (s : State) (source code : Nat) (data : List Byte) : State :=
  let e : LogEnt := { seq := s.nun.nextSeq, wallus := s.wallus.toNat, source := source, code := code,
                      data := (data ++ List.replicate 12 0).take 12 }
  { s with nun := { s.nun with log := newestEvents (s.nun.log ++ [e]), nextSeq := s.nun.nextSeq + 1 } }

/-- A detected uncorrectable error: where, and 1 local store, 2 Firn, 3 HBM, 4 Serac accumulator (R424; which detections are
logged: log 25). -/
def State.logUe (s : State) (source at' : Nat) (kind : Byte) : State := s.log source 0x000E (bytesOfNat 8 at' ++ [kind])

/-! Memory (R47). -/

/-- Where a DPA lies (R47). -/
inductive Region where
  | hbm | firn | window | counters | regs
  | remote (peer off : Nat)
  | aperture (grp off : Nat)
  | unmapped
  deriving DecidableEq, Repr

/-- The map of R47; the Drift counter window is the part of the device registers that launches reach (R367). -/
def regionOf (a : Nat) : Region :=
  if a < Config.hbmEnd then .hbm
  else if a < Config.firnEnd then .firn
  else if Config.windowBase ≤ a ∧ a < Config.windowEnd then .window
  else if Config.countersDpa ≤ a ∧ a < Config.countersEnd then .counters
  else if Config.regsBase ≤ a ∧ a < Config.regsEnd then .regs
  else if Config.remoteBase ≤ a ∧ a < Config.remoteEnd then
    .remote ((a - Config.remoteBase) / 2 ^ 40) ((a - Config.remoteBase) % 2 ^ 40)
  else if Config.apertureBase ≤ a ∧ a < Config.apertureEnd then
    .aperture ((a - Config.apertureBase) / 2 ^ 30) ((a - Config.apertureBase) % 2 ^ 30)
  else .unmapped

/-- The bytes that check bits cover together, by their first 8-byte unit: 64 of HBM, 8 of Firn and, as the model takes it,
of the coherent window (R246, R358; log 25). -/
def granuleOf (unit : Nat) : Nat := if 8 * unit < Config.hbmEnd then unit / 8 * 8 else unit
/-- The size of a granule. -/
def granuleSize (unit : Nat) : Nat := if 8 * unit < Config.hbmEnd then 64 else 8
/-- The granules of a range (R246, R358). -/
def granules (a n : Nat) : List Nat := ((List.range ((a + n + 7) / 8 - a / 8)).map (fun i => granuleOf (a / 8 + i))).eraseDups

/-- A byte of the range lies in a granule with an uncorrectable error (R246, R358). -/
def State.ueIn (s : State) (a n : Nat) : Bool :=
  !s.memUe.isEmpty && (granules a n).any (fun g => tget false s.memUe g)

/-- A granule lies wholly in a range. -/
def granuleIn (a n g : Nat) : Bool := a ≤ 8 * g && 8 * g + granuleSize g ≤ a + n
/-- A write of the range would change a part only of a granule with an uncorrectable error (R144, R358). -/
def State.partBad (s : State) (a n : Nat) : Bool :=
  !s.memUe.isEmpty && (granules a n).any (fun g => tget false s.memUe g && !granuleIn a n g)

/-- A launch slot or a load slot begins at a DPA (R410). -/
def slotBase (a : Nat) : Bool := Config.windowBase ≤ a && a < Config.windowBase + 128 * 272 && (a - Config.windowBase) % 128 == 0
/-- The slots that wait, after a write: one whose V becomes 1 joins the others at the end, and one whose V becomes 0 leaves
them (R35, R411). -/
def rung (l : List Nat) (a : Nat) (bs : List Byte) : List Nat :=
  if a + bs.length ≤ Config.windowBase || Config.windowBase + 128 * 272 ≤ a then l
  else (bs.zipIdx).foldl (fun l p =>
    let b := a + p.2
    if !slotBase b then l
    else if !p.1.getLsbD 0 then l.erase b
    else if l.contains b then l else l ++ [b]) l

/-- Write bytes of HBM, Firn or the window: a write that covers a whole granule stores fresh check bits, and one that
covers a part leaves an error in place (R246, R358). -/
def State.writeMem (s : State) (a : Nat) (bs : List Byte) : State :=
  let whole := (granules a bs.length).filter (granuleIn a bs.length)
  { s with mem := writeBytes s.mem a bs,
           memUe := if s.memUe.isEmpty then s.memUe else whole.foldl tdel s.memUe
           doorbells := rung s.doorbells a bs }

/-- TDEV of a device of this panel (R118, R369). -/
def panelTdev (dev : Nat) : Nat := 64 * (16 * Config.torusY.toNat + Config.torusX.toNat) + dev
/-- This device's own TDEV (R118). -/
def ownTdev : Nat := panelTdev Config.devId.toNat

/-- Another device (R365). -/
def State.peer (s : State) (tdev : Nat) : Peer := tget Peer.reset s.peers tdev
def State.setPeer (s : State) (tdev : Nat) (p : Peer) : State := { s with peers := tput Peer.reset s.peers tdev p }

/-- Memory and registers of a device, this one included, by its own DPA. -/
def State.devMem (s : State) (tdev : Nat) : Tbl Byte := if tdev = ownTdev then s.mem else (s.peer tdev).mem
def State.devRegs (s : State) (tdev : Nat) : Tbl Byte := if tdev = ownTdev then s.regs else (s.peer tdev).regs
def State.writeDev (s : State) (tdev a : Nat) (bs : List Byte) : State :=
  if tdev = ownTdev then s.writeMem a bs
  else s.setPeer tdev { s.peer tdev with mem := writeBytes (s.peer tdev).mem a bs }

/-- A Floe link's state; a link is up at reset (R364). -/
def State.link (s : State) (n : Nat) : LinkState := tget .up s.links n
def State.setLink (s : State) (n : Nat) (l : LinkState) : State := { s with links := tput .up s.links n l }
/-- No link of this device is up: it is dead to the others, and they to it (R364). -/
def State.cutOff (s : State) : Bool := (List.range 32).all (fun n => s.link n != .up)
/-- A request toward a device is answered PEER_DOWN: its port is isolated, it does not answer, or no link leads to it (R364,
R366). -/
def State.devDown (s : State) (tdev : Nat) : Bool :=
  tget false s.isolated tdev || (tdev != ownTdev && (!(s.peer tdev).up || s.cutOff))

/-- Range i of an exposure table: enabled, writable, first byte, last byte (R365). -/
def exposureRange (regs : Tbl Byte) (i : Nat) : Bool × Bool × Nat × Nat :=
  let hi := readNat regs (Config.exposureDpa + 16 * i + 8) 8
  let lo := readNat regs (Config.exposureDpa + 16 * i) 8
  (hi / 2 ^ 63 % 2 == 1, hi / 2 ^ 62 % 2 == 1, lo % 2 ^ 40, hi % 2 ^ 40)

/-- Every byte of an access lies in some enabled range, and for a write in one with WR (R365). -/
def exposed (regs : Tbl Byte) (wr : Bool) (a n : Nat) : Bool :=
  !regs.isEmpty &&
  (List.range n).all (fun k => (List.range 256).any (fun i =>
    let (v, w, base, limit) := exposureRange regs i
    v && (!wr || w) && base ≤ a + k && a + k ≤ limit))

/-- Memory that a peer access may reach on the device itself (R365). -/
def plainDpa (a n : Nat) : Bool :=
  match regionOf a, regionOf (a + n - 1) with
  | .hbm, .hbm | .hbm, .firn | .firn, .firn | .window, .window => true
  | _, _ => false

/-- The error responses of R121 and R144: 1 uncorrectable error, 2 PEER_DOWN, 3 any other. -/
abbrev Resp := Nat

/-- A group of the panel's switches (R376). -/
structure Group where
  valid : Bool
  kind : Nat
  rfmt : Nat
  apbase : Nat
  size : Nat
  members : BitVec 64
  deriving DecidableEq, Repr

/-- Entry g of the group table (R376). -/
def State.group (s : State) (g : Nat) : Group :=
  let w (k : Nat) := readNat s.groups (32 * g + 8 * k) 8
  { valid := w 3 / 2 ^ 63 == 1, kind := w 3 / 2 ^ 61 % 4, rfmt := w 3 / 2 ^ 59 % 4, apbase := w 3 % 2 ^ 40,
    size := w 2, members := BitVec.ofNat 64 (w 0) }

/-- APRX bit g of a device (R376). -/
def State.aprx (s : State) (tdev g : Nat) : Bool :=
  (tget 0 (s.devRegs tdev) (Config.aprxDpa + g / 8)).getLsbD (g % 8)

/-- The members of a group that this device may use through its window: none where the group is invalid, of KIND 3, or
without this device (R376). -/
def State.usableGroup (s : State) (g : Nat) : Option Group :=
  let e := s.group g
  if e.valid && e.kind != 3 && e.members.getLsbD Config.devId.toNat then some e else none

/-- The device indices of a group's members, in increasing order (R376). -/
def Group.list (g : Group) : List Nat := (List.range 64).filter (fun d => g.members.getLsbD d)

/-- The Drift counters of a device (R367). -/
def State.devCtrs (s : State) (tdev : Nat) : Tbl W32 := if tdev = ownTdev then s.ctrs else (s.peer tdev).ctrs
/-- A byte of a Drift counter window: bits [63:32] of a counter's word read 0 (R367). -/
def ctrByteOf (t : Tbl W32) (a : Nat) : Byte := BitVec.ofNat 8 ((tget 0 t ((a - Config.countersDpa) / 8)).toNat / 256 ^ (a % 8))
def State.ctrByte (s : State) (a : Nat) : Byte := ctrByteOf s.ctrs a
/-- A range lies in the Drift counter window of its device. -/
def inCounters (a n : Nat) : Bool := Config.countersDpa ≤ a && a + n ≤ Config.countersEnd

/-- Read n bytes at a DPA, as a load or a copy's read (R47, R365, R367, R375). -/
def State.readDpa (s : State) (a n : Nat) : Except Resp (List Byte) :=
  match regionOf a with
  | .hbm | .firn | .window => if s.ueIn a n then .error 1 else .ok (readBytes s.mem a n)
  | .counters =>
    .ok ((List.range n).map (fun i => s.ctrByte (a + i)))
  | .remote p off =>
    let t := panelTdev p
    if s.devDown t then .error 2
    else if !exposed (s.devRegs t) false off n then .error 3
    else if inCounters off n then .ok ((List.range n).map (fun i => ctrByteOf (s.devCtrs t) (off + i)))
    else if !plainDpa off n then .error 3
    else if t = ownTdev && s.ueIn off n then .error 1
    else .ok (readBytes (s.devMem t) off n)
  | .aperture g off =>
    match s.usableGroup g with
    | none => .error 3
    | some e =>
      if e.kind != 0 || e.size < off + n then .error 3
      else match e.list.find? (fun d => !s.devDown (panelTdev d)) with
        | none => .error 2
        | some d =>
          if panelTdev d = ownTdev && s.ueIn (e.apbase + off) n then .error 1
          else .ok (readBytes (s.devMem (panelTdev d)) (e.apbase + off) n)
  | .regs | .unmapped => .error 3

/-- The header of a Drift entry (R368). -/
def driftHdr : Instr → Option DHdr
  | .put hd _ _ _ _ | .putred hd _ _ _ _ _ | .putmc hd _ _ _ _ _ | .get hd _ _ _ | .signal hd _ _ _
  | .rsstep hd _ _ _ _ _ _ _ _ _ _ | .deliver hd _ _ _ _ _ => some hd
  | _ => none

/-- Entries armed on a counter fire when it holds their threshold or more (R368). -/
def fireArmed (c : Nat) (v : W32) (t : Tbl DriftEnt) : Tbl DriftEnt :=
  t.map (fun p => match p.2.phase, driftHdr p.2.entry with
    | .armed, some h => if h.trig.toNat = c && h.thresh.toNat ≤ v.toNat then (p.1, { p.2 with phase := .fired }) else p
    | _, _ => p)

/-- Set Drift counter c (R367, R368). -/
def State.setCtr (s : State) (c : Nat) (v : W32) : State :=
  { s with ctrs := tput 0 s.ctrs c v, drifts := fireArmed c v s.drifts }

/-- Set a counter of a device. -/
def State.setDevCtr (s : State) (tdev c : Nat) (v : W32) : State :=
  if tdev = ownTdev then s.setCtr c v else s.setPeer tdev { s.peer tdev with ctrs := tput 0 (s.peer tdev).ctrs c v }

/-- Write bytes at a DPA, as a store or a copy's line of this device (R47, R365, R367). Lines to the aperture do not
come here (R375). -/
def State.writeDpa (s : State) (a : Nat) (bs : List Byte) : Except Resp State :=
  match regionOf a with
  | .hbm | .firn | .window => .ok (s.writeMem a bs)
  | .counters => .ok (s.setCtr ((a - Config.countersDpa) / 8) (BitVec.ofNat 32 (natOfBytes (bs.take 4))))
  | .remote p off =>
    let t := panelTdev p
    if s.devDown t then .error 2
    else if !exposed (s.devRegs t) true off bs.length then .error 3
    else if inCounters off bs.length && off % 8 = 0 && bs.length = 8 then
      .ok (s.setDevCtr t ((off - Config.countersDpa) / 8) (BitVec.ofNat 32 (natOfBytes (bs.take 4))))
    else if !plainDpa off bs.length then .error 3
    else .ok (s.writeDev t off bs)
  | .aperture _ _ | .regs | .unmapped => .error 3

/-! Translation (R402 to R406). -/

/-- The access kinds: ACC of R394. -/
inductive Acc where
  | fetch | load | store | atomic | local' | handle
  deriving DecidableEq, Repr

def Acc.code : Acc → Nat
  | .fetch => 0 | .load => 1 | .store => 2 | .atomic => 3 | .local' => 4 | .handle => 5

/-- A pointer is canonical when bits [63:57] copy bit 56 (R46). -/
def canonical (va : W64) : Bool := va.extractLsb' 56 8 == 0 || va.extractLsb' 56 8 == 0xFF

/-- A table entry, or KIND 5 where its read meets an error (R405). -/
def State.pte (s : State) (a : Nat) : Except Nat W64 :=
  match regionOf a with
  | .hbm | .firn | .window => if s.ueIn a 8 then .error 5 else .ok (BitVec.ofNat 64 (readNat s.mem a 8))
  | _ => .error 5

/-- A level of the walk: its number, the low bit and the width of its index, log2 of the next table's alignment, and
whether a leaf may, or must, stand there (R403, R404). -/
structure Level where
  level : Nat
  shift : Nat
  bits : Nat
  nextAlign : Nat
  leafOk : Bool
  tableOk : Bool

def walkLevels : List Level :=
  [⟨4, 39, 18, 12, false, true⟩, ⟨3, 30, 9, 12, true, true⟩, ⟨2, 21, 9, 8, true, true⟩, ⟨1, 16, 5, 0, true, false⟩]

/-- The permission bits X, W, R of an entry (R404). -/
def permOf (e : W64) : BitVec 3 := e.extractLsb' 2 3

/-- The access kinds against permissions (R405). -/
def permOk (p : BitVec 3) : Acc → Bool
  | .fetch => p.getLsbD 2
  | .load => p.getLsbD 0
  | .store => p.getLsbD 1
  | .atomic => p.getLsbD 0 && p.getLsbD 1
  | _ => true

/-- The walk from a table: the leaf's page (R403, R404). -/
def State.walkFrom (s : State) (asid : BitVec 16) (va : W64) : List Level → Nat → Except XFault TlbEnt
  | [], _ => .error ⟨10, 0⟩
  | l :: ls, base =>
    let index := va.toNat / 2 ^ l.shift % 2 ^ l.bits
    match s.pte (base + 8 * index) with
    | .error k => .error ⟨k, l.level⟩
    | .ok e =>
      let addr := (e.extractLsb' 8 40).toNat * 256
      let leaf := e.getLsbD 1
      if !e.getLsbD 0 then .error ⟨2, l.level⟩
      else if e.extractLsb' 48 16 != 0 || e.extractLsb' 5 3 != 0 || (leaf && !l.leafOk) || (!leaf && !l.tableOk) then
        .error ⟨10, l.level⟩
      else if leaf then
        if addr % 2 ^ l.shift != 0 then .error ⟨10, l.level⟩
        else if regionOf (addr + va.toNat % 2 ^ l.shift) == .unmapped then .error ⟨4, l.level⟩
        else .ok { asid := asid, vpn := va.toNat / 2 ^ l.shift, bits := l.shift, dpa := addr, perm := permOf e }
      else if addr % 2 ^ l.nextAlign != 0 then .error ⟨10, l.level⟩
      else s.walkFrom asid va ls addr

/-- The walk of an address in an ASID, from its translation context (R402). -/
def State.walk (s : State) (asid : BitVec 16) (va : W64) : Except XFault TlbEnt :=
  let a := Config.xlatCtxDpa + 16 * asid.toNat
  let lo := readNat s.regs a 8
  let hi := readNat s.regs (a + 8) 8
  if lo % 2 == 0 then .error ⟨9, 0⟩
  else if hi != 0 || lo / 2 % 2 ^ 20 != 0 || lo / 2 ^ 48 != 0 then .error ⟨10, 0⟩
  else s.walkFrom asid va walkLevels (lo / 2 ^ 21 % 2 ^ 27 * 2 ^ 21)

/-- A translation cache holds the page (R406). -/
def tlbFind (t : List TlbEnt) (asid : BitVec 16) (va : W64) : Option TlbEnt :=
  t.find? (fun e => e.asid == asid && e.vpn == va.toNat / 2 ^ e.bits)

/-- The page of an address: from the cache, or by a walk (R406). -/
def State.pageOf (s : State) (t : List TlbEnt) (asid : BitVec 16) (va : W64) : Except XFault TlbEnt :=
  match tlbFind t asid va with
  | some e => .ok e
  | none => s.walk asid va

/-- The level of the leaf that maps a page (R403). -/
def TlbEnt.level (e : TlbEnt) : Nat := if e.bits = 30 then 3 else if e.bits = 21 then 2 else 1

/-- Translate one address for an access (R46, R47, R403 to R406). A device-register DPA outside the Drift counter
window ends as XLATE with KIND 8 whatever its mapping allows (R47, R394). A fault after the leaf carries the leaf's level, whether or not a cache held
the page, since a faulting access walks (R405, R406; log 11). -/
def State.xlate (s : State) (t : List TlbEnt) (asid : BitVec 16) (va : W64) (acc : Acc) : Except XFault Nat :=
  if !canonical va then .error ⟨1, 0⟩
  else match s.pageOf t asid va with
    | .error f => .error f
    | .ok e =>
      let dpa := e.dpa + va.toNat % 2 ^ e.bits
      if regionOf dpa == .regs then .error ⟨8, e.level⟩
      else if !permOk e.perm acc then .error ⟨3, e.level⟩
      else if regionOf dpa == .unmapped then .error ⟨4, e.level⟩ else .ok dpa

/-- Translate a range of bytes: its pieces (DPA, bytes) page by page, or the address and fault of the first byte that
fails. Pages are at least 64 KiB (R403); a piece that runs past the counter window into the device registers fails there
(R47). -/
def State.xlateRange (s : State) (t : List TlbEnt) (asid : BitVec 16) (acc : Acc) :
    Nat → W64 → Nat → Except (W64 × XFault) (List (Nat × Nat))
  | 0, _, _ => .ok []
  | fuel + 1, va, n =>
    if n = 0 then .ok []
    else match s.xlate t asid va acc with
      | .error f => .error (va, f)
      | .ok dpa =>
        let here := min n (65536 - va.toNat % 65536)
        if regionOf dpa == .counters && Config.countersEnd < dpa + here then
          .error (va + BitVec.ofNat 64 (Config.countersEnd - dpa), ⟨8, match s.pageOf t asid va with | .ok e => e.level | .error _ => 0⟩)
        else match s.xlateRange t asid acc fuel (va + BitVec.ofNat 64 here) (n - here) with
        | .ok r => .ok ((dpa, here) :: r)
        | .error e => .error e

/-- A cache of some entries with the page of an address installed, where it misses and its walk succeeds (R406; log 11
for the entry that goes when it is full). -/
def State.tlbAdd (s : State) (t : List TlbEnt) (size : Nat) (asid : BitVec 16) (va : W64) : List TlbEnt :=
  match tlbFind t asid va with
  | some _ => t
  | none =>
    match s.walk asid va with
    | .ok e => (t ++ [e]).drop (t.length + 1 - size)
    | .error _ => t

/-- Install the page of an address in the core's cache of 256 entries (R406). -/
def State.tlbFill (s : State) (c : Nat) (asid : BitVec 16) (va : W64) : State :=
  match tlbFind (s.core c).tlb asid va with
  | some _ => s
  | none => s.setCore c { s.core c with tlb := s.tlbAdd (s.core c).tlb 256 asid va }

/-- The addresses in a range at which a page of the smallest size begins, and its first. -/
def pageStarts (va : W64) (n : Nat) : List W64 :=
  va :: (List.range ((va.toNat % 65536 + n - 1) / 65536)).map (fun i =>
    BitVec.ofNat 64 (va.toNat / 65536 * 65536 + 65536 * (i + 1)))

/-- The page number by which a walk is known (R406). -/
def pageNo (va : W64) : Nat := va.toNat / 65536 % 2 ^ 41
/-- The pages that the context in focus has at hand: those that its walks have brought, and its core's cache (R406). -/
def Ctx.walkedPages (x : Ctx) : List TlbEnt := x.walked.filterMap (fun w => match w.out with | .ok e => some e | .error _ => none)
def State.atHand (s : State) : List TlbEnt := s.cx.walkedPages ++ s.fcore.tlb
/-- The fault with which a walk of the page has ended for the context in focus (R406). -/
def State.walkFault (s : State) (va : W64) : Option XFault :=
  s.cx.walked.findSome? (fun w => match w.out with | .error f => if w.page = pageNo va then some f else none | .ok _ => none)

/-- Translate for the context in focus. -/
def State.xl (s : State) (va : W64) (acc : Acc) : Except XFault Nat :=
  match s.walkFault va with
  | some f => if canonical va then .error f else .error ⟨1, 0⟩
  | none => s.xlate s.atHand s.cx.launch.asid va acc

/-- The pieces of a range for the context in focus, page by page (R403, R406). -/
def State.xlPieces (s : State) (acc : Acc) : Nat → W64 → Nat → Except (W64 × XFault) (List (Nat × Nat))
  | 0, _, _ => .ok []
  | fuel + 1, va, n =>
    if n = 0 then .ok []
    else
      let here := min n (65536 - va.toNat % 65536)
      let now : Except (W64 × XFault) (List (Nat × Nat)) := match s.walkFault va with
        | some f => if canonical va then .error (va, f) else .error (va, ⟨1, 0⟩)
        | none => s.xlateRange s.atHand s.cx.launch.asid acc 1 va here
      match now with
      | .error e => .error e
      | .ok ps =>
        match s.xlPieces acc fuel (va + BitVec.ofNat 64 here) (n - here) with
        | .ok r => .ok (ps ++ r)
        | .error e => .error e
def State.xlRange (s : State) (va : W64) (n : Nat) (acc : Acc) : Except (W64 × XFault) (List (Nat × Nat)) :=
  s.xlPieces acc (n / 65536 + 2) va n

/-! Visibility (R49 to R58). Memory holds what each home holds; an agent reads a byte that it lags on as it has seen it. -/

/-- This device as it is reached through the panel edge, by naming itself as a peer (R47). -/
def edgeTdev : Nat := 2 ^ 16 + ownTdev
/-- The device whose memory it is. -/
def homeTdev (dev : Nat) : Nat := if dev = edgeTdev then ownTdev else dev

/-- The place of a DPA on its device: the device's number, and its own DPA there; none outside memory (R47). -/
def placeOf (a : Nat) : Option (Nat × Nat) :=
  match regionOf a with
  | .hbm | .firn | .window => some (ownTdev, a)
  | .remote p off => if regionOf off == .counters then none else some (if panelTdev p = ownTdev then edgeTdev else panelTdev p, off)
  | _ => none

/-- The home of a Firn byte: its slice of the device (R245). -/
def firnSlice (a : Nat) : Nat :=
  let l := (a - Config.firnBase) / 256
  (l % 256) ^^^ (l / 256 % 256) ^^^ (l / 65536 % 8)
/-- The line of a Firn byte in its slice (R245). -/
def firnLine (a : Nat) : Nat := (a - Config.firnBase) / 256 / 256 % 2048
/-- The die on which a byte of this device lies: of its Firn slice, or of its HBM stack; the coherent window, the device
registers and other devices lie on none (R12, R54, R245). -/
def dieOfByte (a : Nat) : Option Nat :=
  match regionOf a with
  | .hbm => some (a / 2 ^ 37)
  | .firn => some (firnSlice a / 64)
  | _ => none

/-- The core at which an agent sits (R54). -/
def Agent.core : Agent → Option Nat
  | .ctx c _ | .cmd c _ _ => some c
  | _ => none
/-- The die at which an agent sits: Moraine units 64d to 64d + 63 serve the stacks of die d; Drift and the launch units
sit at the device (R12, R54, R334). -/
def Agent.die : Agent → Option Nat
  | .ctx c _ | .cmd c _ _ => some (coreDie c)
  | .unit u => some (u / 64)
  | _ => none
/-- The quad of a core (R13). -/
def quadOf (c : Nat) : Nat × Nat := (coreX c / 2, coreY c / 2)
/-- An agent of this device. -/
def Agent.onDevice : Agent → Bool
  | .peer _ | .host => false
  | _ => true
/-- The panel of an agent's device; none for the host (R7). -/
def Agent.panel : Agent → Option Nat
  | .peer d => some (d / 64)
  | .host => none
  | _ => some (ownTdev / 64)
/-- The bytes that an agent's accesses take together, at the least (R57). -/
def Agent.grain : Agent → Nat
  | .ctx .. | .launcher _ => 8
  | _ => 64

/-- A scope taken around an agent contains another (R7, R54). -/
def inScope (scope : Nat) (a b : Agent) : Bool :=
  match scope with
  | 0 => a.core.isSome && a.core == b.core
  | 1 => a.core.isSome && a.core.map quadOf == b.core.map quadOf
  | 2 => a.die.isSome && a.die == b.die
  | 3 => a.onDevice && b.onDevice
  | 4 => a.panel.isSome && a.panel == b.panel
  | 5 => a != .host && b != .host
  | _ => true
/-- A scope taken around an agent contains a byte that lies on a die, or on none: CORE and QUAD contain no memory, and DIE that
of the agent's own die (R7, R54). -/
def dieInScope (scope : Nat) (a : Agent) (die : Option Nat) : Bool :=
  if scope ≤ 1 then false else if scope = 2 then a.die.isSome && a.die == die else true
/-- The same for a DPA of this device. -/
def byteInScope (scope : Nat) (a : Agent) (dpa : Nat) : Bool := dieInScope scope a (dieOfByte dpa)
/-- The DPA by which this device reaches a byte of a device (R47). -/
def dpaOf (dev at' : Nat) : Nat := if dev = ownTdev then at' else Config.remoteBase + dev % 64 * 2 ^ 40 + at'
/-- The die of a byte as a lagging agent reaches it, and of a write of it as its writer did (R47, R54). -/
def Lag.die (g : Lag) : Option Nat := dieOfByte (dpaOf g.dev g.at')
def Lag.dieOf (g : Lag) (w : Unseen) : Option Nat := if w.edge then none else dieOfByte (dpaOf (homeTdev g.dev) g.at')
/-- The DPA of a sync object; none for one that is no memory. -/
def SyncObj.dpa : SyncObj → Option Nat
  | .latch a | .barrier a => some a
  | _ => none
/-- A release and an acquire of an object meet: each scope contains the other agent, the object and the byte, as the writer
and as the reader reach it (R54). -/
def scopesMeet (o : SyncObj) (rs : Nat) (r : Agent) (as : Nat) (a : Agent) (wdie rdie : Option Nat) : Bool :=
  inScope rs r a && inScope as a r && dieInScope rs r wdie && dieInScope as a rdie &&
  o.dpa.all (fun d => byteInScope rs r d && byteInScope as a d)

/-- An agent lags on a byte. -/
def Lag.is (g : Lag) (ag : Agent) (dev at' : Nat) : Bool := g.agent == ag && g.dev == dev && g.at' == at'
/-- What an agent that misses writes of a byte sees of it. -/
def State.lagOf (s : State) (ag : Agent) (dev at' : Nat) : Option Lag :=
  s.lags.find? (fun g => g.is ag dev at' && !g.unseen.isEmpty)
/-- Bytes of a device as an agent sees them, from what their home holds (R53, R57). -/
def State.asSeen (s : State) (ag : Agent) (dev a : Nat) (bs : List Byte) : List Byte :=
  if s.lags.isEmpty then bs
  else (bs.zipIdx).map (fun p => ((s.lagOf ag dev (a + p.2)).map Lag.seen).getD p.1)
/-- A byte reads as an uncorrectable error for an agent: as its home holds it, or as the agent has seen it (R246, R358). -/
def State.badFor (s : State) (ag : Agent) (dev at' : Nat) : Bool :=
  match s.lagOf ag dev at' with
  | some g => g.bad
  | none => homeTdev dev == ownTdev && s.ueIn at' 1
/-- What an agent reads at a DPA (R53, R57). -/
def State.readAs (s : State) (ag : Agent) (a n : Nat) : Except Resp (List Byte) :=
  let bad (dev off : Nat) : Bool := (List.range n).any (fun i => s.badFor ag dev (off + i))
  if s.lags.isEmpty then s.readDpa a n
  else match s.readDpa a n, placeOf a with
    | .ok bs, some (dev, off) => if bad dev off then .error 1 else .ok (s.asSeen ag dev off bs)
    | .error 1, some (dev, off) =>
      if bad dev off then .error 1 else .ok (s.asSeen ag dev off (readBytes (s.devMem (homeTdev dev)) off n))
    | r, _ => r

/-- A write of the range would change a part only of a granule of this device with an uncorrectable error, by whatever path (R47,
R144, R358). -/
def State.partBadAt (s : State) (a n : Nat) : Bool :=
  match placeOf a with
  | some (dev, off) => homeTdev dev == ownTdev && s.partBad off n
  | none => false

/-- The writes of a lag up to the last that satisfies a test have reached its agent. -/
def Lag.upTo (g : Lag) (p : Unseen → Bool) : Lag :=
  match (g.unseen.zipIdx).reverse.find? (fun q => p q.1) with
  | some (w, i) => { g with seen := w.byte, bad := w.bad, unseen := g.unseen.drop (i + 1) }
  | none => g
/-- The grain of memory in which a lag lies, for its agent. -/
def Lag.unit (g : Lag) : Agent × Nat × Nat := (g.agent, homeTdev g.dev, g.at' / g.agent.grain)
/-- Grains that writes have just reached, from the lags before and after, and how far in the order. -/
def cameTo (before after : List Lag) : List ((Agent × Nat × Nat) × Nat) :=
  (before.zip after).filterMap (fun q =>
    match (q.1.unseen.take (q.1.unseen.length - q.2.unseen.length)).getLast? with
    | some w => some (q.1.unit, w.seq)
    | none => none)
/-- Writes reach an agent on the bytes that satisfy a test. Of each grain the agent sees one point of the coherence order: a
write brings what is written with it there, and what is older (R57). -/
def State.reachLags (s : State) (whose : Lag → Bool) (p : Lag → Unseen → Bool) : State :=
  if s.lags.isEmpty then s
  else
    let l := s.lags.map (fun g => if whose g then g.upTo (p g) else g)
    let came := cameTo s.lags l
    { s with lags := l.map (fun g => g.upTo (fun w => came.any (fun c => c.1 == g.unit && w.seq ≤ c.2))) }

/-- Agents' bytes reach the memory of a device, by its own DPA there, in one write: the other agents that lag on one of them
miss the write. A writer sees the grain of what it writes as it then stands, and so does an agent that lags on a part only of
what is written in a grain (R57). -/
def State.noteBytes (s : State) (ags : List Agent) (dev : Nat) (ws : List (Nat × Byte)) : State :=
  if s.lags.isEmpty then s
  else
    let seq := 1 + ((s.lags.flatMap Lag.unseen).map Unseen.seq).foldl max 0
    let home := homeTdev dev
    let here (g : Lag) : List (Nat × Byte) :=
      if homeTdev g.dev = home then ws.filter (fun w => w.1 / g.agent.grain == g.at' / g.agent.grain) else []
    let sees (g : Lag) : Bool := !(here g).isEmpty &&
      (ags.contains g.agent || (here g).any (fun w => !s.lags.any (fun h => h.agent == g.agent && homeTdev h.dev == home && h.at' == w.1)))
    let still (at' : Nat) : Bool := home == ownTdev && s.ueIn at' 1 &&
      !(List.range (granuleSize (at' / 8))).all (fun i => ws.any (fun w => w.1 == 8 * granuleOf (at' / 8) + i))
    let s1 := s.reachLags sees (fun _ _ => true)
    { s1 with lags := s1.lags.filterMap (fun g =>
        if sees g then none
        else match (here g).find? (fun w => w.1 == g.at') with
          | none => some g
          | some w => some { g with unseen := g.unseen ++
              [{ seq := seq, byte := w.2, bad := still g.at', edge := dev == edgeTdev, writers := ags, holders := [], released := [] }] }) }
/-- Consecutive bytes from an address. -/
def bytesAt (a : Nat) (bs : List Byte) : List (Nat × Byte) := (bs.zipIdx).map (fun p => (a + p.2, p.1))
/-- Agents' bytes reach memory at a DPA. -/
def State.noteAt (s : State) (ags : List Agent) (a : Nat) (bs : List Byte) : State :=
  match placeOf a with
  | some (dev, off) => s.noteBytes ags dev (bytesAt off bs)
  | none => s
/-- Write bytes of HBM, Firn or the window for agents. -/
def State.storeMem (s : State) (ags : List Agent) (a : Nat) (bs : List Byte) : State := (s.noteAt ags a bs).writeMem a bs
/-- Write bytes of HBM, Firn or the window that every agent sees at once: what Nunatak writes (R111, R412). -/
def State.publish (s : State) (a : Nat) (bs : List Byte) : State :=
  { s with lags := s.lags.filter (fun g => !(homeTdev g.dev == ownTdev && a ≤ g.at' && g.at' < a + bs.length)) }.writeMem a bs
/-- Write bytes of a device for agents. -/
def State.storeDev (s : State) (ags : List Agent) (dev a : Nat) (bs : List Byte) : State :=
  (s.noteBytes ags dev (bytesAt a bs)).writeDev (homeTdev dev) a bs
/-- Write bytes at a DPA for agents; an error response leaves the state. -/
def State.writeAs (s : State) (ags : List Agent) (a : Nat) (bs : List Byte) : Except Resp State :=
  match s.writeDpa a bs with
  | .error e => .error e
  | .ok _ => (s.noteAt ags a bs).writeDpa a bs

/-- Pieces written at their DPAs; the first error response stops. -/
def State.writeRaw (s : State) : List (Nat × List Byte) → Except Resp State
  | [] => .ok s
  | (a, bs) :: r =>
    match s.writeDpa a bs with
    | .error e => .error e
    | .ok t => t.writeRaw r
/-- Pieces of one line written together for agents: all of them, or none and an error response (R57, R241, R267). -/
def State.writeTogether (s : State) (ags : List Agent) (l : List (Nat × List Byte)) : Except Resp State :=
  let places := l.filterMap (fun p => (placeOf p.1).map (fun q => (q.1, bytesAt q.2 p.2)))
  match s.writeRaw l with
  | .error e => .error e
  | .ok _ =>
    (match places with
     | q :: _ => s.noteBytes ags q.1 (places.flatMap Prod.snd)
     | [] => s).writeRaw l

/-- An agent holds a write: it made it, or it has acquired it (R51). -/
def Unseen.heldBy (w : Unseen) (a : Agent) : Bool := w.writers.contains a || w.holders.contains a
/-- Agents hold the unseen writes that satisfy a test. -/
def State.share (s : State) (ags : List Agent) (p : Lag → Unseen → Bool) : State :=
  if s.lags.isEmpty then s
  else { s with lags := s.lags.map (fun g => { g with unseen := g.unseen.map (fun w =>
    if p g w then { w with holders := w.holders ++ ags.filter (fun a => !w.heldBy a) } else w) }) }

/-- A release by an agent on an object, over the bytes that it covers: the writes that the agent holds (R51). -/
def State.release (s : State) (ag : Agent) (o : SyncObj) (scope : Nat) (covers : Nat → Nat → Bool) : State :=
  if s.lags.isEmpty then s
  else { s with lags := s.lags.map (fun g =>
    if covers (homeTdev g.dev) g.at' then
      { g with unseen := g.unseen.map (fun w => if w.heldBy ag then { w with released := w.released ++ [(o, scope, ag)] } else w) }
    else g) }
/-- An acquire by an agent of what has been released on objects: the writes reach it, and it holds them (R52 to R54). -/
def State.acquire (s : State) (ag : Agent) (scope : Nat) (objs : SyncObj → Bool) : State :=
  if s.lags.isEmpty then s
  else
    let hit (g : Lag) (w : Unseen) : Bool :=
      w.released.any (fun r => objs r.1 && scopesMeet r.1 r.2.1 r.2.2 scope ag (g.dieOf w) (if g.agent = ag then g.die else g.dieOf w))
    let seqs := s.lags.flatMap (fun g => (g.unseen.filter (hit g)).map (fun w => (homeTdev g.dev, g.at', w.seq)))
    let came (g : Lag) (w : Unseen) : Bool := if g.agent = ag then hit g w else seqs.contains (homeTdev g.dev, g.at', w.seq)
    (s.share [ag] came).reachLags (fun g => g.agent == ag) came
/-- What an agent has acquired of some objects passes on with the objects through which another of its context learns of it: by
the signal or the status of a command that acquired it; without a scope of its own, at that of the release (R52, R259, R272). -/
def State.passOn (s : State) (ag : Agent) (scope : Option Nat) (objs : SyncObj → Bool) (out : List SyncObj) : State :=
  if s.lags.isEmpty then s
  else { s with lags := s.lags.map (fun g => { g with unseen := g.unseen.map (fun w =>
    if w.released.any (fun r => objs r.1 && scopesMeet r.1 r.2.1 r.2.2 (scope.getD r.2.1) ag (g.dieOf w) (g.dieOf w)) then
      { w with released := w.released ++ out.map (fun o => (o, 6, ag)) }
    else w) }) }
/-- The bytes that an agent wrote, as far as another has not seen it. -/
def State.wroteBy (s : State) (ag : Agent) (dev at' : Nat) : Bool :=
  s.lags.any (fun g => homeTdev g.dev == dev && g.at' == at' && g.unseen.any (fun w => w.writers.contains ag))
/-- The completion of a command is known by an object (R50). -/
def State.markDone (s : State) (ag : Agent) (o : SyncObj) : State :=
  if s.lags.isEmpty then s
  else { s with lags := s.lags.map (fun g => { g with unseen := g.unseen.map (fun w =>
    if w.writers.contains ag then { w with released := w.released ++ [(o, 6, ag)] } else w) }) }
/-- A context observes the completion of a command: what the command wrote counts as its own from then on (R50, R63 note 4). -/
def State.observe (s : State) (ag : Agent) (o : SyncObj) : State :=
  s.share [ag] (fun _ w => w.released.any (fun r => r.1 == o))

/-- An agent's own writes are performed at a scope: every agent within it sees them (R59, R132). -/
def State.performStores (s : State) (ag : Agent) (scope : Nat) : State :=
  s.reachLags (fun g => inScope scope ag g.agent && dieInScope scope ag g.die)
    (fun g w => w.writers.contains ag && dieInScope scope ag (g.dieOf w))
/-- A command of a context begins its accesses: the context's own earlier writes to the bytes that it accesses are performed at
the command's scope, and the agent that makes the accesses sees them; with the ACQ flag it sees and holds what the context
has acquired, as far as its scope contains the context and the bytes (R54, R55, R63 note 2). -/
def State.beginOver (s : State) (o : Origin) (g : EngArgs) (ag : Agent) (mine others : Nat → Nat → Bool) : State :=
  if s.lags.isEmpty then s
  else
    let own := o.ctxAgent
    let sc := g.scope.toNat
    let at' (l : Lag) (c : Nat → Nat → Bool) : Bool := c (homeTdev l.dev) l.at'
    let takes (l : Lag) (w : Unseen) : Bool := g.acq == 1 && inScope sc ag own && dieInScope sc ag l.die && at' l mine && w.heldBy own
    let s1 := s.share [ag] takes
    s1.reachLags (fun l => (l.agent == ag && at' l mine) || (inScope sc own l.agent && dieInScope sc own l.die && at' l others))
      (fun l w => (w.writers.contains own && (l.agent == ag || dieInScope sc own (l.dieOf w))) || (l.agent == ag && takes l w))

/-- A byte of a device lies in a range of virtual memory: at its place in some page of the range (R48). -/
def State.byteInRange (s : State) (asid : BitVec 16) (va size dev b : Nat) : Bool :=
  (List.range ((va % 65536 + size + 65535) / 65536)).any (fun i =>
    let v := va / 65536 * 65536 + 65536 * i + b % 65536
    va ≤ v && v < va + size &&
    (match s.walk asid (BitVec.ofNat 64 v) with
     | .ok e => (placeOf (e.dpa + v % 2 ^ e.bits)).any (fun p => homeTdev p.1 == dev && p.2 == b)
     | .error _ => false))
/-- The bytes of a launch's regions of a KIND whose sync object stands at a DPA (R48, R51). -/
def State.boundTo (s : State) (e : LaunchEnv) (kind dpa dev b : Nat) : Bool :=
  e.regions.any (fun r => r.2.2.1 == kind &&
    (match s.walk e.asid (BitVec.ofNat 64 r.2.2.2) with
     | .ok p => p.dpa + r.2.2.2 % 2 ^ p.bits == dpa
     | .error _ => false) && s.byteInRange e.asid r.1 r.2.1 dev b)

/-- The bytes of some pieces of memory. -/
def inPieces (ps : List (Nat × Nat)) (dev b : Nat) : Bool :=
  ps.any (fun p => match placeOf p.1 with
    | some (d, off) => homeTdev d == dev && off ≤ b && b < off + p.2
    | none => false)

/-- Translated pieces as their homes hold them, in order; the first error response stops. -/
def State.readHomes (s : State) : List (Nat × Nat) → Except Resp (List Byte)
  | [] => .ok []
  | (a, n) :: r =>
    match s.readDpa a n with
    | .error e => .error e
    | .ok bs =>
      match s.readHomes r with
      | .ok rest => .ok (bs ++ rest)
      | .error e => .error e

/-- Read translated pieces for an agent, in order; the first error response stops. -/
def State.readPieces (s : State) (ag : Agent) : List (Nat × Nat) → Except Resp (List Byte)
  | [] => .ok []
  | (a, n) :: r =>
    match s.readAs ag a n with
    | .error e => .error e
    | .ok bs =>
      match s.readPieces ag r with
      | .ok rest => .ok (bs ++ rest)
      | .error e => .error e

/-- Write translated pieces for agents, in order; the first error response stops, with nothing of its piece written. -/
def State.writePieces (s : State) (ags : List Agent) : List (Nat × Nat) → List Byte → Except Resp State
  | [], _ => .ok s
  | (a, n) :: r, bs =>
    match s.writeAs ags a (bs.take n) with
    | .error e => .error e
    | .ok s' => s'.writePieces ags r (bs.drop n)

/-! The local store (R33, R234, R236). -/

/-- The physical offset of a byte of a launch's share (R234). -/
def LaunchEnv.phys (e : LaunchEnv) (off : Nat) : Nat := 16384 * e.umap.getD (off / 16384) 0 + off % 16384

/-- The access lies wholly below LSNEED (R33). -/
def LaunchEnv.inShare (e : LaunchEnv) (off n : Nat) : Bool := off + n ≤ e.lsneed

/-- n bytes of a core's local store from an offset of a share. -/
def Core.lsRead (k : Core) (e : LaunchEnv) (off : Nat) : Nat → List Byte
  | 0 => []
  | n + 1 => tget 0 k.ls (e.phys off) :: k.lsRead e (off + 1) n

/-- A write of a whole 32-byte chunk stores fresh check bits; a partial write leaves the error in place (R236). -/
def Core.lsWrite (k : Core) (e : LaunchEnv) (off : Nat) (bs : List Byte) : Core :=
  let ls := (bs.zipIdx).foldl (fun t p => tput 0 t (e.phys (off + p.2)) p.1) k.ls
  let whole := if k.lsUe.isEmpty then [] else
    (List.range (bs.length / 32 + 1)).filterMap (fun i =>
      let a := (off + 31) / 32 * 32 + 32 * i
      if a + 32 ≤ off + bs.length then some (e.phys a / 32) else none)
  { k with ls := ls, lsUe := whole.foldl tdel k.lsUe }

/-- Words of one instruction are written to the local store, each in its turn: a chunk that they cover whole gets fresh check
bits (R212, R236). -/
def Core.lsWriteWords (k : Core) (e : LaunchEnv) (ws : List (Nat × W32)) : Core :=
  let k1 := ws.foldl (fun k w => k.lsWrite e w.1 (bytesOfNat 4 w.2.toNat)) k
  if k1.lsUe.isEmpty then k1
  else
    let whole := ((ws.map (fun w => w.1 / 32)).eraseDups).filter (fun c => (List.range 8).all (fun j => ws.any (fun w => w.1 == 32 * c + 4 * j)))
    { k1 with lsUe := whole.foldl (fun t c => tdel t (e.phys (32 * c) / 32)) k1.lsUe }

/-- The first chunk of a range that holds an uncorrectable error, as an offset of the share (R236, R393). -/
def Core.lsBad (k : Core) (e : LaunchEnv) (off n : Nat) : Option Nat :=
  if k.lsUe.isEmpty then none
  else ((List.range n).find? (fun i => tget false k.lsUe (e.phys (off + i) / 32))).map (fun i => (off + i) / 32 * 32)

/-! Signals and result queues (R128, R130, R238, R239, R401). -/

/-- The context of a core that holds a launch, or what is left of it (R39, R41). -/
def Core.find (k : Core) (lid : Nat) : Option Nat :=
  (k.ctxs.find? (fun p => p.2.env.any (fun e => e.lid == lid))).map (fun p => p.1)

/-- Add to a semaphore: past 0xFFFF it stays there and SEMOVF is due before the next bundle (R130). -/
def Ctx.semAdd (x : Ctx) (sem inc : Nat) : Ctx :=
  let v := (tget 0 x.a.c.sem sem).toNat + inc
  let c := { x.a.c with sem := tput 0 x.a.c.sem sem (BitVec.ofNat 16 (min v 0xFFFF)) }
  if v ≤ 0xFFFF then { x with a := { x.a with c := c } }
  else
    let lowest := match x.a.p.semovf with | some j => min j sem | none => sem
    { x with a := { x.a with c := c, p := { x.a.p with semovf := some lowest } } }

/-- Fill a reserved slot (R238). -/
def QueueSt.fill (q : QueueSt) (code id : Nat) (v : W64) : QueueSt :=
  { q with q := tput [] q.q code ((tget [] q.q code).map (fun e => if e.id = id then { e with entry := some v } else e)) }

/-- A signal or a fill applied to a context. -/
def Ctx.applyInput (x : Ctx) : Input → Ctx
  | .signal sem inc => x.semAdd sem inc
  | .fill code id v => { x with a := { x.a with q := x.a.q.fill code id v } }
  | _ => x

/-- A signal or a fill reaches a context. In a guarded launch it is recorded (R300); while a rerun still replays earlier
inputs it waits behind them (R303). -/
def Ctx.input (x : Ctx) (i : Input) : Ctx :=
  let r : Record := { at' := x.a.c.bcount, what := i }
  if x.env.any LaunchEnv.guard then
    if x.guard.replayLeft.isEmpty then
      ({ x with guard := { x.guard with record := x.guard.record ++ [r] } }).applyInput i
    else { x with guard := { x.guard with replayLeft := x.guard.replayLeft ++ [r] } }
  else x.applyInput i

/-- A signal to a launch's context on a core: applied where the context stands, or added to its parking record, or
dropped when neither exists (R128, R242, R273, R401). -/
def State.signal (s : State) (c lid sem inc : Nat) : State :=
  if inc = 0 then s
  else
    let k := s.core c
    match k.find lid with
    | some n => s.setCtxAt c n ((k.ctx n).input (.signal sem inc))
    | none => s.setCore c { k with parking := k.parking.map (fun p =>
        if p.lid = lid then
          { p with deltas := tput 0 p.deltas sem (BitVec.ofNat 16 (min ((tget 0 p.deltas sem).toNat + inc) 0xFFFF)) }
        else p) }

/-- The launch that a command answers to, wherever its context stands. -/
def State.envOf (s : State) (o : Origin) : LaunchEnv :=
  match (s.core o.core).find o.lid with
  | some n => (s.ctxAt o.core n).launch
  | none =>
    match (s.core o.core).parking.find? (fun p => p.lid == o.lid) with
    | some p => p.ctx.launch
    | none => noLaunch

/-- A command's completion is known by an object (R50): with the REL flag it is a release of every byte that the command wrote
(R51, R55). -/
def State.completes (s : State) (ag : Agent) (g : Signal) (rel done : SyncObj) : State :=
  (if g.rel then s.release ag rel g.scope (s.wroteBy ag) else s).markDone ag done

/-- Apply a command's signal field (R55, R263). -/
def State.applySignal (s : State) (o : Origin) (g : Signal) : State :=
  (s.completes o.agent g (.sem o.core o.lid g.sem) (.doneSem o.core o.lid g.sem)).signal o.core o.lid g.sem g.inc

/-- A queue of a context (R207, R237). -/
def QueueSt.slots (q : QueueSt) (code : Nat) : List QSlot := tget [] q.q code

/-- Reserve n slots of a queue for one command; the first id (R238, R239). -/
def QueueSt.reserve (q : QueueSt) (code n : Nat) : Nat × QueueSt :=
  let id := tget 0 q.nextId code
  let seq := tget 0 q.seq code
  let new := (List.range n).map (fun i => ({ id := id + i, seq := seq, entry := none } : QSlot))
  (id, { q := tput [] q.q code (q.slots code ++ new), seq := tput 0 q.seq code ((seq + 1) % 65536),
         nextId := tput 0 q.nextId code (id + n) })

/-- A queue has n free slots (R237, R238). -/
def QueueSt.room (q : QueueSt) (code n : Nat) : Bool := (q.slots code).length + n ≤ 32

/-- The number of each result queue (R207). -/
def qMem : Nat := 0
def qCopy : Nat := 1
def qSerac : Nat := 2
def qName : Nat := 3
def qDrift : Nat := 4
def qMor : Nat := 5

/-- A status entry (R239). -/
def statusEntry (status op seq detail : Nat) : W64 :=
  BitVec.ofNat 8 status ++ BitVec.ofNat 6 op ++ (0 : BitVec 2) ++ BitVec.ofNat 16 seq ++ BitVec.ofNat 32 detail

/-- Fill a slot of a launch's context, or keep the fill in its parking record (R238, R401). -/
def State.fillRaw (s : State) (c lid code id : Nat) (v : W64) : State :=
  let k := s.core c
  match k.find lid with
  | some n => s.setCtxAt c n ((k.ctx n).input (.fill code id v))
  | none => s.setCore c { k with parking := k.parking.map (fun p =>
      if p.lid = lid then { p with fills := p.fills ++ [(code, id, v)] } else p) }

/-- The ISEQ of a reserved slot of a launch's context, wherever the context stands (R239). -/
def State.slotSeq (s : State) (c lid code id : Nat) : Nat :=
  let look (x : Ctx) : Option Nat := ((x.a.q.slots code).find? (fun e => e.id == id)).map QSlot.seq
  match (s.core c).find lid with
  | some n => (look ((s.core c).ctx n)).getD 0
  | none =>
    match (s.core c).parking.find? (fun p => p.lid == lid) with
    | some p => (look p.ctx).getD 0
    | none => 0

/-- Fill a slot with a status entry (R239). -/
def State.fillStatus (s : State) (o : Origin) (code id op status detail : Nat) : State :=
  s.fillRaw o.core o.lid code id (statusEntry status op (s.slotSeq o.core o.lid code id) detail)

/-! SMEM_ERR (R121). -/

/-- Record an error response in a context's SMEM_ERR; while V is 1, only in the event log (R121, R424). One that reaches a
context that has left the core meanwhile is only logged: the spec does not say (DESIGN CHOICE, log 30). -/
def State.smemErr (s : State) (o : Origin) (cause : Nat) (va : W64) : State :=
  let more (s : State) : State := s.log o.core 0x000F (bytesOfNat 8 va.toNat ++ [BitVec.ofNat 8 cause])
  match (s.core o.core).find o.lid with
  | none => more s
  | some n =>
    let x := s.ctxAt o.core n
    if x.a.c.smemErr.getLsbD 63 then more s
    else
      let v : W64 := (1 : BitVec 1) ++ BitVec.ofNat 3 cause ++ (0 : BitVec 3) ++ va.extractLsb' 0 57
      s.setCtxAt o.core n { x with a := { x.a with c := { x.a.c with smemErr := v } } }

/-! Taking an exception and returning from one (R137, R138, R390 to R394). -/

/-- The trap causes (R390). -/
inductive Cause where
  | ill | wport | semovf | replay | xlate | sfmt | ckspan | mchk | swtrap | sdata
  deriving DecidableEq, Repr

/-- TRAP_CAUSE (R390). -/
def Cause.code : Cause → Nat
  | .ill => 1 | .wport => 2 | .semovf => 3 | .replay => 4 | .xlate => 5 | .sfmt => 6 | .ckspan => 7 | .mchk => 8
  | .swtrap => 9 | .sdata => 10

/-- XLATE_INFO (R394). -/
def xlateInfoOf (acc : Acc) (f : XFault) : W64 := BitVec.ofNat 64 (acc.code * 4096 + f.level * 256 + f.kind)

/-- Every result in flight is discarded and the tile task is over (R37, R139). -/
def Ctx.endTask (x : Ctx) : Ctx :=
  { x with tile := none, lds := none, acq := none, iss := .idle, walked := [],
           a := { x.a with v := { x.a.v with landing := [], poison := [], replay := [] },
                           p := { x.a.p with after := none },
                           c := { x.a.c with held := none, active := false } } }

/-- A committed launch by its LAUNCH_ID: its reference (R32). -/
def State.launchRef (s : State) (lid : Nat) : Option Nat :=
  (s.launches.find? (fun p => p.2.lid == lid && lid != 0)).map (fun p => p.1)

/-- A running launch is to end with a code: its tile tasks stop at their next preemption point (R31). -/
def State.stopLaunch (s : State) (lid code : Nat) : State :=
  match s.launchRef lid with
  | none => s
  | some r =>
    match tfind s.launches r with
    | some l =>
      match l.phase with
      | .running => { s with launches := tset s.launches r { l with phase := .stopping code } }
      | _ => s
    | none => s

/-- Trap entry (R138): TRAP_PC, TRAP_CAUSE and TRAP_INFO are written; where the vector is 0 or a trap is active the tile
task ends and its launch ends FAULT; otherwise the landing buffer, the loop state and RUN_LEFT are held, ACTIVE is set
and issue continues at the vector. Entry takes 3 ACLK. -/
def State.enterTrap (s : State) (cause : Cause) (info pc : W64) : State :=
  let c0 := s.cx.a.c
  let vec := if cause = .replay then c0.replayVec else c0.trapVec
  let s1 := s.modCtl (fun c => { c with trapPc := pc, trapCause := BitVec.ofNat 64 cause.code, trapInfo := info })
  let s2 := s1.setFcore { s1.fcore with acycle := s1.acycleOf s1.focusCore + 3 }
  let s3 := if cause = .mchk then
      s2.log s.focusCore 0x0005 (bytesOfNat 8 (info.toNat / 65536) ++
        [BitVec.ofNat 8 (info.toNat % 16), BitVec.ofNat 8 (info.toNat / 256)])
    else s2
  if vec = 0 || c0.active then
    let lid := s.cx.launch.lid
    let s4 := s3.log s.focusCore 0x0004 (bytesOfNat 8 lid ++ [BitVec.ofNat 8 cause.code, BitVec.ofNat 8 s.focusCtx])
    (s4.modCx Ctx.endTask).stopLaunch lid 7
  else
    (s3.modCx (fun x => { x with
      iss := .idle
      walked := []
      a := { x.a with
        c := { x.a.c with held := some { landing := x.a.v.landing, loops := x.a.c.loops, runLeft := x.a.c.runLeft, pc := pc },
                          loops := .none, runLeft := 0, active := true, pc := vec }
        v := { x.a.v with landing := [] } } }))

/-- An XLATE trap: XLATE_INFO is written first (R394). -/
def State.enterXlate (s : State) (acc : Acc) (f : XFault) (info pc : W64) : State :=
  (s.modCtl (fun c => { c with xlateInfo := xlateInfoOf acc f })).enterTrap .xlate info pc

/-- Return from a trap (R138): the held landing buffer, loop state and RUN_LEFT come back, ACTIVE clears, and issue
continues at TRAP_PC, outside the interrupted run where the handler has written another address there (R67); an SDATA that
waited for the return is due (R392). The results of the ERET's own bundle go on after the held ones, which issued before (R68,
R114). -/
def State.leaveTrap (s : State) : State :=
  s.modCx (fun x =>
    let h := x.a.c.held.getD { landing := [], loops := .none, runLeft := 0, pc := 0 }
    { x with lds := x.lds.map (fun l => { l with pos := l.pos + h.landing.length }), a := { x.a with
        c := { x.a.c with held := none, loops := h.loops, runLeft := if x.a.c.trapPc = h.pc then h.runLeft else 0, active := false, pc := x.a.c.trapPc }
        p := { x.a.p with sdata := x.a.p.sdata.or x.a.p.after, after := none }
        v := { x.a.v with landing := h.landing ++ x.a.v.landing } } })

end Sys2Proof.Machine
end

