-- ==== Sys2Proof/Machine/Flags.lean ====
section
/-! DEFINITION. The number formats and their exact values, rounding and its flags, flush to zero, the Frazil generators
(R161 to R169), and the integer formats (R163). -/

namespace Sys2Proof.Machine

open Sys2Proof

/-! Flags: a group byte of VFLAGS (R158). -/

def fNX : BitVec 8 := 0x01
def fUF : BitVec 8 := 0x02
def fOF : BitVec 8 := 0x04
def fDZ : BitVec 8 := 0x08
def fNV : BitVec 8 := 0x10
def fPZ : BitVec 8 := 0x20

/-- A flag when a condition holds. -/
def flagIf (b : Bool) (f : BitVec 8) : BitVec 8 := if b then f else 0

/-! Formats (R161). -/

/-- The floating-point formats (R161); E8M0 scales are read by scaleExp. -/
inductive Fmt where
  | fp32 | bf16 | e4m3 | e5m2 | e2m1
  deriving DecidableEq, Repr

/-- Exponent and fraction widths, and bias (R161). -/
def Fmt.ebits : Fmt → Nat | .fp32 => 8 | .bf16 => 8 | .e4m3 => 4 | .e5m2 => 5 | .e2m1 => 2
def Fmt.fbits : Fmt → Nat | .fp32 => 23 | .bf16 => 7 | .e4m3 => 3 | .e5m2 => 2 | .e2m1 => 1
def Fmt.bias : Fmt → Int | .fp32 => 127 | .bf16 => 127 | .e4m3 => 7 | .e5m2 => 15 | .e2m1 => 1
/-- The format has infinities: its top exponent holds infinity and NaN. -/
def Fmt.hasInf : Fmt → Bool | .fp32 | .bf16 | .e5m2 => true | _ => false
/-- The canonical NaN (R161); E2M1 has none and takes +0 (R194). -/
def Fmt.nan : Fmt → Nat | .fp32 => 0x7FC00000 | .bf16 => 0x7FC0 | .e4m3 => 0x7F | .e5m2 => 0x7E | .e2m1 => 0
/-- The code of the largest finite magnitude (R161). -/
def Fmt.maxCode : Fmt → Nat | .fp32 => 0x7F7FFFFF | .bf16 => 0x7F7F | .e4m3 => 0x7E | .e5m2 => 0x7B | .e2m1 => 7
/-- The code of +infinity, for the formats that have one (R161). -/
def Fmt.infCode : Fmt → Nat | .fp32 => 0x7F800000 | .bf16 => 0x7F80 | .e5m2 => 0x7C | .e4m3 => 0x7F | .e2m1 => 7
/-- The place of the sign bit. -/
def Fmt.signAt (f : Fmt) : Nat := f.ebits + f.fbits
/-- Bits of a code. -/
def Fmt.bits (f : Fmt) : Nat := f.ebits + f.fbits + 1

/-- What a code stands for: a NaN with its quiet bit, an infinity, or the exact value (−1)^neg × m × 2^e. -/
inductive Num where
  | nan (quiet : Bool)
  | inf (neg : Bool)
  | fin (neg : Bool) (m : Nat) (e : Int)
  deriving DecidableEq, Repr

/-- The value of a code (R161); e is the place of the lowest significand bit. -/
def decodeNum (f : Fmt) (code : Nat) : Num :=
  let neg := code / 2 ^ f.signAt % 2 == 1
  let ex := code / 2 ^ f.fbits % 2 ^ f.ebits
  let fr := code % 2 ^ f.fbits
  if f.hasInf && ex == 2 ^ f.ebits - 1 then
    if fr = 0 then .inf neg else .nan (fr / 2 ^ (f.fbits - 1) % 2 == 1)
  else if f == .e4m3 && ex == 15 && fr == 7 then .nan true
  else if ex = 0 then .fin neg fr (1 - f.bias - f.fbits)
  else .fin neg (2 ^ f.fbits + fr) (ex - f.bias - f.fbits)

def num32 (w : W32) : Num := decodeNum .fp32 w.toNat

def Num.isNan : Num → Bool | .nan _ => true | _ => false
/-- A NaN whose quiet bit is 0 (R158). -/
def Num.isSignalling : Num → Bool | .nan q => !q | _ => false
def Num.isInf : Num → Bool | .inf _ => true | _ => false
def Num.isZero : Num → Bool | .fin _ 0 _ => true | _ => false
def Num.neg : Num → Num
  | .nan q => .nan q
  | .inf n => .inf (!n)
  | .fin n m e => .fin (!n) m e
def Num.sign : Num → Bool | .nan _ => false | .inf n => n | .fin n _ _ => n

/-! Frazil generators (R168). -/

/-- One step of a generator (R168). -/
def frazilNext (x0 : W32) : W32 :=
  let x1 := x0 ^^^ (x0 <<< 13)
  let x2 := x1 ^^^ (x1 >>> 17)
  x2 ^^^ (x2 <<< 5)

/-- The state that a seed word gives generator l of core c (R168). -/
def frazilSeed (s : W32) (c l : Nat) : W32 :=
  let z0 := s + 0x9E3779B9 * BitVec.ofNat 32 (c * 128 + l + 1)
  let z1 := (z0 ^^^ (z0 >>> 16)) * 0x85EBCA6B
  let z2 := (z1 ^^^ (z1 >>> 13)) * 0xC2B2AE35
  let z3 := z2 ^^^ (z2 >>> 16)
  if z3 = 0 then 1 else z3

/-! Rounding (R165, R169). -/

/-- The rounding modes, by RM (R75). -/
inductive RM where
  | rne | rtz | rup | rdn | sr
  deriving DecidableEq, Repr

def rmOf (n : Nat) : RM :=
  match n with | 0 => .rne | 1 => .rtz | 2 => .rup | 3 => .rdn | _ => .sr

/-- Round a magnitude m × 2^e to a multiple of 2^q: the quotient, and whether it is exact. low is the place of the
lowest significand position of the rounded value and the number of its positions, where R169 counts them, none where d is
32; u is the generator's new state. -/
def roundAt (neg : Bool) (m : Nat) (e q : Int) (rm : RM) (low : Option (Int × Nat)) (u : W32) : Nat × Bool :=
  if q ≤ e then (m * 2 ^ (e - q).toNat, true)
  else
    let sh := (q - e).toNat
    let t := m / 2 ^ sh
    let r := m % 2 ^ sh
    let up : Bool :=
      match rm with
      | .rne => 2 * r > 2 ^ sh || (2 * r == 2 ^ sh && t % 2 == 1)
      | .rtz => false
      | .rup => r > 0 && !neg
      | .rdn => r > 0 && neg
      | .sr =>
        let d := match low with
          | some l => min (min (q - l.1).toNat l.2) 32
          | none => 32
        let fd := r * 2 ^ d / 2 ^ sh
        fd + u.toNat % 2 ^ d ≥ 2 ^ d
    (if up then t + 1 else t, r == 0)

/-- OverflowValue (R165). -/
def overflowCode (f : Fmt) (neg : Bool) (rm : RM) : Nat :=
  let s := if neg then 2 ^ f.signAt else 0
  let toMax := match rm with
    | .rtz => true
    | .rup => neg
    | .rdn => !neg
    | _ => false
  match f with
  | .e2m1 => s + f.maxCode
  | .e4m3 => if toMax then s + f.maxCode else f.nan
  | _ => s + (if toMax then f.maxCode else f.infCode)

/-- floor(log2 m) for m ≥ 1. -/
def log2Nat (m : Nat) : Nat := Nat.log2 m

/-- The code of the magnitude k × 2^q, which the format holds or which overflows it: none where it lies above the
largest finite value (R161). -/
def encodeMag (f : Fmt) (k : Nat) (q : Int) : Option Nat :=
  if k = 0 then some 0
  else
    let lg : Int := log2Nat k + q
    let emin : Int := 1 - f.bias
    if lg < emin then some (k * 2 ^ (q - (emin - f.fbits)).toNat)
    else
      let sig := k * 2 ^ (f.fbits + 1) / 2 ^ (log2Nat k + 1)
      let code := (lg + f.bias).toNat * 2 ^ f.fbits + (sig - 2 ^ f.fbits)
      if code ≤ f.maxCode then some code else none

/-- Round (R165) of the exact value (−1)^neg × m × 2^e, m ≥ 1: the code and the flags. -/
def roundFin (f : Fmt) (rm : RM) (neg : Bool) (m : Nat) (e : Int) (low : Option (Int × Nat)) (u : W32) : Nat × BitVec 8 :=
  let lg : Int := log2Nat m + e
  let emin : Int := 1 - f.bias
  let q : Int := max lg emin - f.fbits
  let (k, exact) := roundAt neg m e q rm low u
  let s := if neg then 2 ^ f.signAt else 0
  match encodeMag f k q with
  | some c => (s + c, flagIf (!exact) fNX ||| flagIf (lg < emin && !exact) fUF)
  | none => (overflowCode f neg rm, fOF ||| fNX)

/-- Round of any value that is no NaN (R165): an infinity gives OverflowValue under rne and no flag; a zero keeps its
sign. -/
def roundNum (f : Fmt) (rm : RM) (x : Num) (low : Option (Int × Nat)) (u : W32) : Nat × BitVec 8 :=
  match x with
  | .nan _ => (f.nan, 0)
  | .inf n => (overflowCode f n .rne, 0)
  | .fin n 0 _ => (if n then 2 ^ f.signAt else 0, 0)
  | .fin n m e => roundFin f rm n m e low u

/-- The place of the lowest significand position of a value, one of n (R169). -/
def Num.low (n : Nat) : Num → Option (Int × Nat) | .fin _ _ e => some (e, n) | _ => none
/-- The significand positions of a format's value (R161). -/
def Fmt.positions (f : Fmt) : Nat := f.fbits + 1

/-! Flush to zero (R167). -/

/-- An FP32 code that is a nonzero subnormal. -/
def subnormal32 (w : W32) : Bool := w.extractLsb' 23 8 == 0 && w.extractLsb' 0 23 != 0

/-- The sign bit alone. -/
def signOnly (w : W32) : W32 := w &&& 0x80000000

/-- An FP32 operand under FTZ, and PZ (R167). -/
def ftzIn (ftz : Bool) (w : W32) : W32 × BitVec 8 := if ftz && subnormal32 w then (signOnly w, fPZ) else (w, 0)

/-- An FP32 result under FTZ (R167). -/
def ftzOut (ftz : Bool) (r : W32 × BitVec 8) : W32 × BitVec 8 :=
  if ftz && subnormal32 r.1 then (signOnly r.1, r.2 ||| fPZ ||| fUF ||| fNX) else r

/-- Round to FP32, then the result rule of R167. -/
def round32 (ftz : Bool) (rm : RM) (x : Num) (low : Option (Int × Nat)) (u : W32) : W32 × BitVec 8 :=
  let (c, f) := roundNum .fp32 rm x low u
  ftzOut ftz (BitVec.ofNat 32 c, f)

/-- The canonical NaN of FP32. -/
def nan32 : W32 := 0x7FC00000

/-- A NaN result, with NV when asked (R174). -/
def nanRes (nv : Bool) : W32 × BitVec 8 := (nan32, flagIf nv fNV)

/-! Exact sums and products (R174, R191). -/

/-- The product of two values, none of them a NaN: none for 0 × ∞. -/
def mulNum (a b : Num) : Option Num :=
  match a, b with
  | .fin s m e, .fin t n g => some (.fin (s != t) (m * n) (e + g))
  | .inf s, .fin t n _ => if n = 0 then none else some (.inf (s != t))
  | .fin s m _, .inf t => if m = 0 then none else some (.inf (s != t))
  | .inf s, .inf t => some (.inf (s != t))
  | _, _ => none

/-- The signed integer of a finite value in units of 2^e0, for e0 at or below its place. -/
def finInt (n : Bool) (m : Nat) (e e0 : Int) : Int :=
  let k : Int := m * 2 ^ (e - e0).toNat
  if n then -k else k

/-- The least place of the finite values of a list. -/
def minPlace : List Num → Int
  | [] => 0
  | [.fin _ _ e] => e
  | .fin _ _ e :: r => min e (minPlace r)
  | _ :: r => minPlace r

/-- The exact sum of finite values, in units of 2^(minPlace). -/
def sumInt (e0 : Int) : List Num → Int
  | [] => 0
  | .fin n m e :: r => finInt n m e e0 + sumInt e0 r
  | _ :: r => sumInt e0 r

/-- The exact sum of values, none of them a NaN: none for infinities of both signs. A zero sum takes the sign that all
its terms share when they are all zeros of one sign, else + (or − under rdn) (R174). -/
def sumNum (rdn : Bool) (xs : List Num) : Option Num :=
  let infs := xs.filter Num.isInf
  match infs with
  | x :: r => if r.all (fun y => y.sign == x.sign) then some x else none
  | [] =>
    let e0 := minPlace xs
    let t := sumInt e0 xs
    if t = 0 then
      let sg := match xs with
        | x :: r => if xs.all Num.isZero && r.all (fun y => y.sign == x.sign) then x.sign else rdn
        | [] => false
      some (.fin sg 0 e0)
    else some (.fin (t < 0) t.natAbs e0)

/-- A value of a list is a NaN; one of them is signalling. -/
def anyNan (xs : List Num) : Bool := xs.any Num.isNan
def anySignalling (xs : List Num) : Bool := xs.any Num.isSignalling

/-- One exact sum, rounded once, under R174 and R167 (R175). -/
def addRound (ftz : Bool) (rm : RM) (u : W32) (xs : List Num) : W32 × BitVec 8 :=
  if anyNan xs then nanRes (anySignalling xs)
  else match sumNum (rm == .rdn) xs with
    | none => nanRes true
    | some t => round32 ftz rm t none u

/-- a × b + c, rounded once (R175): 0 × ∞ is invalid even beside a NaN. -/
def fmaRound (ftz : Bool) (rm : RM) (u : W32) (a b c : Num) : W32 × BitVec 8 :=
  let bad := !a.isNan && !b.isNan && (mulNum a b).isNone
  if anyNan [a, b, c] then nanRes (anySignalling [a, b, c] || bad)
  else match mulNum a b with
    | none => nanRes true
    | some p =>
      match sumNum (rm == .rdn) [p, c] with
      | none => nanRes true
      | some t => round32 ftz rm t none u

/-- a × b, rounded once (R175). -/
def mulRound (ftz : Bool) (rm : RM) (u : W32) (a b : Num) : W32 × BitVec 8 :=
  if anyNan [a, b] then nanRes (anySignalling [a, b])
  else match mulNum a b with
    | none => nanRes true
    | some t => round32 ftz rm t none u

/-- DotAcc (R191) over pairs of factors, each pair with a power of two, and an accumulator. nanScale: a block scale is
NaN. The flush rule applies to the accumulator and the result. -/
def dotAcc (ftz : Bool) (nanScale : Bool) (ps : List (Num × Num × Int)) (c : W32) : W32 × BitVec 8 :=
  let (c1, f0) := ftzIn ftz c
  let cn := num32 c1
  let factors := ps.flatMap (fun p => [p.1, p.2.1])
  let prods := ps.map (fun p => (mulNum p.1 p.2.1).map (fun t => match t with
    | .fin n m e => Num.fin n m (e + p.2.2)
    | t => t))
  let bad := ps.any (fun p => !p.1.isNan && !p.2.1.isNan && (mulNum p.1 p.2.1).isNone)
  if cn.isNan || anyNan factors || nanScale || bad then
    (nan32, f0 ||| flagIf (nanScale || bad || cn.isSignalling || anySignalling factors) fNV)
  else
    let terms := cn :: prods.filterMap id
    match sumNum false terms with
    | none => (nan32, f0 ||| fNV)
    | some t =>
      let (r, f) := round32 ftz .rne t none 0
      (r, f0 ||| f)

/-! Comparison (R176, R177). -/

/-- Compare two values that are no NaN: their order as real numbers, with +0 = −0. -/
def cmpNum (a b : Num) : Ordering :=
  match a, b with
  | .inf s, .inf t => if s == t then .eq else if s then .lt else .gt
  | .inf s, _ => if s then .lt else .gt
  | _, .inf t => if t then .gt else .lt
  | .fin s m e, .fin t n g =>
    let e0 := min e g
    compare (finInt s m e e0) (finInt t n g e0)
  | _, _ => .eq

/-- FMIN and FMAX (R176). -/
def minMax (isMax ftz : Bool) (a b : W32) : W32 × BitVec 8 :=
  let (a1, fa) := ftzIn ftz a
  let (b1, fb) := ftzIn ftz b
  let x := num32 a1
  let y := num32 b1
  let f := fa ||| fb ||| flagIf (x.isSignalling || y.isSignalling) fNV
  if x.isNan && y.isNan then (nan32, f)
  else if x.isNan then (b1, f)
  else if y.isNan then (a1, f)
  else
    let aFirst := match cmpNum x y with
      | .lt => true
      | .gt => false
      | .eq => x.sign && !y.sign || a1 == b1
    (if aFirst != isMax then a1 else b1, f)

/-- The conditions of FCMP (R177). -/
def fcmpHolds (cond : Nat) (x y : Num) : Bool :=
  let un := x.isNan || y.isNan
  let o := cmpNum x y
  match cond with
  | 0 => !un && o == .eq
  | 1 => un || o != .eq
  | 2 => !un && o == .lt
  | 3 => !un && o != .gt
  | 4 => !un && o == .gt
  | 5 => !un && o != .lt
  | 6 => un
  | _ => !un

/-! Division, roots, powers and logarithms, each exact but for a sticky last bit (R203). -/

/-- The largest r with r² ≤ n, r < 2^bits. -/
def isqrtBits (n : Nat) : Nat → Nat → Nat
  | 0, acc => acc
  | b + 1, acc => let c := acc + 2 ^ b; isqrtBits n b (if c * c ≤ n then c else acc)

def isqrt (n : Nat) : Nat := isqrtBits n (log2Nat n / 2 + 1) 0

/-- A magnitude with a last bit that is 1 when something was cut off, so that one rounding to a format of at least two
bits fewer is that of the exact value. -/
def sticky (k : Nat) (e : Int) (exact : Bool) : Nat × Int := (2 * k + (if exact then 0 else 1), e - 1)

/-- (m × 2^e) ÷ (n × 2^g). -/
def divMag (m : Nat) (e : Int) (n : Nat) (g : Int) : Nat × Int :=
  let a := m * 2 ^ 64
  sticky (a / n) (e - g - 64) (a % n == 0)

/-- √(m × 2^e). -/
def sqrtMag (m : Nat) (e : Int) : Nat × Int :=
  let odd := (e % 2).toNat
  let a := m * 2 ^ (64 + odd)
  let r := isqrt a
  sticky r ((e - odd - 64) / 2) (r * r == a)

/-- 1 ÷ √(m × 2^e). -/
def rsqrtMag (m : Nat) (e : Int) : Nat × Int :=
  let odd := (e % 2).toNat
  let d := m * 2 ^ odd
  let a := 2 ^ 128 / d
  let r := isqrt a
  sticky r (-((e - odd) / 2) - 64) (r * r * d == 2 ^ 128)

/-- Fixed-point fractions of 200 bits. -/
def fixBits : Nat := 200
def fixOne : Nat := 2 ^ fixBits

/-- ln 2 in fixed point: the sum of 1 ÷ (k 2^k), k = 1 to 220. -/
def ln2Fix : Nat := ((List.range 220).map (fun i => 2 ^ (fixBits + 20) / ((i + 1) * 2 ^ (i + 1)))).sum / 2 ^ 20

/-- e^y in fixed point, 0 ≤ y < 1, by its series. -/
def expFix (y : Nat) : Nat :=
  ((List.range 60).foldl (fun (acc : Nat × Nat) i =>
    let term := acc.2 * y / fixOne / (i + 1)
    (acc.1 + term, term)) (fixOne, fixOne)).1

/-- 2^a for −1 ≤ a ≤ 1, a = (−1)^n × m × 2^e with e ≥ −149: exact at 0 and ±1, else cut below 2^−200, where no FP32
operand's value meets a rounding boundary (log 12). -/
def exp2Mag (n : Bool) (m : Nat) (e : Int) : Nat × Int :=
  let a := m * 2 ^ (e + fixBits).toNat
  let t := if n then fixOne - a else a
  if a = 0 then (1, 0)
  else if t % fixOne = 0 then (if n then (1, -1) else (2, 0))
  else sticky (expFix (t * ln2Fix / fixOne)) (if n then -fixBits - 1 else -fixBits) false

/-- The first bits of log2 y, 1 ≤ y < 2, y in fixed point, by squaring. -/
def log2Bits : Nat → Nat → Nat → Nat
  | 0, _, acc => acc
  | k + 1, y, acc =>
    let z := y * y / 2 ^ 400
    if z ≥ 2 ^ 401 then log2Bits k (z / 2) (2 * acc + 1) else log2Bits k z (2 * acc)

/-- log2 of m × 2^e in [1, 2): exact at 1, else cut at 120 bits (log 12). -/
def log2Mag (m : Nat) (e : Int) : Nat × Int :=
  let y := m * 2 ^ (e + 400).toNat
  if y = 2 ^ 400 then (0, 0) else sticky (log2Bits 120 y 0) (-120) false

/-- The SFU's functions, by trigger port (R201, R203). -/
def sfuResult (ftz : Bool) (port : Nat) (a0 b0 : W32) : W32 × BitVec 8 :=
  let (a1, fa) := ftzIn ftz a0
  let (b1, fb) := if port = 2 then ftzIn ftz b0 else (b0, 0)
  let x := num32 a1
  let y := num32 b1
  let out (r : W32 × BitVec 8) : W32 × BitVec 8 := (r.1, r.2 ||| fa ||| fb)
  let mag (neg : Bool) (p : Nat × Int) : W32 × BitVec 8 := round32 ftz .rne (.fin neg p.1 p.2) none 0
  let infOf (neg : Bool) : W32 := if neg then 0xFF800000 else 0x7F800000
  let zeroOf (neg : Bool) : W32 := if neg then 0x80000000 else 0
  out (match port with
  | 2 =>
    if x.isNan || y.isNan then nanRes (x.isSignalling || y.isSignalling)
    else
      let neg := x.sign != y.sign
      match x, y with
      | .inf _, .inf _ => nanRes true
      | .inf _, _ => (infOf neg, 0)
      | _, .inf _ => (zeroOf neg, 0)
      | .fin _ m e, .fin _ n g =>
        if n = 0 then (if m = 0 then nanRes true else (infOf neg, fDZ))
        else if m = 0 then (zeroOf neg, 0)
        else mag neg (divMag m e n g)
      | _, _ => nanRes false
  | 3 =>
    match x with
    | .nan q => nanRes (!q)
    | .inf n => if n then nanRes true else (a1, 0)
    | .fin n m e => if m = 0 then (a1, 0) else if n then nanRes true else mag false (sqrtMag m e)
  | 4 =>
    match x with
    | .nan q => nanRes (!q)
    | .inf n => (zeroOf n, 0)
    | .fin n m e => if m = 0 then (infOf n, fDZ) else mag n (divMag 1 0 m e)
  | 5 =>
    match x with
    | .nan q => nanRes (!q)
    | .inf n => if n then nanRes true else (0, 0)
    | .fin n m e => if m = 0 then (infOf n, fDZ) else if n then nanRes true else mag false (rsqrtMag m e)
  | 6 =>
    match x with
    | .nan q => nanRes (!q)
    | .inf _ => nanRes true
    | .fin n m e =>
      if cmpNum (.fin false m e) (.fin false 1 0) == .gt then nanRes true else mag false (exp2Mag n m e)
  | _ =>
    match x with
    | .nan q => nanRes (!q)
    | .inf _ => nanRes true
    | .fin n m e =>
      if n || cmpNum x (.fin false 1 0) == .lt || cmpNum x (.fin false 2 0) != .lt then nanRes true
      else
        let p := log2Mag m e
        if p.1 = 0 then (0, 0) else mag false p)

/-! Integer formats (R163). -/

/-- IntDecode (R163): a code of n bits under one side's byte of INTFMT (R160). -/
def intDecode (isInt8 : Bool) (side : BitVec 8) (code : Nat) : Int :=
  let n := if isInt8 then 8 else 4
  let w8 := (side.extractLsb' 0 4).toNat
  let sgn := side.getLsbD 4
  let sub := (side.extractLsb' 5 2).toNat
  let sym := side.getLsbD 7
  let w := if !isInt8 || w8 = 0 || w8 = 8 then n else w8
  let raw : Int := (code % 2 ^ n : Nat)
  let val : Int := if sgn && raw ≥ 2 ^ (n - 1) then raw - 2 ^ n else raw
  let lo : Int := if sgn then -(2 ^ (w - 1)) + (if sym then 1 else 0) else 0
  let hi : Int := if sgn then 2 ^ (w - 1) - 1 else 2 ^ w - 1
  if lo ≤ val && val ≤ hi then val
  else if sub = 0 then 0
  else if val < 0 then lo else hi

/-- The bytes of INTFMT for side S and side W (R160). -/
def sideS (f : BitVec 16) : BitVec 8 := f.extractLsb' 0 8
def sideW (f : BitVec 16) : BitVec 8 := f.extractLsb' 8 8

/-- Clamp an exact integer. -/
def clamp (lo hi t : Int) : Int := min (max t lo) hi

/-- The exponent that an E8M0 code adds, or none for a NaN scale (R161, R164). -/
def scaleExp (c : Nat) : Option Int := if c % 256 = 255 then none else some ((c % 256 : Nat) - 127 : Int)

/-! Reading and stepping generators (R151, R168, R169). -/

/-- Generator n of a context on core c (R168). -/
def VecSt.gen (v : VecSt) (c n : Nat) : W32 :=
  match tfind v.frazil n with
  | some x => x
  | none => frazilSeed (if n < 128 then v.seedLanes else v.seedSerac) c n

/-- Step generator n and give the new state (R169). -/
def VecSt.stepGen (v : VecSt) (c n : Nat) : W32 × VecSt :=
  let x := frazilNext (v.gen c n)
  (x, { v with frazil := tset v.frazil n x })

/-! VFLAGS (R158). -/

/-- Raise a group's flags in VFLAGS. -/
def raiseFlags (v : W64) (g : Nat) (f : BitVec 8) : W64 := v ||| ((f.zeroExtend 64) <<< (8 * g))

end Sys2Proof.Machine
end

