-- ==== Sys2Proof/Machine/Operands.lean ====
section
/-! DEFINITION. Operand forms: scalars, handles and their windows, vector rows and lane activity, the system registers,
and the building of landing entries. -/

namespace Sys2Proof.Machine

open Sys2Proof

/-! Scalars and landing entries (R113, R114, R156). -/

/-- A scalar register's value: s63 reads as 0 (R113). -/
def CtlSt.sr (c : CtlSt) (r : Nat) : W64 := if r = 63 then 0 else tget 0 c.scal r
/-- A scalar of the context in focus. -/
def State.sr (s : State) (r : BitVec 6) : W64 := s.cx.a.c.sr r.toNat
/-- Write a scalar at once: s63 discards (R113). -/
def CtlSt.setSr (c : CtlSt) (r : Nat) (v : W64) : CtlSt := if r = 63 then c else { c with scal := tput 0 c.scal r v }
/-- A handle of the context in focus (R115). -/
def State.hr (s : State) (h : BitVec 5) : W256 := tget 0 s.cx.a.c.hnd h.toNat

/-- Put a result into the landing buffer (R156). -/
def State.land (s : State) (e : Landing) : State := s.modVec (fun v => { v with landing := v.landing ++ [e] })

/-- A scalar result that lands lat bundles later (R114). -/
def State.landScal (s : State) (r : BitVec 6) (lat : Nat) (v : W64) : State :=
  if r = 63 then s
  else s.land { count := lat, dest := .scal r.toNat, groups := [], value := v.zeroExtend 256, slot := none }

/-- A handle result (R114). -/
def State.landHnd (s : State) (h : BitVec 5) (v : W256) : State :=
  s.land { count := 1, dest := .hnd h.toNat, groups := [], value := v, slot := none }

/-! Sizes of scalar memory accesses (R143). -/

/-- Bytes of an access: 1, 2, 4 or 8. -/
def szBytes (sz : BitVec 3) : Nat := 2 ^ (sz.extractLsb' 0 2).toNat

/-- The value of the access: zero-extended for SZ 0 to 3, sign-extended for 4 to 6. -/
def szExtend (sz : BitVec 3) (bs : List Byte) : W64 :=
  let v := natOfBytes bs
  let n := 8 * bs.length
  if sz.getLsbD 2 && v / 2 ^ (n - 1) % 2 == 1 then BitVec.ofInt 64 ((v : Int) - 2 ^ n) else BitVec.ofNat 64 v

/-- sA + sext(IMM). -/
def State.memAddr (s : State) (ra : BitVec 6) (imm : BitVec 11) : W64 := s.sr ra + imm.signExtend 64

/-! Handle fields (R115, R116). -/

/-- BASE as an address: bits [63:57] copy bit 56. -/
def hBase (h : W256) : W64 := (h.extractLsb' 0 57).signExtend 64
def hRes (h : W256) : Nat := (h.extractLsb' 57 2).toNat
def hFmt (h : W256) : Nat := (h.extractLsb' 59 4).toNat
def hSv (h : W256) : Bool := h.getLsbD 63
def hName (h : W256) : W64 := h.extractLsb' 64 64
/-- Extent and stride of dimension k. -/
def hDim (h : W256) (k : Nat) : Nat := (h.extractLsb' (128 + 16 * k) 16).toNat
def hStr (h : W256) (k : Nat) : Nat := (h.extractLsb' (208 + 12 * k) 12).toNat
def hSync (h : W256) : Nat := (h.extractLsb' 192 12).toNat
def hSsh (h : W256) : Nat := (h.extractLsb' 204 4).toNat

/-- Replace n bits of a handle from a bit. -/
def putBits (h : W256) (lo n : Nat) (v : Nat) : W256 :=
  BitVec.ofNat 256 (h.toNat % 2 ^ lo + v % 2 ^ n * 2 ^ lo + h.toNat / 2 ^ (lo + n) * 2 ^ (lo + n))

/-- Bits of an element of a format; none for a reserved one (R116). -/
def fmtBits (f : Nat) : Option Nat :=
  match f with
  | 0 | 2 | 3 | 7 | 9 => some 8
  | 1 | 4 => some 4
  | 5 => some 16
  | 6 | 8 => some 32
  | _ => none

/-- The elements of a window (R117). -/
def hCount (h : W256) : Nat := hDim h 0 * hDim h 1 * hDim h 2 * hDim h 3

/-- The bit offset of an element from BASE (R116). -/
def elemOff (h : W256) (eb i0 i1 i2 i3 : Nat) : Nat :=
  i0 * hStr h 0 * eb + (i1 * hStr h 1 + i2 * hStr h 2 + i3 * hStr h 3) * 2 ^ hSsh h * 8

/-- The element numbered n of a window, dimension 0 first: its bit offset from BASE. -/
def elemAt (h : W256) (eb n : Nat) : Nat :=
  let d0 := hDim h 0
  let d1 := hDim h 1
  let d2 := hDim h 2
  elemOff h eb (n % d0) (n / d0 % d1) (n / (d0 * d1) % d2) (n / (d0 * d1 * d2))

/-- A contiguous window of a format that is not reserved (R265). -/
def hContig (h : W256) : Bool :=
  match fmtBits (hFmt h) with
  | none => false
  | some eb =>
    let step (k : Nat) := hStr h k * 2 ^ hSsh h * 8
    let row := hDim h 0 * eb
    (hDim h 0 ≤ 1 || hStr h 0 == 1) && (hDim h 1 ≤ 1 || step 1 == row) &&
    (hDim h 2 ≤ 1 || step 2 == hDim h 1 * row) && (hDim h 3 ≤ 1 || step 3 == hDim h 2 * hDim h 1 * row)

/-- Half bytes of the window's elements (R116). -/
def hNibbles (h : W256) : Nat := hCount h * (fmtBits (hFmt h)).getD 0 / 4

/-- Bytes of a window (R265). -/
def hBytes (h : W256) : Nat := hNibbles h / 2

/-! Vector rows, masks and activity (R151, R152). -/

/-- Register v of group g. -/
def VecSt.row (v : VecSt) (g r : Nat) : BitVec 512 := tget 0 v.vreg (64 * g + r)
/-- Mask k of group g: k0 reads as all ones (R152). -/
def VecSt.msk (v : VecSt) (g k : Nat) : BitVec 16 := if k = 0 then 0xFFFF else tget 0 v.mask (8 * g + k)
/-- Write a mask: a write to k0 is discarded (R152). -/
def VecSt.setMsk (v : VecSt) (g k : Nat) (m : BitVec 16) : VecSt :=
  if k = 0 then v else { v with mask := tput 0 v.mask (8 * g + k) m }
/-- The groups of a mask, in increasing order. -/
def groupList (g : BitVec 8) : List Nat := (List.range 8).filter (fun i => g.getLsbD i)
/-- Lane activity in a group: the group is in G, the lane's mask bit is 1 (R152). -/
def VecSt.act (v : VecSt) (gm : BitVec 8) (k g : Nat) : BitVec 16 := if gm.getLsbD g then v.msk g k else 0

/-- The lane words that a list gives, lane 0 first. -/
def rowOfList (ws : List W32) : BitVec 512 := BitVec.ofNat 512 (ws.foldr (fun w n => w.toNat + 2 ^ 32 * n) 0)

/-- What a lane computes: its word, the second word of a pair, and its flags. -/
structure LaneRes where
  lo : W32
  hi : W32
  flags : BitVec 8
  deriving DecidableEq, Repr

/-- A one-word result. -/
def one (r : W32 × BitVec 8) : LaneRes := ⟨r.1, 0, r.2⟩
/-- A result without flags. -/
def plain (w : W32) : LaneRes := ⟨w, 0, 0⟩
/-- A mask bit, carried in bit 0 of its lane. -/
def bitRes (b : Bool) (f : BitVec 8) : LaneRes := ⟨if b then 1 else 0, 0, f⟩

/-- Step generator n so many times (R169). -/
def VecSt.stepGens (core n : Nat) : Nat → VecSt → VecSt
  | 0, v => v
  | k + 1, v => VecSt.stepGens core n k (v.stepGen core n).2

/-- Compute the lanes of a list in one group: inactive lanes compute nothing; each active lane steps its own generator
once for each sr rounding and takes the state after the first step (R152, R169). -/
def runLanes (core g : Nat) (act : BitVec 16) (steps : Nat) (f : Nat → W32 → LaneRes) :
    List Nat → VecSt → VecSt × List LaneRes
  | [], v => (v, [])
  | l :: ls, v =>
    if act.getLsbD l then
      let u := if steps = 0 then 0 else (v.stepGen core (16 * g + l)).1
      let (v2, rs) := runLanes core g act steps f ls (VecSt.stepGens core (16 * g + l) steps v)
      (v2, f l u :: rs)
    else
      let (v2, rs) := runLanes core g act steps f ls v
      (v2, ⟨0, 0, 0⟩ :: rs)

/-- The part of a landing entry for one group. -/
def groupLandOf (g : Nat) (act : BitVec 16) (rs : List LaneRes) : GroupLand :=
  { grp := g, act := act, lo := rowOfList (rs.map LaneRes.lo), hi := rowOfList (rs.map LaneRes.hi),
    flags := rs.foldl (fun f r => f ||| r.flags) 0, arr := .ok, late := false }

/-- Compute every group of a list: f takes the group and the lane. -/
def runGroups (core : Nat) (acts : Nat → BitVec 16) (steps : Nat) (f : Nat → Nat → W32 → LaneRes) :
    List Nat → VecSt → VecSt × List GroupLand
  | [], v => (v, [])
  | g :: gs, v =>
    let (v1, rs) := runLanes core g (acts g) steps (f g) (List.range 16) v
    let (v2, r) := runGroups core acts steps f gs v1
    (v2, groupLandOf g (acts g) rs :: r)

/-- The register, pair or mask that D names (R69, R71, R153). -/
def landDestOf (d : Dest) (r : BitVec 6) : LandDest :=
  match d with
  | .reg => .vec r.toNat
  | .pair => .pair r.toNat
  | .mask => .mask (r.toNat % 8)

/-- Issue a vector result over the groups of G under mask K (R152, R155). -/
def State.landLanes (s : State) (dest : LandDest) (lat : Nat) (gm : BitVec 8) (k : Nat) (steps : Nat)
    (f : VecSt → Nat → Nat → W32 → LaneRes) : State :=
  let v0 := s.cx.a.v
  let (v1, gl) := runGroups s.focusCore (v0.act gm k) steps (f v0) (groupList gm) v0
  (s.modVec (fun _ => v1)).land { count := lat, dest := dest, groups := gl, value := 0, slot := none }

/-- The word of an operand field in a lane (R69). -/
def VecSt.opnd (v : VecSt) (f : BitVec 8) (g l : Nat) : W32 := lane (v.row g (opReg f)) l
/-- The low word of a pair operand (R153). -/
def VecSt.opndLo (v : VecSt) (f : BitVec 8) (g l : Nat) : W32 := lane (v.row g (opReg f + 1)) l

/-- GSTR of a MEM instruction: S1 × 2^SSH (R211). -/
def hGstr (h : W256) : W64 := BitVec.ofNat 64 (hStr h 1 * 2 ^ hSsh h)

/-- The address of a lane in the OFS form; idx is the scalar with the offset added (R211). -/
def laneAddr (h : W256) (idx : W64) (g l : Nat) : W64 :=
  hBase h + idx + BitVec.ofNat 64 (4 * l) + BitVec.ofNat 64 g * hGstr h

/-- sS + 4 × OFS of a MEM word (R211). -/
def State.memIdx (s : State) (o : MemArgs) : W64 := s.sr o.s + BitVec.ofInt 64 (4 * o.ofs)

/-- The address of a lane in the IDX form (R211). -/
def State.idxAddr (s : State) (o : MemArgs) (sh g l : Nat) : W64 :=
  hBase (s.hr o.h) + s.sr o.s + BitVec.ofNat 64 ((s.cx.a.v.opnd o.idx g l).toNat * 2 ^ sh)

/-- The active lanes of a MEM word as (group, lane), in order (R152, R211). -/
def VecSt.lanesOf (v : VecSt) (gm : BitVec 8) (k : Nat) : List (Nat × Nat) :=
  (groupList gm).flatMap (fun g => ((List.range 16).filter (fun l => (v.act gm k g).getLsbD l)).map (fun l => (g, l)))

/-! System registers (R118 to R121, R140, R158 to R160, R218, R309, R394). -/

/-- LOOP_STATE (R120). -/
def LoopSt.state (l : LoopSt) : W64 :=
  let act := (l.order.map (fun i => 2 ^ i)).sum
  BitVec.ofNat 64 (act + l.order.getD 0 0 * 16 + l.order.getD 1 0 * 64 + l.order.getD 2 0 * 256)

/-- CORE_XY (R119). -/
def coreXY (c : Nat) : W64 :=
  BitVec.ofNat 64 (Config.devId.toNat * 2 ^ 16 + coreDie c * 2 ^ 12 + coreY c * 2 ^ 8 + coreX c)

/-- REPLAY_PEND: the slots that hold a poisoned landing (R218). -/
def VecSt.replayPend (v : VecSt) : W64 :=
  BitVec.ofNat 64 ((v.replay.filter (fun p => p.2.pgrp != 0)).map (fun p => 2 ^ p.1)).sum

/-- The address of the lowest active lane of the lowest poisoned group (R218). -/
def RSlot.d0 (r : RSlot) : W64 :=
  match (groupList r.pgrp).head? with
  | none => 0
  | some g =>
    match (List.range 16).find? (fun l => (r.act.getD g 0).getLsbD l) with
    | none => 0
    | some l => laneAddr r.hnd r.idx g l

/-- REPLAY_D1 (R218). -/
def RSlot.d1 (r : RSlot) : W64 :=
  BitVec.ofNat 64 (r.pgrp.toNat * 2 ^ 40 + r.grps.toNat * 2 ^ 32 + r.dst * 2 ^ 26 + r.lat * 2 ^ 14 +
    (if r.remote then 256 else 0) + r.cause)

/-- A command of a launch to an array has not completed (R309). -/
def Arr.busyFor (a : Arr) (lid : Nat) : Bool :=
  a.queue.any (fun c => c.lid == lid) || a.run.any (fun r => r.cmd.lid == lid) || a.susp.any (fun r => r.cmd.lid == lid)

/-- Array n of a core. -/
def Core.arr (k : Core) (n : Nat) : Arr := tget Arr.reset k.arrays n
def Core.setArr (k : Core) (n : Nat) (a : Arr) : Core := { k with arrays := tput Arr.reset k.arrays n a }

/-- The launch of a context may be rolled back: no array that it owns lacks a snapshot (R303). -/
def Core.snapped (k : Core) (lid : Nat) : Bool :=
  [0, 1, 2, 3].all (fun a => (k.arr a).owner != some lid || (k.arr a).snapv)

/-- SSTATE (R309). -/
def sstate (k : Core) (x : Ctx) : W64 :=
  let lid := x.launch.lid
  let byte (a : Nat) : Nat :=
    let r := k.arr a
    (if r.snapv then 32 else 0) + (if r.cap4 then 16 else 0) + (if r.busyFor lid then 8 else 0) +
    (if r.owner == some lid && x.env.isSome then 4 else 0) + (if x.a.r.stale.getLsbD a then 2 else 0) +
    (if x.a.r.dirty.getLsbD a then 1 else 0)
  BitVec.ofNat 64 (byte 0 + byte 1 * 2 ^ 8 + byte 2 * 2 ^ 16 + byte 3 * 2 ^ 24)

/-- INTFMT in force: a SINTF value counts from bundle count n + 3 (R160). -/
def State.intfmt (s : State) : BitVec 16 := s.cx.a.v.intfmt

/-- The value that MFS reads (R118). -/
def State.sysRead (s : State) (n : Nat) : W64 :=
  let x := s.cx
  let c := x.a.c
  let v := x.a.v
  let e := x.launch
  match n with
  | 0x001 => BitVec.ofNat 64 s.focusCtx
  | 0x002 => BitVec.ofNat 64 e.lid
  | 0x003 => coreXY s.focusCore
  | 0x004 => BitVec.ofNat 64 e.gx
  | 0x005 => BitVec.ofNat 64 e.gy
  | 0x006 => BitVec.ofNat 64 e.gz
  | 0x007 => BitVec.ofNat 64 ownTdev
  | 0x008 => c.trapVec
  | 0x009 => c.trapPc
  | 0x00A => c.trapCause
  | 0x00B => c.trapInfo
  | 0x00C => c.replayVec
  | 0x00D => if c.active then 1 else 0
  | 0x00E => c.ckptPc
  | 0x010 => tget 0 c.loops.lc 0
  | 0x011 => tget 0 c.loops.lc 1
  | 0x012 => tget 0 c.loops.lc 2
  | 0x013 => c.loops.state
  | 0x014 => BitVec.ofNat 64 c.runLeft
  | 0x018 => c.smemErr
  | 0x020 => c.bcount
  | 0x021 => s.acycleOf s.focusCore
  | 0x022 => s.wallus
  | 0x080 => v.vflags
  | 0x081 => if v.ftz then 1 else 0
  | 0x082 => v.intfmt.zeroExtend 64
  | 0x083 => v.replayPend
  | 0x084 => BitVec.ofNat 64 v.replaySel
  | 0x085 => match tfind v.replay v.replaySel with | some r => r.d0 | none => 0
  | 0x086 => match tfind v.replay v.replaySel with | some r => r.d1 | none => 0
  | 0x100 => x.a.r.spair.zeroExtend 64
  | 0x101 => sstate s.fcore x
  | 0x102 => x.a.r.sflags.zeroExtend 64
  | 0x110 | 0x111 | 0x112 | 0x113 | 0x114 | 0x115 | 0x116 | 0x117 => tget 0 x.a.r.mp (n - 0x110)
  | 0x180 => c.xlateInfo
  | 0x181 => e.asid.zeroExtend 64
  | _ => 0

/-- An LC register holds at most 2^32 − 1 (R118). -/
def lcClamp (v : W64) : W64 := if v.toNat < 2 ^ 32 then v else 0xFFFFFFFF

/-- Set the count of a loop level. -/
def LoopSt.setLc (l : LoopSt) (lvl : Nat) (v : W64) : LoopSt := { l with lc := tput 0 l.lc lvl v }

/-- What MTS leaves in the register; a write to a read-only register or field is ignored (R8, R140). raised is what a
landing of the same bundle set in VFLAGS (R158). -/
def Arch.sysWrite (x : Arch) (raised : W64) (n : Nat) (w : W64) : Arch :=
  match n with
  | 0x008 => { x with c := { x.c with trapVec := w } }
  | 0x009 => { x with c := { x.c with trapPc := w } }
  | 0x00A => { x with c := { x.c with trapCause := w } }
  | 0x00B => { x with c := { x.c with trapInfo := w } }
  | 0x00C => { x with c := { x.c with replayVec := w } }
  | 0x010 => { x with c := { x.c with loops := x.c.loops.setLc 0 (lcClamp w) } }
  | 0x011 => { x with c := { x.c with loops := x.c.loops.setLc 1 (lcClamp w) } }
  | 0x012 => { x with c := { x.c with loops := x.c.loops.setLc 2 (lcClamp w) } }
  | 0x018 => { x with c := { x.c with smemErr := x.c.smemErr &&& ~~~ (w &&& 0x8000000000000000) } }
  | 0x080 => { x with v := { x.v with vflags := x.v.vflags &&& ~~~ (w &&& ~~~ raised) } }
  | 0x081 => { x with v := { x.v with ftz := w.getLsbD 0 } }
  | 0x084 => { x with v := { x.v with replaySel := w.toNat % 32 } }
  | 0x102 => { x with r := { x.r with sflags := x.r.sflags &&& ~~~ (w.truncate 32) } }
  | 0x110 | 0x111 | 0x112 | 0x113 | 0x114 | 0x115 | 0x116 | 0x117 =>
    { x with r := { x.r with mp := tput 0 x.r.mp (n - 0x110) w } }
  | _ => x

end Sys2Proof.Machine
end

