-- ==== Sys2Proof/Machine/Landing.lean ====
section
/-! DEFINITION. How results land: registers, masks, ports, flags, poison and replay slots (R114, R154, R156, R215). -/

namespace Sys2Proof.Machine

open Sys2Proof

/-- Change the entries of the landing buffer, wherever it stands: in place, or held by a trap entry (R138). -/
def Arch.mapLanding (a : Arch) (f : Landing → Landing) : Arch :=
  { a with
    v := { a.v with landing := a.v.landing.map f }
    c := { a.c with held := a.c.held.map (fun h => { h with landing := h.landing.map f }) } }

/-- The active lanes of a row replaced (R152). -/
def mergeRow (act : BitVec 16) (new old : BitVec 512) : BitVec 512 :=
  if act = 0xFFFF then new
  else if act = 0 then old
  else rowOf (fun l => if act.getLsbD l then lane new l else lane old l)

/-- A row lands in a register: its active lanes are written and its poison clears (R152, R154). -/
def VecSt.landRow (v : VecSt) (g r : Nat) (act : BitVec 16) (row : BitVec 512) : VecSt :=
  { v with vreg := tput 0 v.vreg (64 * g + r) (mergeRow act row (v.row g r)), poison := tdel v.poison (64 * g + r) }

/-- A mask lands: bit l is bit 0 of lane l (R155). -/
def VecSt.landMask (v : VecSt) (g k : Nat) (act : BitVec 16) (row : BitVec 512) : VecSt :=
  let new := maskOf (fun l => (lane row l).getLsbD 0)
  v.setMsk g k ((v.msk g k &&& ~~~ act) ||| (new &&& act))

/-- The rank of a cause: UE, PEER_DOWN, XLATE, LATE (R215); PREEMPT ranks lowest (DESIGN CHOICE, log 13). -/
def causeRank : Nat → Nat
  | 3 => 5 | 4 => 4 | 2 => 3 | 1 => 2 | 5 => 1 | _ => 0

/-- The higher-ranked of two causes. -/
def worseCause (a b : Nat) : Nat := if causeRank a < causeRank b then b else a

/-- What a group of a declared-latency load lands with: 0 for data, else the cause of R218. -/
def GroupLand.cause (gl : GroupLand) : Nat :=
  if gl.late then 1 else match gl.arr with | .ok => 0 | .bad c => c | .unread => 1

/-- A group of a declared-latency load lands poisoned (R215). -/
def VecSt.landPoison (v : VecSt) (g r slot cause : Nat) : VecSt :=
  let rs := match tfind v.replay slot with
    | some x => tset v.replay slot { x with cause := worseCause x.cause cause, pgrp := x.pgrp ||| groupBit g }
    | none => v.replay
  { v with poison := tset v.poison (64 * g + r) slot, replay := rs }

/-- In a rerun, the recorded landing of a group of a load takes the place of the new access (R303). -/
def Ctx.recorded (x : Ctx) (slot grp : Nat) : Option (Nat × BitVec 512) :=
  x.guard.replayLeft.findSome? (fun r => match r.what with
    | .load s g c row => if s = slot && g = grp && r.at' = x.a.c.bcount then some (c, row) else none
    | _ => none)

/-- Record an input of a guarded context, and drop it from what a rerun still replays. -/
def Ctx.recordIn (x : Ctx) (i : Input) : Ctx :=
  let r : Record := { at' := x.a.c.bcount, what := i }
  { x with guard := { x.guard with record := x.guard.record ++ [r], replayLeft := x.guard.replayLeft.erase r } }

/-- One group of an entry lands. -/
def Ctx.landGroup (x : Ctx) (e : Landing) (gl : GroupLand) : Ctx :=
  let setV (x : Ctx) (v : VecSt) : Ctx := { x with a := { x.a with v := v } }
  let v := x.a.v
  let done : Ctx := match e.dest, e.slot with
    | .vec r, some slot =>
      let guarded := x.env.any LaunchEnv.guard
      let (cause, row) := (if guarded then x.recorded slot gl.grp else none).getD (gl.cause, gl.lo)
      let x1 := if guarded then x.recordIn (.load slot gl.grp cause row) else x
      if cause = 0 then setV x1 (v.landRow gl.grp r gl.act row) else setV x1 (v.landPoison gl.grp r slot cause)
    | .vec r, none => setV x (v.landRow gl.grp r gl.act gl.lo)
    | .pair r, _ => setV x ((v.landRow gl.grp r gl.act gl.lo).landRow gl.grp (r + 1) gl.act gl.hi)
    | .mask k, _ => setV x (v.landMask gl.grp k gl.act gl.lo)
    | .sfy, _ => setV x { v with sfY := tput 0 v.sfY gl.grp gl.lo }
    | _, _ => x
  let fl := raiseFlags 0 gl.grp gl.flags
  { done with
    iss := { done.iss with raised := done.iss.raised ||| fl }
    a := { done.a with v := { done.a.v with vflags := done.a.v.vflags ||| fl } } }

/-- A landed load has left the landing buffer: its slot is no longer in flight. -/
def VecSt.landedSlot (v : VecSt) : Option Nat → VecSt
  | none => v
  | some i => match tfind v.replay i with
    | some r => { v with replay := tset v.replay i { r with flying := false } }
    | none => v

/-- One entry takes effect (R156). -/
def Ctx.landEntry (x : Ctx) (e : Landing) : Ctx :=
  match e.dest with
  | .scal r => { x with a := { x.a with c := x.a.c.setSr r (e.value.truncate 64) } }
  | .hnd h => { x with a := { x.a with c := { x.a.c with hnd := tput 0 x.a.c.hnd h e.value } } }
  | _ =>
    let x1 := e.groups.foldl (fun x gl => x.landGroup e gl) x
    { x1 with a := { x1.a with v := x1.a.v.landedSlot e.slot } }

/-- A replay slot is freed when nothing of it is in flight, and its landing found no poisoned group or no poison bit that it
set stands (R214). -/
def VecSt.freeSlots (v : VecSt) : VecSt :=
  { v with replay := v.replay.filter (fun p => p.2.flying || (p.2.pgrp != 0 && v.poison.any (fun q => q.2 == p.1))) }

/-- The signals and fills that a rerun replays up to this bundle count: they enter the record again, for the rerun after it
(R303). -/
def Ctx.replayInputs (x : Ctx) : Ctx :=
  if x.guard.replayLeft.isEmpty then x
  else
    let due (r : Record) : Bool := r.at'.toNat ≤ x.a.c.bcount.toNat &&
      (match r.what with | .signal .. | .fill .. => true | _ => false)
    let x1 := { x with guard := { x.guard with
      record := x.guard.record ++ x.guard.replayLeft.filter due, replayLeft := x.guard.replayLeft.filter (fun r => !due r) } }
    (x.guard.replayLeft.filter due).foldl (fun y r => y.applyInput r.what) x1

/-- The landings of the bundle about to issue: every entry whose count has reached 0, in issue order, so that of two
results for one register the later-issued stays (R71, R114, R156). -/
def Ctx.landAll (x : Ctx) : Ctx :=
  let due := x.a.v.landing.filter (fun e => e.count == 0)
  if due.isEmpty then x
  else
    let x1 := { x with a := { x.a with v := { x.a.v with landing := x.a.v.landing.filter (fun e => e.count != 0) } } }
    let x2 := due.foldl Ctx.landEntry x1
    { x2 with a := { x2.a with v := x2.a.v.freeSlots } }

/-- The state in which the next bundle of the context in focus reads its operands. -/
def State.landed (s : State) : State := s.modCx Ctx.landAll

end Sys2Proof.Machine
end

