-- ==== Sys2Proof/Machine/Issue.lean ====
section
/-! DEFINITION. The issue of a bundle: what holds it (R39, R68), what traps it (R390 to R392), and a slot instruction as
a bundle of one slot. -/

namespace Sys2Proof.Machine

open Sys2Proof

/-- The slot that takes an instruction, where the encoding leaves one (R79); SCB for a scalar instruction. -/
def slotOf (i : Instr) : Slot :=
  if (vShape i).isSome then .vea
  else if (movOp i).isSome then .mov
  else if (memOp i).isSome then .mem
  else if (engArgs i).isSome then .eng
  else match i with
    | .br _ | .brc .. | .jr _ | .call _ | .ret | .loop .. | .loopi .. | .lbrk | .wait .. | .post .. | .waitp .. | .yield
    | .ckpt | .trap _ | .eret | .halt | .fence _ | .acq .. | .rel .. | .mfs .. | .mts .. => .ctl
    | _ => .scb

/-! Fetch addresses (R66, R122). -/

/-- The fetch address after a byte: the start of the next line when fewer than 2 bytes remain in the line. -/
def fetchAfter (a : W64) : W64 := if a.toNat % 64 = 63 then a + 1 else a

/-- The bytes from an address to the end of its line, through translation; the fault if the fetch fails. -/
def State.fetchLine (s : State) (a : W64) : Except XFault (List Byte) :=
  match s.xl a .fetch with
  | .error f => .error f
  | .ok dpa =>
    if regionOf dpa == .counters then .error ⟨8, match s.pageOf s.fcore.tlb s.cx.launch.asid a with | .ok e => e.level | .error _ => 0⟩
    else match s.readDpa dpa (64 - a.toNat % 64) with
    | .ok bs => .ok bs
    | .error _ => .error ⟨4, 0⟩

/-- Walk headers from START: the bundle that begins at LAST is reached within 256 bundles, an empty run counting one
(R124). -/
def State.bodyWalk (s : State) (last : W64) : Nat → W64 → Nat → Bool
  | 0, _, _ => false
  | fuel + 1, a0, n =>
    let a := fetchAfter a0
    match s.fetchLine a with
    | .error _ => false
    | .ok bs =>
      match bs with
      | h :: r :: _ =>
        if h = 0 && r = 0xFF then s.bodyWalk last fuel (a + BitVec.ofNat 64 (64 - a.toNat % 64)) n
        else if 256 ≤ n then false
        else if a = last then true
        else
          let len := if h = 0 then 2 else 1 + ((headerSlots h).map Slot.bytes).sum
          if bs.length < len then false else s.bodyWalk last fuel (a + BitVec.ofNat 64 len) (n + 1)
      | _ => false

/-- The first byte after the bundle at an address, as its header tells. -/
def State.bundleEnd (s : State) (a : W64) : W64 :=
  match s.fetchLine a with
  | .ok (h :: _) => a + BitVec.ofNat 64 (if h = 0 then 2 else 1 + ((headerSlots h).map Slot.bytes).sum)
  | _ => a + 1

/-- The fetch address after the bundle at an address. -/
def State.afterBundle (s : State) (a : W64) : W64 := fetchAfter (s.bundleEnd a)

/-! Illegal at issue (R72, R124, R126, R136, R138, R145 to R148). -/

/-- The exact value of a scalar read as signed. -/
def sint (w : W64) : Int := w.toInt

/-- BASE as a signed address. -/
def hBaseInt (h : W256) : Int := (hBase h).toInt

/-- What a handle operation does to a handle: ILL, an XLATE at the address that would have resulted, or the new handle
(R145 to R148). -/
inductive HandleRes where
  | ill
  | xlate (addr : W64)
  | ok (h : W256)
  deriving DecidableEq, Repr

/-- BASE moved by an offset in half bytes: odd is ILL, out of the canonical range is XLATE (R146). -/
def moveBase (h : W256) (nibbles : Int) : HandleRes :=
  if nibbles % 2 != 0 then .ill
  else
    let a := hBaseInt h + nibbles / 2
    if -(2 ^ 56) ≤ a && a < 2 ^ 56 then .ok (putBits h 0 57 (BitVec.ofInt 57 a).toNat) else .xlate (BitVec.ofInt 64 a)

/-- HSET (R145). -/
def hsetRes (h : W256) (fld : BitVec 5) (v : W64) : HandleRes :=
  let lim (max lo n : Nat) : HandleRes := if v.toNat ≤ max then .ok (putBits h lo n v.toNat) else .ill
  match fld.toNat with
  | 0 => if canonical v then .ok (putBits h 0 57 v.toNat) else .xlate v
  | 1 => lim 3 57 2
  | 2 => lim 9 59 4
  | 3 => if v.toNat ≤ 0x1FFF then .ok (putBits (putBits h 63 1 (v.toNat / 4096)) 192 12 v.toNat) else .ill
  | 4 => .ok (putBits h 64 64 v.toNat)
  | 5 => lim 0xFFFFFF 104 24
  | 6 => lim 0xFFFFFF 80 24
  | 7 => lim 0xFFFF 64 16
  | 8 | 9 | 10 | 11 => lim 0xFFFF (128 + 16 * (fld.toNat - 8)) 16
  | 12 | 13 | 14 | 15 => lim 0xFFF (208 + 12 * (fld.toNat - 12)) 12
  | 16 => lim 15 204 4
  | 17 | 18 | 19 | 20 => .ok (putBits h (64 * (fld.toNat - 17)) 64 v.toNat)
  | _ => .ill

/-- HADV (R146). -/
def hadvRes (h : W256) (v : W64) (k : BitVec 2) : HandleRes :=
  if k = 0 then
    match fmtBits (hFmt h) with
    | none => .ill
    | some eb => moveBase h (sint v * hStr h 0 * (eb / 4 : Nat))
  else moveBase h (sint v * hStr h k.toNat * (2 ^ hSsh h * 2 : Nat))

/-- HTILE (R147). -/
def htileRes (h : W256) (x y : W64) (fld : BitVec 5) : HandleRes :=
  match fmtBits (hFmt h) with
  | none => .ill
  | some eb =>
    match moveBase h (sint x * hDim h 0 * hStr h 0 * (eb / 4 : Nat) + sint y * hDim h 1 * hStr h 1 * (2 ^ hSsh h * 2 : Nat)) with
    | .ok h' =>
      let t : Int := ((hName h).extractLsb' 16 24).toNat + sint y * 2 ^ fld.toNat + sint x
      .ok (putBits h' 80 24 (t % 2 ^ 24).toNat)
    | r => r

/-- HNAME (R148). -/
def hnameRes (h : W256) (v t : W64) (fld : BitVec 5) : HandleRes :=
  let iter := ((hName h).extractLsb' 0 16).toNat
  let tile := ((hName h).extractLsb' 16 24).toNat
  match fld.toNat with
  | 0 => .ok (putBits h 64 16 (((iter : Int) + sint v) % 2 ^ 16).toNat)
  | 1 => .ok (putBits h 80 24 (((tile : Int) + sint v) % 2 ^ 24).toNat)
  | 2 => if v.toNat < 2 ^ 24 && t.toNat < 2 ^ 16 then .ok (putBits (putBits h 80 24 v.toNat) 64 16 t.toNat) else .ill
  | _ => .ill

/-- What the handle operations give; none for any other instruction. -/
def State.handleRes (s : State) (i : Instr) : Option HandleRes :=
  match i with
  | .hset h r fld => some (hsetRes (s.hr h) fld (s.sr r))
  | .hadv h r d => some (hadvRes (s.hr h) (s.sr r) d)
  | .htile h r t fld => some (htileRes (s.hr h) (s.sr r) (s.sr t) fld)
  | .hname h r t fld => some (hnameRes (s.hr h) (s.sr r) (s.sr t) fld)
  | _ => none

/-- A loop level is active. -/
def LoopSt.act (l : LoopSt) (lvl : Nat) : Bool := l.order.contains lvl

/-- Two reads conflict: one group's file, one port, different registers (R70). -/
def portConflict (p q : PortRead) : Bool := p.groups &&& q.groups != 0 && p.port == q.port && p.reg != q.reg

/-- Some two reads of a list conflict. -/
def anyConflict : List PortRead → Bool
  | [] => false
  | p :: r => r.any (portConflict p) || anyConflict r

/-- ILL of one slot at issue, its own fields' port conflicts among it (R70, R391); n is how many slots the bundle has. -/
def State.illSlot (s : State) (n : Nat) (i : Instr) : Bool :=
  !legal i || anyConflict (portReads i) ||
  match i with
  | .loop lvl _ _ | .loopi lvl _ _ => s.cx.a.c.loops.act lvl.toNat
  | .lbrk => s.cx.a.c.loops.order.isEmpty
  | .eret => !s.cx.a.c.active
  | .ckpt => s.cx.launch.guard && n != 1
  | i => s.handleRes i == some .ill

/-- A loop body breaks R124: LAST is not reached, or the body ends after the LAST of an active level whose body holds
the LOOP bundle. -/
def State.badBody (s : State) (i : Instr) : Bool :=
  let a := s.cx.iss.addr
  let bad (eo : BitVec 14) : Bool :=
    let last := a + eo.zeroExtend 64
    let l := s.cx.a.c.loops
    !s.bodyWalk last 520 s.cx.iss.fall 0 ||
    l.order.any (fun k => tget 0 l.start k ≤ a && a ≤ tget 0 l.last k && tget 0 l.last k < last)
  match i with
  | .loop _ eo _ | .loopi _ eo _ => bad eo
  | _ => false

/-- TRAP_INFO of ILL (R391): the header bit of the lowest illegal slot, or 8 for the bundle as a whole. -/
def State.illOf (s : State) (l : List (Slot × Instr)) : Option Nat :=
  match l.find? (fun p => s.illSlot l.length p.2) with
  | some p => some p.1.bit
  | none => if l.any (fun p => s.badBody p.2) || anyConflict (l.flatMap (fun p => portReads p.2)) then some 8 else none

/-! Poisoned operands (R217). -/

/-- The lowest of a list of numbers. -/
def least : List Nat → Option Nat
  | [] => none
  | n :: r => match least r with | some m => some (min n m) | none => some n

/-- TRAP_INFO of REPLAY: the lowest group, then the lowest register that is read poisoned, and its slot. -/
def State.replayOf (s : State) (l : List (Slot × Instr)) : Option W64 :=
  let v := s.cx.a.v
  if v.poison.isEmpty then none
  else
    let hits := (l.flatMap (fun p => portReads p.2)).flatMap (fun r =>
      ((groupList r.groups).map (fun g => 64 * g + r.reg)).filter (fun k => tmem v.poison k))
    (least hits).map (fun k => BitVec.ofNat 64 (k % 64 * 2 ^ 16 + k / 64 * 2 ^ 8 + tget 0 v.poison k % 32))

/-! SFMT (R291). -/

/-- An SCALL to an array that is STALE: the array. -/
def State.sfmtOf (s : State) (l : List (Slot × Instr)) : Option Nat :=
  l.findSome? (fun p => match p.2 with
    | .scall o => if s.cx.a.r.stale.getLsbD (o.pf 22 2) then some (o.pf 22 2) else none
    | _ => none)

/-! WPORT (R71, R156, R157). -/

/-- The groups that a RELD reloads: PGRP of its slot, within G (R219). -/
def State.reldGroups (s : State) (o : MemArgs) : BitVec 8 :=
  match tfind s.cx.a.v.replay ((s.sr o.s).toNat % 32) with
  | some r => r.pgrp &&& o.g
  | none => 0

/-- The register writes that an instruction brings. -/
def State.writesOf (s : State) (i : Instr) : List PortWrite :=
  match i with
  | .reld o => [⟨s.reldGroups o, 1, o.lat.toNat⟩]
  | i => portWrites i

/-- Registers that an entry writes in a group. -/
def Landing.regs (e : Landing) (g : Nat) : Nat :=
  let here := if e.groups.any (fun x => x.grp == g) then 1 else 0
  match e.dest with
  | .vec _ => here
  | .pair _ => 2 * here
  | _ => 0

/-- The writes into a group's file that would land lat bundles from now; after an ERET the results that the trap entry held
go on from the next bundle (R138). -/
def State.portLoad (s : State) (eret : Bool) (ws : List PortWrite) (g lat : Nat) : Nat :=
  ((s.cx.a.v.landing.filter (fun e => e.count == lat)).map (fun e => e.regs g)).sum +
  (if eret then (((s.cx.a.c.held.map Held.landing).getD []).filter (fun e => e.count + 1 == lat)).map (fun e => e.regs g) else []).sum +
  ((ws.filter (fun w => w.lat == lat && w.groups.getLsbD g)).map PortWrite.count).sum

/-- TRAP_INFO of WPORT (R157). Where a bundle breaks both limits, KIND is 0: the spec does not say which (DESIGN CHOICE, log 14). -/
def State.wportOf (s : State) (l : List (Slot × Instr)) : Option W64 :=
  let ws := l.flatMap (fun p => s.writesOf p.2)
  let eret := l.any (fun p => p.2 == .eret)
  let bad := (List.range 8).find? (fun g => ws.any (fun w => w.groups.getLsbD g && 3 < s.portLoad eret ws g w.lat))
  match bad with
  | some g => some (BitVec.ofNat 64 (256 * g))
  | none =>
    let loads := l.any (fun p => match p.2 with | .ldg _ | .ldr _ => true | _ => false)
    if loads && 32 ≤ s.cx.a.v.replay.length then some 1 else none

/-! CKSPAN (R300). -/

/-- A guarded launch holds an ENG command until the commit: every one but SCALL, SCFG, SDRAIN, SMLOAD, SINTF and ATOM. -/
def heldEng : Instr → Bool
  | .scall _ | .scfg _ | .sdrain _ | .smload _ | .sintf _ | .atom _ => false
  | i => (engArgs i).isSome

/-- Groups of a mask. -/
def groupCount (g : BitVec 8) : Nat := (groupList g).length

/-- Bytes that an instruction takes of the hold buffer and of the record (R300). -/
def holdCost (i : Instr) : Nat :=
  match i with
  | .sts .. | .rel .. => 32
  | .vred o => 32 + 64 * groupCount o.g
  | i => if heldEng i then 32 else 0

def recordCost (i : Instr) : Nat :=
  (match i with
  | .lds .. | .pop _ | .wait .. | .waitp .. => 16
  | .mfs _ sys => if sys = 0x021 || sys = 0x022 then 16 else 0
  | .ldg o | .ldr o | .reld o => 16 + 64 * groupCount o.g
  | _ => 0) + (match engArgs i with | some o => if o.wthr = 0 then 0 else 16 | none => 0)

/-- The local-store chunks that an instruction of the context writes, as physical offsets (R234, R300). -/
def State.chunksOf (s : State) (i : Instr) : List Nat :=
  let e := s.cx.launch
  let v := s.cx.a.v
  let span (off n : Nat) : List Nat := (List.range ((off % 32 + n + 31) / 32)).map (fun j => e.phys (off / 32 * 32 + 32 * j))
  List.eraseDups (match i with
  | .stf _ ra sz imm => span (s.memAddr ra imm).toNat (szBytes sz)
  | .vst o => (v.lanesOf o.g o.k.toNat).flatMap (fun (p : Nat × Nat) => span (laneAddr (s.hr o.h) (s.memIdx o) p.1 p.2).toNat 4)
  | .vstx o => (v.lanesOf o.g o.k.toNat).flatMap (fun (p : Nat × Nat) => span (s.idxAddr o (o.x.extractLsb' 0 3).toNat p.1 p.2).toNat 4)
  | _ => [])

/-- Journal bytes that the first writes of a bundle take. -/
def State.journalCost (s : State) (l : List (Slot × Instr)) : Nat :=
  40 * (((l.flatMap (fun p => s.chunksOf p.2)).eraseDups).filter (fun c => !tmem s.cx.guard.journal c)).length

/-- TRAP_INFO of CKSPAN: 1 the hold buffer, 2 the journal. -/
def State.ckspanOf (s : State) (l : List (Slot × Instr)) : Option Nat :=
  if !s.cx.launch.guard then none
  else
    let g := s.cx.guard
    if 16384 < g.holdUsed + (l.map (fun p => holdCost p.2)).sum then some 1
    else if 32768 < g.journalUsed + s.journalCost l + (l.map (fun p => recordCost p.2)).sum then some 2
    else none

/-! XLATE at issue (R133, R134, R143, R145 to R147, R212, R214, R220, R270, R273, R274). -/

/-- An access that fails: its kind, why, and TRAP_INFO. -/
structure XTrap where
  acc : Acc
  fault : XFault
  info : W64
  deriving DecidableEq, Repr

/-- The LEVEL at which the leaf of a translated address stands (R394). -/
def State.leafLevel (s : State) (va : W64) : Nat :=
  match s.pageOf s.fcore.tlb s.cx.launch.asid va with
  | .ok e => e.level
  | .error _ => 0

/-- An aligned, translated address whose region is accepted. -/
def State.objFault (s : State) (va : W64) (align : Nat) (acc : Acc) (kind : Nat) (ok : Region → Bool) : Option XTrap :=
  if va.toNat % align != 0 then some ⟨acc, ⟨7, 0⟩, va⟩
  else match s.xl va acc with
    | .error f => some ⟨acc, f, va⟩
    | .ok dpa => if ok (regionOf dpa) then none else some ⟨acc, ⟨kind, s.leafLevel va⟩, va⟩

/-- A latch or a barrier of ACQ or REL: 64-byte aligned, in Firn or the coherent window (R133, R134). -/
def latchRegion : Region → Bool | .firn | .window => true | _ => false

/-- The regions of ATOM and RED: the counter window takes an 8-byte add alone (R270). -/
def atomRegion (aop : Nat) (wide : Bool) : Region → Bool
  | .hbm | .firn | .window | .remote .. | .aperture .. => true
  | .counters => aop == 0 && wide
  | _ => false

/-- The first active lane that fails a test. -/
def State.laneFault (s : State) (o : MemArgs) (addr : Nat → Nat → W64) (f : W64 → Option XTrap) : Option XTrap :=
  (s.cx.a.v.lanesOf o.g o.k.toNat).findSome? (fun p => f (addr p.1 p.2))

/-- A local-store word of a MEM instruction: aligned, and below LSNEED (R212). -/
def State.lsWordFault (s : State) (a : W64) : Option XTrap :=
  if a.toNat % 4 != 0 then some ⟨.local', ⟨7, 0⟩, a⟩
  else if s.cx.launch.inShare a.toNat 4 then none
  else some ⟨.local', ⟨6, 0⟩, a⟩

/-- The residency that a MEM instruction accepts (R211, R394). -/
def State.resFault (s : State) (o : MemArgs) (acc : Acc) (ok : Nat → Bool) : Option XTrap :=
  if ok (hRes (s.hr o.h)) then none else some ⟨acc, ⟨8, 0⟩, hBase (s.hr o.h)⟩

/-- The address of a lane of the instruction's own form (R211). -/
def State.laneOf (s : State) (i : Instr) (g l : Nat) : W64 :=
  match i with
  | .vld o | .vst o | .ldg o | .ldr o => laneAddr (s.hr o.h) (s.memIdx o) g l
  | .vldx o | .vstx o => s.idxAddr o (o.x.extractLsb' 0 3).toNat g l
  | .vatom o | .vred o => s.idxAddr o (o.x.extractLsb' 4 2).toNat g l
  | _ => 0

/-- XLATE of one slot at issue. -/
def State.xlateSlot (s : State) (i : Instr) : Option XTrap :=
  let range (va : W64) (n : Nat) (acc : Acc) : Option XTrap :=
    match s.xlRange va n acc with
    | .ok _ => none
    | .error (a, f) => some ⟨acc, f, a⟩
  let share (off : W64) (n : Nat) : Option XTrap :=
    if s.cx.launch.inShare off.toNat n then none else some ⟨.local', ⟨6, 0⟩, off⟩
  match i with
  | .lds _ ra sz imm => range (s.memAddr ra imm) (szBytes sz) .load
  | .sts _ ra sz imm =>
    let va := s.memAddr ra imm
    match s.xlRange va (szBytes sz) .store with
    | .error (a, f) => some ⟨.store, f, a⟩
    | .ok ps =>
      if ps.any (fun p => regionOf p.1 == .counters && !(p.1 % 8 == 0 && p.2 == 8)) then some ⟨.store, ⟨8, s.leafLevel va⟩, va⟩
      else none
  | .ldf _ ra sz imm | .stf _ ra sz imm => share (s.memAddr ra imm) (szBytes sz)
  | .acq sa _ _ kind => if kind.toNat ≤ 1 then s.objFault (s.sr sa) 64 .load 8 latchRegion else none
  | .rel sa _ _ => s.objFault (s.sr sa) 64 .atomic 8 latchRegion
  | .vld o | .vst o | .vldx o | .vstx o =>
    (s.resFault o .local' (fun r => r == 0)).or (s.laneFault o (s.laneOf i) s.lsWordFault)
  | .ldg o | .ldr o =>
    let remote := match i with | .ldr _ => true | _ => false
    (s.resFault o .load (fun r => if remote then r == 3 else r == 1 || r == 2)).or
      (s.laneFault o (s.laneOf i) (fun a =>
        if !canonical a then some ⟨.load, ⟨1, 0⟩, a⟩ else if a.toNat % 4 != 0 then some ⟨.load, ⟨7, 0⟩, a⟩ else none))
  | .vatom o | .vred o =>
    (s.resFault o .atomic (fun r => r != 0)).or
      (s.laneFault o (s.laneOf i) (fun a => s.objFault a 4 .atomic 8 (fun r => r != .counters)))
  | .atom o | .red o =>
    let wide := o.pf 1 1 == 1
    s.objFault (s.sr (BitVec.ofNat 6 (o.pf 18 6))) (if wide then 8 else 4) .atomic 8 (atomRegion (o.pf 2 4) wide)
  | .launch o | .launchi o =>
    let a := hBase (s.hr (BitVec.ofNat 5 (o.pf 19 5)))
    (s.objFault a 128 .load 8 (fun r => r != .counters)).or (range a 128 .load)
  | .flushh o =>
    let h := s.hr (BitVec.ofNat 5 (o.pf 19 5))
    if (hRes h == 1 || hRes h == 2) && hContig h then none else some ⟨.load, ⟨8, 0⟩, hBase h⟩
  | i =>
    match s.handleRes i with
    | some (.xlate a) => some ⟨.handle, ⟨1, 0⟩, a⟩
    | _ => none

/-! SEMOVF of a POST (R129). -/

/-- What the ENG slot of the bundle takes of a semaphore. -/
def needOf (l : List (Nat × Nat)) (sem : Nat) : Nat := ((l.filter (fun p => p.1 == sem)).map (fun p => p.2)).sum

/-- What the slots of a bundle need of semaphores: a WAIT, and the wait field of an ENG command (R129). -/
def semNeeds (l : List (Slot × Instr)) : List (Nat × Nat) :=
  l.flatMap (fun p => match p.2 with
    | .wait sem val => [(sem.toNat, val.toNat)]
    | i => match engArgs i with
      | some o => [(o.wsem.toNat, o.wthr.toNat)]
      | none => [])

/-- The semaphore that a POST of the bundle would carry past 0xFFFF. -/
def State.semovfOf (s : State) (l : List (Slot × Instr)) : Option Nat :=
  l.findSome? (fun p => match p.2 with
    | .post sem val =>
      if 0xFFFF < (tget 0 s.cx.a.c.sem sem.toNat).toNat - needOf (semNeeds l) sem.toNat + val.toNat then some sem.toNat
      else none
    | _ => none)

/-! ACQ (R133). -/

/-- The test of an ACQ's object: met, not met, or an uncorrectable error in it. -/
inductive AcqTest where
  | met | unmet | ue
  deriving DecidableEq, Repr

/-- A wait of the context is that of an ACQ with its operands. -/
def State.awaits (s : State) (w : AcqWait) (sa sb : BitVec 6) (kind : BitVec 2) : Bool :=
  w.kind == kind.toNat && w.name == s.sr sa && (kind = 2 || w.target == s.sr sb)

def State.acqTest (s : State) (sa sb : BitVec 6) (kind : BitVec 2) : AcqTest :=
  if s.cx.acq.any (fun w => s.awaits w sa sb kind && w.status.isSome) then .met
  else if kind = 2 then .unmet
  else match s.xl (s.sr sa) .load with
    | .error _ => .met
    | .ok dpa =>
      match s.readDpa dpa 8 with
      | .error _ => .ue
      | .ok bs =>
        let v := natOfBytes bs
        let ok := if kind = 0 then (s.sr sb).toNat ≤ v else (v / 2 ^ 63 % 2 == 1) == (s.sr sb).getLsbD 0
        if ok then .met else .unmet

/-! What holds a bundle (R39, R114, R129, R132, R133, R136, R138, R207, R210, R221, R238, R240, R273, R294, R307, R341). -/

/-- The result queue of a command and the slots that it takes (R207, R238, R307, R341, R352, R373, R374). -/
def State.queueOf (s : State) (i : Instr) : Option (Nat × Nat) :=
  match i with
  | .copy _ | .copys _ | .rotq _ => some (qCopy, 1)
  | .ask _ | .announce _ | .seal _ => some (qName, 1)
  | .atom _ | .binit _ | .barr _ | .barrx _ | .bwait _ | .btwait _ => some (qMem, 1)
  | .vatom o => some (qMem, 8 * groupCount o.g)
  | .scall _ | .scfg _ | .sdrain _ | .smload _ => some (qSerac, 1)
  | .msub _ | .mstat _ => some (qMor, 1)
  | .darm _ => some (qDrift, 1)
  | .dput o => some (qDrift, if (s.sr (BitVec.ofNat 6 (o.pf 13 6))).getLsbD 63 then 2 else 1)
  | _ => none

/-- A flight is an atomic or a reduction of this context not yet performed (R132). -/
def Flight.pendingOf (o : Origin) : Flight → Bool
  | .atom g .. | .vatom g .. => g.same o
  | .red _ _ _ _ who _ => who.any (fun w => w.org.same o)
  | _ => false

/-- The bytes of an atomic or reduction. -/
def Flight.spans : Flight → List (Nat × Nat)
  | .atom _ _ dpa width .. => [(dpa, width)]
  | .vatom _ _ lanes _ => lanes.map (fun l => (l.2.1, 4))
  | .red dpa width .. => [(dpa, width)]
  | _ => []

/-- A request of the context in focus that a FENCE, REL or ACQ at a scope waits for or orders: an atomic or reduction with a
home in the scope, and a REL (R54, R59, R61, R63 note 1, R132). -/
def State.orders (s : State) (scope : Nat) (f : Flight) : Bool :=
  match f with
  | .rel org .. => org.same s.origin
  | f => f.pendingOf s.origin && f.spans.any (fun p => byteInScope scope s.ctxAgent p.1)

/-- LAUNCH and LAUNCHI commands of a context in flight (R273). -/
def State.kids (s : State) (o : Origin) : Nat :=
  s.launches.countP (fun p => match p.2.src with | .cmd g .. => g.same o | _ => false)

/-- The units that MSUB names: 32s + c with both bits set (R341). -/
def msubUnits (w : W64) : List Nat :=
  (List.range 256).filter (fun u => w.getLsbD (32 + u / 32) && w.getLsbD (u % 32))

/-- A Serac routine of the context has begun on some array and has not ended, be it suspended (R210, R302, R306). -/
def State.seracRuns (s : State) : Bool :=
  [0, 1, 2, 3].any (fun a => (s.fcore.arr a).run.any (fun r => r.cmd.lid == s.cx.launch.lid) ||
    (s.fcore.arr a).susp.any (fun r => r.cmd.lid == s.cx.launch.lid))

/-- A commit can begin: nothing in flight in the landing buffer, the replay slots or an LDS, and no routine that the
context has called is left to run (R302; DEDUCED, log 16). -/
def State.canCommit (s : State) : Bool :=
  let lid := s.cx.launch.lid
  s.cx.a.v.landing.isEmpty && s.cx.a.v.replay.isEmpty && s.cx.lds.isNone && !s.seracRuns &&
  [0, 1, 2, 3].all (fun a => (s.fcore.arr a).queue.all (fun c => c.lid != lid))

/-- The array that an SCALL, SCFG or SDRAIN commands. -/
def arrayOf : Instr → Option Nat
  | .scall o | .scfg o | .sdrain o => some (o.pf 22 2)
  | _ => none

/-- Commands issued to an array and not completed (R307). -/
def Arr.pending (a : Arr) : Nat := a.queue.length + (if a.run.isSome then 1 else 0) + (if a.susp.isSome then 1 else 0)

/-- Plane set 0 of an array belongs to another normal context (R294). -/
def State.arrayTaken (s : State) (a : Nat) : Bool :=
  s.focusCtx != 4 && (match (s.fcore.arr a).owner with | some lid => lid != s.cx.launch.lid | none => false)

/-- An SCALL to an array that is STALE, which traps before it could wait for the array (R291, R312). -/
def State.staleCall (s : State) : Instr → Bool
  | .scall o => s.cx.a.r.stale.getLsbD (o.pf 22 2)
  | _ => false

/-- Commands that a guarded segment holds and that a predicate names (R300). -/
def Guard.sends (g : Guard) (p : Instr → Bool) : Nat :=
  g.hold.countP (fun h => match h with | .send _ i .. => p i | _ => false)

/-- The guarded segments of a core's contexts, evicted ones included. -/
def Core.guards (k : Core) : List Guard := k.ctxs.map (fun q => q.2.guard) ++ k.parking.map (fun p => p.ctx.guard)
/-- COPY, COPYS and ROTQ commands that the guarded segments of a core hold: each has its entry of the table (R240, R300). -/
def Core.heldCopies (k : Core) : Nat :=
  (k.guards.map (fun g => g.sends (fun j => match j with | .copy _ | .copys _ | .rotq _ => true | _ => false))).sum

/-- MSUBs held by a guarded segment that name a unit, or any unit (R300, R341). -/
def Guard.msubs (g : Guard) (unit : Option Nat) : Nat :=
  g.hold.countP (fun h => match h with
    | .send _ (.msub o) scal .. =>
      let w := if o.pf 13 6 = 63 then 0 else tget 0 scal (o.pf 13 6)
      unit.all (fun u => (msubUnits w).contains u)
    | _ => false)
/-- MSUBs held anywhere that name a unit. -/
def State.heldMsubs (s : State) (unit : Nat) : Nat :=
  (s.cores.map (fun p => (p.2.guards.map (fun g => g.msubs (some unit))).sum)).sum

/-- A slot holds its bundle. -/
def State.heldSlot (s : State) (i : Instr) : Bool :=
  (match arrayOf i with | some a => !s.staleCall i && (s.arrayTaken a || 8 ≤ (s.fcore.arr a).pending) | none => false) ||
  match i with
  | .fence scope => s.flights.any (fun p => s.orders scope.toNat p.2) || !s.cx.guard.hold.isEmpty
  | .acq sa sb _ kind =>
    (s.xlateSlot i).isNone &&
      (s.flights.any (fun p => match p.2 with | .rel org .. => org.same s.origin | _ => false) ||
       s.cx.guard.hold.any (fun h => match h with | .send _ (.rel ..) .. => true | _ => false) || s.acqTest sa sb kind == .unmet)
  | .eret => s.cx.a.c.active && !s.cx.a.v.landing.isEmpty
  | .ckpt => s.cx.launch.guard && !s.canCommit
  | .pop o => o.x.getLsbD 3 && (match s.cx.a.q.slots (o.x.extractLsb' 0 3).toNat with | e :: _ => e.entry.isNone | [] => true)
  | .srseed o => o.x.getLsbD 1 && s.seracRuns
  | .copy _ | .copys _ | .rotq _ => 128 ≤ s.fcore.copies.countP (fun p => !p.2.ended) + s.fcore.heldCopies
  | .launch _ | .launchi _ =>
    16 ≤ s.kids s.origin + s.cx.guard.sends (fun j => match j with | .launch _ | .launchi _ => true | _ => false)
  | .msub o =>
    32 ≤ s.blocks.countP (fun p => p.2.org.same s.origin) + s.cx.guard.msubs none ||
    (msubUnits (s.sr (BitVec.ofNat 6 (o.pf 13 6)))).any (fun u =>
      8 ≤ (tget MUnit.reset s.units u).queue.length + s.heldMsubs u)
  | _ => false

/-- The bundle is held by R39, R132 or R133: a semaphore, a queue, a table, an ordering or an acquire. -/
def State.heldBy (s : State) (l : List (Slot × Instr)) : Bool :=
  (semNeeds l).any (fun p => (tget 0 s.cx.a.c.sem p.1).toNat < needOf (semNeeds l) p.1) ||
  (let qs := l.filterMap (fun p => s.queueOf p.2)
   qs.any (fun q => !s.cx.a.q.room q.1 (((qs.filter (fun r => r.1 == q.1)).map Prod.snd).sum))) ||
  l.any (fun p => s.heldSlot p.2)

/-- The wait of a context at a latch or a barrier is over. -/
def State.dropAcq (s : State) : State :=
  let s1 := match s.cx.acq with
    | some w => if w.kind = 2 then s else s.dropFlight w.id
    | none => s
  s1.modCx (fun x => { x with acq := none })

/-- An ACQ that is not met when it is first tested waits at the home of its latch or barrier, or places its interest in a
name with the default lifetime; t is the state in which the bundle reads its operands, and the wait of another ACQ, which a
trap has set aside, gives way (R133, R252). -/
def State.placeAcq (s t : State) (l : List (Slot × Instr)) : State :=
  match l.findSome? (fun p => match p.2 with | .acq sa sb _ kind => some (sa, sb, kind) | _ => none) with
  | none => s
  | some (sa, sb, kind) =>
    if s.cx.acq.any (fun w => t.awaits w sa sb kind) then s
    else
      let name := t.sr sa
      let w (target : W64) (id : Nat) : AcqWait := { kind := kind.toNat, name := name, target := target, id := id, status := none }
      let s0 := s.dropAcq
      if kind = 2 then
        let expiry := s0.wallus.toNat + Config.defaultLife
        let (id, s1) := s0.addFlight (.acqName s0.origin expiry)
        (s1.placeInterest s0.focusCore name id expiry).modCx (fun x => { x with acq := some (w 0 id) })
      else if (s0.objFault name 64 .load 8 latchRegion).isSome || t.acqTest sa sb kind != .unmet then s0
      else match s0.xl name .load with
        | .ok dpa =>
          let (id, s1) := s0.addFlight (.acqObj s0.origin dpa (kind == 1) (t.sr sb))
          s1.modCx (fun x => { x with acq := some (w (t.sr sb) id) })
        | .error _ => s0

/-! Commits before a bundle (R301, R302). -/

/-- The context's state has just been committed before this bundle, and nothing has issued since (R301). -/
def State.freshCommit (s : State) : Bool :=
  s.cx.guard.hold.isEmpty && s.cx.guard.point.any (fun p => p.c.bcount == s.cx.a.c.bcount && p.c.ckptPc == s.cx.iss.addr)

/-- The bundle must have a commit before it: it holds an ATOM or a VATOM, or it is held while effects are (R301). -/
def State.needsCommit (s : State) (held : Bool) (l : List (Slot × Instr)) : Bool :=
  s.cx.launch.guard &&
  ((held && !s.cx.guard.hold.isEmpty) ||
   (l.any (fun p => match p.2 with | .atom _ | .vatom _ => true | _ => false) && !s.freshCommit))

/-- A commit with CKPT_PC at an address becomes due (R301, R302). -/
def State.dueCommit (s : State) (pc : W64) : State :=
  s.modCx (fun x => { x with
    guard := { x.guard with commitDue := true }
    a := { x.a with c := { x.a.c with ckptPc := pc } } })

/-! The test of a bundle (R68, R392). -/

/-- A trap at issue. -/
structure TrapAt where
  cause : Cause
  info : W64
  x : Option (Acc × XFault)
  deriving DecidableEq, Repr

/-- The first cause of the bundle that needs no translation, in the order of R392. -/
def State.earlyTrap (s : State) (l : List (Slot × Instr)) : Option TrapAt :=
  match s.illOf l with
  | some n => some ⟨.ill, BitVec.ofNat 64 n, none⟩
  | none =>
  match s.replayOf l with
  | some v => some ⟨.replay, v, none⟩
  | none =>
  match s.sfmtOf l with
  | some n => some ⟨.sfmt, BitVec.ofNat 64 n, none⟩
  | none =>
  match s.wportOf l with
  | some v => some ⟨.wport, v, none⟩
  | none =>
  (s.ckspanOf l).map (fun n => ⟨.ckspan, BitVec.ofNat 64 n, none⟩)

/-- The first cause of the bundle in the order of R392; SDATA of an ACQ and SEMOVF of a POST, which that order does not
name, come last (DEDUCED, log 14). -/
def State.trapOf (s : State) (l : List (Slot × Instr)) : Option TrapAt :=
  match s.earlyTrap l with
  | some t => some t
  | none =>
  match l.findSome? (fun p => s.xlateSlot p.2) with
  | some x => some ⟨.xlate, x.info, some (x.acc, x.fault)⟩
  | none =>
  if l.any (fun p => match p.2 with | .acq sa sb _ kind => s.acqTest sa sb kind == .ue | _ => false) then some ⟨.sdata, 1, none⟩
  else match s.semovfOf l with
    | some n => some ⟨.semovf, BitVec.ofNat 64 n, none⟩
    | none => none

/-- Take a trap at the bundle: TRAP_PC is its address (R390). -/
def State.takeTrap (s : State) (t : TrapAt) : State :=
  match t.x with
  | some (acc, f) => s.enterXlate acc f t.info s.cx.iss.addr
  | none => s.enterTrap t.cause t.info s.cx.iss.addr

/-- What comes of testing a bundle. -/
inductive Verdict where
  /-- It issues, from this state, in which its results due have landed. -/
  | go (s : State)
  /-- It is held, or traps: this is the state. -/
  | stop (s : State)
  deriving DecidableEq, Repr

/-- The context was found blocked (R39). -/
def State.markBlocked (s : State) : State :=
  s.modCx (fun x => { x with blocked := true, iss := { Issue.idle with raised := x.iss.raised } })

/-! Walks that hold a bundle (R144, R270, R406). -/

/-- The addresses at which an instruction begins to touch pages that must be at hand when its bundle issues. A load of the MEM
slot waits for no walk (R214). -/
def State.touches (s : State) (i : Instr) : List W64 :=
  match i with
  | .lds _ ra sz imm | .sts _ ra sz imm => pageStarts (s.memAddr ra imm) (szBytes sz)
  | .acq sa _ _ kind => if kind.toNat ≤ 1 then [s.sr sa] else []
  | .rel sa _ _ => [s.sr sa]
  | .vatom o | .vred o => (s.cx.a.v.lanesOf o.g o.k.toNat).map (fun p => s.laneOf i p.1 p.2)
  | .atom o | .red o => [s.sr (BitVec.ofNat 6 (o.pf 18 6))]
  | .launch o | .launchi o => [hBase (s.hr (BitVec.ofNat 5 (o.pf 19 5)))]
  | _ => []

/-- Those of some addresses whose pages the context has not at hand, one for each page. -/
def State.missing (s : State) (vas : List W64) : List W64 :=
  (vas.filter (fun a => canonical a && (tlbFind s.atHand s.cx.launch.asid a).isNone && (s.walkFault a).isNone)).foldl
    (fun l a => if l.any (fun b => pageNo b == pageNo a) then l else l ++ [a]) []

/-- The context in focus asks the walker of its die for the page of an address, and joins the walk that is under way for it
(R406). -/
def State.askWalk (s : State) (va : W64) : State :=
  let me := (s.focusCore, s.cx.launch.lid)
  let it (w : Walk) : Bool := w.die == coreDie s.focusCore && w.asid == s.cx.launch.asid && w.page == pageNo va
  if s.walks.any it then
    { s with walks := s.walks.map (fun w => if it w && !w.reqs.contains me then { w with reqs := w.reqs ++ [me] } else w) }
  else { s with walks := s.walks ++ [{ die := coreDie s.focusCore, asid := s.cx.launch.asid, page := pageNo va, reqs := [me] }] }

/-- The bundle is held while its pages are walked (R39, R144, R406). -/
def State.holdWalks (s : State) (vas : List W64) : State := (vas.foldl State.askWalk s).markBlocked

/-- The test of a bundle's slots at issue: what holds the bundle comes before what traps it, since a held bundle does
not issue (R68; DEDUCED, log 14). -/
def State.test (s : State) (l : List (Slot × Instr)) : Verdict :=
  let t := s.landed
  if t.cx.lds.isSome || t.cx.guard.commitDue then .stop s.markBlocked
  else
    let held := t.heldBy l
    if t.needsCommit held l && t.canCommit then .stop ((t.dueCommit t.cx.iss.addr).markBlocked)
    else if held || t.needsCommit held l then .stop ((s.placeAcq t l).markBlocked)
    else match t.trapOf l with
      | some tr => .stop (t.takeTrap tr)
      | none => .go t

/-- A slot instruction: within a bundle that has been tested as a whole, its effect; by itself, a bundle of one slot. -/
def slot (i : Instr) (s : State) (eff : State → State) : Host.Outcome State Fault Refusal :=
  if s.cx.iss.checked then .next (eff s)
  else match s.test [(slotOf i, i)] with
    | .go t => .next (eff t)
    | .stop t => .next t

end Sys2Proof.Machine
end

