-- ==== Sys2Proof/Machine/LaneOps.lean ====
section
/-! DEFINITION. What one lane computes in each vector arithmetic instruction (R175 to R198). -/

namespace Sys2Proof.Machine

open Sys2Proof

/-! Arithmetic with one rounding (R175). -/

/-- The operands of a lane under FTZ, and the flags of the flush (R167). -/
def flushAll (ftz : Bool) (ws : List W32) : List W32 × BitVec 8 :=
  (ws.map (fun w => (ftzIn ftz w).1), ws.foldl (fun f w => f ||| (ftzIn ftz w).2) 0)

/-- One exact sum rounded once; neg negates the second term. -/
def fAdd (neg ftz : Bool) (rm : RM) (u a b : W32) : W32 × BitVec 8 :=
  let (a1, fa) := ftzIn ftz a
  let (b1, fb) := ftzIn ftz b
  let y := num32 b1
  let r := addRound ftz rm u [num32 a1, if neg then y.neg else y]
  (r.1, r.2 ||| fa ||| fb)

def fMul (ftz : Bool) (rm : RM) (u a b : W32) : W32 × BitVec 8 :=
  let (a1, fa) := ftzIn ftz a
  let (b1, fb) := ftzIn ftz b
  let r := mulRound ftz rm u (num32 a1) (num32 b1)
  (r.1, r.2 ||| fa ||| fb)

/-- (±a) × b + (±c). -/
def fFma (negA negC ftz : Bool) (rm : RM) (u a b c : W32) : W32 × BitVec 8 :=
  let (a1, fa) := ftzIn ftz a
  let (b1, fb) := ftzIn ftz b
  let (c1, fc) := ftzIn ftz c
  let x := num32 a1
  let z := num32 c1
  let r := fmaRound ftz rm u (if negA then x.neg else x) (num32 b1) (if negC then z.neg else z)
  (r.1, r.2 ||| fa ||| fb ||| fc)

/-! Compare, select, classify (R177 to R180). -/

def fCmp (ftz : Bool) (cond : Nat) (a b : W32) : LaneRes :=
  let (a1, fa) := ftzIn ftz a
  let (b1, fb) := ftzIn ftz b
  let x := num32 a1
  let y := num32 b1
  bitRes (fcmpHolds cond x y) (fa ||| fb ||| flagIf (x.isSignalling || y.isSignalling) fNV)

/-- A value passed on: a NaN becomes canonical, a subnormal is flushed under FTZ. -/
def fPass (ftz : Bool) (w : W32) : W32 × BitVec 8 :=
  let (w1, f) := ftzIn ftz w
  let x := num32 w1
  if x.isNan then nanRes x.isSignalling else (w1, f)

/-- The class bit (R179). -/
def fClass (ftz : Bool) (w : W32) : W32 × BitVec 8 :=
  let (w1, f) := ftzIn ftz w
  let n := match num32 w1 with
    | .nan q => if q then 9 else 8
    | .inf neg => if neg then 0 else 7
    | .fin neg m _ =>
      if m = 0 then (if neg then 3 else 4)
      else if subnormal32 w1 then (if neg then 2 else 5)
      else if neg then 1 else 6
  (BitVec.ofNat 32 (2 ^ n), f)

/-- FABS and FNEG (R180). -/
def fSign (neg ftz : Bool) (w : W32) : W32 × BitVec 8 :=
  let (w1, f) := fPass ftz w
  if (num32 w1).isNan then (w1, f)
  else (if neg then w1 ^^^ 0x80000000 else w1 &&& 0x7FFFFFFF, f)

/-! Integers, exponents, significands (R181 to R185). -/

/-- The integral magnitude that IntRound gives a finite value, and whether it is the value (R181). -/
def intRound (rm : RM) (u : W32) (neg : Bool) (m : Nat) (e : Int) : Nat × Bool :=
  let (k, exact) := roundAt neg m e 0 rm (some (e, 24)) u
  if 0 ≤ e then (m * 2 ^ e.toNat, true) else (k, exact)

/-- The FP32 code of an integer that it holds exactly. -/
def codeOfInt (neg : Bool) (k : Nat) : W32 :=
  BitVec.ofNat 32 ((if neg then 2 ^ 31 else 0) + (encodeMag .fp32 k 0).getD 0)

def rndI (ftz : Bool) (rm : RM) (u w : W32) : W32 × BitVec 8 :=
  let (w1, f) := fPass ftz w
  match num32 w1 with
  | .fin neg m e =>
    if 0 ≤ e || m = 0 then (w1, f) else (codeOfInt neg (intRound rm u neg m e).1, f)
  | _ => (w1, f)

def fToI (ftz uns : Bool) (rm : RM) (u w : W32) : W32 × BitVec 8 :=
  let (w1, f) := ftzIn ftz w
  let lo : Int := if uns then 0 else -(2 ^ 31)
  let hi : Int := if uns then 2 ^ 32 - 1 else 2 ^ 31 - 1
  match num32 w1 with
  | .nan _ => (0, f ||| fNV)
  | .inf neg => (BitVec.ofInt 32 (if neg then lo else hi), f ||| fNV)
  | .fin neg m e =>
    let (k, exact) := intRound rm u neg m e
    let r : Int := if neg then -k else k
    if r < lo then (BitVec.ofInt 32 lo, f ||| fNV)
    else if hi < r then (BitVec.ofInt 32 hi, f ||| fNV)
    else (BitVec.ofInt 32 r, f ||| flagIf (!exact) fNX)

/-- An exact integer as a value. -/
def numOfInt (t : Int) : Num := .fin (t < 0) t.natAbs 0

def iToF (uns : Bool) (rm : RM) (u w : W32) : W32 × BitVec 8 :=
  round32 false rm (numOfInt (if uns then (w.toNat : Int) else w.toInt)) none u

def getExp (ftz : Bool) (w : W32) : W32 × BitVec 8 :=
  let (w1, f) := fPass ftz w
  match num32 w1 with
  | .nan _ => (w1, f)
  | .inf _ => (0x7F800000, f)
  | .fin _ m e =>
    if m = 0 then (0xFF800000, f)
    else
      let x : Int := log2Nat m + e
      (codeOfInt (x < 0) x.natAbs, f)

def getMant (ftz : Bool) (w : W32) : W32 × BitVec 8 :=
  let (w1, f) := fPass ftz w
  match num32 w1 with
  | .fin neg m _ =>
    if m = 0 then (w1, f)
    else (BitVec.ofNat 32 ((if neg then 2 ^ 31 else 0) + (encodeMag .fp32 m (-(log2Nat m : Int))).getD 0), f)
  | _ => (w1, f)

/-- The power of two of EXPINS: b truncated toward zero, at most 512 either way. -/
def expinsPow (b : Num) : Int :=
  match b with
  | .inf neg => if neg then -512 else 512
  | .fin neg m e =>
    let k := if 0 ≤ e then m * 2 ^ (min e 400).toNat else m / 2 ^ (-e).toNat
    clamp (-512) 512 (if neg then -(k : Int) else k)
  | .nan _ => 0

def expIns (ftz ib : Bool) (rm : RM) (u a b : W32) : W32 × BitVec 8 :=
  let (a1, fa) := ftzIn ftz a
  let (b1, fb) := if ib then (b, 0) else ftzIn ftz b
  let x := num32 a1
  let y := num32 b1
  let n := if ib then clamp (-512) 512 b.toInt else expinsPow y
  let f := fa ||| fb
  if x.isNan || (!ib && y.isNan) then
    (nan32, f ||| flagIf (x.isSignalling || (!ib && y.isSignalling)) fNV)
  else
    let t := match x with
      | .fin neg m e => Num.fin neg m (e + n)
      | t => t
    let r := round32 ftz rm t (t.low 24) u
    (r.1, r.2 ||| f)

/-! Exact pairs and double words (R186 to R188): nothing is flushed. -/

/-- RoundRNE of a sum, and of a × b + c. -/
def rneSum (xs : List Num) : W32 × BitVec 8 := addRound false .rne 0 xs
def rneFma (a b c : Num) : W32 × BitVec 8 := fmaRound false .rne 0 a b c

/-- A zero is written +0. -/
def posZero (w : W32) : W32 := if w &&& 0x7FFFFFFF = 0 then 0 else w

def isInf32 (w : W32) : Bool := (num32 w).isInf
def isNan32 (w : W32) : Bool := (num32 w).isNan

/-- A pair from its high word and flags, and the rounded error (R186). -/
def exactPair (hi : W32 × BitVec 8) (fromInf : Bool) (lo : W32 × BitVec 8) : LaneRes :=
  if isNan32 hi.1 then ⟨hi.1, 0, hi.2⟩
  else if isInf32 hi.1 then ⟨hi.1, 0, if fromInf then 0 else fOF ||| fNX⟩
  else ⟨hi.1, posZero lo.1, flagIf (lo.2 &&& fNX != 0) (fUF ||| fNX)⟩

/-- FADDX and FSUBX. -/
def fAddX (neg : Bool) (a b : W32) : LaneRes :=
  let x := num32 a
  let y := if neg then (num32 b).neg else num32 b
  let hi := rneSum [x, y]
  exactPair hi (x.isInf || y.isInf) (rneSum [x, y, (num32 hi.1).neg])

def fMulX (a b : W32) : LaneRes :=
  let x := num32 a
  let y := num32 b
  let hi := mulRound false .rne 0 x y
  exactPair hi (x.isInf || y.isInf) (rneFma x y (num32 hi.1).neg)

/-- TwoSum, FastTwoSum, TwoProd (R187): the pair, and the flags that R188 counts. -/
def twoSum (x y : W32) : W32 × W32 × BitVec 8 :=
  let s := (rneSum [num32 x, num32 y]).1
  (s, (rneSum [num32 x, num32 y, (num32 s).neg]).1, 0)

def fastTwoSum (x y : W32) : W32 × W32 × BitVec 8 :=
  let s := rneSum [num32 x, num32 y]
  let z := rneSum [num32 s.1, (num32 x).neg]
  let e := rneSum [num32 y, (num32 z.1).neg]
  (s.1, e.1, s.2 ||| z.2 ||| e.2)

def twoProd (x y : W32) : W32 × W32 × BitVec 8 :=
  let p := (mulRound false .rne 0 (num32 x) (num32 y)).1
  let e := rneFma (num32 x) (num32 y) (num32 p).neg
  (p, e.1, e.2)

/-- A NaN or an infinity among operand words. -/
def anySpecial (ws : List W32) : Bool := ws.any (fun w => isNan32 w || isInf32 w)

/-- The special result of R188, computed on the high words. -/
def dwSpecial (ws : List W32) (r : W32 × BitVec 8) : LaneRes :=
  let nv := anySignalling (ws.map num32)
  if isNan32 r.1 then ⟨nan32, 0, r.2 ||| flagIf nv fNV⟩ else ⟨r.1, 0, r.2 ||| flagIf nv fNV⟩

/-- The first sum or product overflowed. -/
def dwOver (hi : W32) : LaneRes := ⟨hi, 0, fOF ||| fNX⟩

def negW (w : W32) : W32 := w ^^^ 0x80000000

def dwAdd (neg : Bool) (xh xl yh0 yl0 : W32) : LaneRes :=
  let yh := if neg then negW yh0 else yh0
  let yl := if neg then negW yl0 else yl0
  if anySpecial [xh, xl, yh0, yl0] then dwSpecial [xh, xl, yh0, yl0] (fAdd neg false .rne 0 xh yh0)
  else
    let (sh, sl, _) := twoSum xh yh
    if isInf32 sh then dwOver sh
    else
      let (th, tl, _) := twoSum xl yl
      let c := rneSum [num32 sl, num32 th]
      let (vh, vl, f1) := fastTwoSum sh c.1
      let w := rneSum [num32 tl, num32 vl]
      let (zh, zl, f2) := fastTwoSum vh w.1
      ⟨zh, posZero zl, c.2 ||| f1 ||| w.2 ||| f2⟩

def dwMul (xh xl yh yl : W32) : LaneRes :=
  if anySpecial [xh, xl, yh, yl] then dwSpecial [xh, xl, yh, yl] (fMul false .rne 0 xh yh)
  else
    let (ch, e1, f1) := twoProd xh yh
    if isInf32 ch then dwOver ch
    else
      let t0 := mulRound false .rne 0 (num32 xl) (num32 yl)
      let t1 := rneFma (num32 xh) (num32 yl) (num32 t0.1)
      let e2 := rneFma (num32 xl) (num32 yh) (num32 t1.1)
      let e3 := rneSum [num32 e1, num32 e2.1]
      let (zh, zl, f2) := fastTwoSum ch e3.1
      ⟨zh, posZero zl, f1 ||| t0.2 ||| t1.2 ||| e2.2 ||| e3.2 ||| f2⟩

def dwAddS (xh xl y : W32) : LaneRes :=
  if anySpecial [xh, xl, y] then dwSpecial [xh, xl, y] (fAdd false false .rne 0 xh y)
  else
    let (sh, sl, _) := twoSum xh y
    if isInf32 sh then dwOver sh
    else
      let v := rneSum [num32 xl, num32 sl]
      let (zh, zl, f) := fastTwoSum sh v.1
      ⟨zh, posZero zl, v.2 ||| f⟩

def dwNorm (xh xl : W32) : LaneRes :=
  if anySpecial [xh, xl] then dwSpecial [xh, xl] (xh, 0)
  else
    let (zh, zl, _) := twoSum xh xl
    if isInf32 zh then dwOver zh else ⟨zh, posZero zl, 0⟩

def dwToF (xh xl : W32) : LaneRes :=
  if anySpecial [xh, xl] then dwSpecial [xh, xl] (xh, 0) else one (rneSum [num32 xh, num32 xl])

/-! Reductions (R189, R190) over the words of the active lanes, in lane order. -/

/-- Fold a step over the later lanes, ORing flags. -/
def foldWords (f : W32 → W32 → W32 × BitVec 8) (t : W32 × BitVec 8) (ws : List W32) : W32 × BitVec 8 :=
  ws.foldl (fun t x => let r := f t.1 x; (r.1, t.2 ||| r.2)) t

def rSum (ftz : Bool) (rm : RM) : List W32 → W32 × BitVec 8
  | [] => (0, 0)
  | w :: ws => foldWords (fAdd false ftz rm 0) (fPass ftz w) ws

def rMinMax (isMax ftz : Bool) : List W32 → W32 × BitVec 8
  | [] => (0, 0)
  | w :: ws => foldWords (minMax isMax ftz) (minMax isMax ftz w w) ws

def rSumI (ws : List W32) : W32 × BitVec 8 := (ws.foldl (· + ·) 0, 0)

/-- The compensated sum: s, c and the flags of the c roundings. -/
def rSumCFold (w : W32) (ws : List W32) : W32 × W32 × BitVec 8 :=
  ws.foldl (fun (a : W32 × W32 × BitVec 8) x =>
    let (s, e, _) := twoSum a.1 x
    let c := rneSum [num32 a.2.1, num32 e]
    (s, c.1, a.2.2 ||| c.2)) (w, 0, 0)

def rSumC : List W32 → LaneRes
  | [] => ⟨0, 0, 0⟩
  | w :: ws =>
    let (s, c, f) := rSumCFold w ws
    if anySpecial (w :: ws) || anySpecial [s] then
      let r := rSum false .rne (w :: ws)
      ⟨r.1, 0, r.2⟩
    else ⟨s, posZero c, f⟩

/-! Dots (R192, R193). -/

/-- The narrow formats of FDOT4 and CVTF by code. -/
def dotFmt : Nat → Fmt | 0 => .e4m3 | 1 => .e5m2 | _ => .e2m1

/-- Element i of a word, of a narrow format. -/
def elemOf (f : Fmt) (w : W32) (i : Nat) : Num :=
  if f = .e2m1 then decodeNum f (w.toNat / 16 ^ i % 16) else decodeNum f (w.toNat / 256 ^ i % 256)

def fDot4 (ftz : Bool) (af bf : Fmt) (a b c sc : W32) : W32 × BitVec 8 :=
  let sa := scaleExp (sc.toNat % 256)
  let sb := scaleExp (sc.toNat / 256 % 256)
  let sh := sa.getD 0 + sb.getD 0
  dotAcc ftz (sa.isNone || sb.isNone) ((List.range 4).map (fun i => (elemOf af a i, elemOf bf b i, sh))) c

def iDot (isInt8 uns : Bool) (fmt : BitVec 16) (a b c : W32) : W32 :=
  let n := if isInt8 then 4 else 8
  let base := if isInt8 then 256 else 16
  let dot := ((List.range n).map (fun i =>
    intDecode isInt8 (sideS fmt) (a.toNat / base ^ i % base) * intDecode isInt8 (sideW fmt) (b.toNat / base ^ i % base))).sum
  let t := (if uns then (c.toNat : Int) else c.toInt) + dot
  if uns then BitVec.ofInt 32 (clamp 0 (2 ^ 32 - 1) t) else BitVec.ofInt 32 (clamp (-(2 ^ 31)) (2 ^ 31 - 1) t)

/-! Conversions (R194 to R196). -/

def cvtFmt : Nat → Fmt | 0 => .bf16 | 1 => .e4m3 | 2 => .e5m2 | _ => .e2m1

/-- An FP32 value, or one scaled by a power of two, to a narrow code (R169, R194). -/
def cvtNum (sat : Bool) (f : Fmt) (rm : RM) (u : W32) (v : Num) : Nat × BitVec 8 :=
  let signed (neg : Bool) (c : Nat) : Nat := c + (if neg then 2 ^ f.signAt else 0)
  match v with
  | .nan q => (f.nan, flagIf (f == .e2m1 || !q) fNV)
  | .inf neg =>
    match f with
    | .e4m3 => (if sat then signed neg f.maxCode else f.nan, fNV)
    | .e2m1 => (signed neg f.maxCode, fNV)
    | _ => (signed neg f.infCode, 0)
  | x =>
    let (c, fl) := roundNum f rm x (x.low 24) u
    if sat && fl &&& fOF != 0 then (signed x.sign f.maxCode, fOF ||| fNX) else (c, fl)

/-- FP32 to a narrow code (R194). -/
def cvtCode (ftz sat : Bool) (f : Fmt) (rm : RM) (u a : W32) : Nat × BitVec 8 :=
  let (a1, fa) := ftzIn ftz a
  let (c, fl) := cvtNum sat f rm u (num32 a1)
  (c, fa ||| fl)

/-- Replace a field of a word. -/
def putField (w : W32) (lo n v : Nat) : W32 :=
  BitVec.ofNat 32 (w.toNat % 2 ^ lo + v % 2 ^ n * 2 ^ lo + w.toNat / 2 ^ (lo + n) * 2 ^ (lo + n))

def cvtF (ftz sat : Bool) (f : Fmt) (pos : Nat) (rm : RM) (u a b : W32) : W32 × BitVec 8 :=
  let (c, fl) := cvtCode ftz sat f rm u a
  (putField b (pos * f.bits) f.bits c, fl)

/-- Two conversions to BF16; under sr the second takes the generator's next state (R195). -/
def cvtB (ftz sat : Bool) (rm : RM) (u a b : W32) : W32 × BitVec 8 :=
  let (c0, f0) := cvtCode ftz sat .bf16 rm u a
  let (c1, f1) := cvtCode ftz sat .bf16 rm (frazilNext u) b
  (BitVec.ofNat 32 (c0 + 2 ^ 16 * c1), f0 ||| f1)

/-- The exact value of a field of CVTN (R196). -/
def cvtnField (fmt pos : Nat) (ints : BitVec 16) (a : W32) : Num :=
  let side := if fmt % 2 = 0 then sideS ints else sideW ints
  match fmt with
  | 0 | 1 | 2 | 3 => let f := cvtFmt fmt; decodeNum f (a.toNat / 2 ^ (pos * f.bits) % 2 ^ f.bits)
  | 4 | 5 => numOfInt (intDecode true side (a.toNat / 256 ^ pos % 256))
  | _ => numOfInt (intDecode false side (a.toNat / 16 ^ pos % 16))

def cvtN (ftz sc : Bool) (fmt pos : Nat) (ints : BitVec 16) (rm : RM) (u a b : W32) : W32 × BitVec 8 :=
  let v := cvtnField fmt pos ints a
  let s := if sc then scaleExp (b.toNat % 256) else some 0
  match s with
  | none => nanRes true
  | some n =>
    match v with
    | .nan q => nanRes (!q)
    | .fin neg m e => round32 ftz rm (.fin neg m (e + n)) (if fmt < 4 then some (e + n, (cvtFmt fmt).positions) else none) u
    | .inf neg => round32 ftz rm (.inf neg) none u

/-! Integers (R197). -/

def iMulH (uns : Bool) (a b : W32) : W32 :=
  if uns then BitVec.ofNat 32 (a.toNat * b.toNat / 2 ^ 32) else BitVec.ofInt 32 (a.toInt * b.toInt / 2 ^ 32)

def iLess (uns : Bool) (a b : W32) : Bool := if uns then a.ult b else a.slt b

def iMinMax (isMax uns : Bool) (a b : W32) : W32 := if iLess uns a b != isMax then a else b

def iCmp (cond : Nat) (a b : W32) : Bool :=
  match cond with
  | 0 => a == b
  | 1 => a != b
  | 2 => a.slt b
  | 3 => !b.slt a
  | 4 => b.slt a
  | 5 => !a.slt b
  | 6 => a.ult b
  | _ => !b.ult a

def iAbs (a : W32) : W32 := if a.slt 0 then -a else a

end Sys2Proof.Machine
end

