-- ==== Sys2Proof/Machine/Home.lean ====
section
/-! DEFINITION. Atomics and reductions at the home of a word (R220, R246 to R249, R270, R365, R367), and the draining of
a context's requests, with the reading of its outstanding loads, before its own later accesses to the same bytes (R59 to
R63). -/

namespace Sys2Proof.Machine

open Sys2Proof

/-- The new value of a word of so many bits (R220, R270). -/
def aopNew (aop bits : Nat) (old v c : Nat) : Nat :=
  let m := 2 ^ bits
  let sgn (x : Nat) : Int := if x ≥ m / 2 then (x : Int) - m else x
  let w (x : Nat) : W32 := BitVec.ofNat 32 x
  match aop with
  | 0 => (old + v) % m
  | 1 => if sgn v < sgn old then v else old
  | 2 => if sgn old < sgn v then v else old
  | 3 => min old v
  | 4 => max old v
  | 5 => old &&& v
  | 6 => old ||| v
  | 7 => old ^^^ v
  | 8 => v
  | 9 => (addRound false .rne 0 [num32 (w old), num32 (w v)]).1.toNat
  | 10 => (minMax false false (w old) (w v)).1.toNat
  | 11 => (minMax true false (w old) (w v)).1.toNat
  | _ => if old = c then v else old

/-- Apply an operation of agents to a word at its home: the old value, or an error response that leaves the word
unchanged. -/
def State.applyWord (s : State) (ags : List Agent) (dpa width aop v c : Nat) : Except Resp (Nat × State) :=
  let bits := 8 * width
  match regionOf dpa with
  | .hbm | .firn | .window =>
    if s.ueIn dpa width then .error 1
    else
      let old := readNat s.mem dpa width
      .ok (old, s.storeMem ags dpa (bytesOfNat width (aopNew aop bits old (v % 2 ^ bits) (c % 2 ^ bits))))
  | .counters =>
    if aop = 0 && width = 8 then
      let k := (dpa - Config.countersDpa) / 8
      let old := tget 0 s.ctrs k
      .ok (old.toNat, s.setCtr k (old + BitVec.ofNat 32 v))
    else .error 3
  | .remote p off =>
    let t := panelTdev p
    if s.devDown t then .error 2
    else if !exposed (s.devRegs t) true off width then .error 3
    else if inCounters off width && aop = 0 && width = 8 then
      let k := (off - Config.countersDpa) / 8
      let old := tget 0 (s.devCtrs t) k
      .ok (old.toNat, s.setDevCtr t k (old + BitVec.ofNat 32 v))
    else if !plainDpa off width then .error 3
    else if t = ownTdev && s.ueIn off width then .error 1
    else
      let old := readNat (s.devMem t) off width
      .ok (old, s.storeDev ags (if t = ownTdev then edgeTdev else t) off (bytesOfNat width (aopNew aop bits old (v % 2 ^ bits) (c % 2 ^ bits))))
  | .aperture _ _ | .regs | .unmapped => .error 3

/-! Flights (R247, R248, R270, R221). -/

/-- An answer as its requester hears it, and the state: an answer that is lost is PEER_DOWN, and what was done stands (R366). -/
def heard (lost : Bool) (s : State) : Except Resp (Nat × State) → Except Resp Nat × State
  | .ok (old, t) => (if lost then .error 2 else .ok old, t)
  | .error e => (.error (if lost then 2 else e), s)

/-- The lanes of a VATOM applied in order: the halves of its entries, and the address and cause of the lowest lane that
failed, or whose answer is lost. -/
def State.applyLanes (s : State) (lost : Nat → Bool) (ags : List Agent) (aop : Nat) :
    List (W64 × Nat × W32 × Nat × Nat) → Tbl Nat → Option (W64 × Nat) → Tbl Nat × Option (W64 × Nat) × State
  | [], t, bad => (t, bad, s)
  | (va, dpa, v, entry, half) :: r, t, bad =>
    match heard (lost dpa) s (s.applyWord ags dpa 4 aop v.toNat 0) with
    | (.ok old, s') => s'.applyLanes lost ags aop r (tput 0 t entry (tget 0 t entry + old * 2 ^ (32 * half))) bad
    | (.error e, s') => s'.applyLanes lost ags aop r t (match bad with | some b => some b | none => some (va, e))

/-- Who writes the word of a reduction: each context that it stands for, whose own operation it is in the matrices of R60 to R62,
and each command (R50, R61, R248). -/
def RedWho.agents (w : RedWho) : List Agent := if w.sig.isSome then [w.org.ctxAgent, w.org.agent] else [w.org.ctxAgent]

/-- One lane of a VRED has been applied, with the cause of its error if it failed: when no lane is left, the lowest lane that
failed is recorded (R121, R220). -/
def State.vredLane (s : State) (id place : Nat) (va : W64) (err : Option Nat) : State :=
  match tfind s.flights id with
  | some (.vred org left bad) =>
    let bad1 := match err with | some e => bad ++ [(place, va, e)] | none => bad
    if 1 < left then s.setFlight id (.vred org (left - 1) bad1)
    else
      let lowest := bad1.foldl (fun b p => match b with
        | some (q : Nat × W64 × Nat) => if p.1 < q.1 then some p else some q
        | none => some p) none
      match lowest with
      | some p => (s.dropFlight id).smemErr org p.2.2 p.2.1
      | none => s.dropFlight id
  | _ => s

/-- Perform a flight of an atomic or a reduction, and answer it; the answers from some addresses are lost (R366). -/
def State.performLost (s : State) (lost : Nat → Bool) (id : Nat) : State :=
  match tfind s.flights id with
  | some (.atom org va dpa width aop v c qid sig) =>
    let s0 := s.dropFlight id
    let s1 := match heard (lost dpa) s0 (s0.applyWord [org.ctxAgent, org.agent] dpa width aop v.toNat c.toNat) with
      | (.ok old, s') => s'.fillRaw org.core org.lid qMem qid (BitVec.ofNat 64 old)
      | (.error e, s') => (s'.fillRaw org.core org.lid qMem qid 0).smemErr org e va
    (s1.completes org.agent sig (.slot org.core org.lid qMem qid) (.doneSlot org.core org.lid qMem qid)).applySignal org sig
  | some (.vatom org aop lanes qids) =>
    let (t, bad, s1) := (s.dropFlight id).applyLanes lost [org.ctxAgent] aop lanes [] none
    let s2 := (qids.zipIdx).foldl (fun s p => s.fillRaw org.core org.lid qMem p.1 (BitVec.ofNat 64 (tget 0 t p.2))) s1
    match bad with
    | some (va, e) => s2.smemErr org e va
    | none => s2
  | some (.red dpa width aop v who _) =>
    let s0 := s.dropFlight id
    let (s1, err) := match heard (lost dpa) s0 (s0.applyWord (who.flatMap RedWho.agents) dpa width aop v.toNat 0) with
      | (.ok _, s') => (s', none)
      | (.error e, s') => (s', some e)
    who.foldl (fun s w =>
      let s' := match w.vred, err with
        | some (g, place), err => s.vredLane g place w.va err
        | none, some e => s.smemErr w.org e w.va
        | none, none => s
      match w.sig with | some sig => s'.applySignal w.org sig | none => s') s1
  | _ => s

/-- Perform a flight of an atomic or a reduction, and answer it. -/
def State.performFlight (s : State) (id : Nat) : State := s.performLost (fun _ => false) id

/-- Two byte ranges overlap, or both lie in the coherent window, whose HOST matrix keeps whole cells (R61, R62). -/
def meets (a n b m : Nat) : Bool :=
  (a < b + m && b < a + n) || (regionOf a == .window && regionOf b == .window)

/-! Loads whose words have not been read (R59, R214, R215, R224). -/

/-- Bytes that held stores put over loaded ones (R300). -/
def overlay (hold : List HeldEff) (va : W64) (bs : List Byte) : List Byte :=
  hold.foldl (fun bs h => match h with
    | .store a ws => (bs.zipIdx).map (fun p =>
        let d := (va + BitVec.ofNat 64 p.2 - a).toNat
        if d < ws.length then ws.getD d p.1 else p.1)
    | _ => bs) bs

/-- The ranges of LDG, and of LDR (R214). -/
def loadRegion (remote : Bool) : Region → Bool
  | .hbm | .firn | .window | .counters => !remote
  | .remote .. | .aperture .. => remote
  | _ => false

/-- The word of one lane of a declared-latency load, or the cause of R218 that poisons its group. -/
def State.loadLane (s : State) (remote : Bool) (va : W64) : Except Nat W32 :=
  match s.xl va .load with
  | .error _ => .error 2
  | .ok dpa =>
    if !loadRegion remote (regionOf dpa) then .error 2
    else match s.readAs s.ctxAgent dpa 4 with
      | .ok bs =>
        let bs := if s.cx.launch.guard then overlay s.cx.guard.hold va bs else bs
        .ok (BitVec.ofNat 32 (natOfBytes bs))
      | .error e => .error (if e = 1 then 3 else if e = 2 then 4 else 2)

/-- One group of a load: its lanes' words, or the worst cause among them (R215). -/
def State.loadGroup (s : State) (r : RSlot) (g : Nat) : GroupLand :=
  let act := r.act.getD g 0
  let res := (List.range 16).map (fun l =>
    if act.getLsbD l then s.loadLane r.remote (laneAddr r.hnd r.idx g l) else .ok 0)
  let cause := res.foldl (fun c x => match x with | .error e => worseCause c e | .ok _ => c) 0
  { grp := g, act := act, lo := rowOfList (res.map (fun x => match x with | .ok w => w | .error _ => 0)), hi := 0,
    flags := 0, arr := if cause = 0 then .ok else .bad cause, late := act != 0 }

/-- The addresses of a load's active lanes in some groups. -/
def RSlot.addrs (r : RSlot) (gs : BitVec 8) : List W64 :=
  (groupList gs).flatMap (fun g =>
    ((List.range 16).filter (fun l => (r.act.getD g 0).getLsbD l)).map (fun l => laneAddr r.hnd r.idx g l))

/-- A group of a declared-latency load reads its words, if it has not (R224). -/
def State.readGroup (s : State) (r : RSlot) (gl : GroupLand) : GroupLand :=
  if gl.arr = .unread then { s.loadGroup r gl.grp with late := gl.late } else gl

/-- Outstanding declared-latency loads of the context in focus read their words: the groups that satisfy a test, wherever
the landing buffer stands (R59, R138). -/
def State.readLoads (s : State) (p : Nat → RSlot → GroupLand → Bool) : State :=
  let one (e : Landing) : Landing :=
    match e.slot with
    | none => e
    | some n => match tfind s.cx.a.v.replay n with
      | none => e
      | some r => { e with groups := e.groups.map (fun gl => if p n r gl then s.readGroup r gl else gl) }
  s.modCx (fun x => { x with a := x.a.mapLanding one })

/-- Some load of the context has words to read. -/
def Arch.unread (a : Arch) : Bool :=
  let has (e : Landing) : Bool := e.groups.any (fun gl => gl.arr == .unread)
  a.v.landing.any has || a.c.held.any (fun h => h.landing.any has)

/-- Every earlier load of the context in focus is performed (R61). -/
def State.performLoads (s : State) : State := if s.cx.a.unread then s.readLoads (fun _ _ _ => true) else s

/-- Every earlier load of the context in focus of some bytes is performed (R61, R62). -/
def State.performLoadsAt (s : State) (pieces : List (Nat × Nat)) : State :=
  if !s.cx.a.unread then s
  else s.readLoads (fun _ r gl => (r.addrs (groupBit gl.grp)).any (fun va =>
    match s.xl va .load with
    | .ok d => pieces.any (fun q => meets d 4 q.1 q.2)
    | .error _ => false))

def Flight.touches (f : Flight) (a n : Nat) : Bool := f.spans.any (fun p => meets p.1 p.2 a n)

def Flight.isRed : Flight → Bool | .red .. => true | _ => false

/-- The contexts that a flight answers to. -/
def Flight.owners : Flight → List Origin
  | .atom o .. | .vatom o .. => [o.own]
  | .red _ _ _ _ who _ => who.map (fun w => w.org.own)
  | _ => []

/-- An earlier atomic or reduction of a context that is kept before a later one: it meets it, and is no reduction before an
atomic (R61, R63 note 1). -/
def Flight.keptBefore (g f : Flight) : Bool :=
  g.owners.any (fun o => f.owners.contains o) && f.spans.any (fun q => g.touches q.1 q.2) && !(g.isRed && !f.isRed)

/-- The flights that satisfy a test and those that are kept before one of them, in issue order (R61). -/
def State.withEarlier (s : State) (p : Nat → Flight → Bool) : List (Nat × Flight) :=
  s.flights.reverse.foldl (fun l q => if p q.1 q.2 || l.any (fun r => q.2.keptBefore r.2) then q :: l else l) []

/-- Perform the flights that satisfy a test, each after those that are kept before it. -/
def State.drain (s : State) (p : Nat → Flight → Bool) : State :=
  (s.withEarlier p).foldl (fun s f => s.performFlight f.1) s

/-- Before a load or store of the context in focus: its earlier loads, ATOMs and VATOMs of the same bytes (R61, R62). -/
def State.drainAt (s : State) (o : Origin) (pieces : List (Nat × Nat)) : State :=
  let s1 := s.performLoadsAt pieces
  if s1.flights.isEmpty then s1
  else s1.drain (fun _ f => !f.isRed && f.pendingOf o && pieces.any (fun q => f.touches q.1 q.2))

/-- Before a release of the context in focus at a scope: its earlier loads, and its earlier atomics and reductions with a
home in the scope (R51, R54, R61). -/
def State.drainScope (s : State) (scope : Nat) : State :=
  let s1 := s.performLoads
  if s1.flights.isEmpty then s1 else s1.drain (fun _ f => f.pendingOf s.origin && s.orders scope f)

/-- Before a command of the context in focus that reads or writes memory: every earlier load, ATOM and VATOM (R61,
note 2). -/
def State.drainCmd (s : State) (o : Origin) : State :=
  let s1 := s.performLoads
  if s1.flights.isEmpty then s1 else s1.drain (fun _ f => !f.isRed && f.pendingOf o)

/-- A flight performed after the earlier ones that R61 keeps before it. -/
def State.performOrdered (s : State) (id : Nat) : State := s.drain (fun j _ => j == id)

/-- ATOM_APPLY: a home applies an ATOM or a VATOM and returns the old values (R270, R221). -/
def execAtomApply (req : Nat) (s : State) : Host.Outcome State Fault Refusal :=
  match tfind s.flights req with
  | some (.atom ..) | some (.vatom ..) => .next (s.performOrdered req)
  | _ => .next s

/-- RED_APPLY: a home applies a reduction, or a merged one (R248). -/
def execRedApply (req : Nat) (s : State) : Host.Outcome State Fault Refusal :=
  match tfind s.flights req with
  | some (.red ..) => .next (s.performOrdered req)
  | _ => .next s

/-- The operations that a router merges (R248, R249). -/
def mergeable (aop : Nat) : Bool := aop ≤ 7 || aop == 10 || aop == 11

/-- Some request issued between two of one context as a reduction of a word would be passed by it: one to the same word that
is no reduction of the same operation, which commutes with it (R61, R63 note 1). -/
def State.between (s : State) (lo hi : Nat) (who : List RedWho) (d w op : Nat) (reds : Bool) : Bool :=
  s.flights.any (fun p => lo < p.1 && p.1 < hi && p.2.owners.any (fun o => who.any (fun x => x.org.own == o)) && p.2.touches d w &&
    (match p.2 with | .red d' w' op' .. => !(d' == d && w' == w && op' == op) | _ => !reds))

/-- ROUTER_RED_MERGE: two held reductions of one word, width and operation become one, where that keeps each context's
order to the word; the counter window is left out (R61, R248, R367). -/
def execRouterRedMerge (reqA reqB : Nat) (s : State) : Host.Outcome State Fault Refusal :=
  match tfind s.flights reqA, tfind s.flights reqB with
  | some (.red d w op v whoA true), some (.red d' w' op' v' whoB true) =>
    if reqA != reqB && d = d' && w = w' && op = op' && mergeable op && regionOf d != .counters then
      let c := BitVec.ofNat 64 (aopNew op (8 * w) (v.toNat % 2 ^ (8 * w)) (v'.toNat % 2 ^ (8 * w)) 0)
      let lo := min reqA reqB
      let hi := max reqA reqB
      let both : Flight := .red d w op c (whoA ++ whoB) true
      if !s.between lo hi (if reqA = hi then whoA else whoB) d w op false then .next ((s.dropFlight hi).setFlight lo both)
      else if !s.between lo hi (if reqA = lo then whoA else whoB) d w op true then .next ((s.dropFlight lo).setFlight hi both)
      else .next s
    else .next s
  | _, _ => .next s

/-- RED_HOLD_EXPIRY: a held reduction is sent on (R248). -/
def execRedHoldExpiry (req : Nat) (s : State) : Host.Outcome State Fault Refusal :=
  match tfind s.flights req with
  | some (.red d w op v who _) => .next (s.setFlight req (.red d w op v who false))
  | _ => .next s

/-- A reduction leaves its core: held for merging, then to be applied. -/
def State.sendRed (s : State) (dpa width aop : Nat) (v : W64) (who : List RedWho) : State :=
  let (id, s1) := s.addFlight (.red dpa width aop v who true)
  (s1.enqueue (.redHoldExpiry id)).enqueue (.redApply id)

/-- The signal field of an ENG command (R78, R263). -/
def EngArgs.signal (o : EngArgs) : Signal :=
  { sem := o.ssem.toNat, inc := o.sinc.toNat, rel := o.rel == 1, scope := o.scope.toNat }

/-- The wait field is consumed at issue (R129, R263); with the ACQ flag the command acquires what was released by the signals
that it consumes (R55). -/
def State.consumeWait (s : State) (o : EngArgs) : State :=
  let s1 := s.modCtl (fun c => { c with
    sem := tput 0 c.sem o.wsem.toNat (tget 0 c.sem o.wsem.toNat - o.wthr.zeroExtend 16) })
  if o.acq = 1 then
    s1.acquire s.origin.agent o.scope.toNat (fun x => x == .sem s.focusCore s.cx.launch.lid o.wsem.toNat)
  else s1

/-- A scalar and a handle named in P. -/
def State.pScal (s : State) (o : EngArgs) (lo : Nat) : W64 := s.sr (BitVec.ofNat 6 (o.pf lo 6))
def State.pHnd (s : State) (o : EngArgs) (lo : Nat) : W256 := s.hr (BitVec.ofNat 5 (o.pf lo 5))

/-- Reserve result-queue slots of the context in focus. -/
def State.reserve (s : State) (code n : Nat) : Nat × State :=
  let (id, q) := s.cx.a.q.reserve code n
  (id, s.modCx (fun x => { x with a := { x.a with q := q } }))

end Sys2Proof.Machine
end

