-- ==== Sys2Proof/Machine/ScalarMem.lean ====
section
/-! DEFINITION. Scalar memory (R143, R144) and the handle operations (R145 to R148), with the return of an LDS. -/

namespace Sys2Proof.Machine

open Sys2Proof

/-! Guarded segments (R300). -/

/-- Hold an effect until the commit. -/
def State.hold (s : State) (h : HeldEff) (cost : Nat) : State :=
  s.modCx (fun x => { x with guard := { x.guard with hold := x.guard.hold ++ [h], holdUsed := x.guard.holdUsed + cost } })

/-- Record bytes of the journal's space that an instruction takes (R300). -/
def State.recordUse (s : State) (i : Instr) : State :=
  if s.cx.launch.guard && recordCost i != 0 then
    s.modCx (fun x => { x with guard := { x.guard with journalUsed := x.guard.journalUsed + recordCost i } })
  else s

/-- Keep the pre-images of the chunks that an instruction writes first in the segment. -/
def State.journal (s : State) (i : Instr) : State :=
  if !s.cx.launch.guard then s
  else
    let k := s.fcore
    (s.chunksOf i).foldl (fun s c =>
      if tmem s.cx.guard.journal c then s
      else s.modCx (fun x => { x with guard := { x.guard with
        journal := tset x.guard.journal c (readBytes k.ls c 32), journalUsed := x.guard.journalUsed + 40 } })) s

/-- In a rerun, an ATOM or a VATOM of this bundle count has been sent before (R303). -/
def State.alreadySent (s : State) : Bool :=
  s.cx.guard.replayLeft.any (fun r => r.what == .sent && r.at' == s.cx.a.c.bcount)

/-- A guarded context records that it has sent an ATOM or a VATOM. -/
def State.markSent (s : State) : State := if s.cx.launch.guard then s.modCx (fun x => x.recordIn .sent) else s

/-! Loads and stores of the virtual space. -/

/-- Read translated bytes for the context in focus: its earlier atomics first, held stores over them (R61, R300). -/
def State.loadVirt (s : State) (va : W64) (n : Nat) : State × Except Resp (List Byte) :=
  match s.xlRange va n .load with
  | .error _ => (s, .error 3)
  | .ok ps =>
    let s1 := (s.drainAt s.origin ps).tlbFill s.focusCore s.cx.launch.asid va
    (s1, match s1.readPieces s1.ctxAgent ps with
      | .ok bs => .ok (if s1.cx.launch.guard then overlay s1.cx.guard.hold va bs else bs)
      | .error e => .error e)

/-- Write translated bytes for a context: an error response, of a part of a granule with an uncorrectable error or of a home
that refuses, is due to be recorded, and the store has no effect (R144, R358). -/
def State.storeVirt (s : State) (va : W64) (bs : List Byte) : State :=
  match s.xlRange va bs.length .store with
  | .error _ => s
  | .ok ps =>
    let s1 := (s.drainAt s.origin ps).tlbFill s.focusCore s.cx.launch.asid va
    if ps.any (fun p => s1.partBadAt p.1 p.2) then s1.enqueue (.stsErrorResponse s.focusCore s.focusCtx 1 va)
    else match s1.writePieces [s1.ctxAgent] ps bs with
    | .ok s2 => s2
    | .error e => s1.enqueue (.stsErrorResponse s.focusCore s.focusCtx e va)

/-- The earlier loads of the bytes that a held store covers are performed (R61, R300). -/
def State.readUnder (s : State) (va : W64) (n : Nat) : State :=
  match s.xlRange va n .store with
  | .ok ps => s.performLoadsAt ps
  | .error _ => s

/-- LDS: the context is blocked until the value returns (R114, R143). -/
def execLds (rd ra : BitVec 6) (sz : BitVec 3) (imm : BitVec 11) (s : State) : Host.Outcome State Fault Refusal :=
  slot (.lds rd ra sz imm) s (fun s =>
    let (s1, r) := s.loadVirt (s.memAddr ra imm) (szBytes sz)
    let v : Except Nat W64 := match r with | .ok bs => .ok (szExtend sz bs) | .error e => .error e
    ((s1.recordUse (.lds rd ra sz imm)).modCx (fun x => { x with lds := some {
      dst := rd.toNat, va := s.memAddr ra imm, sz := sz, pos := x.a.v.landing.length, result := v } })).enqueue
      (.ldsDataReturn s.focusCore s.focusCtx))

/-- STS: the low bytes of sD (R143); a guarded segment holds it (R300). -/
def execSts (rd ra : BitVec 6) (sz : BitVec 3) (imm : BitVec 11) (s : State) : Host.Outcome State Fault Refusal :=
  slot (.sts rd ra sz imm) s (fun s =>
    let bs := bytesOfNat (szBytes sz) (s.sr rd).toNat
    if s.cx.launch.guard then (s.readUnder (s.memAddr ra imm) bs.length).hold (.store (s.memAddr ra imm) bs) 32
    else s.storeVirt (s.memAddr ra imm) bs)

/-- A machine check is due before the next bundle, unless one is already (R393). -/
def State.dueMchk (s : State) (info : W64) : State :=
  s.modPend (fun p => match p.mchk with | some _ => p | none => { p with mchk := some info })

/-- A detected error of a context rolls its core back: in a guarded launch whose arrays have snapshots, and in a rerun, which
it ends (R303, R304). -/
def State.rollsBack (s : State) (core ctx : Nat) : Bool :=
  let x := s.ctxAt core ctx
  x.launch.guard && ((s.core core).snapped x.launch.lid || x.guard.rerun != 0)

/-- A local-store error at a chunk: rollback, else MCHK with SRC 1 (R144, R213, R303, R393). -/
def State.lsError (s0 : State) (ofs : Nat) : State :=
  let s := s0.logUe s0.focusCore ofs 1
  if s.rollsBack s.focusCore s.focusCtx then s.enqueue (.rollback s.focusCore s.focusCtx)
  else s.dueMchk (BitVec.ofNat 64 (ofs * 65536 + 1))

/-- LDF: a local-store load; a word with an uncorrectable error lands as a free value (R143, R144, log 7). -/
def execLdf (rd ra : BitVec 6) (sz : BitVec 3) (imm : BitVec 11) (s : State) : Host.Outcome State Fault Refusal :=
  slot (.ldf rd ra sz imm) s (fun s =>
    let off := (s.memAddr ra imm).toNat
    let n := szBytes sz
    match s.fcore.lsBad s.cx.launch off n with
    | some c => ((s.landScal rd 3 (Config.freeWord s.free)).nextFree).lsError c
    | none => s.landScal rd 3 (szExtend sz (s.fcore.lsRead s.cx.launch off n)))

/-- STF: a local-store store (R143). -/
def execStf (rd ra : BitVec 6) (sz : BitVec 3) (imm : BitVec 11) (s : State) : Host.Outcome State Fault Refusal :=
  slot (.stf rd ra sz imm) s (fun s =>
    let bs := bytesOfNat (szBytes sz) (s.sr rd).toNat
    let s1 := s.journal (.stf rd ra sz imm)
    s1.setFcore (s1.fcore.lsWrite s1.cx.launch (s1.memAddr ra imm).toNat bs))

/-- LDS_DATA_RETURN: the value lands in the next bundle, in its place of the issue order, or SDATA is due before it (R71,
R114, R144). An LDS in a TRAP bundle returns once the handler has been entered, and its value lands among the handler's
results: the spec does not say (DESIGN CHOICE, log 24). -/
def execLdsDataReturn (core ctx : Nat) (s : State) : Host.Outcome State Fault Refusal :=
  let x := s.ctxAt core ctx
  match x.lds with
  | none => .next s
  | some l =>
    let x1 := { x with lds := none }
    let guarded := x.env.any LaunchEnv.guard
    let old := if guarded then x.guard.replayLeft.findSome? (fun r => match r.what with
      | .lds v => if r.at' = x.a.c.bcount then some v else none
      | _ => none) else none
    match old, l.result with
    | none, .error e =>
      let info := BitVec.ofNat 64 (l.dst * 256 + e)
      .next (s.setCtxAt core ctx { x1 with a := { x1.a with p := { x1.a.p with sdata := some info } } })
    | o, r =>
      let v := match o, r with | some v, _ => v | none, .ok v => v | none, .error _ => 0
      let x2 := if guarded then x1.recordIn (.lds v) else x1
      let e : Landing := { count := 0, dest := .scal l.dst, groups := [], value := v.zeroExtend 256, slot := none }
      .next (s.setCtxAt core ctx { x2 with a := { x2.a with v := { x2.a.v with
        landing := x2.a.v.landing.take l.pos ++ [e] ++ x2.a.v.landing.drop l.pos } } })

/-- STS_ERROR_RESPONSE: SMEM_ERR takes the first, the event log the others (R121, R144). One whose context has left the core
meanwhile is dropped: the spec does not say (DESIGN CHOICE, log 30). -/
def execStsErrorResponse (core ctx cause : Nat) (va : W64) (s : State) : Host.Outcome State Fault Refusal :=
  match (s.ctxAt core ctx).env with
  | some e => .next (s.smemErr { core := core, lid := e.lid, shadow := ctx == 4, cmd := 0 } cause va)
  | none => .next s

/-! Handles. -/

/-- HGET (R145). -/
def hgetValue (h : W256) (fld : BitVec 5) : W64 :=
  let n := fld.toNat
  if n = 0 then hBase h
  else BitVec.ofNat 64 (
    match n with
    | 1 => hRes h
    | 2 => hFmt h
    | 3 => (if hSv h then 4096 else 0) + hSync h
    | 4 => (hName h).toNat
    | 5 => ((hName h).extractLsb' 40 24).toNat
    | 6 => ((hName h).extractLsb' 16 24).toNat
    | 7 => ((hName h).extractLsb' 0 16).toNat
    | 8 | 9 | 10 | 11 => hDim h (n - 8)
    | 12 | 13 | 14 | 15 => hStr h (n - 12)
    | 16 => hSsh h
    | _ => (h.extractLsb' (64 * (n - 17)) 64).toNat)

/-- A handle operation's result lands one bundle later (R114). -/
def State.landHandle (s : State) (i : Instr) (h : BitVec 5) : State :=
  match s.handleRes i with
  | some (.ok v) => s.landHnd h v
  | _ => s

/-- HSET (R145). -/
def execHset (hh : BitVec 5) (rs : BitVec 6) (fld : BitVec 5) (s : State) : Host.Outcome State Fault Refusal :=
  slot (.hset hh rs fld) s (fun s => s.landHandle (.hset hh rs fld) hh)

/-- HGET: the field, zero-extended; BASE sign-extended (R145). -/
def execHget (hh : BitVec 5) (rs : BitVec 6) (fld : BitVec 5) (s : State) : Host.Outcome State Fault Refusal :=
  slot (.hget hh rs fld) s (fun s => s.landScal rs 1 (hgetValue (s.hr hh) fld))

/-- HADV (R146). -/
def execHadv (hh : BitVec 5) (rs : BitVec 6) (dim : BitVec 2) (s : State) : Host.Outcome State Fault Refusal :=
  slot (.hadv hh rs dim) s (fun s => s.landHandle (.hadv hh rs dim) hh)

/-- HTILE (R147). -/
def execHtile (hh : BitVec 5) (rs rt : BitVec 6) (fld : BitVec 5) (s : State) : Host.Outcome State Fault Refusal :=
  slot (.htile hh rs rt fld) s (fun s => s.landHandle (.htile hh rs rt fld) hh)

/-- HNAME (R148). -/
def execHname (hh : BitVec 5) (rs rt : BitVec 6) (fld : BitVec 5) (s : State) : Host.Outcome State Fault Refusal :=
  slot (.hname hh rs rt fld) s (fun s => s.landHandle (.hname hh rs rt fld) hh)

end Sys2Proof.Machine
end

