-- ==== Sys2Proof/Machine/VecMem.lean ====
section
/-! DEFINITION. The MEM slot (R211 to R221): local-store loads and stores, gather and scatter, declared-latency loads
with their replay slots, and the vector atomics and reductions. -/

namespace Sys2Proof.Machine

open Sys2Proof

/-- A word of the share (R212). -/
def Core.lsWord (k : Core) (e : LaunchEnv) (off : Nat) : W32 := BitVec.ofNat 32 (natOfBytes (k.lsRead e off 4))

/-- VLD and VLDX: every active lane's word at issue; a word with an uncorrectable error lands as a free value (R212,
R213, log 7). Where words of several chunks fail, the chunk that OFS of MCHK names is that of the lowest group and lane: the spec
does not say which (DESIGN CHOICE, log 25). -/
def State.lsLoad (s : State) (i : Instr) (o : MemArgs) : State :=
  let k := s.fcore
  let e := s.cx.launch
  let addr (g l : Nat) : Nat := (s.laneOf i g l).toNat
  let bad := (s.cx.a.v.lanesOf o.g o.k.toNat).findSome? (fun p => k.lsBad e (addr p.1 p.2) 4)
  let x (g : Nat) := Config.freeRow (s.free + g)
  let s1 := s.landLanes (.vec (opReg o.v)) 6 o.g o.k.toNat 0 (fun _ g l _ =>
    plain (if (k.lsBad e (addr g l) 4).isSome then lane (x g) l else k.lsWord e (addr g l)))
  match bad with
  | some c => { s1 with free := s1.free + 8 }.lsError c
  | none => s1

/-- VST and VSTX: every active lane's word after the bundle, the highest lane last (R212). -/
def State.lsStore (s : State) (i : Instr) (o : MemArgs) : State :=
  let v := s.cx.a.v
  (s.journal i).post (.lsWrites ((v.lanesOf o.g o.k.toNat).map (fun p => ((s.laneOf i p.1 p.2).toNat, v.opnd o.v p.1 p.2))))

/-- VLD (R212). -/
def execVld (o : MemArgs) (s : State) : Host.Outcome State Fault Refusal := slot (.vld o) s (fun s => s.lsLoad (.vld o) o)
/-- VST (R212). -/
def execVst (o : MemArgs) (s : State) : Host.Outcome State Fault Refusal := slot (.vst o) s (fun s => s.lsStore (.vst o) o)
/-- VLDX (R212). -/
def execVldx (o : MemArgs) (s : State) : Host.Outcome State Fault Refusal := slot (.vldx o) s (fun s => s.lsLoad (.vldx o) o)
/-- VSTX (R212). -/
def execVstx (o : MemArgs) (s : State) : Host.Outcome State Fault Refusal := slot (.vstx o) s (fun s => s.lsStore (.vstx o) o)

/-! Declared-latency loads (R214 to R219). -/

/-- Issue the load of a replay slot for some groups: its words are read at their homes when their data arrives at the latest,
and land lat bundles later (R215, R219, R224). -/
def State.issueLoad (s : State) (n : Nat) (r : RSlot) (gs : BitVec 8) (lat : Nat) : State :=
  let pieces := (r.addrs gs).filterMap (fun a => match s.xl a .load with | .ok d => some (d, 4) | .error _ => none)
  let s1 := (r.addrs gs).foldl (fun s a => s.tlbFill s.focusCore s.cx.launch.asid a) (s.drainAt s.origin pieces)
  let s2 := s1.modVec (fun v => { v with replay := tset v.replay n { r with lat := lat, cause := 0, pgrp := 0, flying := true } })
  let s3 := s2.land { count := lat, dest := .vec r.dst, value := 0, slot := some n, groups := (groupList gs).map (fun g =>
      { grp := g, act := r.act.getD g 0, lo := 0, hi := 0, flags := 0, arr := if r.act.getD g 0 = 0 then .ok else .unread,
        late := r.act.getD g 0 != 0 }) }
  (groupList gs).foldl (fun s g => s.enqueue (.loadDataArrival s.focusCore s.focusCtx n g)) s3

/-- LDG and LDR take a replay slot (R214): the lowest free one, where the spec does not say which (DESIGN CHOICE, log 25). -/
def State.newLoad (s : State) (remote : Bool) (o : MemArgs) : State :=
  let v := s.cx.a.v
  match (List.range 32).find? (fun n => !tmem v.replay n) with
  | none => s
  | some n =>
    let r : RSlot := { hnd := s.hr o.h, idx := s.memIdx o, act := (List.range 8).map (fun g => v.act o.g o.k.toNat g),
                       grps := o.g, dst := opReg o.v, lat := o.lat.toNat, remote := remote, cause := 0, pgrp := 0, flying := true }
    s.issueLoad n r o.g o.lat.toNat

/-- LDG (R214). -/
def execLdg (o : MemArgs) (s : State) : Host.Outcome State Fault Refusal :=
  slot (.ldg o) s (fun s => (s.recordUse (.ldg o)).newLoad false o)

/-- LDR (R214). -/
def execLdr (o : MemArgs) (s : State) : Host.Outcome State Fault Refusal :=
  slot (.ldr o) s (fun s => (s.recordUse (.ldr o)).newLoad true o)

/-- RELD: the poisoned groups of a slot within G, as a new load (R219). -/
def execReld (o : MemArgs) (s : State) : Host.Outcome State Fault Refusal :=
  slot (.reld o) s (fun s =>
    let n := (s.sr o.s).toNat % 32
    let p := s.reldGroups o
    match tfind s.cx.a.v.replay n with
    | some r => if p = 0 then s else (s.recordUse (.reld o)).issueLoad n r p o.lat.toNat
    | none => s)

/-- The data of a group of a load has arrived, wherever the landing buffer stands (R138, R215). -/
def Arch.arrived (a : Arch) (slot grp : Nat) : Arch :=
  a.mapLanding (fun e =>
    if e.slot = some slot then
      { e with groups := e.groups.map (fun g => if g.grp = grp then { g with late := false } else g) }
    else e)

/-- LOAD_DATA_ARRIVAL: what the home answered is held until the landing, through a freeze or a trap; after the landing it is
discarded (R170, R215). -/
def execLoadDataArrival (core ctx slot grp : Nat) (s : State) : Host.Outcome State Fault Refusal :=
  let t : State := { s with focusCore := core, focusCtx := ctx }
  let t1 := t.readLoads (fun n _ gl => n == slot && gl.grp == grp)
  let t2 := t1.modCx (fun x => { x with a := x.a.arrived slot grp })
  .next { t2 with focusCore := s.focusCore, focusCtx := s.focusCtx }

/-! Atomics and reductions (R220, R221). -/

/-- The active lanes of VATOM and VRED with their translated addresses and operands; the index counts the groups of G. -/
def State.atomLanes (s : State) (i : Instr) (o : MemArgs) : List (W64 × Nat × W32 × Nat × Nat) :=
  (s.cx.a.v.lanesOf o.g o.k.toNat).filterMap (fun p =>
    let va := s.laneOf i p.1 p.2
    match s.xl va .atomic with
    | .ok dpa => some (va, dpa, s.cx.a.v.opnd o.v p.1 p.2, 8 * ((groupList o.g).idxOf p.1) + p.2 / 2, p.2 % 2)
    | .error _ => none)

/-- VATOM: 8 entries of q.mem for each group of G, filled with old values when the homes answer (R220, R221). -/
def execVatom (o : MemArgs) (s : State) : Host.Outcome State Fault Refusal :=
  slot (.vatom o) s (fun s =>
    let n := 8 * groupCount o.g
    let lanes := s.atomLanes (.vatom o) o
    let (q, s1) := s.reserve qMem n
    if s1.alreadySent then s1.markSent
    else
      let (id, s2) := (s1.markSent.performLoadsAt (lanes.map (fun l => (l.2.1, 4)))).addFlight (.vatom s.origin (o.x.extractLsb' 0 4).toNat lanes ((List.range n).map (fun j => q + j)))
      (lanes.foldl (fun s l => s.tlbFill s.focusCore s.cx.launch.asid l.1) s2).enqueue (.atomApply id))

/-- A slot instruction that a guarded segment holds, with its operands as they stand at issue (R300). -/
def State.holdSend (s : State) (i : Instr) (qid : Option Nat) : State :=
  let a := s.cx.a
  s.hold (.send s.cmdNow i a.c.scal a.c.hnd a.v.vreg a.v.mask qid) (holdCost i)

/-- VRED: one reduction for each active lane; the lowest lane that fails is recorded (R220). -/
def State.vredEffect (s : State) (o : MemArgs) : State :=
  let lanes := s.atomLanes (.vred o) o
  let s0 := s.performLoadsAt (lanes.map (fun l => (l.2.1, 4)))
  if lanes.isEmpty then s0
  else
    let (id, s1) := s0.addFlight (.vred s.origin lanes.length [])
    (lanes.zipIdx).foldl (fun s p =>
      let l := p.1
      (s.tlbFill s.focusCore s.cx.launch.asid l.1).sendRed l.2.1 4 (o.x.extractLsb' 0 4).toNat (l.2.2.1.zeroExtend 64)
        [{ org := s.origin, va := l.1, sig := none, vred := some (id, p.2) }]) s1

/-- VRED (R220). -/
def execVred (o : MemArgs) (s : State) : Host.Outcome State Fault Refusal :=
  slot (.vred o) s (fun s => if s.cx.launch.guard then s.holdSend (.vred o) none else s.vredEffect o)

end Sys2Proof.Machine
end

