-- ==== Sys2Proof/Machine/Control.lean ====
section
/-! DEFINITION. The CTL slot (R122 to R140): transfers, loops, semaphores, ordering, traps and ending. What takes effect
after the bundle is posted, and Bundle.lean applies it. -/

namespace Sys2Proof.Machine

open Sys2Proof

/-- A taken transfer: the next bundle, whether it can leave loops, and the ACLK that it costs (R122, R123, R127). -/
def State.jump (s : State) (target : W64) (leaves : Bool) (cost : Nat) : State :=
  (s.modIss (fun i => { i with next := target, taken := true, leaves := leaves })).spend cost

/-- BR (R122). -/
def execBr (ofs : BitVec 26) (s : State) : Host.Outcome State Fault Refusal :=
  slot (.br ofs) s (fun s => s.jump (s.cx.iss.addr + ofs.signExtend 64) true 2)

/-- The conditions of BRC on a scalar compared with zero as signed (R73). -/
def brcHolds (cond : BitVec 3) (v : W64) : Bool :=
  match cond.toNat with
  | 0 => v == 0
  | 1 => v != 0
  | 2 => v.slt 0
  | 3 => !v.slt 0
  | 4 => (0 : W64).slt v
  | _ => !(0 : W64).slt v

/-- BRC (R122). -/
def execBrc (sc : BitVec 6) (cond : BitVec 3) (ofs : BitVec 17) (s : State) : Host.Outcome State Fault Refusal :=
  slot (.brc sc cond ofs) s (fun s =>
    if brcHolds cond (s.sr sc) then s.jump (s.cx.iss.addr + ofs.signExtend 64) true 2 else s)

/-- JR (R122). -/
def execJr (rs : BitVec 6) (s : State) : Host.Outcome State Fault Refusal :=
  slot (.jr rs) s (fun s => s.jump (s.sr rs) true 3)

/-- CALL: s62 := F (R122); it leaves no loop (R127). -/
def execCall (ofs : BitVec 26) (s : State) : Host.Outcome State Fault Refusal :=
  slot (.call ofs) s (fun s => (s.jump (s.cx.iss.addr + ofs.signExtend 64) false 2).landScal 62 1 s.cx.iss.fall)

/-- RET (R122). -/
def execRet (s : State) : Host.Outcome State Fault Refusal :=
  slot .ret s (fun s => s.jump (s.sr 62) true 3)

/-- Start a loop of n passes, or skip its body (R124). -/
def State.startLoop (s : State) (lvl : BitVec 2) (eo : BitVec 14) (n : Nat) : State :=
  let last := s.cx.iss.addr + eo.zeroExtend 64
  if n = 0 then s.post (.skip last)
  else s.modCtl (fun c =>
    let k := lvl.toNat
    { c with loops := { lc := tput 0 c.loops.lc k (BitVec.ofNat 64 n), start := tput 0 c.loops.start k s.cx.iss.fall,
                        last := tput 0 c.loops.last k last, order := c.loops.order ++ [k] } })

/-- LOOP: the count is a scalar read as signed, at most 2^32 − 1 (R124). -/
def execLoop (lvl : BitVec 2) (eo : BitVec 14) (rs : BitVec 6) (s : State) : Host.Outcome State Fault Refusal :=
  slot (.loop lvl eo rs) s (fun s => s.startLoop lvl eo (min (s.sr rs).toInt.toNat (2 ^ 32 - 1)))

/-- LOOPI (R124). -/
def execLoopi (lvl : BitVec 2) (eo : BitVec 14) (cnt : BitVec 10) (s : State) : Host.Outcome State Fault Refusal :=
  slot (.loopi lvl eo cnt) s (fun s => s.startLoop lvl eo cnt.toNat)

/-- LBRK: the innermost active level ends after the bundle (R126). -/
def execLbrk (s : State) : Host.Outcome State Fault Refusal := slot .lbrk s (fun s => s.post .lbrk)

/-- Take from a semaphore. -/
def State.semSub (s : State) (sem : BitVec 8) (n : BitVec 16) : State :=
  s.modCtl (fun c => { c with sem := tput 0 c.sem sem.toNat (tget 0 c.sem sem.toNat - n) })

/-- By consuming increments of a semaphore the context observes the completions that made them (R50), and acquires what the
REL-flagged ones have released (R52). -/
def State.acquireSem (s : State) (sem : BitVec 8) : State :=
  (s.observe s.ctxAgent (.doneSem s.focusCore s.cx.launch.lid sem.toNat)).acquire s.ctxAgent 6
    (fun x => x == .sem s.focusCore s.cx.launch.lid sem.toNat)

/-- WAIT (R52, R129). -/
def execWait (sem val : BitVec 8) (s : State) : Host.Outcome State Fault Refusal :=
  slot (.wait sem val) s (fun s => ((s.recordUse (.wait sem val)).semSub sem (val.zeroExtend 16)).acquireSem sem)

/-- POST: added after every other slot of the bundle (R129). -/
def execPost (sem val : BitVec 8) (s : State) : Host.Outcome State Fault Refusal :=
  slot (.post sem val) s (fun s => s.post (.semAdd sem.toNat val.toNat))

/-- WAITP: what the consumers of the bundle leave is tested (R52, R129, R131). -/
def execWaitp (sem val : BitVec 8) (rd : BitVec 6) (s : State) : Host.Outcome State Fault Refusal :=
  slot (.waitp sem val rd) s (fun s =>
    let s := s.recordUse (.waitp sem val rd)
    if val.toNat + needOf s.cx.iss.need sem.toNat ≤ (tget 0 s.cx.a.c.sem sem.toNat).toNat then
      ((s.semSub sem (val.zeroExtend 16)).acquireSem sem).landScal rd 1 1
    else s.landScal rd 1 0)

/-- YIELD (R41, R135). -/
def execYield (s : State) : Host.Outcome State Fault Refusal := slot .yield s (fun s => s.post .yield)

/-- CKPT: CKPT_PC := F; in a guarded launch the commit follows the bundle (R136). -/
def execCkpt (s : State) : Host.Outcome State Fault Refusal :=
  slot .ckpt s (fun s => s.post (if s.cx.launch.guard then .commit else .ckptPc s.cx.iss.fall))

/-- TRAP: SWTRAP after the bundle (R137). -/
def execTrap (code : BitVec 16) (s : State) : Host.Outcome State Fault Refusal :=
  slot (.trap code) s (fun s => s.post (.trap code.toNat))

/-- ERET: the return follows the bundle, and costs 3 ACLK (R138). -/
def execEret (s : State) : Host.Outcome State Fault Refusal := slot .eret s (fun s => (s.post .eret).spend 3)

/-- HALT: the tile task ends after the bundle (R139). -/
def execHalt (s : State) : Host.Outcome State Fault Refusal := slot .halt s (fun s => s.post .halt)

/-- FENCE: once its bundle is no longer held, the context's loads and stores are performed at the scope (R59, R132). -/
def execFence (scope : BitVec 3) (s : State) : Host.Outcome State Fault Refusal :=
  slot (.fence scope) s (fun s => s.performLoads.performStores s.ctxAgent scope.toNat)

/-- The object of an ACQ on a latch or a barrier (R133). -/
def State.acqObj (s : State) (va : W64) (kind : BitVec 2) : Option SyncObj :=
  match s.xl va .load with
  | .ok dpa => some (if kind = 0 then .latch dpa else .barrier dpa)
  | .error _ => none

/-- ACQ: satisfied when its bundle issues, and then an acquire at the scope; on a name sB receives the ending, and only an
announcement is acquired (R52, R133). -/
def execAcq (sa sb : BitVec 6) (scope : BitVec 3) (kind : BitVec 2) (s : State) : Host.Outcome State Fault Refusal :=
  slot (.acq sa sb scope kind) s (fun s =>
    if kind = 2 then
      let st := match s.cx.acq with | some w => w.status.getD 0 | none => 0
      let s1 := if st = 0 then s.acquire s.ctxAgent scope.toNat (fun x => x == .name (s.sr sa)) else s
      s1.dropAcq.landScal sb 1 (BitVec.ofNat 64 st)
    else s.dropAcq.acquire s.ctxAgent scope.toNat (fun x => s.acqObj (s.sr sa) kind == some x))

/-- The ACQ that a flight carries is met, or ended with a status: its context learns it, if it still waits for it (R133). -/
def State.endAcq (s : State) (id : Nat) (o : Origin) (st : Nat) : State :=
  let s0 := s.dropFlight id
  match (s0.core o.core).find o.lid with
  | none => s0
  | some n =>
    let x := s0.ctxAt o.core n
    s0.setCtxAt o.core n { x with acq := x.acq.map (fun a => if a.id = id then { a with status := some st } else a) }

/-- The ACQs that wait at a latch for the count that it now holds are met (R56, R133). -/
def State.wakeLatch (s : State) (dpa : Nat) : State :=
  s.flights.foldl (fun t p => match p.2 with
    | .acqObj o a false target => if a = dpa && target.toNat ≤ readNat t.mem dpa 8 then t.endAcq p.1 o 0 else t
    | _ => t) s

/-- The bytes that a REL of a context on a latch covers (R51, R58). -/
def State.relCovers (s : State) (o : Origin) (dpa scope dev b : Nat) : Bool :=
  s.boundTo (s.envOf o) 2 dpa dev b || (scope == 6 && dev == ownTdev && regionOf b == .window)

/-- A REL is performed at its latch: a sum above 2^64 − 1 stays there, and what the context wrote to regions bound to the
latch is released, with HOST scope what it wrote to the coherent window too (R58); an uncorrectable error leaves the latch and is recorded (R51, R56, R134). -/
def State.doRel (s : State) (o : Origin) (va : W64) (dpa : Nat) (inc : W64) (scope : Nat) : State :=
  if s.ueIn dpa 8 then s.enqueue (.stsErrorResponse o.core (((s.core o.core).find o.lid).getD 0) 1 va)
  else
    ((s.storeMem [o.ctxAgent] dpa (bytesOfNat 8 (min (readNat s.mem dpa 8 + inc.toNat) (2 ^ 64 - 1)))).release
      o.ctxAgent (.latch dpa) scope (s.relCovers o dpa scope)).wakeLatch dpa

/-- An ANNOUNCE or a REL of a context that has not been performed: a later REL follows it (R61). -/
def Flight.beforeRel (o : Origin) : Flight → Bool
  | .announce org .. | .rel org .. => org.same o
  | _ => false

/-- REL follows the context's earlier operations: its loads, atomics and reductions are performed first, and behind an
ANNOUNCE it waits without holding the bundle (R61, R134). -/
def State.relEffect (s : State) (addr inc : W64) (scope : Nat) : State :=
  let s1 := s.drainScope scope
  match s1.xl addr .atomic with
  | .error _ => s1
  | .ok dpa =>
    let s2 := s1.tlbFill s.focusCore s.cx.launch.asid addr
    if s2.flights.any (fun p => p.2.beforeRel s.origin) then (s2.addFlight (.rel s.origin addr dpa inc scope)).2
    else s2.doRel s.origin addr dpa inc scope

/-- RELs of a context that no ANNOUNCE stands before are performed, in issue order (R61). -/
def State.settleRels (s : State) (o : Origin) : State :=
  s.flights.foldl (fun t p => match p.2 with
    | .rel org va dpa inc scope =>
      if org.same o && !t.flights.any (fun q => q.1 < p.1 && q.2.beforeRel o) then (t.dropFlight p.1).doRel org va dpa inc scope else t
    | _ => t) s

/-- REL (R134); a guarded segment holds it (R300). -/
def execRel (sa sb : BitVec 6) (scope : BitVec 3) (s : State) : Host.Outcome State Fault Refusal :=
  slot (.rel sa sb scope) s (fun s =>
    if s.cx.launch.guard then s.holdSend (.rel sa sb scope) none else s.relEffect (s.sr sa) (s.sr sb) scope.toNat)

/-- What MFS reads; in a rerun of a guarded segment ACYCLE and WALLUS read as recorded (R118, R300, R303). -/
def State.mfsValue (s : State) (sys : BitVec 12) : W64 :=
  let v := s.sysRead sys.toNat
  if (sys = 0x021 || sys = 0x022) && s.cx.launch.guard then
    (s.cx.guard.replayLeft.findSome? (fun r => match r.what with
      | .mfs w => if r.at' = s.cx.a.c.bcount then some w else none
      | _ => none)).getD v
  else v

/-- MFS (R140). -/
def execMfs (rd : BitVec 6) (sys : BitVec 12) (s : State) : Host.Outcome State Fault Refusal :=
  slot (.mfs rd sys) s (fun s =>
    let v := s.mfsValue sys
    let s1 := s.recordUse (.mfs rd sys)
    let s2 := if (sys = 0x021 || sys = 0x022) && s.cx.launch.guard then s1.modCx (fun x => x.recordIn (.mfs v)) else s1
    s2.landScal rd 1 v)

/-- MTS: the new value holds from the next bundle (R140). -/
def execMts (rs : BitVec 6) (sys : BitVec 12) (s : State) : Host.Outcome State Fault Refusal :=
  slot (.mts rs sys) s (fun s => s.post (.sysWrite sys.toNat (s.sr rs)))

end Sys2Proof.Machine
end

