-- ==== Sys2Proof/Machine/Bundle.lean ====
section
/-! DEFINITION. A bundle around its slots: what comes before its test (R65 to R68, R392), what follows its slots
(R122 to R127, R137 to R140), and the sharing of a core's issue slot by its contexts (R36 to R41). -/

namespace Sys2Proof.Machine

open Sys2Proof

/-! Before the slots. -/

/-- The cause that is taken before the next bundle, in the order of R392. -/
def PendSt.first (p : PendSt) : Option (Cause × W64) :=
  match p.mchk, p.sdata, p.semovf with
  | some i, _, _ => some (.mchk, i)
  | none, some i, _ => some (.sdata, i)
  | none, none, some n => some (.semovf, BitVec.ofNat 64 n)
  | none, none, none => none

/-- No cause pending. -/
def PendSt.none : PendSt := { mchk := .none, sdata := .none, semovf := .none, after := .none }

/-- What is left when the first cause has been taken: an SDATA behind a machine check arises again after ERET, and a
saturating signal's SEMOVF is lost (R392; DEDUCED, log 14). -/
def PendSt.taken (p : PendSt) : PendSt := { PendSt.none with after := if p.mchk.isSome then p.sdata else p.after }

/-- What fetch finds: the address at which a header stands, and what it begins; line pads and last bytes of lines lead
on (R65, R66). -/
def State.fetch (s : State) : Nat → W64 → Except (W64 × XFault) (W64 × Fetched)
  | 0, a => .ok (a, .nextLine)
  | fuel + 1, a0 =>
    let a := fetchAfter a0
    match s.fetchLine a with
    | .error f => .error (a, f)
    | .ok bs =>
      match decodeLine bs with
      | .nextLine => s.fetch fuel (a + BitVec.ofNat 64 (64 - a.toNat % 64))
      | d => .ok (a, d)

/-- Lines of pads that one fetch passes over. -/
def padLimit : Nat := 64

/-- The address of the context's next bundle: that of its header; the fetch address where it cannot be fetched. -/
def State.nextAddr (s : State) : W64 :=
  match s.fetch padLimit s.cx.a.c.pc with
  | .ok (a, _) => a
  | .error _ => s.cx.a.c.pc

/-- The bundle at an address is under issue: nothing of it has happened. -/
def State.openBundle (s : State) (a : W64) (len : Nat) : State :=
  let f := fetchAfter (a + BitVec.ofNat 64 len)
  s.modIss (fun i => { Issue.idle with addr := a, fall := f, next := f, raised := i.raised })

/-- The rows of one bank that some words lie in, as (bank, row) of their physical offsets (R212, R234). -/
def State.bankRows (s : State) (words : List W64) : List (Nat × Nat) :=
  (words.map (fun a => let p := s.cx.launch.phys a.toNat; (p / 32 % 48, p / 1536))).eraseDups

/-- ACLK that a MEM word takes: the most rows that it touches in one bank, at least 1 (R212). -/
def State.memCost (s : State) (i : Instr) : Nat :=
  match i with
  | .vld o | .vst o | .vldx o | .vstx o =>
    let rows := s.bankRows ((s.cx.a.v.lanesOf o.g o.k.toNat).map (fun p => s.laneOf i p.1 p.2))
    (List.range 48).foldl (fun c b => max c (rows.countP (fun r => r.1 == b))) 1
  | _ => 1

/-- The groups of the floating-point instruction in a slot (R173). -/
def fpGroups (sl : Slot) (l : List (Slot × Instr)) : BitVec 8 :=
  match l.find? (fun p => p.1 == sl) with
  | some p => if usesFpPipe p.2 then (match vShape p.2 with | some (_, o) => o.g | none => 0) else 0
  | none => 0

/-- ACLK that a bundle takes to issue (R40, R173, R212). -/
def State.bundleCost (s : State) (l : List (Slot × Instr)) : Nat :=
  l.foldl (fun c p => max c (s.memCost p.2)) (if fpGroups .vea l &&& fpGroups .veb l != 0 then 2 else 1)

/-- What stands before the slots of a bundle. -/
inductive Prep where
  /-- The bundle does not issue: it is held or a trap is taken. -/
  | stop (s : State)
  /-- One bundle of an empty run issues, of so many. -/
  | run (bundles : Nat) (s : State)
  /-- The slots take effect in this order, from this state. -/
  | slots (l : List (Slot × Instr)) (s : State)
  deriving DecidableEq, Repr

/-- ILL of a bundle whose decoding failed: the slots below the one that the decoder refused are tested as well (R391). -/
def State.illFetched (s : State) (a : W64) (info : Nat) : Nat :=
  match s.fetchLine a with
  | .ok (h :: bs) =>
    if h = 0 || 8 ≤ info then info
    else match decodeSlots ((headerSlots h).filter (fun sl => sl.bit < info)) bs with
      | .ok l => match l.find? (fun p => s.illSlot (headerSlots h).length p.2) with
        | some p => p.1.bit
        | none => info
      | .error n => n
  | _ => info

/-- A bundle of slots that has been fetched: while a page that it touches is not at hand, and no cause that comes before XLATE
traps it, it is held for a walk (R144, R406); else it is tested. That its walks are asked for before what else holds it is tested
is the model's choice (DESIGN CHOICE, log 11). -/
def State.prepareSlots (s : State) (a : W64) (len : Nat) (l : List (Slot × Instr)) : Verdict :=
  let t := s.openBundle a len
  let u := t.landed
  let out := u.missing (l.flatMap (fun p => u.touches p.2))
  if out.isEmpty || t.cx.lds.isSome || t.cx.guard.commitDue || (u.earlyTrap l).isSome then t.test l
  else .stop (t.holdWalks out)

/-- Up to the slots of the next bundle of the context in focus. Behind a run of line pads longer than one fetch passes over,
the next fetch goes on (log 24). Results due in a bundle that is ILL or traps at its test land before the trap is entered; those
due where fetch fails, or where a cause is taken before the bundle, are held with the others unlanded: the spec does not say which
(DESIGN CHOICE, log 14). -/
def State.prepare (s0 : State) : Prep :=
  let s := s0.modCx Ctx.replayInputs
  let pc := s.cx.a.c.pc
  match s.cx.a.p.first with
  | some (c, info) => .stop ((s.modPend PendSt.taken).enterTrap c info s.nextAddr)
  | none =>
    let found := s.fetch padLimit pc
    match s.missing [fetchAfter pc, match found with | .ok (a, _) | .error (a, _) => a] with
    | p :: _ => .stop (s.holdWalks [p])
    | [] =>
    match found with
    | .error (a, f) => .stop (s.enterXlate .fetch f a a)
    | .ok (a, .ill info) =>
      let t := (s.openBundle a 2).landed
      .stop (t.enterTrap .ill (BitVec.ofNat 64 (t.illFetched a info)) a)
    | .ok (a, .nextLine) => .stop (s.modCtl (fun c => { c with pc := a }))
    | .ok (a, .emptyRun n) =>
      if s.cx.lds.isSome || s.cx.guard.commitDue then .stop s.markBlocked
      else .run n ((s.openBundle a 2).landed.spend 1)
    | .ok (a, .bundle l len) =>
      match s.prepareSlots a len l with
      | .stop t => .stop t
      | .go t => .slots l ((t.spend (t.bundleCost l)).modIss (fun i => { i with need := semNeeds l, checked := true }))

/-! After the slots. -/

/-- An effect after the bundle that needs no choice of the next bundle (R68, R129, R140, R201, R210, R212, R136). -/
def State.applyPost (s : State) : Post → State
  | .semAdd sem val => s.modCx (fun x => x.semAdd sem val)
  | .sysWrite n v => s.modCx (fun x => { x with a := x.a.sysWrite x.iss.raised n v })
  | .port op g row => s.modVec (fun v =>
      if op then { v with sfB := tput 0 v.sfB g row } else { v with sfA := tput 0 v.sfA g row })
  | .lsWrites ws => s.setFcore (s.fcore.lsWriteWords s.cx.launch ws)
  | .seed lanes serac w => s.modVec (fun v => { v with
      frazil := v.frazil.filter (fun p => !((lanes && p.1 < 128) || (serac && 128 ≤ p.1)))
      seedLanes := if lanes then w else v.seedLanes
      seedSerac := if serac then w else v.seedSerac })
  | .ckptPc a => s.modCtl (fun c => { c with ckptPc := a })
  | .commit => s.dueCommit s.cx.iss.fall
  | _ => s

/-- The test after a bundle at an address without a taken transfer: the levels, innermost first, whose LAST is there
(R125). -/
def LoopSt.test (a : W64) : List Nat → LoopSt → Option W64 × LoopSt
  | [], l => (.none, l)
  | k :: r, l =>
    if tget 0 l.last k = a then
      if 1 < (tget 0 l.lc k).toNat then (some (tget 0 l.start k), l.setLc k (tget 0 l.lc k - 1))
      else LoopSt.test a r { l.setLc k 0 with order := l.order.filter (fun j => j != k) }
    else LoopSt.test a r l

/-- End a level and those activated after it; their counts become 0 (R127; DEDUCED, log 15). -/
def LoopSt.cut (l : LoopSt) (n : Nat) : LoopSt :=
  { (l.order.drop n).foldl (fun l k => l.setLc k 0) l with order := l.order.take n }

/-- A transfer out of bodies: the first level in the order activated whose body does not hold the target ends, with every
later one (R127). -/
def State.leaveLoops (s : State) (target : W64) (l : LoopSt) : LoopSt :=
  match l.order.findIdx? (fun k =>
    !(tget 0 l.start k ≤ target && target < s.bundleEnd (tget 0 l.last k))) with
  | some n => l.cut n
  | none => l

/-- The pc and the loop state after a bundle. -/
def State.goTo (s : State) (pc : W64) (l : LoopSt) : State := s.modCtl (fun c => { c with pc := pc, loops := l })

/-- The next bundle is the one at an address, unless a level whose LAST is `at'` goes round again (R125). -/
def State.goTested (s : State) (at' next : W64) (l : LoopSt) : State :=
  let (back, l') := l.test at' l.order.reverse
  s.goTo (back.getD next) l'

/-- The tile after one in a core's order: tx, then ty, then tz (R36). -/
def LaunchEnv.tileAfter (e : LaunchEnv) (t : Nat × Nat × Nat) : Option (Nat × Nat × Nat) :=
  let (x, y, z) := t
  if x + e.w < e.gx then some (x + e.w, y, z)
  else if y + e.h < e.gy then some (x % e.w, y + e.h, z)
  else if z + 1 < e.gz then some (x % e.w, y % e.h, z + 1)
  else none

/-- The first tile of a core of the rectangle, if it has one (R36). -/
def LaunchEnv.firstTile (e : LaunchEnv) (core : Nat) : Option (Nat × Nat × Nat) :=
  let x := coreX core - e.ox
  let y := coreY core - e.oy
  if x < e.gx && y < e.gy && 0 < e.gz then some (x, y, 0) else none

/-- A launch has been told to stop (R31). -/
def State.stopping (s : State) (lid : Nat) : Bool :=
  s.launches.any (fun p => p.2.lid == lid && (match p.2.phase with | .stopping _ => true | _ => false))

/-- One more tile task of a launch has ended by HALT (R30). -/
def State.countHalt (s : State) (lid : Nat) : State :=
  { s with launches := s.launches.map (fun p => if p.2.lid = lid then (p.1, { p.2 with tasks := p.2.tasks + 1 }) else p) }

/-- HALT: results in flight are discarded, the next tile follows, and in a guarded launch what was issued goes on to
completion through a commit (R36, R37, R139, R302; DEDUCED, log 16). -/
def State.haltTask (s : State) : State :=
  let e := s.cx.launch
  let next := if s.stopping e.lid then none else s.cx.tile.bind e.tileAfter
  (s.modCx (fun x => { x.endTask with
    next := next, guard := if e.guard then { x.guard with commitDue := true } else x.guard })).countHalt e.lid

/-- The order 0, 1, 2, 3, 0 from the context after one. -/
def rotation (n : Nat) : List Nat := [(n + 1) % 4, (n + 2) % 4, (n + 3) % 4]

/-- The contexts in the order they follow a context, the restored ones that have not issued since at the end (R39, R401). -/
def Core.turns (k : Core) (n : Nat) : List Nat := (rotation n).filter (fun m => !k.late.contains m) ++ k.late

/-- A posted effect that decides what follows the bundle: of TRAP, ERET, HALT, LBRK, or a loop of no passes. -/
def Post.isControl : Post → Bool
  | .trap _ | .eret | .halt | .lbrk | .skip _ => true
  | _ => false

/-- The control part of the bundle under issue, once its other effects are made. A TRAP enters its handler before the value of
an LDS of the same bundle returns (R137 does not say; DESIGN CHOICE, log 24). -/
def State.control (s : State) : State :=
  let i := s.cx.iss
  let l := s.cx.a.c.loops
  match i.post.find? Post.isControl with
  | some (.trap code) => (s.goTo i.fall l).enterTrap .swtrap (BitVec.ofNat 64 code) i.fall
  | some .eret => s.leaveTrap
  | some .halt => s.haltTask
  | some .lbrk =>
    let k := l.order.getLast?.getD 0
    s.goTested i.addr (s.afterBundle (tget 0 l.last k)) (l.cut (l.order.length - 1))
  | some (.skip last) => s.goTested last (s.afterBundle last) l
  | _ =>
    if i.taken then s.goTo i.next (if i.leaves then s.leaveLoops i.next l else l)
    else s.goTested i.addr i.next l

/-- One bundle counts: the bundle count, the counts of results in flight, and of SINTF values not in force (R4, R156,
R160). -/
def Arch.count (a : Arch) : Arch :=
  let pend := a.v.intPend.map (fun p => (p.1 - 1, p.2))
  let now := (pend.filter (fun p => p.1 == 0)).getLast?
  { a with
    c := { a.c with bcount := a.c.bcount + 1 }
    v := { a.v with
      landing := a.v.landing.map (fun e => { e with count := e.count - 1 })
      intfmt := match now with | some p => p.2 | none => a.v.intfmt
      intPend := pend.filter (fun p => p.1 != 0) } }

/-- A context has issued a bundle that took some ACLK. -/
def Ctx.counted (x : Ctx) (aclk : Nat) : Ctx :=
  let g := if x.launch.guard then { x.guard with aclk := x.guard.aclk + aclk } else x.guard
  { x with a := x.a.count, blocked := false, waited := 0, guard := g }

/-- The ACLK of a bundle pass: for the core, for the context's hold of the slot, and for the others that wait (R40). -/
def State.passTime (s : State) (n aclk : Nat) : State :=
  let k := s.fcore
  let ctxs := (List.range 4).foldl (fun t j =>
    let x := tget Ctx.reset t j
    if j != n && n != 4 && x.tile.isSome && !x.blocked then tput Ctx.reset t j { x with waited := x.waited + aclk } else t) k.ctxs
  s.setFcore { k with
    ctxs := ctxs, acycle := s.acycleOf s.focusCore + BitVec.ofNat 64 aclk,
    issued := if n = 4 then k.issued else k.issued + 1, heldAclk := if n = 4 then k.heldAclk else k.heldAclk + aclk,
    shYield := if n = 4 then k.shYield else k.shYield - 1 }

/-- The bundle under issue has had its slots: what follows it. -/
def State.finish (s : State) : State :=
  let i := s.cx.iss
  let s1 := i.post.foldl State.applyPost s
  let s2 := s1.modCx (fun x => x.counted i.aclk)
  let s3 := (s2.passTime s2.focusCtx i.aclk).control
  s3.modCx (fun x => { x with iss := .idle, walked := [] })

/-- One bundle of an empty run has issued: RUN_LEFT counts what is left, and after the last the run is passed (R65,
R67). -/
def State.finishRun (s : State) (n : Nat) : State :=
  let a := s.cx.iss.addr
  let c := s.cx.a.c
  let left := if c.runLeft = 0 then n - 1 else c.runLeft - 1
  let s1 := (s.modCtl (fun c => { c with runLeft := left })).modCx (fun x => x.counted 1)
  let s2 := s1.passTime s1.focusCtx 1
  let s3 := if left = 0 then s2.goTested a s.cx.iss.fall s2.cx.a.c.loops else s2.goTo a s2.cx.a.c.loops
  s3.modCx (fun x => { x with iss := .idle, walked := [] })

/-! Contexts (R39 to R41). -/

/-- Look at another context of a core. -/
def State.at' (s : State) (c n : Nat) : State := { s with focusCore := c, focusCtx := n }

/-- A context's routines stand at yield points, or none runs: a bundle boundary is a preemption point (R42). -/
def State.preemptible (s : State) : Bool :=
  [0, 1, 2, 3].all (fun a => (s.fcore.arr a).run.all (fun r => r.cmd.lid != s.cx.launch.lid || r.atYield))

/-- The context in focus would issue, or trap, now (R39). -/
def State.readyNow (s : State) : Bool :=
  s.cx.tile.isSome && s.cx.lds.isNone && !s.cx.guard.commitDue &&
  (match s.prepare with
   | .stop t => !t.cx.blocked || s.cx.a.p.first.isSome
   | _ => true)

/-- A context of a core is ready. -/
def State.ready (s : State) (c n : Nat) : Bool := ((s.at' c n).modCx (fun x => { x with blocked := false })).readyNow

/-- A launch that is to stop ends its tile task at a preemption point (R31); a yield of the shadow context ends with its task
(R41). -/
def State.endStopped (s : State) : State :=
  if s.cx.tile.isSome && s.stopping s.cx.launch.lid && s.preemptible then
    let t := s.modCx (fun x => { x.endTask with next := none })
    if s.focusCtx = 4 then t.setFcore { t.fcore with shYield := 0 } else t
  else s

/-- A context that cannot issue is found blocked: an ACQ on a name places its interest, a commit becomes due; one whose cause
has cleared is blocked no more, and its wait counts (R39, R40, R133, R301). -/
def State.pollOne (s : State) : State :=
  let s := s.endStopped
  if s.cx.tile.isNone then s
  else if s.cx.lds.isSome || s.cx.guard.commitDue then s.markBlocked
  else if s.ready s.focusCore s.focusCtx then s.modCx (fun x => { x with blocked := false })
  else match s.prepare with
    | .stop t => t
    | _ => s

/-- Every context of a core that may be tested is tested; a frozen one already stands at a bundle boundary, where its launch
may stop it (R31, R39, R41, R42). -/
def State.poll (s : State) (c : Nat) : State :=
  let f := (s.focusCore, s.focusCtx)
  let t := [0, 1, 2, 3, 4].foldl (fun s n =>
    if (s.core c).frozen && n != 4 then (s.at' c n).endStopped else (s.at' c n).pollOne) s
  t.at' f.1 f.2

/-- The shadow context takes the core: it is ready, and no yield of it is running (R41). -/
def State.takesOver (s : State) (c : Nat) : Bool :=
  s.ready c 4 && ((s.core c).shYield = 0 || [0, 1, 2, 3].all (fun n => !s.ready c n))

/-- PRIORITY_TAKEOVER: the normal contexts are frozen (R41). -/
def State.takeover (s : State) (c : Nat) : State :=
  if s.takesOver c then s.setCore c { s.core c with frozen := true, shYield := 0 } else s

/-- NORMAL_RESUME: the shadow context does not take the core (R41). -/
def State.resume (s : State) (c : Nat) : State :=
  if (s.core c).frozen && !s.takesOver c then s.setCore c { s.core c with frozen := false } else s

/-- A context begins to issue (R40). -/
def State.switchTo (s : State) (c n : Nat) : State :=
  s.setCore c { s.core c with run := n, issued := 0, heldAclk := 0, late := (s.core c).late.erase n }

/-- The ready context that has waited longest, among those at 2,048 ACLK or more (R40). -/
def State.longestWait (s : State) (c : Nat) (l : List Nat) : Option Nat :=
  l.foldl (fun b n =>
    let w := ((s.core c).ctx n).waited
    if w < 2048 then b
    else match b with
      | some m => if ((s.core c).ctx m).waited < w then some n else b
      | none => some n) none

/-- The context that the fairness rules put in place of the running one (R40). Where both rules apply at one boundary, the
model takes the first (DESIGN CHOICE, log 32). -/
def State.fairNext (s : State) (c : Nat) : Option Nat :=
  let k := s.core c
  let others := (k.turns k.run).filter (s.ready c)
  if 2048 ≤ k.issued then others.head? else if 256 ≤ k.heldAclk then s.longestWait c others else none

/-- FAIRNESS_SWITCH: where a rule of R40 asks for it, another context begins to issue. -/
def State.fairness (s : State) (c : Nat) : State :=
  match s.fairNext c with
  | some n => s.switchTo c n
  | none => s

/-- The context of a core that issues next, if one is ready: the shadow context, or the running context, or the next in
rotation (R39 to R41). -/
def State.choose (s : State) (c : Nat) : Option Nat × State :=
  let s1 := (s.takeover c).resume c
  if (s1.core c).frozen then (some 4, s1)
  else
    let s2 := if ((s1.core c).ctx (s1.core c).run).blocked then s1.setCore c { s1.core c with issued := 0, heldAclk := 0 } else s1
    let s3 := s2.fairness c
    let run := (s3.core c).run
    if s3.ready c run && !(s3.core c).late.contains run then (some run, s3)
    else match ((s3.core c).turns run).find? (s3.ready c) with
      | some n => (some n, s3.switchTo c n)
      | none => (none, s3)

/-- YIELD (R41, R135): the shadow context gives the core for 256 bundles; a normal context gives it to the next ready one,
and its count restarts. -/
def State.yielded (s : State) (c n : Nat) : State :=
  if n = 4 then s.setCore c { s.core c with shYield := 256, frozen := false }
  else match ((s.core c).turns n).find? (s.ready c) with
    | some m => s.switchTo c m
    | none => s.setCore c { s.core c with issued := 0 }

/-- A bundle is done; a YIELD in it follows. -/
def State.finishBundle (s : State) : State :=
  let y := s.cx.iss.post.any (fun p => p == .yield)
  let t := s.finish
  if y then t.yielded t.focusCore t.focusCtx else t

/-- FAIRNESS_SWITCH (R40). -/
def execFairnessSwitch (core : Nat) (s : State) : Host.Outcome State Fault Refusal := .next (s.fairness core)
/-- PRIORITY_TAKEOVER (R41). -/
def execPriorityTakeover (core : Nat) (s : State) : Host.Outcome State Fault Refusal := .next (s.takeover core)
/-- NORMAL_RESUME (R41). -/
def execNormalResume (core : Nat) (s : State) : Host.Outcome State Fault Refusal := .next (s.resume core)

/-! Events of the context in focus. -/

/-- EMPTY_BUNDLE: one bundle of the empty run at the pc issues (R65). -/
def execEmptyBundle (s : State) : Host.Outcome State Fault Refusal :=
  match s.prepare with
  | .run n t => .next (t.finishRun n)
  | .stop t => .next t
  | .slots _ _ => .next s

/-- The results of one kind that are due take effect (R156). -/
def Ctx.landKind (x : Ctx) (p : Landing → Bool) : Ctx :=
  let due (e : Landing) : Bool := e.count == 0 && p e
  let y := { x with a := { x.a with v := { x.a.v with landing := x.a.v.landing.filter (fun e => !due e) } } }
  let z := (x.a.v.landing.filter due).foldl Ctx.landEntry y
  { z with a := { z.a with v := z.a.v.freeSlots } }

/-- RESULT_LANDING (R156). -/
def execResultLanding (s : State) : Host.Outcome State Fault Refusal :=
  .next (s.modCx (fun x => x.landKind (fun e => e.dest != .sfy && e.slot.isNone)))
/-- SFU_RESULT_LANDING (R202). -/
def execSfuResultLanding (s : State) : Host.Outcome State Fault Refusal :=
  .next (s.modCx (fun x => x.landKind (fun e => e.dest == .sfy)))
/-- DECLARED_LOAD_LANDING (R215). -/
def execDeclaredLoadLanding (s : State) : Host.Outcome State Fault Refusal :=
  .next (s.modCx (fun x => x.landKind (fun e => e.slot.isSome)))

/-- The cause of a code (R390). -/
def causeOf (code : Nat) : Option Cause :=
  [Cause.ill, .wport, .semovf, .replay, .xlate, .sfmt, .ckspan, .mchk, .swtrap, .sdata].find? (fun c => c.code == code)

/-- TRAP_ENTRY: the context in focus takes a trap before its next bundle (R138). -/
def execTrapEntry (cause : Nat) (info : W64) (s : State) : Host.Outcome State Fault Refusal :=
  match causeOf cause with
  | some c => .next (s.enterTrap c info s.nextAddr)
  | none => .next s

/-- The registers at a tile task's entry (R37, R118). A SINTF value that was not yet in force stays pending, and the bundles of the
next tile task go on counting for it: the spec does not say what becomes of it (DESIGN CHOICE, log 24). -/
def Arch.entry (a : Arch) (e : LaunchEnv) (t : Nat × Nat × Nat) : Arch :=
  let n (v : Nat) : W64 := BitVec.ofNat 64 v
  { a with
    c := { a.c with
      scal := tput 0 (tput 0 (tput 0 (tput 0 [] 0 (n t.1)) 1 (n t.2.1)) 2 (n t.2.2)) 3 e.param
      hnd := tput 0 [] 0 e.h0, loops := .none, runLeft := 0, active := false, held := none, bcount := 0, pc := e.entry }
    v := { a.v with landing := [], replay := [], poison := [] } }

/-- TILE_TASK_START: the next tile of the context starts (R36, R37); a guarded launch's segment starts with its tile task
(R300; DEDUCED, log 16). -/
def execTileTaskStart (core ctx : Nat) (s : State) : Host.Outcome State Fault Refusal :=
  let x := s.ctxAt core ctx
  match x.env, x.tile, x.next with
  | some e, none, some t =>
    if x.guard.commitDue || s.stopping e.lid then .next s
    else
      let a := x.a.entry e t
      let g := if e.guard then { Guard.none with point := some a, tile := some t } else x.guard
      .next (s.setCtxAt core ctx { x with a := a, guard := g, tile := some t, next := none, iss := .idle, blocked := false, waited := 0 })
  | _, _, _ => .next s

end Sys2Proof.Machine
end

