-- ==== Sys2Proof/Machine/Move.lean ====
section
/-! DEFINITION. The MOV slot (R201 to R210): SFU ports, cross-group copies, result-queue pops, mask moves, scalar
exchange, and the seeding of the Frazil generators. -/

namespace Sys2Proof.Machine

open Sys2Proof

/-- The groups in which a MOV instruction acts: GS, or all (R204). -/
def movGroups (o : MovArgs) : List Nat := groupList o.readGroups

/-- A whole-row or part-row result for some groups. -/
def State.landRows (s : State) (dest : LandDest) (lat : Nat) (gs : List Nat) (act : BitVec 16) (row : Nat → BitVec 512)
    (fl : Nat → BitVec 8) : State :=
  s.land { count := lat, dest := dest, value := 0, slot := none,
           groups := gs.map (fun g => { grp := g, act := act, lo := row g, hi := 0, flags := fl g, arr := .ok, late := false }) }

/-- A mask as a row: bit 0 of each lane. -/
def maskRow (m : BitVec 16) : BitVec 512 := rowOf (fun l => if m.getLsbD l then 1 else 0)

/-- A word in every lane. -/
def rowAll (w : W32) : BitVec 512 := rowOf (fun _ => w)

/-- Lanes of an SFU function over whole rows (R203). -/
def sfuLanes (ftz : Bool) (port : Nat) (a b : BitVec 512) : List (W32 × BitVec 8) :=
  (List.range 16).map (fun l => sfuResult ftz port (lane a l) (lane b l))

/-- MOVP: an operand port is written after the bundle; a trigger port also starts its function, which lands in sf.y 14
bundles later (R201, R202, R205). -/
def execMovp (o : MovArgs) (s : State) : Host.Outcome State Fault Refusal :=
  slot (.movp o) s (fun s =>
    let port := (o.x.extractLsb' 0 4).toNat
    let v := s.cx.a.v
    let row (g : Nat) := v.row g (opReg o.a)
    let s1 := (movGroups o).foldl (fun s g => s.post (.port (port == 1) g (row g))) s
    if port ≤ 1 then s1
    else
      let res (g : Nat) := sfuLanes v.ftz port (row g) (tget 0 v.sfB g)
      s1.landRows .sfy 14 (movGroups o) 0xFFFF (fun g => rowOfList ((res g).map (fun r => r.1)))
        (fun g => (res g).foldl (fun f r => f ||| r.2) 0))

/-- MOVR: vD := sf.y of the group, as it stands at issue (R205). -/
def execMovr (o : MovArgs) (s : State) : Host.Outcome State Fault Refusal :=
  slot (.movr o) s (fun s =>
    s.landRows (.vec o.d.toNat) 2 (movGroups o) 0xFFFF (fun g => tget 0 s.cx.a.v.sfY g) (fun _ => 0))

/-- XGC: a register of group GS to group GD, or to every group; one lane broadcast under LSEL (R206). -/
def execXgc (o : MovArgs) (s : State) : Host.Outcome State Fault Refusal :=
  slot (.xgc o) s (fun s =>
    let src := s.cx.a.v.row o.gs.toNat (opReg o.a)
    let row := if o.x.getLsbD 4 then rowAll (lane src (o.x.extractLsb' 0 4).toNat) else src
    s.landRows (.vec o.d.toNat) 3 (if o.all then List.range 8 else [o.gd.toNat]) 0xFFFF (fun _ => row) (fun _ => 0))

/-- Remove the head of a queue. -/
def State.popHead (s : State) (code : Nat) : State :=
  s.modCx (fun x => { x with a := { x.a with q := { x.a.q with q := tput [] x.a.q.q code ((x.a.q.slots code).drop 1) } } })

/-- The head entry of a queue is consumed: the context observes the completion that filled it (R50), and acquires what a
REL-flagged command released through it (R52). -/
def State.takeHead (s : State) (code : Nat) : State :=
  let id := (s.cx.a.q.slots code).head?.map QSlot.id
  ((s.popHead code).observe s.ctxAgent (.doneSlot s.focusCore s.cx.launch.lid code (id.getD 0))).acquire s.ctxAgent 6 (fun x => match x with
    | .slot c l q i => c == s.focusCore && l == s.cx.launch.lid && q == code && some i == id
    | _ => false)

/-- POP: the head entry, once it is filled; with STALL = 0 the next scalar takes the not-ready flag (R52, R207, R238). -/
def execPop (o : MovArgs) (s : State) : Host.Outcome State Fault Refusal :=
  slot (.pop o) s (fun s =>
    let code := (o.x.extractLsb' 0 3).toNat
    let head := match s.cx.a.q.slots code with | e :: _ => e.entry | [] => none
    let d1 := o.d + 1
    match head, o.x.getLsbD 3 with
    | some v, true => (s.takeHead code).landScal o.d 1 v
    | some v, false => ((s.takeHead code).landScal o.d 1 v).landScal d1 1 0
    | none, true => s
    | none, false => (s.landScal o.d 1 0).landScal d1 1 1)

/-- KMOV: mask to mask, bit 0 of a register's lanes to a mask, or a mask to a register (R208). -/
def execKmov (o : MovArgs) (s : State) : Host.Outcome State Fault Refusal :=
  slot (.kmov o) s (fun s =>
    let v := s.cx.a.v
    let k (g : Nat) := maskRow (v.msk g (o.a.toNat % 8))
    match (o.x.extractLsb' 0 2).toNat with
    | 0 => s.landRows (.mask (o.d.toNat % 8)) 1 (movGroups o) 0xFFFF k (fun _ => 0)
    | 1 => s.landRows (.mask (o.d.toNat % 8)) 1 (movGroups o) 0xFFFF (fun g => v.row g (opReg o.a)) (fun _ => 0)
    | _ => s.landRows (.vec o.d.toNat) 2 (movGroups o) 0xFFFF k (fun _ => 0))

/-- The second mask of KAND and KOR, inverted if NB (R208). -/
def secondMask (v : VecSt) (o : MovArgs) (g : Nat) : BitVec 16 :=
  let m := v.msk g (o.x.extractLsb' 0 3).toNat
  if o.x.getLsbD 3 then ~~~ m else m

/-- KAND (R208). -/
def execKand (o : MovArgs) (s : State) : Host.Outcome State Fault Refusal :=
  slot (.kand o) s (fun s =>
    let v := s.cx.a.v
    s.landRows (.mask (o.d.toNat % 8)) 1 (movGroups o) 0xFFFF
      (fun g => maskRow (v.msk g (o.a.toNat % 8) &&& secondMask v o g)) (fun _ => 0))

/-- KOR (R208). -/
def execKor (o : MovArgs) (s : State) : Host.Outcome State Fault Refusal :=
  slot (.kor o) s (fun s =>
    let v := s.cx.a.v
    s.landRows (.mask (o.d.toNat % 8)) 1 (movGroups o) 0xFFFF
      (fun g => maskRow (v.msk g (o.a.toNat % 8) ||| secondMask v o g)) (fun _ => 0))

/-- MOVS: the low word of a scalar to every lane, or to one lane under LSEL (R209). -/
def execMovs (o : MovArgs) (s : State) : Host.Outcome State Fault Refusal :=
  slot (.movs o) s (fun s =>
    let w : W32 := (s.sr (o.a.extractLsb' 0 6)).truncate 32
    let act : BitVec 16 := if o.x.getLsbD 4 then BitVec.ofNat 16 (2 ^ (o.x.extractLsb' 0 4).toNat) else 0xFFFF
    s.landRows (.vec o.d.toNat) 2 (movGroups o) act (fun _ => rowAll w) (fun _ => 0))

/-- MOVV: one lane to a scalar, zero- or sign-extended (R209). -/
def execMovv (o : MovArgs) (s : State) : Host.Outcome State Fault Refusal :=
  slot (.movv o) s (fun s =>
    let w := lane (s.cx.a.v.row o.gs.toNat (opReg o.a)) (o.x.extractLsb' 0 4).toNat
    s.landScal o.d 2 (if o.x.getLsbD 5 then w.signExtend 64 else w.zeroExtend 64))

/-- SRSEED: the named generators are seeded after every other slot of the bundle (R210). -/
def execSrseed (o : MovArgs) (s : State) : Host.Outcome State Fault Refusal :=
  slot (.srseed o) s (fun s =>
    s.post (.seed (o.x.getLsbD 0) (o.x.getLsbD 1) ((s.sr (o.a.extractLsb' 0 6)).truncate 32)))

end Sys2Proof.Machine
end

