-- ==== Sys2Proof/Machine/Panel.lean ====
section
/-! DEFINITION. The panel: peers and their exposure (R365, R366), the switches' groups (R375 to R379), order signatures
(R382), the Drift counter window (R367) and the Floe links (R363, R364). -/

namespace Sys2Proof.Machine

open Sys2Proof

/-! Order signatures (R382). -/

/-- One byte of CRC-64/ECMA-182. -/
def crc64Byte (c : W64) (b : Byte) : W64 :=
  (List.range 8).foldl (fun c _ => if c.getLsbD 63 then (c <<< 1) ^^^ 0x42F0E1EBA9EA3693 else c <<< 1)
    (c ^^^ (b.zeroExtend 64 <<< 56))

/-- An item of 2 bytes. -/
def crc64Item (c : W64) (n : Nat) : W64 := crc64Byte (crc64Byte c (BitVec.ofNat 8 n)) (BitVec.ofNat 8 (n / 256))
/-- Contributor(d). -/
def sigContributor (c : W64) (tdev : Nat) : W64 := crc64Item c (tdev % 2 ^ 15)
/-- Node(n). -/
def sigNode (c : W64) (n : Nat) : W64 := crc64Item c (n % 2 ^ 15 + 2 ^ 15)
/-- This panel's index. -/
def panelIndex : Nat := 16 * Config.torusY.toNat + Config.torusX.toNat

/-- The switch plane that folds a line: floor(off / 64) mod 8, or the one in its place where it has failed (R382). -/
def State.foldPlane (s : State) (off : Nat) : Nat := (tfind s.planes (off / 64 % 8)).getD (off / 64 % 8)
/-- The signature of a line of a reduce group: its members in index order, then the plane that folds it. -/
def State.lineSig (s : State) (e : Group) (off : Nat) : W64 :=
  sigNode (e.list.foldl (fun c d => sigContributor c (panelTdev d)) 0) (8 * panelIndex + s.foldPlane off)

/-! Multicast and reduce lines (R377, R378). -/

/-- A line is replicated to every other member whose APRX bit is set; the members that answered negatively, with the
causes of R379: 1 REVOKED, 2 PEER_DOWN, 3 range. -/
def State.multicastTo (s : State) (ags : List Agent) (g : Nat) (e : Group) (off : Nat) (bs : List Byte) (writer : Nat) :
    List (Nat × Nat) × State :=
  (e.list.filter (fun d => d != writer)).foldl (fun r d =>
    let t := panelTdev d
    let a := e.apbase + off
    if r.2.devDown t then (r.1 ++ [(d, 2)], r.2)
    else if !r.2.aprx t g then (r.1 ++ [(d, 1)], r.2)
    else if !plainDpa a 64 then (r.1 ++ [(d, 3)], r.2)
    else (r.1, r.2.storeDev ags t a bs)) ([], s)

/-- One word of a fold (R378). -/
def foldWord (rfmt : Nat) (acc w : W32) : W32 :=
  match rfmt with
  | 0 => (addRound false .rne 0 [num32 acc, num32 w]).1
  | 1 => acc + w
  | 2 => (minMax true false acc w).1
  | _ => (minMax false false acc w).1

/-- The fold of the members' lines, lowest first (R378). -/
def foldLine (rfmt : Nat) : List (BitVec 512) → BitVec 512
  | [] => 0
  | r :: rs => rs.foldl (fun acc w => rowOf (fun l => foldWord rfmt (lane acc l) (lane w l))) r

/-- 64 bytes as a row, and a row as bytes. -/
def rowOfBytes (bs : List Byte) : BitVec 512 := BitVec.ofNat 512 (natOfBytes bs)
def bytesOfRow (r : BitVec 512) : List Byte := bytesOfNat 64 r.toNat

/-- The members that a folded line goes to (R378). -/
def Group.receivers (e : Group) (off : Nat) : List Nat :=
  if e.kind = 1 then e.list
  else
    let n := e.list.length
    let q := 64 * (e.size / (64 * n))
    match e.list[min (off / q) (n - 1)]? with
    | some d => [d]
    | none => []

/-- Negative responses of a line of the aperture to a core's copy or store: SMEM_ERR with CAUSE 3 and the event log
(R374). -/
def State.lineNaks (s : State) (o : Origin) (va : W64) (naks : List (Nat × Nat)) : State :=
  if naks.isEmpty then s
  else (s.smemErr o 3 va).log o.core 0x0013 (bytesOfNat 8 (naks.map (fun p => 2 ^ p.1)).sum)

/-- Change a copy-table entry. -/
def State.modCopy (s : State) (c n : Nat) (f : CopyEnt → CopyEnt) : State :=
  let k := s.core c
  match tfind k.copies n with
  | some e => s.setCore c { k with copies := tset k.copies n (f e) }
  | none => s

/-- Add the causes of negative answers to those known; the first of a member stands. -/
def addNaks (t : Tbl Nat) (naks : List (Nat × Nat)) : Tbl Nat :=
  naks.foldl (fun t q => if tmem t q.1 then t else tset t q.1 q.2) t

/-- The offset of the last line of a multicast put. -/
def lastLine : Instr → Nat
  | .putmc _ _ dst len _ _ => (dst.extractLsb' 0 40).toNat + (len.toNat - 64)
  | _ => 0

/-- The acknowledgement of a line reaches the writer of this device that contributed it: the negative answers of every
member, the signature, and whether a dead member ended it. A dead member fails the put with PEER_DOWN, and its detail is the
lines that were completed (R378, R379, R389). -/
def State.ackLine (s : State) (g off : Nat) (w : LineWriter) (neg : List (Nat × Nat)) (sig : W64) (dead : Option Nat) :
    State :=
  match w with
  | .other _ | .cmd _ => s
  | .copy c n =>
    match tfind (s.core c).copies n with
    | none => s
    | some e =>
      let va := ((e.acks.find? (fun a => a.1 == g && a.2.1 == off)).map (fun a => a.2.2)).getD 0
      let t := if dead.isSome then s else s.lineNaks { core := c, lid := e.lid, shadow := e.shadow, cmd := e.num } va neg
      t.modCopy c n (fun e => { e with
        acks := e.acks.eraseP (fun a => a.1 == g && a.2.1 == off)
        moved := if dead.isSome then e.moved.map (fun m => (3, m.2)) else e.moved })
  | .drift n =>
    match tfind s.drifts n with
    | none => s
    | some e =>
      match dead, e.phase with
      | none, .sending => { s with drifts := tset s.drifts n { e with
          acks := e.acks.erase (g, off), naks := addNaks e.naks neg
          sig := if lastLine e.entry == off then sig else e.sig } }
      | some _, .sending =>
        { s with drifts := tset s.drifts n { e with naks := [], phase := .ended 3 (e.mcOff / 64 - e.acks.length) } }
      | _, _ => s

/-- A line of a reduce group in the switch; one with no contribution where none is held. -/
def State.redLine (s : State) (g off : Nat) : RedLine :=
  (s.redLines.find? (fun l => l.grp == g && l.off == off)).getD { grp := g, off := off, have' := [], next := [], own := [] }

/-- Put a line back; one without contributions is dropped. -/
def State.setRedLine (s : State) (l : RedLine) : State :=
  let rest := s.redLines.filter (fun m => !(m.grp == l.grp && m.off == l.off))
  { s with redLines := if l.have'.isEmpty && l.next.isEmpty then rest else rest ++ [l] }

/-- The next round of a line: each member's first waiting contribution (R378). -/
def RedLine.advance (l : RedLine) : RedLine :=
  l.next.foldl (fun m p =>
    if tmem m.have' p.1 then { m with next := m.next ++ [p] } else { m with have' := tset m.have' p.1 p.2 })
    { l with have' := [], next := [], own := if tmem l.have' Config.devId.toNat then l.own.drop 1 else l.own }

/-- The writer of this device whose contribution stands in the round. -/
def RedLine.writer (l : RedLine) : LineWriter :=
  match l.have' with
  | p :: _ => if tmem l.have' Config.devId.toNat then l.own.headD (.other p.1) else .other p.1
  | [] => .other 0

/-- The agents that write for an entry of the Drift engine: the engine, the command of its list, and the entry (R50, R51). -/
def State.entAgents (s : State) (e : DriftEnt) : List Agent :=
  match tfind s.dlists e.list with
  | some l => [.drift, l.org.agent, .cmd l.org.core l.org.lid e.num]
  | none => [.drift]

/-- The agents that a folded line counts as written by: those of this device's writer, if it has one, else another member. -/
def State.lineAgents (s : State) : LineWriter → List Agent
  | .copy c n => match tfind (s.core c).copies n with | some e => [.cmd c e.lid e.num] | none => []
  | .drift n => match tfind s.drifts n with | some e => s.entAgents e | none => [.drift]
  | .cmd o => [o.agent]
  | .other d => [.peer (panelTdev d)]

/-- Complete the lines that can be: every member has contributed, or one of them is dead (R378). -/
def State.settleLine (g : Nat) (e : Group) (off : Nat) : Nat → State → State
  | 0, s => s
  | fuel + 1, s =>
    let l := s.redLine g off
    if l.have'.isEmpty then s
    else match e.list.find? (fun d => s.devDown (panelTdev d)) with
      | some d => ((s.setRedLine l.advance).ackLine g off l.writer [] 0 (some d)).settleLine g e off fuel
      | none =>
        if e.list.all (fun d => tmem l.have' d) then
          let acc := foldLine e.rfmt (e.list.map (fun d => tget 0 l.have' d))
          let a := e.apbase + off
          let (neg, s1) := (e.receivers off).foldl (fun r d =>
            let t := panelTdev d
            if !r.2.aprx t g then (r.1 ++ [(d, 1)], r.2)
            else if !plainDpa a 64 then (r.1 ++ [(d, 3)], r.2)
            else (r.1, r.2.storeDev (s.lineAgents l.writer) t a (bytesOfRow acc))) (([] : List (Nat × Nat)), s)
          ((s1.setRedLine l.advance).ackLine g off l.writer neg (s1.lineSig e off) none).settleLine g e off fuel
        else s

/-- A member contributes a line; a second one waits for the next round (R378). -/
def State.contribute (s : State) (g : Nat) (e : Group) (off member : Nat) (row : BitVec 512) (w : LineWriter) : State :=
  let l0 := s.redLine g off
  let l := if member = Config.devId.toNat then { l0 with own := l0.own ++ [w] } else l0
  let l' := if tmem l.have' member then { l with next := l.next ++ [(member, row)] }
    else { l with have' := tset l.have' member row }
  (s.setRedLine l').settleLine g e off (l'.next.length + 1)

/-- What becomes of a line that this device writes through the aperture (R375 to R378). -/
inductive LineAns where
  /-- An error response: no usable group, a smaller write, or past the group's SIZE. -/
  | refused
  /-- Replicated; the members that answered negatively. -/
  | sent (naks : List (Nat × Nat))
  /-- Contributed to a line of a reduce group. -/
  | contributed (g off : Nat)
  deriving DecidableEq, Repr

/-- The line of an aperture address: the group, its entry and the offset, where this device may write it (R375, R376). -/
def State.lineOf (s : State) (a n : Nat) : Option (Nat × Group × Nat) :=
  match regionOf a with
  | .aperture g off =>
    match s.usableGroup g with
    | some e => if a % 64 = 0 && n = 64 && off + 64 ≤ e.size then some (g, e, off) else none
    | none => none
  | _ => none

/-- A line written through the aperture by this device. A contribution is entered by the caller once its writer awaits
the acknowledgement. -/
def State.writeLine (s : State) (ags : List Agent) (a : Nat) (bs : List Byte) : LineAns × State :=
  match s.lineOf a bs.length with
  | none => (.refused, s)
  | some (g, e, off) =>
    if e.kind = 0 then
      let (naks, s1) := s.multicastTo ags g e off bs Config.devId.toNat
      (.sent naks, s1)
    else (.contributed g off, s)

/-- This device's contribution to a line of a group. -/
def State.ownLine (s : State) (g off : Nat) (bs : List Byte) (w : LineWriter) : State :=
  s.contribute g (s.group g) off Config.devId.toNat (rowOfBytes bs) w

/-- REDUCE_CONTRIBUTION: the switch takes a member's line (R378). -/
def execReduceContribution (member grp off : Nat) (line : List Byte) (s : State) : Host.Outcome State Fault Refusal :=
  let e := s.group grp
  if e.valid && (e.kind = 1 || e.kind = 2) && e.list.contains member && line.length = 64 && off % 64 = 0 && off + 64 ≤ e.size then
    .next (s.contribute grp e off member (rowOfBytes line) (.other member))
  else .next s

/-- APERTURE_LOAD: the load that a context has outstanding at an aperture address is answered by the lowest-numbered
member that is up, or with an error (R375). -/
def execApertureLoad (core ctx : Nat) (va : W64) (s : State) : Host.Outcome State Fault Refusal :=
  let x := s.ctxAt core ctx
  match x.lds with
  | none => .next s
  | some l =>
    match s.xlate (s.core core).tlb x.launch.asid va .load with
    | .error _ => .next s
    | .ok dpa =>
      match regionOf dpa with
      | .aperture .. =>
        if l.va != va then .next s
        else
          let r : Except Nat W64 := match s.readDpa dpa (szBytes l.sz) with
            | .ok bs => .ok (szExtend l.sz bs)
            | .error e => .error e
          .next (s.setCtxAt core ctx { x with lds := some { l with result := r } })
      | _ => .next s

/-! Peers (R365, R366). -/

/-- An address of a context lies in the remote range of a peer. -/
def State.towardPeer (s : State) (core : Nat) (asid : BitVec 16) (peer : Nat) (va : W64) : Bool :=
  match s.xlate (s.core core).tlb asid va .load with
  | .ok dpa => match regionOf dpa with | .remote p _ => p == peer | _ => false
  | .error _ => false

/-- The loads that a context has outstanding toward a peer end with PEER_DOWN (R366). -/
def State.dropLoads (s : State) (core peer : Nat) (x : Ctx) : Ctx :=
  let toward := s.towardPeer core x.launch.asid peer
  let lds := x.lds.map (fun l => if toward l.va then { l with result := .error 2 } else l)
  { x with lds := lds, a := x.a.mapLanding (fun e => match e.slot with
    | none => e
    | some n => match tfind x.a.v.replay n with
      | none => e
      | some r => { e with groups := e.groups.map (fun g =>
          if g.late && (r.addrs (groupBit g.grp)).any toward then { g with arr := .bad 4, late := false } else g) }) }

/-- Lines of reduce groups that wait on a dead member complete without a result (R378). -/
def State.settleAll (s : State) : State :=
  s.redLines.foldl (fun s l => s.settleLine l.grp (s.group l.grp) l.off (l.next.length + 1)) s

/-- PEER_ISOLATION: the port toward a peer is isolated, and what is outstanding toward it is answered PEER_DOWN; a peer
that has reset holds what its reset leaves. Which link reports it is open (R366, R417, R424; log 8). -/
def execPeerIsolation (peer : Nat) (byReset : Bool) (s : State) : Host.Outcome State Fault Refusal :=
  let t := panelTdev peer
  let s1 := { s with free := s.free + 1 }.log (0x300 + Config.freeChoice s.free % 32) 0x000C
    [BitVec.ofNat 8 peer, if byReset then 2 else 1]
  let s2 := if t = ownTdev then s1 else s1.setPeer t (if byReset then .reset else { s1.peer t with up := false })
  let s3 := { s2 with isolated := tput false s2.isolated t true }
  let s4 := { s3 with cores := s3.cores.map (fun (p : Nat × Core) =>
    (p.1, { p.2 with ctxs := p.2.ctxs.map (fun (q : Nat × Ctx) => (q.1, s3.dropLoads p.1 peer q.2)) })) }
  .next s4.settleAll

/-! Drift counters (R367). -/

/-- DRIFT_COUNTER_ACCESS (R367). -/
def execDriftCounterAccess (acc : CounterAcc) (ctr : Nat) (val : W64) (s : State) : Host.Outcome State Fault Refusal :=
  if 4096 ≤ ctr then .next s
  else match acc with
    | .load => .next s
    | .store => .next (s.setCtr ctr (val.truncate 32))
    | .add => .next (s.setCtr ctr (tget 0 s.ctrs ctr + val.truncate 32))

/-- A counter of a device takes an increment (R367, R370). -/
def State.bumpCtr (s : State) (tdev c : Nat) (n : W32) : State :=
  s.setDevCtr tdev c (tget 0 (s.devCtrs tdev) c + n)

/-! Floe links (R363, R364). -/

/-- LINK_FAILURE: the link stops; its flits go over the others in their order (R363). -/
def execLinkFailure (link : Nat) (s : State) : Host.Outcome State Fault Refusal :=
  match s.link link with
  | .up => .next (s.setLink link (.held 0))
  | _ => .next s

/-- LINK_RETRAIN: equal beats bring the link up; the third retraining that ends held declares it down, and with no link up
the other devices are dead to this one, as it is to them (R364, R378). -/
def execLinkRetrain (link : Nat) (near far : Beat) (s : State) : Host.Outcome State Fault Refusal :=
  let l8 := BitVec.ofNat 8 link
  match s.link link with
  | .down => .next s
  | st =>
    if near = far then .next (s.setLink link .up)
    else
      let n := match st with | .held k => k + 1 | _ => 1
      let s1 := s.log (0x300 + link) 0x000A [l8, BitVec.ofNat 8 n]
      .next (if 3 ≤ n then ((s1.setLink link .down).log (0x300 + link) 0x000B [l8]).settleAll else s1.setLink link (.held n))

end Sys2Proof.Machine
end

