-- ==== Sys2Proof/Machine/Window.lean ====
section
/-! DEFINITION. Windows of handles as the engines move them: bytes in element order, runs and lines, reads and writes
with the line rule (R116, R117, R236, R241, R264, R267), and how an ENG command is issued and completes (R263). -/

namespace Sys2Proof.Machine

open Sys2Proof

/-! Bytes of a window. -/

/-- Bytes of the unit that an engine moves: an element, or a pair of 4-bit elements. -/
def hUnit (h : W256) : Nat := match fmtBits (hFmt h) with | some 4 => 1 | some eb => eb / 8 | none => 0

/-- The byte offsets from BASE of the first n elements, in element order (R116). -/
def hOffsets (h : W256) (n : Nat) : List Nat :=
  match fmtBits (hFmt h) with
  | none => []
  | some 4 => (List.range (n / 2)).map (fun k => elemAt h 4 (2 * k) / 8)
  | some eb => (List.range n).flatMap (fun k => (List.range (eb / 8)).map (fun j => elemAt h eb k / 8 + j))

/-- Runs of consecutive offsets, cut where the address reaches a multiple. -/
def runsOf (base cut : Nat) : List Nat → List (Nat × Nat)
  | [] => []
  | o :: r =>
    match runsOf base cut r with
    | (p, n) :: t => if p = o + 1 && (base + p) % cut != 0 then (o, n + 1) :: t else (o, 1) :: (p, n) :: t
    | [] => [(o, 1)]

/-- A window's address space: the local store of the command's launch, or virtual (R115, R267). -/
structure Win where
  loc : Bool
  base : W64
  deriving DecidableEq, Repr

def winOf (h : W256) : Win := { loc := hRes h == 0, base := hBase h }

/-- The window's bytes lie wholly below LSNEED (R33, R264, R267). -/
def winInShare (e : LaunchEnv) (h : W256) : Bool :=
  (hOffsets h (hCount h)).all (fun o => e.inShare ((hBase h).toNat + o) 1)

/-- A 4-bit window that is moved by whole bytes (R264, R265, R267). -/
def nibbleOk (h : W256) (odd : Nat) : Bool := fmtBits (hFmt h) != some 4 || (hStr h 0 == 1 && odd % 2 == 0)

/-! Reading and writing for a command. -/

/-- The status that an error response gives an engine (R239, R365). -/
def respStatus (e : Resp) : Nat := if e = 1 then 2 else if e = 2 then 3 else 1

/-- Read a run of bytes: its data, or the status. -/
def State.winRead (s : State) (o : Origin) (w : Win) (off n : Nat) : Except Nat (List Byte) :=
  let a := w.base + BitVec.ofNat 64 off
  let e := s.envOf o
  let k := s.core o.core
  if w.loc then
    if !e.inShare a.toNat n then .error 1
    else if (k.lsBad e a.toNat n).isSome then .error 2
    else .ok (k.lsRead e a.toNat n)
  else match s.xlate k.tlb e.asid a .load with
    | .error _ => .error 1
    | .ok dpa =>
      if regionOf dpa == .counters then .error 1
      else match s.readAs o.agent dpa n with
        | .ok bs => .ok bs
        | .error r => .error (respStatus r)

/-- The bytes of the first n elements of a window in element order, each with the status of the fault that its read meets, if
it does (R236, R241). -/
def State.winCells (s : State) (o : Origin) (h : W256) (n : Nat) : List (Except Nat Byte) :=
  let w := winOf h
  (runsOf w.base.toNat (if w.loc then 32 else 64) (hOffsets h n)).flatMap (fun r =>
    match s.winRead o w r.1 r.2 with
    | .ok bs => bs.map .ok
    | .error st => List.replicate r.2 (.error st))

/-- The cells before the first fault, and its status. -/
def cellBytes : List (Except Nat Byte) → List Byte × Option Nat
  | [] => ([], none)
  | .error st :: _ => ([], some st)
  | .ok b :: r => let (bs, st) := cellBytes r; (b :: bs, st)

/-- The bytes of the first n elements of a window, and the status of the first fault (R236, R241). -/
def State.winBytes (s : State) (o : Origin) (h : W256) (n : Nat) : List Byte × Option Nat := cellBytes (s.winCells o h n)

/-- The cells of a window by the 64-byte line of its addresses and by offset: of cells at one offset the last stands (R241,
R267). -/
def linesOf (base : Nat) (cells : List (Nat × Except Nat Byte)) : Tbl (Tbl (Except Nat Byte)) :=
  cells.foldl (fun t c =>
    let l := (base + c.1) / 64
    tset t l (tset ((tfind t l).getD []) c.1 c.2)) []

/-- The bytes of a line at consecutive offsets. -/
def spansOf : List (Nat × Byte) → List (Nat × List Byte)
  | [] => []
  | (o, b) :: r =>
    match spansOf r with
    | (p, bs) :: t => if p = o + 1 then (o, b :: bs) :: t else (o, [b]) :: (p, bs) :: t
    | [] => [(o, [b])]

/-- The bytes of a line, or the status of a source byte that could not be read. -/
def lineBytes : Tbl (Except Nat Byte) → Except Nat (List (Nat × Byte))
  | [] => .ok []
  | (_, .error st) :: _ => .error st
  | (o, .ok b) :: r => match lineBytes r with
    | .ok t => .ok ((o, b) :: t)
    | .error st => .error st

/-- What the writing of lines leaves: the state, the status (0 for OK), the lines written, their bytes in order, and the
lines of reduce groups contributed. -/
structure LinesOut where
  st : State
  status : Nat
  count : Nat
  sizes : List Nat
  acks : List (Nat × Nat × W64 × List Byte)
  deriving DecidableEq, Repr

/-- Bytes of a line at virtual addresses by their DPAs; none where one fails translation or lies in the Drift counter window. -/
def State.spanPieces (s : State) (o : Origin) (base : W64) : List (Nat × List Byte) → Option (List (Nat × List Byte))
  | [] => some []
  | (off, bs) :: r =>
    match s.xlate (s.core o.core).tlb (s.envOf o).asid (base + BitVec.ofNat 64 off) .store with
    | .error _ => none
    | .ok dpa => if regionOf dpa == .counters then none else (s.spanPieces o base r).map (fun l => (dpa, bs) :: l)
/-- Write bytes of a line at virtual addresses together: all of them, or none and a status (R57, R241, R267). -/
def State.writeSpans (s : State) (o : Origin) (base : W64) (l : List (Nat × List Byte)) : Except Nat State :=
  match s.spanPieces o base l with
  | none => .error 1
  | some ps => match s.writeTogether [o.agent] ps with
    | .error e => .error (respStatus e)
    | .ok t => .ok t

/-- The aperture address of a line, if it lies there (R375). -/
def State.apertureAt (s : State) (o : Origin) (a : W64) : Option Nat :=
  match s.xlate (s.core o.core).tlb (s.envOf o).asid a .store with
  | .ok dpa => match regionOf dpa with | .aperture .. => some dpa | _ => none
  | .error _ => none

/-- Write one line: a status, or the state and the reduce line that it contributed to. -/
def State.writeOne (s : State) (o : Origin) (w : Win) (spans : List (Nat × List Byte)) :
    Except Nat (State × Option (Nat × Nat)) :=
  let k := s.core o.core
  let e := s.envOf o
  let at' (p : Nat × List Byte) : W64 := w.base + BitVec.ofNat 64 p.1
  if w.loc then
    if spans.all (fun p => e.inShare (at' p).toNat p.2.length) then
      .ok (s.setCore o.core (spans.foldl (fun k p => k.lsWrite e (at' p).toNat p.2) k), none)
    else .error 1
  else match spans with
    | [] => .ok (s, none)
    | p :: r =>
      match s.apertureAt o (at' p) with
      | none => match s.writeSpans o w.base spans with
        | .ok t => .ok (t, none)
        | .error st => .error st
      | some dpa =>
        if !r.isEmpty then .error 1
        else match s.writeLine [o.agent] dpa p.2 with
          | (.refused, _) => .error 1
          | (.sent naks, t) => .ok (t.lineNaks o (at' p) naks, none)
          | (.contributed g f, t) => .ok (t, some (g, f))

/-- Write lines in order; a line below which all has been read and written stops the rest when it fails (R241). -/
def writeLines (o : Origin) (w : Win) : List (Tbl (Except Nat Byte)) → LinesOut → LinesOut
  | [], r => r
  | c :: cs, r =>
    match lineBytes c with
    | .error st => { r with status := st }
    | .ok bs =>
      match r.st.writeOne o w (spansOf bs) with
      | .error st => { r with status := st }
      | .ok (t, ack) =>
        writeLines o w cs
          { r with st := t, count := r.count + 1, sizes := r.sizes ++ [bs.length],
                   acks := r.acks ++ (match ack with
                     | some (g, f) => [(g, f, w.base + BitVec.ofNat 64 ((bs.map Prod.fst).headD 0), bs.map Prod.snd)]
                     | none => []) }

/-- Move cells into a window's first bytes in element order, in lines of 64 bytes aligned in destination addresses, the
lowest first (R241, R267). -/
def State.intoWin (s : State) (o : Origin) (h : W256) (cells : List (Except Nat Byte)) : LinesOut :=
  let w := winOf h
  writeLines o w ((linesOf w.base.toNat ((hOffsets h (hCount h)).zip cells)).map Prod.snd)
    { st := s, status := 0, count := 0, sizes := [], acks := [] }

/-- Bytes of memory between the first and the last of a launch's window (R55). -/
def State.inWin (s : State) (o : Origin) (h : W256) (dev b : Nat) : Bool :=
  hRes h != 0 && s.byteInRange (s.envOf o).asid (hBase h).toNat ((hOffsets h (hCount h)).foldl max 0 + 1) dev b

/-! Issue and completion of a command (R263). -/

/-- Memory that a command of the context in focus reads or writes: its windows, its record, its list or its block (R63
note 2). -/
def State.cmdBytes (s : State) (i : Instr) (dev b : Nat) : Bool :=
  let asid := s.cx.launch.asid
  let win (o : EngArgs) (lo : Nat) : Bool := s.inWin s.origin (s.pHnd o lo) dev b
  let first (o : EngArgs) (n : Nat) : Bool := s.byteInRange asid (hBase (s.pHnd o 19)).toNat n dev b
  match i with
  | .copy o | .copys o => win o 19 || win o 14
  | .ask o | .announce o | .dput o | .flushh o | .smload o => win o 19
  | .launch o | .launchi o => first o 128
  | .darm o => first o (64 * hDim (s.pHnd o 19) 0)
  | .msub o => first o 2048
  | _ => false

/-- A command of the context in focus begins: what it sees of memory, and what others then see (R55, R63 note 2). -/
def State.beginCmd (s : State) (i : Instr) (o : EngArgs) : State :=
  s.beginOver s.origin o s.origin.agent (fun _ _ => true) (s.cmdBytes i)

/-- Issue an ENG command: it takes its number, its wait is consumed, its result slots are reserved, and it is sent, or held in a guarded
segment (R129, R238, R300). -/
def State.engCmd (s : State) (i : Instr) (o : EngArgs) (send : Nat → State → State) : State :=
  let s1 := (s.recordUse i).newCmd.consumeWait o
  let (id, s2) := match s1.queueOf i with
    | some (q, n) => s1.reserve q n
    | none => (0, s1)
  if s2.cx.launch.guard && heldEng i then s2.holdSend i (some id) else send id (s2.beginCmd i o)

/-- A command completes: its slot is filled, and its signal applied if the command applies it (R50, R55, R263). -/
def State.complete (s : State) (org : Origin) (code qid op status detail : Nat) (sig : Option Signal) : State :=
  let s1 := s.fillStatus org code qid op status detail
  match sig with
  | some g => (s1.completes org.agent g (.slot org.core org.lid code qid) (.doneSlot org.core org.lid code qid)).applySignal org g
  | none => s1.markDone org.agent (.doneSlot org.core org.lid code qid)

/-- A barrier's home address: 64-byte aligned in Firn (R267, R271, R272). -/
def State.barrierAt (s : State) (va : W64) : Option Nat :=
  if va.toNat % 64 != 0 then none
  else match s.xl va .atomic with
    | .ok dpa => if regionOf dpa == .firn then some dpa else none
    | .error _ => none

end Sys2Proof.Machine
end

