-- ==== Sys2Proof/Machine/Copy.lean ====
section
/-! DEFINITION. The copy engine: COPY, COPYS and ROTQ (R240 to R244, R267 to R269), the decrements that copies send to
barriers (R251), and the barrier object (R250). -/

namespace Sys2Proof.Machine

open Sys2Proof

/-! The barrier object (R250, R251): its 32 meaningful bytes as one number. -/

abbrev Barrier := W256

def Barrier.field (b : Barrier) (lo n : Nat) : Nat := b.toNat / 2 ^ lo % 2 ^ n
def Barrier.arrived (b : Barrier) : Nat := b.field 0 21
def Barrier.expect (b : Barrier) : Nat := b.field 21 21
def Barrier.phase (b : Barrier) : Bool := b.field 63 1 == 1
def Barrier.perr (b : Barrier) : Bool := b.field 61 1 == 1
def Barrier.gen (b : Barrier) : Nat := b.field 192 64
/-- A 40-bit two's complement field. -/
def Barrier.signed (b : Barrier) (lo : Nat) : Int := ((b.extractLsb' lo 40)).toInt
def Barrier.pending (b : Barrier) : Int := b.signed 64
def Barrier.nextPend (b : Barrier) : Int := b.signed 128
def Barrier.nextArr (b : Barrier) : Nat := b.field 168 21

/-- Add to a 40-bit sum: one that leaves the range is held at the limit it passed, and sets PERR (R251). -/
def Barrier.addBytes (b : Barrier) (lo : Nat) (n : Int) : Barrier :=
  let v := b.signed lo + n
  let held := max (-(2 ^ 39)) (min v (2 ^ 39 - 1))
  let b1 := putBits b lo 40 (held % 2 ^ 40).toNat
  if held = v then b1 else putBits b1 61 1 1

/-- Complete(): phases end while every arrival and byte is in (R251). -/
def Barrier.complete : Nat → Barrier → Barrier
  | 0, b => b
  | fuel + 1, b =>
    if b.perr || b.expect = 0 || b.arrived != b.expect || b.pending != 0 then b
    else
      let a := min b.nextArr b.expect
      let b1 := putBits (putBits b 63 1 (if b.phase then 0 else 1)) 192 64 (b.gen + 1)
      let b2 := putBits (putBits b1 0 21 a) 168 21 (b.nextArr - a)
      Barrier.complete fuel (putBits (putBits b2 64 40 (b.field 128 40)) 128 40 0)

/-- Complete() to its end: each further phase takes EXPECT arrivals from NEXTARR. -/
def Barrier.settle (b : Barrier) : Barrier := b.complete (b.nextArr + 2)

/-- The object after each of the phases that Complete() ends, then as it leaves it (R251, R252). -/
def Barrier.phases : Nat → Barrier → List Barrier
  | 0, b => [b]
  | fuel + 1, b => if b.complete 1 = b then [b] else b.complete 1 :: (b.complete 1).phases fuel

/-- Delivered(n, parity): a line of a copy, before Complete() (R251). -/
def Barrier.took (b : Barrier) (n : Nat) (parity : Bool) : Barrier :=
  if parity == b.phase then b.addBytes 64 (-(n : Int)) else b.addBytes 128 (-(n : Int))
/-- Delivered(n, parity) (R251). -/
def Barrier.delivered (b : Barrier) (n : Nat) (parity : Bool) : Barrier := (b.took n parity).settle

/-- A barrier at its home, unless an uncorrectable error stands in it (R246). -/
def State.barrier (s : State) (dpa : Nat) : Option Barrier :=
  if s.ueIn dpa 32 then none else some (BitVec.ofNat 256 (readNat s.mem dpa 32))

/-- A BWAIT or BTWAIT is satisfied: it completes, and the arrivals of the phase that it has acquired reach its context with
its signal or its status (R252, R272). -/
def State.endWait (s : State) (id : Nat) (org : Origin) (dpa op gen qid : Nat) (sig : Signal) : State :=
  ((s.dropFlight id).passOn org.ctxAgent (some sig.scope) (fun x => x == .barrier dpa)
    [.sem org.core org.lid sig.sem, .slot org.core org.lid qMem qid]).complete org qMem qid op 0 (gen % 2 ^ 32) (some sig)

/-- Waiters that have arrived at a barrier's home are tested against a phase of it (R133, R252, R272). -/
def State.testPhase (s : State) (dpa : Nat) (b : Barrier) : State :=
  s.flights.foldl (fun s p => match p.2 with
    | .bwait org a op ph limit once (some _) qid sig =>
      if a != dpa || (match limit with | some t => t < s.wallus.toNat | none => false) then s
      else if b.phase == ph then s.endWait p.1 org dpa op b.gen qid sig
      else s.setFlight p.1 (.bwait org a op ph limit once (some (b.gen % 2 ^ 32)) qid sig)
    | .acqObj o a true target => if a = dpa && b.phase == target.getLsbD 0 then s.endAcq p.1 o 0 else s
    | _ => s) s

/-- Waiters are tested after each completion that an operation brings, and after the operation (R252, R272). -/
def State.testWaits (s : State) (dpa : Nat) (b : Barrier) : State :=
  (b.phases (b.nextArr + 2)).foldl (fun s c => s.testPhase dpa c) s

/-- A barrier operation at its home leaves the object, before Complete(): the phases that are over complete, the object is
written, and the waiters are tested. -/
def State.putBarrier (s : State) (dpa : Nat) (b : Barrier) : State :=
  (s.writeMem dpa (bytesOfNat 32 b.settle.toNat)).testWaits dpa b

/-! COPY and COPYS (R267). -/

/-- The failure of a copy at issue, as a status of R239. -/
def State.copyFail (s : State) (hs hd : W256) (barrier st : W64) (copys : Bool) : Option Nat :=
  let e := s.cx.launch
  if (fmtBits (hFmt hs)).isNone || fmtBits (hFmt hs) != fmtBits (hFmt hd) || !nibbleOk hs (hDim hs 0) || !nibbleOk hd (hDim hd 0) then
    some 5
  else if hCount hd < hCount hs then some 0x0B
  else if (barrier != 0 && (s.barrierAt barrier).isNone) || (hRes hs = 0 && !winInShare e hs) || (hRes hd = 0 && !winInShare e hd) then
    some 1
  else if copys && (e.w ≤ (st.extractLsb' 16 5).toNat || e.h ≤ (st.extractLsb' 24 4).toNat) then some 4
  else none

/-- The command of an entry of a core's copy table. -/
def CopyEnt.origin (e : CopyEnt) (core : Nat) : Origin := { core := core, lid := e.lid, shadow := e.shadow, cmd := e.num }

/-- An entry of the copy table, whose completion is due. -/
def State.addCopy (s : State) (c : CopyEnt) : State :=
  let k := s.fcore
  let id := match k.copies.getLast? with | some p => p.1 + 1 | none => 0
  (s.setFcore { k with copies := tset k.copies id c }).enqueue (.copyCompletion s.focusCore id)

/-- COPY (op 1) and COPYS (op 2) are sent; a failure at issue moves nothing and applies no signal (R267). -/
def State.sendCopy (s : State) (op : Nat) (o : EngArgs) (qid : Nat) : State :=
  let hs := s.pHnd o 19
  let hd := s.pHnd o 14
  let barrier := s.pScal o (if op = 1 then 8 else 2)
  let st := if op = 1 then 0 else s.pScal o 8
  let s1 := s.drainCmd s.origin
  match s1.copyFail hs hd barrier st (op == 2) with
  | some f => s1.complete s1.origin qCopy qid op f 0 none
  | none => s1.addCopy {
      num := s1.cmdNow, op := op, eng := o, lid := s1.cx.launch.lid, shadow := s1.focusCtx == 4, hs := hs, hd := hd,
      barrier := barrier, st := st, qid := qid, moved := none, acks := [], delivers := [], ended := false }

/-- COPY (R267). -/
def execCopy (o : EngArgs) (s : State) : Host.Outcome State Fault Refusal :=
  slot (.copy o) s (fun s => s.engCmd (.copy o) o (fun q s => s.sendCopy 1 o q))

/-- COPYS (R267, R268). -/
def execCopys (o : EngArgs) (s : State) : Host.Outcome State Fault Refusal :=
  slot (.copys o) s (fun s => s.engCmd (.copys o) o (fun q s => s.sendCopy 2 o q))

/-- The bytes of a copy move (R241). Lines to a reduce group are contributed once the entry awaits them. -/
def State.moveCopy (s : State) (c n : Nat) (e : CopyEnt) : State :=
  let org : Origin := e.origin c
  let count := hCount e.hs
  let r := s.intoWin org e.hd (s.winCells org e.hs count)
  let sizes := if e.barrier = 0 then [] else r.sizes
  let s1 := r.st.modCopy c n (fun e => { e with
    moved := some (r.status, r.count), delivers := sizes, acks := r.acks.map (fun a => (a.1, a.2.1, a.2.2.1)) })
  let s2 := sizes.foldl (fun s _ => s.enqueue (.barrierDelivered c n)) s1
  r.acks.foldl (fun s a => s.ownLine a.1 a.2.1 a.2.2.2 (.copy c n)) s2

/-- A table entry that has nothing left is free (R240). -/
def State.freeCopy (s : State) (c n : Nat) : State :=
  let k := s.core c
  match tfind k.copies n with
  | some e => if e.ended && e.delivers.isEmpty then s.setCore c { k with copies := tdel k.copies n } else s
  | none => s

/-- The remote signal of a COPYS: the context of its launch on a core of the rectangle; with the REL flag a release of the
bytes written (R242, R268). -/
def State.remoteSignal (s : State) (o : Origin) (e : CopyEnt) : State :=
  let env := s.envOf o
  let c := 16 * (env.ox + (e.st.extractLsb' 16 5).toNat) + env.oy + (e.st.extractLsb' 24 4).toNat
  let sem := (e.st.extractLsb' 0 8).toNat
  let s1 := s.completes o.agent (EngArgs.signal e.eng) (.sem c o.lid sem) (.doneSem c o.lid sem)
  s1.signal c o.lid sem (e.st.extractLsb' 8 4).toNat

/-- A copy whose lines are written at a peer that is then isolated, with n of them acknowledged: it ends PEER_DOWN (R241, R366). -/
def State.loseCopy (s : State) (c n acked : Nat) : State :=
  match tfind (s.core c).copies n with
  | none => s
  | some e =>
    if e.op = 3 || e.moved.isSome then s
    else (s.moveCopy c n e).modCopy c n (fun e => { e with
      moved := e.moved.map (fun m => if m.1 = 0 then (3, min acked m.2) else m), delivers := e.delivers.take acked })

/-- A copy whose bytes have moved, and whose lines are acknowledged, completes (R241, R242). -/
def State.endCopy (s : State) (c n : Nat) (e : CopyEnt) : State :=
  match e.moved with
  | none => s
  | some (st, detail) =>
    if !e.acks.isEmpty || e.ended then s
    else
      let org : Origin := e.origin c
      let s1 := if st = 0 && e.op = 2 then s.remoteSignal org e else s
      let s2 := s1.complete org qCopy e.qid e.op st detail (if st = 0 then some (EngArgs.signal e.eng) else none)
      (s2.modCopy c n (fun e => { e with ended := true })).freeCopy c n

/-- COPY_COMPLETION (R241). -/
def execCopyCompletion (core ent : Nat) (s : State) : Host.Outcome State Fault Refusal :=
  match tfind (s.core core).copies ent with
  | none => .next s
  | some e =>
    if e.op = 3 then .next s
    else
      let s1 := if e.moved.isNone then s.moveCopy core ent e else s
      match tfind (s1.core core).copies ent with
      | some e1 => .next (s1.endCopy core ent e1)
      | none => .next s1

/-- BARRIER_DELIVERED: the oldest written line of a copy decrements its barrier (R251). -/
def execBarrierDelivered (core ent : Nat) (s : State) : Host.Outcome State Fault Refusal :=
  match tfind (s.core core).copies ent with
  | none => .next s
  | some e =>
    match e.delivers with
    | [] => .next s
    | n :: r =>
      let s1 := (s.modCopy core ent (fun e => { e with delivers := r })).freeCopy core ent
      let asid := (s.envOf (e.origin core)).asid
      let parity := e.eng.pf (if e.op = 1 then 7 else 1) 1 == 1
      match s.xlate (s.core core).tlb asid e.barrier .atomic with
      | .error _ => .next s1
      | .ok dpa => match s1.barrier dpa with
        | some b =>
          let org : Origin := e.origin core
          .next ((s1.release org.agent (.barrier dpa) e.eng.scope.toNat (s1.inWin org e.hd)).putBarrier dpa (b.took n parity))
        | none => .next s1

/-! ROTQ (R243, R244, R269). -/

/-- The quad of a core in its rectangle: the core of its first position; none where it passes the edge (R38, R243). -/
def LaunchEnv.quadOf (e : LaunchEnv) (core : Nat) : Option Nat :=
  let x := (coreX core - e.ox) / 2 * 2
  let y := (coreY core - e.oy) / 2 * 2
  if x + 1 < e.w && y + 1 < e.h then some (16 * (e.ox + x) + e.oy + y) else none

/-- The core before one in the ring of a quad (R243): (0,0), (1,0), (1,1), (0,1). -/
def quadPred (quad core : Nat) : Nat :=
  if core = quad + 16 then quad else if core = quad + 17 then quad + 16 else if core = quad + 1 then quad + 17 else quad + 1

/-- The cores of a quad. -/
def quadCores (quad : Nat) : List Nat := [quad, quad + 16, quad + 17, quad + 1]

/-- ROTQ joins a rendezvous of its launch and quad, or starts one (R243, R244). -/
def State.sendRotq (s : State) (o : EngArgs) (qid : Nat) : State :=
  let s1 := s.drainCmd s.origin
  let c := s1.focusCore
  let lid := s1.cx.launch.lid
  match s1.cx.launch.quadOf c with
  | none => s1.complete s1.origin qCopy qid 3 4 0 none
  | some quad =>
    let k := s1.fcore
    let id := match k.copies.getLast? with | some p => p.1 + 1 | none => 0
    let ent : CopyEnt := {
      num := s1.cmdNow, op := 3, eng := o, lid := lid, shadow := s1.focusCtx == 4, hs := s1.pHnd o 19, hd := s1.pHnd o 14,
      barrier := 0, st := 0, qid := qid, moved := none, acks := [], delivers := [], ended := false }
    let s2 := s1.setFcore { k with copies := tset k.copies id ent }
    let (rid, r) := match s2.rots.find? (fun p => p.2.lid == lid && p.2.quad == quad && !tmem p.2.joined c &&
        s2.wallus.toNat < p.2.since + Config.rotLimit) with
      | some p => p
      | none => (match s2.rots.getLast? with | some p => p.1 + 1 | none => 0,
                 { lid := lid, quad := quad, since := s2.wallus.toNat, joined := [] })
    let r1 := { r with joined := tset r.joined c id }
    let s3 := { s2 with rots := tset s2.rots rid r1 }
    if r1.joined.length = 4 then s3.enqueue (.rotqExchange lid quad) else s3

/-- ROTQ (R269). -/
def execRotq (o : EngArgs) (s : State) : Host.Outcome State Fault Refusal :=
  slot (.rotq o) s (fun s => s.engCmd (.rotq o) o (fun q s => s.sendRotq o q))

/-- The entry of a core in a rendezvous. -/
def State.rotEnt (s : State) (r : Rot) (c : Nat) : Option (Nat × CopyEnt) :=
  match tfind r.joined c with
  | some n => (tfind (s.core c).copies n).map (fun e => (n, e))
  | none => none

/-- A ROTQ ends; its signal applies only at OK (R269). -/
def State.endRotq (s : State) (c n : Nat) (e : CopyEnt) (st detail : Nat) : State :=
  let org : Origin := e.origin c
  let s1 := s.complete org qCopy e.qid 3 st detail (if st = 0 then some (EngArgs.signal e.eng) else none)
  s1.setCore c { s1.core c with copies := tdel (s1.core c).copies n }

/-- Every ROTQ of a rendezvous ends with one status, and nothing is moved. -/
def State.endRot (s : State) (r : Rot) (st : Nat) : State :=
  r.joined.foldl (fun s p => match s.rotEnt r p.1 with
    | some (n, e) => s.endRotq p.1 n e st 0
    | none => s) s

/-- What ends the whole rendezvous: a handle, a window outside the share, a size (R243, R269). -/
def State.rotFail (s : State) (r : Rot) : Option Nat :=
  let ents := (quadCores r.quad).filterMap (fun c => (s.rotEnt r c).map (fun p => (c, p.2)))
  let both (f : LaunchEnv → W256 → Bool) : Bool := ents.any (fun p =>
    let e := s.envOf (p.2.origin p.1)
    f e p.2.hs || f e p.2.hd)
  let odd (h : W256) : Bool := hNibbles h % 2 == 1
  if both (fun _ h => hRes h != 0 || !hContig h || odd h) then some 5
  else if both (fun e h => !winInShare e h) then some 1
  else if both (fun _ h => 65536 < hBytes h) then some 0x0D
  else if ents.any (fun p => match s.rotEnt r (quadPred r.quad p.1) with
    | some (_, q) => hBytes q.hs != hBytes p.2.hd
    | none => true) then some 0x0D
  else none

/-- The rotation: every source as it stands is read before any destination is written; a ROTQ whose predecessor's
source meets an uncorrectable error ends UE by the line rule (R243, R236). -/
def State.rotate (s : State) (r : Rot) : State :=
  (quadCores r.quad).foldl (fun t c =>
    match s.rotEnt r c, s.rotEnt r (quadPred r.quad c) with
    | some (n, e), some (_, p) =>
      let from' : Origin := p.origin (quadPred r.quad c)
      let org : Origin := e.origin c
      let out := t.intoWin org e.hd (s.winCells from' p.hs (hCount p.hs))
      out.st.endRotq c n e out.status (if out.status = 0 then hBytes e.hd else 0)
    | _, _ => t) s

/-- The oldest rendezvous of a launch and quad, and whether its four have come. -/
def State.rotOf (s : State) (lnch quad : Nat) (full : Bool) : Option (Nat × Rot) :=
  s.rots.find? (fun p => p.2.lid == lnch && p.2.quad == quad && ((p.2.joined.length == 4) == full))

/-- ROTQ_EXCHANGE (R243). -/
def execRotqExchange (lnch quad : Nat) (s : State) : Host.Outcome State Fault Refusal :=
  match s.rotOf lnch quad true with
  | none => .next s
  | some (id, r) =>
    let s1 := { s with rots := tdel s.rots id }
    match s1.rotFail r with
    | some st => .next (s1.endRot r st)
    | none => .next (s1.rotate r)

/-- ROT_TIMEOUT: 1,000 µs have passed without the fourth (R243). -/
def execRotTimeout (lnch quad : Nat) (s : State) : Host.Outcome State Fault Refusal :=
  match s.rotOf lnch quad false with
  | none => .next s
  | some (id, r) =>
    if r.since + Config.rotLimit ≤ s.wallus.toNat then .next ({ s with rots := tdel s.rots id }.endRot r 0x0C) else .next s

end Sys2Proof.Machine
end

