-- ==== Sys2Proof/Machine/Barrier.lean ====
section
/-! DEFINITION. The ENG commands to homes: ATOM and RED (R270), the barrier commands (R271, R272) and FLUSHH (R274). -/

namespace Sys2Proof.Machine

open Sys2Proof

/-! ATOM and RED. -/

/-- The width of an ATOM or RED word. -/
def aopWidth (o : EngArgs) : Nat := if o.pf 1 1 = 1 then 8 else 4

/-- ATOM is sent at issue, in a guarded launch too, after the context's earlier loads of its word (R61, R270, R301). -/
def State.sendAtom (s : State) (o : EngArgs) (qid : Nat) : State :=
  let va := s.pScal o 18
  match s.xl va .atomic with
  | .error _ => s
  | .ok dpa =>
    let s1 := (s.performLoadsAt [(dpa, aopWidth o)]).tlbFill s.focusCore s.cx.launch.asid va
    if s1.alreadySent then s1.markSent
    else
      let (id, s2) := s1.markSent.addFlight
        (.atom s1.origin va dpa (aopWidth o) (o.pf 2 4) (s1.pScal o 12) (s1.pScal o 6) qid (EngArgs.signal o))
      s2.enqueue (.atomApply id)

/-- ATOM (R270). -/
def execAtom (o : EngArgs) (s : State) : Host.Outcome State Fault Refusal :=
  slot (.atom o) s (fun s => s.engCmd (.atom o) o (fun q s => s.sendAtom o q))

/-- RED leaves its core, after the context's earlier loads of its word (R61, R270). -/
def State.sendRedCmd (s : State) (o : EngArgs) : State :=
  let va := s.pScal o 18
  match s.xl va .atomic with
  | .error _ => s
  | .ok dpa =>
    ((s.performLoadsAt [(dpa, aopWidth o)]).tlbFill s.focusCore s.cx.launch.asid va).sendRed dpa (aopWidth o) (o.pf 2 4) (s.pScal o 12)
      [{ org := s.origin, va := va, sig := some (EngArgs.signal o), vred := none }]

/-- RED (R270). -/
def execRed (o : EngArgs) (s : State) : Host.Outcome State Fault Refusal :=
  slot (.red o) s (fun s => s.engCmd (.red o) o (fun _ s => s.sendRedCmd o))

/-! Barrier commands. -/

/-- The ENG opcodes of the barrier commands (R79). -/
def opBinit : Nat := 0x09
def opBarr : Nat := 0x0A
def opBarrx : Nat := 0x0B
def opBwait : Nat := 0x0C
def opBtwait : Nat := 0x0D

/-- The subgroup of a descriptor around a core: mesh x and y of its origin; none where it passes the edge (R38). -/
def LaunchEnv.subgroup (e : LaunchEnv) (core lw lh : Nat) : Option (Nat × Nat) :=
  let x := (coreX core - e.ox) / 2 ^ lw * 2 ^ lw
  let y := (coreY core - e.oy) / 2 ^ lh * 2 ^ lh
  if x + 2 ^ lw ≤ e.w && y + 2 ^ lh ≤ e.h then some (e.ox + x, e.oy + y) else none

/-- BINIT is sent: its count and subgroup fields are fixed at issue; a subgroup past the edge leaves no effect beyond the wait
field and the status (R38, R271). -/
def State.sendBinit (s : State) (o : EngArgs) (qid : Nat) : State :=
  let org := s.origin
  let sig := EngArgs.signal o
  let fail (st : Nat) : State := s.complete org qMem qid opBinit st 0 (some sig)
  let lw := o.pf 0 3
  let lh := o.pf 3 3
  match s.barrierAt (s.pScal o 18) with
  | none => fail 1
  | some dpa =>
    let go (n : Nat) (sg : Option (Nat × Nat × Nat × Nat)) : State :=
      let (id, s1) := s.addFlight (.binit org dpa n sg qid sig)
      s1.enqueue (.barrierInit id)
    if o.pf 11 1 = 0 then go (min (max (s.pScal o 12).toNat 1) (2 ^ 20)) none
    else match s.cx.launch.subgroup s.focusCore lw lh with
      | none => s.complete org qMem qid opBinit 4 0 none
      | some (x, y) => go (2 ^ (lw + lh)) (some (x, y, lw, lh))

/-- BINIT (R271). -/
def execBinit (o : EngArgs) (s : State) : Host.Outcome State Fault Refusal :=
  slot (.binit o) s (fun s => s.engCmd (.binit o) o (fun q s => s.sendBinit o q))

/-- BARR and BARRX are sent, after the context's earlier atomics and reductions (R271). -/
def State.sendBarr (s : State) (op : Nat) (o : EngArgs) (qid : Nat) : State :=
  let org := s.origin
  let sig := EngArgs.signal o
  match s.barrierAt (s.pScal o 18) with
  | none => s.complete org qMem qid op 1 0 (some sig)
  | some dpa =>
    let b := if op = opBarrx then (s.pScal o 12).toInt else 0
    let (id, s1) := (s.drainScope o.scope.toNat).addFlight (.barr org dpa op b qid sig)
    s1.enqueue (.barrierArrive id)

/-- BARR (R271). -/
def execBarr (o : EngArgs) (s : State) : Host.Outcome State Fault Refusal :=
  slot (.barr o) s (fun s => s.engCmd (.barr o) o (fun q s => s.sendBarr opBarr o q))

/-- BARRX (R271). -/
def execBarrx (o : EngArgs) (s : State) : Host.Outcome State Fault Refusal :=
  slot (.barrx o) s (fun s => s.engCmd (.barrx o) o (fun q s => s.sendBarr opBarrx o q))

/-- BWAIT and BTWAIT are sent; the limit counts from the issue (R272). -/
def State.sendBwait (s : State) (op : Nat) (o : EngArgs) (qid : Nat) : State :=
  let org := s.origin
  let sig := EngArgs.signal o
  match s.barrierAt (s.pScal o 18) with
  | none => s.complete org qMem qid op 1 0 (some sig)
  | some dpa =>
    let limit := if op = opBtwait then some (s.wallus.toNat + o.pf 5 12) else none
    let once := op == opBtwait && o.pf 5 12 == 0
    let (id, s1) := s.addFlight (.bwait org dpa op (o.pf 17 1 == 1) limit once none qid sig)
    s1.enqueue (.barrierWaitArrival id)

/-- BWAIT (R272). -/
def execBwait (o : EngArgs) (s : State) : Host.Outcome State Fault Refusal :=
  slot (.bwait o) s (fun s => s.engCmd (.bwait o) o (fun q s => s.sendBwait opBwait o q))

/-- BTWAIT (R272). -/
def execBtwait (o : EngArgs) (s : State) : Host.Outcome State Fault Refusal :=
  slot (.btwait o) s (fun s => s.engCmd (.btwait o) o (fun q s => s.sendBwait opBtwait o q))

/-- BINIT at the home: counts and flags start anew, PHASE and GEN stay (R250). -/
def Barrier.init (b : Barrier) (n : Nat) (sg : Option (Nat × Nat × Nat × Nat)) : Barrier :=
  let b1 := putBits (putBits (putBits b 0 21 0) 21 21 n) 61 2 0
  let b2 := putBits (putBits (putBits b1 64 40 0) 128 40 0) 168 21 0
  match sg with
  | none => putBits b2 60 1 0
  | some (x, y, lw, lh) => putBits (putBits (putBits (putBits (putBits b2 60 1 1) 55 5 x) 51 4 y) 48 3 lw) 45 3 lh

/-- A core lies in the subgroup that the barrier is bound to, if it is bound (R251). -/
def Barrier.admits (b : Barrier) (core : Nat) : Bool :=
  b.field 60 1 = 0 ||
  (b.field 55 5 ≤ coreX core && coreX core < b.field 55 5 + 2 ^ b.field 48 3 &&
   b.field 51 4 ≤ coreY core && coreY core < b.field 51 4 + 2 ^ b.field 45 3)

/-- Arrive(b) before Complete(): the object, and whether the arrival overran (R251). -/
def Barrier.came (b : Barrier) (n : Int) : Barrier × Bool :=
  let wide := n < -(2 ^ 39) || 2 ^ 39 ≤ n
  let mark (c : Barrier) : Barrier := if wide then putBits c 61 1 1 else c
  if b.arrived < b.expect then (mark (Barrier.addBytes (putBits b 0 21 (b.arrived + 1)) 64 n), false)
  else
    let b1 := putBits (putBits b 62 1 1) 168 21 (min (b.nextArr + 1) (2 ^ 21 - 1))
    (mark (Barrier.addBytes b1 128 n), true)
/-- Arrive(b): the object after it, and whether the arrival overran (R251). -/
def Barrier.arrive (b : Barrier) (n : Int) : Barrier × Bool := ((b.came n).1.settle, (b.came n).2)

/-- A barrier flight at its home. -/
def State.performBarrier (s : State) (id : Nat) : State :=
  match tfind s.flights id with
  | some (.binit org a n sg qid sig) =>
    let s0 := s.dropFlight id
    match s0.barrier a with
    | none => s0.complete org qMem qid opBinit 2 0 (some sig)
    | some b => (s0.putBarrier a (b.init n sg)).complete org qMem qid opBinit 0 n (some sig)
  | some (.barr org a op n qid sig) =>
    let s0 := s.dropFlight id
    match s0.barrier a with
    | none => s0.complete org qMem qid op 2 0 (some sig)
    | some b =>
      if !b.admits org.core then s0.complete org qMem qid op 4 0 (some sig)
      else
        let (b1, ovr) := b.came n
        let s1 := s0.release org.ctxAgent (.barrier a) sig.scope (s0.boundTo (s0.envOf org) 1 a)
        (s1.putBarrier a b1).complete org qMem qid op 0 ((if ovr then 2 ^ 31 else 0) + b.gen % 2 ^ 31) (some sig)
  | some (.bwait org a op ph limit once none qid sig) =>
    match s.barrier a with
    | none => (s.dropFlight id).complete org qMem qid op 2 0 (some sig)
    | some b =>
      let late := match limit with | some t => decide (t < s.wallus.toNat) | none => false
      if !late && b.phase == ph then s.endWait id org a op b.gen qid sig
      else if late || once then (s.dropFlight id).complete org qMem qid op 0x0E (b.gen % 2 ^ 32) (some sig)
      else s.setFlight id (.bwait org a op ph limit once (some (b.gen % 2 ^ 32)) qid sig)
  | _ => s

/-- The barrier that a flight has still to reach, and who sent it. -/
def Flight.toBarrier : Flight → Option (Origin × Nat)
  | .binit org a .. | .barr org a .. => some (org.own, a)
  | .bwait org a _ _ _ _ none _ _ => some (org.own, a)
  | _ => none

/-- A barrier flight at its home, after the earlier ones of its context to the same barrier (R275, note 4). -/
def State.performBarriers (s : State) (id : Nat) : State :=
  match (tfind s.flights id).bind Flight.toBarrier with
  | none => s
  | some key =>
    (s.flights.filter (fun p => p.1 ≤ id && p.2.toBarrier == some key)).foldl (fun s p => s.performBarrier p.1) s

/-- BARRIER_INIT (R250). -/
def execBarrierInit (req : Nat) (s : State) : Host.Outcome State Fault Refusal :=
  match tfind s.flights req with
  | some (.binit ..) => .next (s.performBarriers req)
  | _ => .next s

/-- BARRIER_ARRIVE (R251). -/
def execBarrierArrive (req : Nat) (s : State) : Host.Outcome State Fault Refusal :=
  match tfind s.flights req with
  | some (.barr ..) => .next (s.performBarriers req)
  | _ => .next s

/-- BARRIER_WAIT_ARRIVAL (R272). -/
def execBarrierWaitArrival (req : Nat) (s : State) : Host.Outcome State Fault Refusal :=
  match tfind s.flights req with
  | some (.bwait ..) => .next (s.performBarriers req)
  | _ => .next s

/-- BTWAIT_TIMEOUT: the limit has passed without the phase; GEN is that of the last test (R272). -/
def execBtwaitTimeout (req : Nat) (s : State) : Host.Outcome State Fault Refusal :=
  match tfind s.flights req with
  | some (.bwait org _ op _ (some t) _ gen qid sig) =>
    if t < s.wallus.toNat then
      match gen with
      | some g => .next ((s.dropFlight req).complete org qMem qid op 0x0E g (some sig))
      | none => .next (s.performBarriers req)
    else .next s
  | _ => .next s

/-! FLUSHH. -/

/-- FLUSHH is sent after the context's earlier writes, which it makes readable by the host (R274). -/
def State.sendFlushh (s : State) (o : EngArgs) : State :=
  let org := s.origin
  let h := s.pHnd o 19
  let (id, s1) := ((s.drainCmd org).share [org.agent] (fun g w => w.writers.contains org.ctxAgent && s.inWin org h (homeTdev g.dev) g.at')).addFlight
    (.flush org h (EngArgs.signal o))
  s1.enqueue (.flushhCompletion id)

/-- FLUSHH (R274). -/
def execFlushh (o : EngArgs) (s : State) : Host.Outcome State Fault Refusal :=
  slot (.flushh o) s (fun s => s.engCmd (.flushh o) o (fun _ s => s.sendFlushh o))

/-- The pages of 64 KiB that a range touches: a virtual address in each. -/
def pagesOf (va : W64) (n : Nat) : List W64 :=
  (List.range ((va.toNat % 65536 + n + 65535) / 65536)).map (fun i =>
    if i = 0 then va else BitVec.ofNat 64 (va.toNat / 65536 * 65536 + 65536 * i))

/-- The host reads the bytes of a window as the writes that a command holds left them (R58, R274). -/
def State.flushWin (s : State) (org : Origin) (h : W256) : State :=
  s.reachLags (fun g => g.agent == .host && s.inWin org h (homeTdev g.dev) g.at') (fun _ w => w.heldBy org.agent)

/-- FLUSHH_COMPLETION: pages that fail translation are skipped and logged; the host can read the window's bytes, and the signal
applies, with REL as a release of the window (R58, R274). -/
def execFlushhCompletion (req : Nat) (s : State) : Host.Outcome State Fault Refusal :=
  match tfind s.flights req with
  | some (.flush org h sig) =>
    let asid := (s.envOf org).asid
    let s1 := (pagesOf (hBase h) (hBytes h)).foldl (fun s va =>
      match s.xlate (s.core org.core).tlb asid va .load with
      | .ok _ => s
      | .error _ => s.log org.core 0x0012 (bytesOfNat 8 (va.toNat / 65536 * 65536))) (s.dropFlight req)
    let s2 := s1.flushWin org h
    .next ((if sig.rel then s2.release org.agent (.sem org.core org.lid sig.sem) 6 (s2.inWin org h) else s2).applySignal org sig)
  | _ => .next s

end Sys2Proof.Machine
end

