-- ==== Sys2Proof/Machine/Names.lean ====
section
/-! DEFINITION. Named data: routing, the routers' pending-interest tables, the home directories and seals (R253 to R261),
and ASK, ANNOUNCE and SEAL (R264 to R266). A router of this device is numbered by its core; router c of panel device d is
512 (d + 1) + c, and directories are numbered alike by die (log 17). -/

namespace Sys2Proof.Machine

open Sys2Proof

/-! Names and routing (R22, R253, R254). -/

def nameTensor (n : W64) : Nat := (n.extractLsb' 40 24).toNat
def nameTile (n : W64) : Nat := (n.extractLsb' 16 24).toNat
def nameIter (n : W64) : Nat := (n.extractLsb' 0 16).toNat

/-- The device of a router. -/
def routerDev (r : Nat) : Nat := if r < 512 then Config.devId.toNat else r / 512 - 1
/-- The router of a device at a core. -/
def routerAt (dev core : Nat) : Nat := if dev = Config.devId.toNat then core else 512 * (dev + 1) + core
/-- The directory that a router's die keeps. -/
def dieKey (r : Nat) : Nat := if r < 512 then coreDie r else 4 * (r / 512) + coreDie (r % 512)

/-- Device registers that a router's die reads. -/
def State.routerRegs (s : State) (r : Nat) : Tbl Byte :=
  if r < 512 then s.regs else (s.peer (panelTdev (r / 512 - 1))).regs

/-- An entry of a name-routing table (R254). -/
structure NameEnt where
  valid : Bool
  tensor : Nat
  thi : Nat
  tlo : Nat
  home : Nat
  deriving DecidableEq, Repr

def nameEnt (regs : Tbl Byte) (die e : Nat) : NameEnt :=
  let a := Config.nameTableDpa + die * 0x10000 + 16 * e
  let v := readNat regs a 16
  { valid := v / 2 ^ 127 % 2 == 1, tensor := v / 2 ^ 96 % 2 ^ 24, thi := v / 2 ^ 72 % 2 ^ 24, tlo := v / 2 ^ 48 % 2 ^ 24,
    home := routerAt (v / 2 ^ 16 % 64) (v % 2 ^ 9) }

/-- The valid entries of a router's die for a tensor, in index order. -/
def State.nameEnts (s : State) (r tensor : Nat) : List NameEnt :=
  let regs := s.routerRegs r
  if regs.isEmpty then []
  else (((List.range 4096).map (nameEnt regs (coreDie (r % 512)))).filter (fun e => e.valid && e.tensor == tensor))

/-- The home that a router's table gives a name (R254). -/
def State.homeOf (s : State) (r : Nat) (name : W64) : Option Nat :=
  ((s.nameEnts r (nameTensor name)).find? (fun e => e.tlo ≤ nameTile name && nameTile name ≤ e.thi)).map NameEnt.home

/-- The neighbour of a router behind a face. -/
def neighbour (r : Nat) : Face → Option Nat
  | .north => some (r - 1)
  | .south => some (r + 1)
  | .east => some (r + 16)
  | .west => some (r - 16)
  | .dieEdge => some (if coreX (r % 512) % 8 = 7 then r + 16 else r - 16)
  | .fabric n => some n
  | .localFace => none

/-- The router at which a message enters a device from a router of another: at the edge of a die, in the row of the router it
comes from and, as the model takes it, on the west edge of the die of that place (R253; log 17). -/
def edgeRouter (dev r : Nat) : Nat := routerAt dev (16 * (coreX (r % 512) / 8 * 8) + coreY (r % 512))

/-- The face toward a home: to another device over the fabric, then x, then y; a hop to the next die is over the die
edge (R253). -/
def faceToward (r home : Nat) : Face :=
  let x := coreX (r % 512)
  let hx := coreX (home % 512)
  if routerDev r != routerDev home then .fabric (edgeRouter (routerDev home) r)
  else if x < hx then if x % 8 = 7 then .dieEdge else .east
  else if hx < x then if x % 8 = 0 then .dieEdge else .west
  else if coreY (r % 512) < coreY (home % 512) then .south
  else .north

/-- The face by which a message enters that left a router by a face. -/
def faceBack (r : Nat) : Face → Face
  | .north => .south
  | .south => .north
  | .east => .west
  | .west => .east
  | .dieEdge => .dieEdge
  | .localFace => .localFace
  | .fabric _ => .fabric r

/-- A hop over the fabric to a device that does not answer, or from one. -/
def State.fabricDown (s : State) (r : Nat) : Face → Bool
  | .fabric n => s.devDown (panelTdev (routerDev n)) || s.devDown (panelTdev (routerDev r))
  | _ => false

def State.router (s : State) (r : Nat) : Router := tget { pit := [], wait := [] } s.routers r
def State.setRouter (s : State) (r : Nat) (x : Router) : State :=
  { s with routers := tput { pit := [], wait := [] } s.routers r x }
def State.die (s : State) (d : Nat) : DieNames := tget { recs := [], seals := [] } s.dies d
def State.setDie (s : State) (d : Nat) (x : DieNames) : State :=
  { s with dies := tput { recs := [], seals := [] } s.dies d x }

/-! How requests end (R133, R259, R260, R264, R345). -/

/-- The value of sB for an ACQ on a name (R133). -/
def acqStatus : Except Nat (List Byte) → Nat
  | .error 6 => 1
  | .error 7 => 2
  | .error 8 => 3
  | _ => 0

/-- The waiting TRIG of a unit learns how its interest ended. -/
def State.trigEnds (s : State) (u id st : Nat) : State :=
  let m := tget MUnit.reset s.units u
  match m.exec with
  | some x => match x.phase with
    | .trigWait cmd lim (some f) none =>
      if f = id then
        { s with units := tput MUnit.reset s.units u { m with exec := some { x with phase := .trigWait cmd lim (some f) (some st) } } }
      else s
    | _ => s
  | none => s

/-- A requester receives its outcome: the tile's bytes, or a failure status; a destination that cannot be written ends XLATE, a dead
peer's included (R241, R259, R264); what the announcement released reaches its context
with the signal or the status (R259, R260). -/
def State.endRequest (s : State) (id : Nat) (res : Except Nat (List Byte)) : State :=
  match tfind s.flights id with
  | some (.ask org hd _ qid sig) =>
    let s0 := s.dropFlight id
    match res with
    | .error st => s0.complete org qName qid 4 st 0 (some sig)
    | .ok bs =>
      if hBytes hd < bs.length then s0.complete org qName qid 4 0x0B 0 (some sig)
      else
        let r := s0.intoWin org hd (bs.map .ok)
        let s1 := r.acks.foldl (fun s a => s.ownLine a.1 a.2.1 a.2.2.2 (.cmd org)) r.st
        let s2 := if r.status = 0 then
            s1.passOn org.ctxAgent none (fun x => x == .name (hName hd)) [.sem org.core org.lid sig.sem, .slot org.core org.lid qName qid]
          else s1
        s2.complete org qName qid 4 (if r.status = 0 then 0 else 1) (if r.status = 0 then bs.length else r.count) (some sig)
  | some (.acqName org _) =>
    s.endAcq id org (acqStatus res)
  | some (.trigName u _) => (s.dropFlight id).trigEnds u id (match res with | .error 7 => 7 | .error 8 => 8 | .error 6 => 6 | _ => 0)
  | _ => s

/-- Send a tile, or a failure in its place, to the router behind a face. -/
def State.sendTile (s : State) (r : Nat) (f : Face) (name : W64) (res : Except Nat (List Byte)) : State :=
  match neighbour r f with
  | some n => if s.fabricDown r f then s else s.addPacket (.tile n name res)
  | none => s

/-- Answer the one that an interest came from. -/
def State.answer (s : State) (r : Nat) (f : Face) (req : Option Nat) (name : W64) (res : Except Nat (List Byte)) : State :=
  match req with
  | some id => s.endRequest id res
  | none => s.sendTile r f name res

/-- Every requester of a router for a name is served: unexpired faces and local requesters get the tile, expired local
ones their end, and the entries go (R257, R259). -/
def State.serveAll (s : State) (r : Nat) (name : W64) (res : Except Nat (List Byte)) : State :=
  let now := s.wallus.toNat
  let x := s.router r
  let mine := x.pit.filter (fun e => e.name == name)
  let s1 := s.setRouter r { x with pit := x.pit.filter (fun e => e.name != name) }
  mine.foldl (fun s e =>
    let s2 := (e.faces.filter (fun f => now ≤ f.2)).foldl (fun s f => s.sendTile r f.1 name res) s
    e.locals.foldl (fun s q => s.endRequest q.1 (if now ≤ q.2 then res else .error 6)) s2) s1

/-! Interests (R255, R256, R260). -/

/-- The latest expiry of an entry. -/
def PitEnt.latest (e : PitEnt) : Nat := (e.faces.map Prod.snd ++ e.locals.map Prod.snd).foldl max 0

/-- Add a requester to an entry, or raise its expiry. -/
def PitEnt.add (e : PitEnt) (f : Face) (req : Option Nat) (expiry : Nat) : PitEnt :=
  match req with
  | some id => { e with locals := e.locals ++ [(id, expiry)] }
  | none =>
    if e.faces.any (fun p => p.1 == f) then
      { e with faces := e.faces.map (fun p => if p.1 == f then (p.1, max p.2 expiry) else p) }
    else { e with faces := e.faces ++ [(f, expiry)] }

/-- An interest goes on toward its home; one that meets a device that does not answer finds no route. -/
def State.forward (s : State) (r : Nat) (name : W64) (expiry hops : Nat) : State :=
  match s.homeOf r name with
  | none => s.serveAll r name (.error 8)
  | some home =>
    if r = home then s
    else
      let f := faceToward r home
      match neighbour r f with
      | some n =>
        if s.fabricDown r f then s.serveAll r name (.error 8)
        else s.addPacket (.interest n name (faceBack r f) none expiry (hops + 1))
      | none => s

/-- Replace the entry at a place. -/
def setNth (l : List PitEnt) (i : Nat) (e : PitEnt) : List PitEnt := l.set i e

/-- The entry that an interest joins: the first for its name, with room for a local requester (R255). -/
def Router.joins (x : Router) (name : W64) (req : Option Nat) : Option Nat :=
  x.pit.findIdx? (fun e => e.name == name && (req.isNone || e.locals.length < 8))

/-- The tables lead from a router to a home, or to a router that knows none, within so many hops (R254). -/
def State.leads (s : State) (name : W64) : Nat → Nat → Bool
  | 0, _ => false
  | fuel + 1, r =>
    match s.homeOf r name with
    | none => true
    | some home => r = home || (match neighbour r (faceToward r home) with
      | some n => s.leads name fuel n
      | none => true)

/-- An interest merges, takes an entry, or waits at the router's input; one in its turn stands before those that wait
(R255). -/
def State.joinPit (s : State) (r : Nat) (name : W64) (f : Face) (req : Option Nat) (expiry hops : Nat) (turn : Bool) : State :=
  let x := s.router r
  match x.joins name req with
  | some i =>
    let e := x.pit.getD i { name := name, faces := [], locals := [], sent := false }
    let s1 := s.setRouter r { x with pit := setNth x.pit i (e.add f req expiry) }
    if e.sent && e.latest < expiry then s1.forward r name expiry hops else s1
  | none =>
    if x.pit.length < 512 && (turn || x.wait.isEmpty) then
      let first := !x.pit.any (fun e => e.name == name)
      let e : PitEnt := { name := name, faces := [], locals := [], sent := first }
      let s1 := s.setRouter r { x with pit := x.pit ++ [e.add f req expiry] }
      if first then s1.forward r name expiry hops else s1
    else s.setRouter r { x with wait := x.wait ++ [.interest r name f req expiry hops] }

/-! The home (R257, R258, R261). -/

/-- The record that a home's die holds for a (tensor, tile). -/
def DieNames.record (d : DieNames) (name : W64) : Option DirRec :=
  d.recs.find? (fun r => nameTensor r.name == nameTensor name && nameTile r.name == nameTile name)

/-- The tile of a record: the copy, or the source as it stands (R258). -/
def State.tileOf (s : State) (r : DirRec) : Except Nat (List Byte) :=
  match r.copy with
  | some bs => .ok bs
  | none => match s.readHomes r.pages with | .ok bs => .ok bs | .error _ => .error 2

/-- A record was used: it is the most recent, last in the list (R258). -/
def DieNames.touch (d : DieNames) (r : DirRec) : DieNames := { d with recs := d.recs.erase r ++ [r] }

/-- The iteration of a name is sealed at a home (R261). -/
def DieNames.sealedAt (d : DieNames) (name : W64) : Bool :=
  match tfind d.seals (nameTensor name) with | some i => nameIter name ≤ i | none => false

/-- An interest at its home: served from the record of its iteration, failed where that is sealed, else pending. -/
def State.interestHome (s : State) (r : Nat) (name : W64) (f : Face) (req : Option Nat) (expiry hops : Nat) (turn : Bool) : State :=
  let d := s.die (dieKey r)
  match d.record name with
  | some e =>
    if e.name = name then (s.setDie (dieKey r) (d.touch e)).answer r f req name (s.tileOf e)
    else if d.sealedAt name then s.answer r f req name (.error 7)
    else s.joinPit r name f req expiry hops turn
  | none => if d.sealedAt name then s.answer r f req name (.error 7) else s.joinPit r name f req expiry hops turn

/-- An interest at a router; one that would merge into a path that the tables lead round past the limit has found no route
either (R254, R255; DEDUCED, log 17). -/
def State.interestAt (s : State) (r : Nat) (name : W64) (f : Face) (req : Option Nat) (expiry hops : Nat) (turn : Bool) : State :=
  match s.homeOf r name with
  | none => s.answer r f req name (.error 8)
  | some home =>
    if r = home then s.interestHome r name f req expiry hops turn
    else if 64 ≤ hops || ((s.router r).pit.any (fun e => e.name == name) && !s.leads name 65 r) then s.answer r f req name (.error 8)
    else s.joinPit r name f req expiry hops turn

/-- INTEREST_ARRIVAL (R255). -/
def execInterestArrival (pkt : Nat) (s : State) : Host.Outcome State Fault Refusal :=
  match tfind s.packets pkt with
  | some (.interest r name f req expiry hops) =>
    .next ({ s with packets := tdel s.packets pkt }.interestAt r name f req expiry hops false)
  | _ => .next s

/-- The first interest that waits at a router can go on: an entry is free, it can merge, or the home answers it (R255, R257,
R261). -/
def State.letsIn (s : State) (r : Nat) : Bool :=
  let x := s.router r
  match x.wait with
  | .interest _ name _ req _ _ :: _ =>
    x.pit.length < 512 || (x.joins name req).isSome ||
    (s.homeOf r name == some r &&
      (((s.die (dieKey r)).record name).map DirRec.name == some name || (s.die (dieKey r)).sealedAt name))
  | _ => false

/-- INTEREST_ADMIT: the first interest that waits takes a freed entry, merges, or is answered at its home (R255, R257, R261). -/
def execInterestAdmit (router : Nat) (s : State) : Host.Outcome State Fault Refusal :=
  let x := s.router router
  match x.wait with
  | .interest r name f req expiry hops :: rest =>
    if s.letsIn router then .next ((s.setRouter router { x with wait := rest }).interestAt r name f req expiry hops true)
    else .next s
  | _ => .next s

/-- The interests that wait and have not expired, and the local requests of those that have. -/
def splitWait (now : Nat) : List Packet → List Packet × List Nat
  | [] => ([], [])
  | p :: r =>
    let (ks, es) := splitWait now r
    match p with
    | .interest _ _ _ req expiry _ => if expiry < now then (ks, req.toList ++ es) else (p :: ks, es)
    | _ => (p :: ks, es)

/-- Of the entries for a name of which none stands upstream, the first goes there: the entries, and those that go. -/
def promote (all : List PitEnt) : List PitEnt → List PitEnt × List PitEnt
  | [] => ([], [])
  | e :: r =>
    if !e.sent && !all.any (fun g => g.name == e.name && g.sent) then
      let (es, fs) := promote ({ e with sent := true } :: all) r
      ({ e with sent := true } :: es, e :: fs)
    else
      let (es, fs) := promote all r
      (e :: es, fs)

/-- INTEREST_EXPIRY: expired requesters and faces go; a second entry for a name whose first has ended goes upstream as a
new interest (R255, R260). -/
def execInterestExpiry (router : Nat) (s : State) : Host.Outcome State Fault Refusal :=
  let now := s.wallus.toNat
  let x := s.router router
  let (keep, waitEnds) := splitWait now x.wait
  let dead := x.pit.flatMap (fun e => (e.locals.filter (fun q => q.2 < now)).map Prod.fst)
  let pit := (x.pit.map (fun e => { e with
    faces := e.faces.filter (fun f => now ≤ f.2), locals := e.locals.filter (fun q => now ≤ q.2) })).filter
      (fun e => !(e.faces.isEmpty && e.locals.isEmpty))
  let (pit', firsts) := promote pit pit
  let s1 := s.setRouter router { pit := pit', wait := keep }
  let s2 := (dead ++ waitEnds).foldl (fun s id => s.endRequest id (.error 6)) s1
  .next (firsts.foldl (fun s e => s.forward router e.name e.latest 0) s2)

/-- TILE_ARRIVAL (R257, R259). -/
def execTileArrival (pkt : Nat) (s : State) : Host.Outcome State Fault Refusal :=
  match tfind s.packets pkt with
  | some (.tile r name res) => .next ({ s with packets := tdel s.packets pkt }.serveAll r name res)
  | _ => .next s

/-! Announcements (R257, R258, R265). -/

/-- An announcement completes, and the RELs of its context that waited for it are performed (R61, R265, R347, R381). -/
def State.annDone (s : State) (id st detail : Nat) : State :=
  match tfind s.flights id with
  | some (.announce org qid sig _) =>
    ((s.dropFlight id).complete org qName qid 5 st detail (some sig)).settleRels org
  | some (.annUnit u _) =>
    let s0 := s.dropFlight id
    let m := tget MUnit.reset s0.units u
    match m.exec with
    | some x => match x.phase with
      | .annWait f none =>
        if f = id then
          { s0 with units := tput MUnit.reset s0.units u { m with exec := some { x with phase := .annWait f (some st) } } }
        else s0
      | _ => s0
    | none => s0
  | some (.annDrift ent tile _) =>
    let s0 := s.dropFlight id
    match tfind s0.drifts ent with
    | some e => if e.tile = some tile then { s0 with drifts := tset s0.drifts ent { e with ending := some st } } else s0
    | none => s0
  | _ => s

/-- Bytes of the névé store in use (R258). -/
def DieNames.kept (d : DieNames) : Nat := (d.recs.map (fun r => match r.copy with | some bs => bs.length | none => 0)).sum

/-- Evict the least recently used copies until some bytes are free. -/
def evictCopies (need : Nat) : List DirRec → List DirRec
  | [] => []
  | r :: rs =>
    if need = 0 then r :: rs
    else match r.copy with
      | some bs => { r with copy := none } :: evictCopies (need - bs.length) rs
      | none => r :: evictCopies need rs

/-- A record is entered at its home, with a copy where the bytes can be read (R257, R258). -/
def State.enterRec (s : State) (key : Nat) (name : W64) (pages : List (Nat × Nat)) (len : Nat) : State :=
  let d := s.die key
  let others := d.recs.filter (fun r => !(nameTensor r.name == nameTensor name && nameTile r.name == nameTile name))
  let copy := match s.readHomes pages with | .ok bs => some bs | .error _ => none
  let d0 : DieNames := { d with recs := others }
  let room := evictCopies (d0.kept + len - 2 ^ 21) others
  s.setDie key { d with recs := room ++ [{ name := name, pages := pages, len := len, copy := copy }] }

/-- The agent whose release an announcement is, and its scope (R51, R265). -/
def Flight.releaser : Flight → Option (Agent × Nat)
  | .announce org _ sig _ => some (org.ctxAgent, sig.scope)
  | .annUnit u scope => some (.unit u, scope)
  | .annDrift _ _ scope => some (.drift, scope)
  | _ => none

/-- An announcement releases the tile's bytes, and a REL-flagged completion of it too (R51, R265). -/
def State.releaseTile (s : State) (flight : Nat) (name : W64) (pages : List (Nat × Nat)) : State :=
  match tfind s.flights flight with
  | none => s
  | some f =>
    match f.releaser with
    | none => s
    | some (ag, scope) =>
      let s1 := s.release ag (.name name) scope (inPieces pages)
      match f with
      | .announce org qid sig _ =>
        if sig.rel then
          (s1.release ag (.sem org.core org.lid sig.sem) scope (inPieces pages)).release ag (.slot org.core org.lid qName qid) scope
            (inPieces pages)
        else s1
      | _ => s1

/-- An announcement at its home: its status and detail (R257, R265). -/
def State.announceHome (s : State) (r : Nat) (name : W64) (pages : List (Nat × Nat)) (len flight : Nat) : Nat × Nat × State :=
  let key := dieKey r
  let d := s.die key
  let ok (s : State) : Nat × Nat × State :=
    let s1 := (s.releaseTile flight name pages).enterRec key name pages len
    match (s1.die key).record name with
    | some e => (0, len, s1.serveAll r name (s1.tileOf e))
    | none => (0, len, s1)
  if d.sealedAt name then (9, tget 0 d.seals (nameTensor name), s)
  else match d.record name with
    | some e => if nameIter name < nameIter e.name then (0x0F, nameIter e.name, s) else ok s
    | none => if 8192 ≤ d.recs.length then (0x0A, 0, s) else ok s

/-- An announcement at a router: it goes on to its home, or is applied there (R253, R254). -/
def State.announceAt (s : State) (r : Nat) (name : W64) (pages : List (Nat × Nat)) (len flight hops : Nat) : State :=
  match s.homeOf r name with
  | none => s.annDone flight 8 0
  | some home =>
    if r = home then
      let (st, detail, s1) := s.announceHome r name pages len flight
      s1.annDone flight st detail
    else if 64 ≤ hops then s.annDone flight 8 0
    else
      let f := faceToward r home
      match neighbour r f with
      | some n => if s.fabricDown r f then s.annDone flight 8 0 else s.addPacket (.announce n name pages len flight (hops + 1))
      | none => s

/-! Seals (R261, R266). -/

/-- One home of a SEAL has answered, with 0 or NOROOM, or cannot be reached, NOROUTE, which stands over NOROOM (R254, R266;
DEDUCED, log 17). -/
def State.sealDone (s : State) (id st : Nat) : State :=
  match tfind s.flights id with
  | some (.seal org qid sig reached left status) =>
    let status' := if st = 8 || status = 8 then 8 else max status st
    let reached' := if st = 8 then reached else reached + 1
    if left ≤ 1 then (s.dropFlight id).complete org qName qid 6 status' reached' (some sig)
    else s.setFlight id (.seal org qid sig reached' (left - 1) status')
  | _ => s

/-- The interests that wait at a router and those among them that satisfy a test. -/
def parted (p : W64 → Bool) : List Packet → List Packet × List Packet
  | [] => ([], [])
  | q :: r =>
    let (ks, es) := parted p r
    match q with
    | .interest _ name _ _ _ _ => if p name then (ks, q :: es) else (q :: ks, es)
    | _ => (q :: ks, es)

/-- A seal at its home: it only raises the iteration; interests that it covers in names whose home this is, pending or waiting at
the router's input, without a record, fail (R261). -/
def State.sealHome (s : State) (r tensor iter : Nat) : Bool × State :=
  let key := dieKey r
  let d := s.die key
  let old := tfind d.seals tensor
  if old.isNone && 1024 ≤ d.seals.length then (true, s)
  else
    let d1 := { d with seals := tset d.seals tensor (max iter (old.getD 0)) }
    let s1 := s.setDie key d1
    let covered (n : W64) : Bool :=
      nameTensor n == tensor && s1.homeOf r n == some r && d1.sealedAt n && (d1.record n).map DirRec.name != some n
    let x := s1.router r
    let names := ((x.pit.map PitEnt.name).eraseDups).filter covered
    let (keep, gone) := parted covered x.wait
    let s2 := names.foldl (fun s n => s.serveAll r n (.error 7)) (s1.setRouter r { x with wait := keep })
    (false, gone.foldl (fun s q => match q with
      | .interest r name f req _ _ => s.answer r f req name (.error 7)
      | _ => s) s2)

/-- A seal at a router. -/
def State.sealAt (s : State) (r home tensor iter flight hops : Nat) : State :=
  if r = home then
    let (no, s1) := s.sealHome r tensor iter
    s1.sealDone flight (if no then 0x0A else 0)
  else
    let f := faceToward r home
    match neighbour r f with
    | some n =>
      if s.fabricDown r f || 64 ≤ hops then s.sealDone flight 8
      else s.addPacket (.seal n home tensor iter flight (hops + 1))
    | none => s

/-- A message of an announcement or a seal arrives. -/
def State.arrive (s : State) (id : Nat) : State :=
  match tfind s.packets id with
  | some (.announce r name pages len flight hops) =>
    { s with packets := tdel s.packets id }.announceAt r name pages len flight hops
  | some (.seal r home tensor iter flight hops) =>
    { s with packets := tdel s.packets id }.sealAt r home tensor iter flight hops
  | _ => s

/-- The router that an announcement or a seal has reached. -/
def Packet.ordered : Packet → Option Nat
  | .announce r .. => some r
  | .seal r .. => some r
  | _ => none

/-- Announcements and seals pass each router in their order (R275, AN and SL). -/
def State.arriveOrdered (s : State) (id : Nat) : State :=
  match (tfind s.packets id).bind Packet.ordered with
  | none => s
  | some r => (s.packets.filter (fun p => p.1 ≤ id && p.2.ordered == some r)).foldl (fun s p => s.arrive p.1) s

/-- ANNOUNCEMENT_ARRIVAL (R257). -/
def execAnnouncementArrival (pkt : Nat) (s : State) : Host.Outcome State Fault Refusal :=
  match tfind s.packets pkt with
  | some (.announce ..) => .next (s.arriveOrdered pkt)
  | _ => .next s

/-- SEAL_ARRIVAL (R261). -/
def execSealArrival (pkt : Nat) (s : State) : Host.Outcome State Fault Refusal :=
  match tfind s.packets pkt with
  | some (.seal ..) => .next (s.arriveOrdered pkt)
  | _ => .next s

/-! The commands (R264 to R266). -/

/-- ASK is sent, or fails at issue (R264). -/
def State.sendAsk (s : State) (o : EngArgs) (qid : Nat) : State :=
  let s1 := s.drainCmd s.origin
  let org := s1.origin
  let hd := s1.pHnd o 19
  let sig := EngArgs.signal o
  let fail (st : Nat) : State := s1.complete org qName qid 4 st 0 (some sig)
  if hRes hd = 3 || (fmtBits (hFmt hd)).isNone || !nibbleOk hd (hCount hd) then fail 5
  else if hRes hd = 0 && !winInShare s1.cx.launch hd then fail 1
  else
    let life := if o.pf 7 12 = 0 then Config.defaultLife else o.pf 7 12
    let expiry := s1.wallus.toNat + life
    let (id, s2) := s1.addFlight (.ask org hd expiry qid sig)
    s2.placeInterest s2.focusCore (hName hd) id expiry

/-- ASK (R264). -/
def execAsk (o : EngArgs) (s : State) : Host.Outcome State Fault Refusal :=
  slot (.ask o) s (fun s => s.engCmd (.ask o) o (fun q s => s.sendAsk o q))

/-- The pages behind a tile; none where one fails or lies in the Drift counter window (R265, R367). -/
def State.tilePages (s : State) (c : Nat) (asid : BitVec 16) (va : W64) (n : Nat) : Option (List (Nat × Nat)) :=
  match s.xlateRange (s.core c).tlb asid .load (n / 65536 + 2) va n with
  | .ok ps => if ps.any (fun p => regionOf p.1 == .counters) then none else some ps
  | .error _ => none

/-- ANNOUNCE is sent, or fails at issue (R265). -/
def State.sendAnnounce (s : State) (o : EngArgs) (qid : Nat) : State :=
  let s1 := s.drainCmd s.origin
  let org := s1.origin
  let h := s1.pHnd o 19
  let sig := EngArgs.signal o
  let fail (st : Nat) : State := s1.complete org qName qid 5 st 0 (some sig)
  if hRes h = 0 || hRes h = 3 || !hContig h || hNibbles h = 0 || hNibbles h % 2 = 1 then fail 5
  else if 65536 < hBytes h then fail 0x0B
  else match s1.tilePages s1.focusCore s1.cx.launch.asid (hBase h) (hBytes h) with
    | none => fail 1
    | some pages =>
      let (id, s2) := s1.addFlight (.announce org qid sig (hBytes h))
      s2.addPacket (.announce s2.focusCore (hName h) pages (hBytes h) id 0)

/-- ANNOUNCE (R265). -/
def execAnnounce (o : EngArgs) (s : State) : Host.Outcome State Fault Refusal :=
  slot (.announce o) s (fun s => s.engCmd (.announce o) o (fun q s => s.sendAnnounce o q))

/-- SEAL is sent to every home of its tensor (R266). -/
def State.sendSeal (s : State) (o : EngArgs) (qid : Nat) : State :=
  let n := s.pScal o 18
  let org := s.origin
  let sig := EngArgs.signal o
  let homes := ((s.nameEnts s.focusCore (nameTensor n)).map NameEnt.home).eraseDups
  if homes.isEmpty then s.complete org qName qid 6 8 0 (some sig)
  else
    let (id, s1) := s.addFlight (.seal org qid sig 0 homes.length 0)
    homes.foldl (fun s h => s.addPacket (.seal s.focusCore h (nameTensor n) (nameIter n) id 0)) s1

/-- SEAL (R266). -/
def execSeal (o : EngArgs) (s : State) : Host.Outcome State Fault Refusal :=
  slot (.seal o) s (fun s => s.engCmd (.seal o) o (fun q s => s.sendSeal o q))

end Sys2Proof.Machine
end

