-- ==== Sys2Proof/Machine/Drift.lean ====
section
/-! DEFINITION. The Drift engine: armed lists and their counters (R367, R368), the entry kinds (R369 to R371, R380,
R381), and DARM and DPUT (R373, R374). -/

namespace Sys2Proof.Machine

open Sys2Proof

/-! Local addresses of a list's launch (R370): each byte range is taken line by line. -/

/-- Sizes of the lines that n bytes from an address fall into; a line is 64 bytes, aligned. -/
def lineSizes (a : Nat) : Nat → Nat → List Nat
  | 0, _ => []
  | fuel + 1, n =>
    if n = 0 then []
    else
      let k := min n (64 - a % 64)
      k :: lineSizes (a + k) fuel (n - k)

/-- The lines of n bytes from an address. -/
def driftLines (a n : Nat) : List Nat := lineSizes a (n / 64 + 2) n

/-- A local address of an entry: a DPA, or the status of R372. -/
def State.driftXl (s : State) (asid : BitVec 16) (va : W64) (acc : Acc) : Except Nat Nat :=
  match s.xlate s.driftTlb asid va acc with
  | .error _ => .error 1
  | .ok dpa =>
    match regionOf dpa with
    | .counters => .error 1
    | .aperture g _ => if (s.usableGroup g).isNone then .error 0x42 else .ok dpa
    | _ => .ok dpa

/-- The engine's cache of 64 entries takes the pages of a range (R406). -/
def State.driftFill (s : State) (asid : BitVec 16) (va : W64) (n : Nat) : State :=
  (pageStarts va n).foldl (fun s a => { s with driftTlb := s.tlbAdd s.driftTlb 64 asid a }) s

/-- Read a line, or the status of the fault. -/
def State.driftRead (s : State) (asid : BitVec 16) (va : W64) (n : Nat) : Except Nat (List Byte) :=
  match s.driftXl asid va .load with
  | .error st => .error st
  | .ok dpa =>
    match s.readAs .drift dpa n with
    | .ok bs => .ok bs
    | .error r => .error (respStatus r)

/-- Read lines in order: the bytes before the first fault, and its status (R241). -/
def State.driftReads (s : State) (asid : BitVec 16) : W64 → List Nat → List Byte × Option Nat
  | _, [] => ([], none)
  | va, n :: r =>
    match s.driftRead asid va n with
    | .error st => ([], some st)
    | .ok bs => let (rest, st) := s.driftReads asid (va + BitVec.ofNat 64 n) r; (bs ++ rest, st)

/-- n bytes from a local address. -/
def State.driftBytes (s : State) (asid : BitVec 16) (va : W64) (n : Nat) : List Byte × Option Nat :=
  s.driftReads asid va (driftLines va.toNat n)

/-- Write a line at a local address for agents. -/
def State.driftWrite (s : State) (ags : List Agent) (asid : BitVec 16) (va : W64) (bs : List Byte) : Except Nat State :=
  match s.driftXl asid va .store with
  | .error st => .error st
  | .ok dpa =>
    match s.writeAs ags dpa bs with
    | .ok t => .ok t
    | .error r => .error (respStatus r)

/-- Lines written in order while data lasts: the state, the status (0 for OK) and the lines written (R241). -/
def putLines (wr : State → Nat → List Byte → Except Nat State) (srcSt : Option Nat) :
    List Nat → Nat → List Byte → State → Nat → State × Nat × Nat
  | [], _, _, s, k => (s, 0, k)
  | n :: r, off, bs, s, k =>
    if bs.length < n then (s, srcSt.getD 1, k)
    else match wr s off (bs.take n) with
      | .error st => (s, st, k)
      | .ok t => putLines wr srcSt r (off + n) (bs.drop n) t (k + 1)

/-- Bytes written at a local address for agents. -/
def State.driftPut (s : State) (ags : List Agent) (asid : BitVec 16) (va : W64) (bs : List Byte) (n : Nat) (srcSt : Option Nat) :
    State × Nat × Nat :=
  putLines (fun s off b => s.driftWrite ags asid (va + BitVec.ofNat 64 off) b) srcSt (driftLines va.toNat n) 0 bs s 0

/-! Devices and their windows (R369). -/

/-- No path of the torus reaches the panel of a device (R372). -/
def State.cutPanel (s : State) (t : Nat) : Bool := t / 64 != ownTdev / 64 && tget 0 s.torusDown (t / 64) == 2
/-- The torus holds a device: those of this panel, and others as it is built (R7, R372). -/
def inTorus (t : Nat) : Bool := t / 64 == ownTdev / 64 || Config.torusHolds t
/-- A TDEV answers, or the status of R372. -/
def State.reach (s : State) (t : Nat) : Option Nat :=
  if !inTorus t then some 8
  else if s.cutPanel t then some 8
  else if s.devDown t then some 3
  else none

/-- A receive window of a device. -/
structure RecvWin where
  valid : Bool
  queue : Bool
  rowsz : Nat
  tail : Nat
  size : Nat
  base : Nat
  deriving DecidableEq, Repr

def State.recvWin (s : State) (t w : Nat) : RecvWin :=
  let r := s.devRegs t
  let k (i : Nat) := readNat r (Config.windowsDpa + 32 * w + 8 * i) 8
  { valid := k 3 / 2 ^ 63 == 1, queue := k 3 / 2 ^ 62 % 2 == 1, rowsz := k 3 / 2 ^ 16 % 2 ^ 24,
    tail := k 2, size := k 1, base := k 0 % 2 ^ 40 }

/-- The device and the window of a descriptor, and its offset (R369). -/
def descTdev (d : W64) : Nat := (d.extractLsb' 48 14).toNat
def descWin (d : W64) : Nat := (d.extractLsb' 44 4).toNat
def descOff (d : W64) : Nat := (d.extractLsb' 0 40).toNat
def descGroup (d : W64) : Nat := (d.extractLsb' 48 10).toNat

/-- A plain window's bytes at an offset, or the status. -/
def State.plainWin (s : State) (d : W64) (n : Nat) : Except Nat Nat :=
  match s.reach (descTdev d) with
  | some st => .error st
  | none =>
    let w := s.recvWin (descTdev d) (descWin d)
    if !w.valid || w.queue || w.size < descOff d + n then .error 0x41 else .ok (w.base + descOff d)

/-- An atomic add of 1 claims a row: its address, or CAPACITY with the claim undone (R369). -/
def State.claimRow (s : State) (ags : List Agent) (t : Nat) (w : RecvWin) : Except Nat (Nat × State) :=
  if regionOf w.tail != .firn || w.tail % 8 != 0 then .error 0x41
  else
    let old := readNat (s.devMem t) w.tail 8
    if old < w.size / w.rowsz then .ok (w.base + old * w.rowsz, s.storeDev ags t w.tail (bytesOfNat 8 (old + 1)))
    else .error 0x40

/-- Where a put of n bytes goes, with its row claimed. -/
def State.putAt (s : State) (ags : List Agent) (d : W64) (n : Nat) : Except Nat (Nat × State) :=
  match s.reach (descTdev d) with
  | some st => .error st
  | none =>
    let w := s.recvWin (descTdev d) (descWin d)
    if !w.valid then .error 0x41
    else if w.queue then (if w.rowsz < n then .error 0x41 else s.claimRow ags (descTdev d) w)
    else if w.size < descOff d + n then .error 0x41
    else .ok (w.base + descOff d, s)

/-- Write a line at a target for agents. -/
def State.targetWrite (s : State) (ags : List Agent) (t a : Nat) (bs : List Byte) : Except Nat State :=
  if s.devDown t then .error 3 else if plainDpa a bs.length then .ok (s.storeDev ags t a bs) else .error 0x41

/-! Entries and lists. -/

def noDList : DriftList :=
  { org := { core := 0, lid := 0, shadow := false, cmd := 0 }, asid := 0, n := 0, left := 0, ok := 0, failed := none, qid := 0,
    qid2 := none, dput := false, src := none, lines := 0, nakmap := 0,
    sig := { sem := 0, inc := 0, rel := false, scope := 0 }, waiting := none }

/-- The list of an entry. -/
def State.dlist (s : State) (n : Nat) : DriftList := (tfind s.dlists n).getD noDList
def State.setEnt (s : State) (n : Nat) (e : DriftEnt) : State := { s with drifts := tset s.drifts n e }

/-- The REL flag and the scope of an entry: of its header, or of its DPUT (R368, R374). -/
def State.entRel (s : State) (e : DriftEnt) : Bool × Nat :=
  let l := s.dlist e.list
  if l.dput then (l.sig.rel, l.sig.scope)
  else match driftHdr e.entry with
    | some h => (h.rel == 1, h.scope.toNat)
    | none => (false, 0)

/-- An entry as a writer: among the commands of the context that its list answers to (R50, R51). -/
def State.entAgent (s : State) (e : DriftEnt) : Agent :=
  let o := (s.dlist e.list).org
  .cmd o.core o.lid e.num

/-- An entry increments a counter of a device: with REL a release of the bytes that it wrote (R367, R370). -/
def State.entCtr (s : State) (e : DriftEnt) (t c : Nat) (n : W32) : State :=
  let (rel, scope) := s.entRel e
  (if rel then s.release (s.entAgent e) (.ctr t c) scope (s.wroteBy (s.entAgent e)) else s).bumpCtr t c n

/-- The RCTR increment of an entry at a device (R370). -/
def State.rctr (s : State) (e : DriftEnt) (t : Nat) (r : BitVec 16) : State :=
  if r.getLsbD 15 then s.entCtr e t (r.extractLsb' 0 12).toNat 1 else s

/-- An entry is performed, with a status; CAPACITY leaves retries (R371). -/
def State.endEnt (s : State) (n : Nat) (st lines : Nat) : State :=
  match tfind s.drifts n with
  | none => s
  | some e =>
    match driftHdr e.entry with
    | none => s
    | some h =>
      if st = 0x40 && e.tries < h.rn.toNat && !(s.dlist e.list).dput then
        s.setEnt n { e with phase := .retry (s.wallus.toNat + 2 ^ h.re.toNat), tries := e.tries + 1 }
      else s.setEnt n { e with phase := .ended st lines }

/-- The first byte and the length of shard k, and the length of a receive slot (R380). -/
def slotLen (len p : Nat) : Nat := 64 * ((len + 64 * p - 1) / (64 * p))
def shardOf (len p k : Nat) : Nat × Nat := (k * slotLen len p, min ((k + 1) * slotLen len p) len - k * slotLen len p)
/-- The shard of a step. -/
def stepShard (p q st : Nat) : Nat := (q + p - st) % p

/-- The local ranges that an entry reads or writes (R370, R380, R381). -/
def driftRanges : Instr → List (W64 × Nat)
  | .put _ src _ len _ | .putred _ src _ len _ _ => [(src, len.toNat)]
  | .putmc _ _ _ _ _ ack => [(ack, 32)]
  | .get _ _ dst len => [(dst, len.toNat)]
  | .rsstep _ buf recv dst len _ _ np q st sig =>
    let (off, m) := shardOf len.toNat np.toNat (stepShard np.toNat q.toNat st.toNat)
    [(buf + BitVec.ofNat 64 off, m)] ++
    (if st = 0 then [] else [(recv + BitVec.ofNat 64 ((st.toNat + 1) % 2 * slotLen len.toNat np.toNat), m)]) ++
    (if st.toNat + 1 < np.toNat then [] else [(dst, m)] ++ (if sig = 0 then [] else [(sig, 8)]))
  | .deliver _ src dst len _ _ => [(src, len.toNat), (dst, len.toNat)]
  | _ => []

/-- The engine's cache takes the pages that an entry uses. -/
def State.driftTouch (s : State) (e : DriftEnt) : State :=
  let l := s.dlist e.list
  (driftRanges e.entry).foldl (fun s p => if p.2 = 0 then s else s.driftFill l.asid p.1 p.2) s

/-- An entry with ACQ acquires before its first read what its counter released, and what the context that armed its list had
acquired (R368). -/
def State.entAcquire (s : State) (e : DriftEnt) : State :=
  match driftHdr e.entry with
  | some h =>
    if h.acq = 1 then
      (s.acquire .drift h.scope.toNat (fun o => o == .ctr ownTdev h.trig.toNat)).acquire .drift 6 (fun o => o == .list e.list)
    else s
  | none => s

/-- What an entry of the engine does when it is performed: the entry in focus, if it has fired; otherwise nothing. -/
def drift (s : State) (eff : Nat → DriftEnt → DriftList → State → State) : Host.Outcome State Fault Refusal :=
  match tfind s.drifts s.focusEnt with
  | some e =>
    match e.phase with
    | .fired => .next (eff s.focusEnt e (s.dlist e.list) ((s.entAcquire e).driftTouch e))
    | _ => .next s
  | none => .next s

/-- The source bytes of a put: those taken at issue from a local store, or read now (R374). -/
def State.srcBytes (s : State) (l : DriftList) (src : W64) (off n : Nat) : List Byte × Option Nat :=
  match l.src with
  | some (bs, st) => ((bs.drop off).take n, st)
  | none => s.driftBytes l.asid (src + BitVec.ofNat 64 off) n

/-- PUT (R369, R370). -/
def execPut (hd : DHdr) (src dst : W64) (len : W32) (rctr : BitVec 16) (s : State) : Host.Outcome State Fault Refusal :=
  drift s (fun n e l s =>
    let _ := hd
    match s.putAt (s.entAgents e) dst len.toNat with
    | .error st => s.endEnt n st 0
    | .ok (a, s1) =>
      let t := descTdev dst
      let (bs, srcSt) := s1.srcBytes l src 0 len.toNat
      let (s2, st, k) := putLines (fun s off b => s.targetWrite (s.entAgents e) t (a + off) b) srcSt (driftLines a len.toNat) 0 bs s1 0
      (if st = 0 then s2.rctr e t rctr else s2).endEnt n st k)

/-- A word of a target takes an addition of R270: FP32 (FOP 0) or INT32. -/
def State.targetAdd (s : State) (ags : List Agent) (t a : Nat) (fop v : Nat) : Except Nat State :=
  if s.devDown t then .error 3
  else if !plainDpa a 4 then .error 0x41
  else if t = ownTdev && s.ueIn a 4 then .error 2
  else .ok (s.storeDev ags t a (bytesOfNat 4 (aopNew (if fop = 0 then 9 else 0) 32 (readNat (s.devMem t) a 4) v 0)))

/-- The words of a line of a PUTRED. -/
def State.targetAdds (s : State) (ags : List Agent) (t a fop : Nat) : Nat → List Byte → Except Nat State
  | 0, _ => .ok s
  | fuel + 1, bs =>
    if bs.length < 4 then .ok s
    else match s.targetAdd ags t a fop (natOfBytes (bs.take 4)) with
      | .error st => .error st
      | .ok s1 => s1.targetAdds ags t (a + 4) fop fuel (bs.drop 4)

/-- PUTRED (R370). -/
def execPutred (hd : DHdr) (src dst : W64) (len : W32) (rctr : BitVec 16) (fop : BitVec 8) (s : State) :
    Host.Outcome State Fault Refusal :=
  drift s (fun n e l s =>
    let _ := hd
    match s.plainWin dst len.toNat with
    | .error st => s.endEnt n st 0
    | .ok a =>
      let t := descTdev dst
      let (bs, srcSt) := s.srcBytes l src 0 len.toNat
      let words := (List.range (len.toNat / 4)).map (fun _ => 4)
      let (s1, st, _) := putLines (fun s off b => s.targetAdds (s.entAgents e) t (a + off) fop.toNat 1 b) srcSt words 0 bs s 0
      (if st = 0 then s1.rctr e t rctr else s1).endEnt n st 0)

/-- PUTMC: the group is tested; the lines follow one by one (R370, R375, R377). -/
def execPutmc (hd : DHdr) (src dst : W64) (len : W32) (rctr : BitVec 16) (ack : W64) (s : State) :
    Host.Outcome State Fault Refusal :=
  drift s (fun n e _ s =>
    let _ := (hd, src, rctr, ack)
    match s.usableGroup (descGroup dst) with
    | none => s.endEnt n 0x42 0
    | some g =>
      if min g.size (2 ^ 30) < descOff dst + len.toNat then s.endEnt n 0x41 0
      else s.setEnt n { e with phase := .sending, mcOff := 0 })

/-- GET (R370). -/
def execGet (hd : DHdr) (src dst : W64) (len : W32) (s : State) : Host.Outcome State Fault Refusal :=
  drift s (fun n e l s =>
    let _ := hd
    match s.plainWin src len.toNat with
    | .error st => s.endEnt n st 0
    | .ok a =>
      let t := descTdev src
      let rd (off k : Nat) : Except Nat (List Byte) :=
        if !plainDpa (a + off) k then .error 0x41
        else if t = ownTdev && s.ueIn (a + off) k then .error 2
        else .ok (s.asSeen .drift t (a + off) (readBytes (s.devMem t) (a + off) k))
      let go (r : List Byte × Option Nat × Nat) (k : Nat) : List Byte × Option Nat × Nat :=
        match r.2.1, rd r.2.2 k with
        | none, .ok bs => (r.1 ++ bs, none, r.2.2 + k)
        | none, .error st => (r.1, some st, r.2.2)
        | some st, _ => (r.1, some st, r.2.2)
      let (bs, srcSt, _) := (driftLines a len.toNat).foldl go ([], none, 0)
      let (s1, st, k) := s.driftPut (s.entAgents e) l.asid dst bs len.toNat srcSt
      s1.endEnt n st k)

/-- SIGNAL (R370). -/
def execSignal (hd : DHdr) (dst : W64) (inc : W32) (rctr : BitVec 16) (s : State) : Host.Outcome State Fault Refusal :=
  drift s (fun n e _ s =>
    let _ := hd
    match s.reach (descTdev dst) with
    | some st => s.endEnt n st 0
    | none =>
      (if rctr.getLsbD 15 then s.entCtr e (descTdev dst) (rctr.extractLsb' 0 12).toNat inc else s).endEnt n 0 0)

/-! RSSTEP (R380). -/

/-- One word of a fold: the received partial is the left operand. -/
def ringAdd (a b : W32) : W32 := (addRound false .rne 0 [num32 a, num32 b]).1

/-- The words of two byte strings, added. -/
def ringFold (p c : List Byte) : List Byte :=
  (List.range (c.length / 4)).flatMap (fun i =>
    let w (l : List Byte) : W32 := BitVec.ofNat 32 (natOfBytes ((l.drop (4 * i)).take 4))
    bytesOfNat 4 (ringAdd (w p) (w c)).toNat)

/-- The signature after a hop to another device: where the torus link is down the data goes through a neighbouring panel,
which appends its Node (R382). -/
def State.hopSig (s : State) (succ : Nat) (g : W64) : W64 :=
  if succ / 64 != ownTdev / 64 && tget 0 s.torusDown (succ / 64) == 1 then sigNode g (Config.detourNode ownTdev succ) else g

/-- The number of a ring's next message on its way, after the others'. -/
def State.nextRing (s : State) : Nat := match s.rings.getLast? with | some r => r.1 + 1 | none => 0

/-- A receive slot of a ring lies in Firn or HBM; elsewhere the entry ends XLATE (R380; DESIGN CHOICE, log 28). -/
def ringHome (a : Nat) : Bool := regionOf a == .firn || regionOf a == .hbm

/-- RSSTEP (R380). -/
def execRsstep (hd : DHdr) (buf recv dst : W64) (len : W32) (succ sctr : BitVec 16) (np q st : BitVec 8) (sig : W64)
    (s : State) : Host.Outcome State Fault Refusal :=
  drift s (fun n e l s =>
    let _ := hd
    let p := np.toNat
    let (off, m) := shardOf len.toNat p (stepShard p q.toNat st.toNat)
    let mine := s.driftBytes l.asid (buf + BitVec.ofNat 64 off) m
    let slotVa := recv + BitVec.ofNat 64 ((st.toNat + 1) % 2 * slotLen len.toNat p)
    let got : Except Nat (List Byte × W64 × State) :=
      if st = 0 then
        (match mine with | (bs, none) => .ok (bs, sigContributor 0 ownTdev, s) | (_, some f) => .error f)
      else
        match s.driftXl l.asid slotVa .load, s.driftBytes l.asid slotVa m, mine with
        | .error f, _, _ => .error f
        | .ok _, (_, some f), _ => .error f
        | .ok _, _, (_, some f) => .error f
        | .ok a, (ps, none), (bs, none) =>
          if !ringHome a then .error 1
          else match s.ringSlots.find? (fun r => r.addr == a) with
          | some r => .ok (ringFold ps bs, sigContributor r.sig ownTdev, { s with ringSlots := s.ringSlots.erase r })
          | none => .ok (ringFold ps bs, sigContributor (Config.freeWord s.free) ownTdev, s.nextFree)
    match got with
    | .error f => s.endEnt n f 0
    | .ok (t, g, s1) =>
      if st.toNat + 1 < p then
        match s1.reach succ.toNat with
        | some f => s1.endEnt n f 0
        | none =>
          let id := s1.nextRing
          let m : RingMsg := { src := .ent n, dest := succ.toNat, sctr := sctr.toNat, st := st.toNat, data := t,
                               sig := s1.hopSig succ.toNat g }
          ({ s1 with rings := tset s1.rings id m }).setEnt n { e with phase := .sending }
      else
        let (s2, f, c) := s1.driftPut (s1.entAgents e) l.asid dst t m none
        if f != 0 || sig = 0 then s2.endEnt n f c
        else match s2.driftWrite (s2.entAgents e) l.asid sig (bytesOfNat 8 g.toNat) with
          | .error f => s2.endEnt n f c
          | .ok s3 => s3.endEnt n 0 c)

/-- The entry of this device that a message of a ring is for, and its slot's address there: the RSSTEP of the next step
that the message's counter triggers (R380). -/
def State.ringDest (s : State) (m : RingMsg) : Option (BitVec 16 × W64) :=
  s.drifts.findSome? (fun p => match p.2.entry with
    | .rsstep hd _ recv _ len _ _ np _ st _ =>
      if st.toNat = m.st + 1 && hd.trig.toNat = m.sctr then
        some ((s.dlist p.2.list).asid,
          recv + BitVec.ofNat 64 (m.st % 2 * slotLen len.toNat np.toNat))
      else none
    | _ => none)

/-- The key under which another device holds what stands in a receive slot of a ring: the counter that its step raises, and
the slot (R380). -/
def RingMsg.key (m : RingMsg) : Nat := 2 * m.sctr + m.st % 2

/-- The entry that sent a message ends with a status; an entry of another device ends there. -/
def State.ringEnd (s : State) (m : RingMsg) (st : Nat) : State :=
  match m.src with
  | .ent n => s.endEnt n st 0
  | .dev .. => s

/-- Who writes a message into its slot: its entry, or another device. -/
def State.ringAgents (s : State) (m : RingMsg) : List Agent :=
  match m.src with
  | .ent n => match tfind s.drifts n with | some e => s.entAgents e | none => [.drift]
  | .dev d _ => [.peer d]

/-- A message has entered its slot, some bytes of this device: the successor's counter rises, as a release with REL, and the
sender's entry is performed (R367, R380). -/
def State.ringDone (s : State) (m : RingMsg) (pieces : List (Nat × Nat)) : State :=
  match m.src with
  | .ent n => match tfind s.drifts n with
    | some e => (s.entCtr e m.dest m.sctr 1).endEnt n 0 0
    | none => s.bumpCtr m.dest m.sctr 1
  | .dev d rel =>
    (match rel with
     | some scope => s.release (.peer d) (.ctr m.dest m.sctr) scope (inPieces pieces)
     | none => s).bumpCtr m.dest m.sctr 1

/-- RING_SLOT_TRANSFER: the data enters the successor's slot, once that is free, and its counter rises (R380). A slot of another
device is known by the counter, since its address there is not (log 28). -/
def execRingSlotTransfer (msg : Nat) (s : State) : Host.Outcome State Fault Refusal :=
  match tfind s.rings msg with
  | none => .next s
  | some m =>
    let s0 := { s with rings := tdel s.rings msg }
    match s.reach m.dest with
    | some st => .next (s0.ringEnd m st)
    | none =>
      if m.dest != ownTdev then
        let p := s.peer m.dest
        if tmem p.slots m.key then .next s
        else .next ((s0.setPeer m.dest { p with slots := tset p.slots m.key (m.data, m.sig) }).ringDone m [])
      else match s.ringDest m with
        | none => .next s
        | some (asid, va) =>
          match s.driftXl asid va .store with
          | .error f => .next (s0.ringEnd m f)
          | .ok a =>
            if !ringHome a then .next (s0.ringEnd m 1)
            else if s.ringSlots.any (fun r => r.addr == a) then .next s
            else
              let (s1, f, _) := s0.driftPut (s.ringAgents m) asid va m.data m.data.length none
              if f != 0 then .next (s1.ringEnd m f)
              else .next (({ s1 with ringSlots := s1.ringSlots ++ [⟨a, m.sig⟩] } : State).ringDone m [(a, m.data.length)])

/-- A message of a ring can go: into its slot, or to its failure. -/
def State.ringFree (s : State) (m : RingMsg) : Bool :=
  (s.reach m.dest).isSome ||
  (if m.dest != ownTdev then !tmem (s.peer m.dest).slots m.key
   else match s.ringDest m with
   | none => false
   | some (asid, va) => match s.driftXl asid va .store with
     | .error _ => true
     | .ok a => !ringHome a || !s.ringSlots.any (fun r => r.addr == a))

/-! DELIVER (R381). -/

/-- The pages behind a range of a list's address space. -/
def State.driftPages (s : State) (asid : BitVec 16) (va : W64) (n : Nat) : Option (List (Nat × Nat)) :=
  match s.xlateRange s.driftTlb asid .load (n / 65536 + 2) va n with
  | .ok ps => if ps.any (fun p => regionOf p.1 == .counters) then none else some ps
  | .error _ => none

/-- A name with its TILE raised by j (R22, R381). -/
def tileName (name : W64) (j : Nat) : W64 :=
  name.extractLsb' 40 24 ++ (name.extractLsb' 16 24 + BitVec.ofNat 24 j) ++ name.extractLsb' 0 16

/-- DELIVER announces its tile j, or fails (R265, R381). -/
def State.deliverTile (s : State) (n : Nat) (e : DriftEnt) (l : DriftList) (dst : W64) (len tsize : Nat) (name : W64)
    (j lines : Nat) : State :=
  let from' := j * tsize
  let size := min tsize (len - from')
  match s.driftPages l.asid (dst + BitVec.ofNat 64 from') size with
  | none => s.endEnt n 1 lines
  | some pages =>
    let (id, s1) := s.addFlight (.annDrift n j (s.entRel e).2)
    (s1.setEnt n { e with phase := .sending, tile := some j, ending := none }).addPacket
      (.announce l.org.core (tileName name j) pages size id 0)

/-- DELIVER's copy writes a line of the HBM (R381). -/
def deliverLine (ags : List Agent) (asid : BitVec 16) (dst : W64) (s : State) (off : Nat) (b : List Byte) : Except Nat State :=
  match s.driftXl asid (dst + BitVec.ofNat 64 off) .store with
  | .error st => .error st
  | .ok a => if regionOf a == .hbm then .ok (s.storeMem ags a b) else .error 1

/-- DELIVER: the copy and the first announcement, then the announcements one by one (R381). -/
def execDeliver (hd : DHdr) (src dst : W64) (len tsize : W32) (name : W64) (s : State) : Host.Outcome State Fault Refusal :=
  let n := s.focusEnt
  let _ := hd
  match tfind s.drifts n with
  | none => .next s
  | some e =>
    let l := s.dlist e.list
    match e.phase, e.tile, e.ending with
    | .fired, _, _ =>
      let s0 := (s.entAcquire e).driftTouch e
      let (bs, srcSt) := s0.driftBytes l.asid src len.toNat
      let (s1, st, k) := putLines (deliverLine (s0.entAgents e) l.asid dst) srcSt (driftLines dst.toNat len.toNat) 0 bs s0 0
      if st != 0 then .next (s1.endEnt n st k) else .next (s1.deliverTile n e l dst len.toNat tsize.toNat name 0 k)
    | .sending, some j, some st =>
      if st != 0 then .next (s.endEnt n st 0)
      else if (j + 1) * tsize.toNat < len.toNat then .next (s.deliverTile n e l dst len.toNat tsize.toNat name (j + 1) 0)
      else .next (s.endEnt n 0 0)
    | _, _, _ => .next s

/-! Multicast lines and their end (R377 to R379). -/

/-- Members of the group that received the put's lines: those that answered positively, and in a reduce group of them the
members to which its lines go (R370, R377, R378). -/
def State.mcReceivers (s : State) (e : DriftEnt) (g : Group) (grp off len : Nat) : List Nat :=
  let offs := (List.range (len / 64)).map (fun i => off + 64 * i)
  g.list.filter (fun d => !tmem e.naks d && !s.devDown (panelTdev d) && s.aprx (panelTdev d) grp &&
    (if g.kind = 0 then d != Config.devId.toNat else offs.any (fun o => (g.receivers o).contains d)))

/-- NAKMAP (R379). -/
def nakMap (t : Tbl Nat) : W64 := BitVec.ofNat 64 (t.map (fun p => 2 ^ p.1)).sum

/-- The ack record (R379). -/
def ackRecord (e : DriftEnt) : List Byte :=
  let first := match e.naks with | p :: _ => p.2 | [] => 0
  bytesOfNat 8 (nakMap e.naks).toNat ++ bytesOfNat 8 (first * 256 + e.naks.length) ++ bytesOfNat 8 e.sig.toNat ++ bytesOfNat 8 0

/-- A put through the aperture whose lines are all acknowledged: the counters rise, and the ack record is written. -/
def State.mcEnd (s : State) (n : Nat) (e : DriftEnt) : State :=
  match e.entry with
  | .putmc _ _ dst len rctr ack =>
    let l := s.dlist e.list
    let g := s.group (descGroup dst)
    let s1 := (s.mcReceivers e g (descGroup dst) (descOff dst) len.toNat).foldl (fun s d => s.rctr e (panelTdev d) rctr) s
    if l.dput then s1.endEnt n 0 (len.toNat / 64)
    else match s1.driftXl l.asid ack .store with
      | .ok a =>
        if regionOf a == .firn then (s1.storeMem (s1.entAgents e) a (ackRecord e)).endEnt n 0 (len.toNat / 64) else s1.endEnt n 1 (len.toNat / 64)
      | .error st => s1.endEnt n st (len.toNat / 64)
  | _ => s

/-- Every line of a put has been sent. -/
def DriftEnt.allSent (e : DriftEnt) : Bool :=
  match e.entry with
  | .putmc _ _ _ len _ _ => len.toNat ≤ e.mcOff
  | _ => false

/-- MULTICAST_LINE: the next line of a put through the aperture is sent (R375, R377, R378). -/
def execMulticastLine (put : Nat) (s0 : State) : Host.Outcome State Fault Refusal :=
  match tfind s0.drifts put with
  | none => .next s0
  | some e =>
    match e.phase, e.entry with
    | .sending, .putmc _ src dst len _ _ =>
      if e.allSent then .next s0
      else
        let s := if (s0.dlist e.list).src.isSome then s0
          else s0.driftFill (s0.dlist e.list).asid (src + BitVec.ofNat 64 e.mcOff) 64
        let g := descGroup dst
        let off := descOff dst + e.mcOff
        let lines := e.mcOff / 64
        let n := min (len.toNat - e.mcOff) (64 - off % 64)
        match s.usableGroup g with
        | none => .next (s.endEnt put 0x42 lines)
        | some grp =>
          if min grp.size (2 ^ 30) < off + n then .next (s.endEnt put 0x41 lines)
          else if n != 64 then .next (s.endEnt put 1 lines)
          else match s.srcBytes (s.dlist e.list) src e.mcOff 64 with
            | (bs, st) =>
              if bs.length < 64 then .next (s.endEnt put (st.getD 1) lines)
              else if grp.kind = 0 then
                let (naks, s1) := s.multicastTo (s.entAgents e) g grp off bs Config.devId.toNat
                .next (s1.setEnt put { e with mcOff := e.mcOff + 64, naks := addNaks e.naks naks })
              else
                let s1 := s.setEnt put { e with mcOff := e.mcOff + 64, acks := e.acks ++ [(g, off)] }
                .next (s1.ownLine g off bs (.drift put))
    | _, _ => .next s0

/-! Arming (R368, R373). -/

/-- An entry as it is read from its list. -/
def State.readEntry (s : State) (asid : BitVec 16) (va : W64) : Except Nat Instr :=
  match s.driftXl asid va .load with
  | .error st => .error st
  | .ok a =>
    if regionOf a != .firn then .error 1
    else match s.readAs .drift a 64 with
      | .error r => .error (respStatus r)
      | .ok bs => match decodeDrift bs with
        | .ok i => .ok i
        | .error _ => .error 0x30

/-- The entries of a list, or the index and status of the first that fails. -/
def State.readList (s : State) (asid : BitVec 16) (va : W64) : Nat → Nat → Except (Nat × Nat) (List Instr)
  | 0, _ => .ok []
  | n + 1, i =>
    match s.readEntry asid (va + BitVec.ofNat 64 (64 * i)) with
    | .error st => .error (i, st)
    | .ok x =>
      match s.readList asid va n (i + 1) with
      | .error e => .error e
      | .ok r => .ok (x :: r)

/-- An entry as it is armed: it fires at once where its counter has reached the threshold (R368). -/
def State.armed (s : State) (lst idx : Nat) (i : Instr) : DriftEnt :=
  let e : DriftEnt :=
    { list := lst, idx := idx, entry := i, phase := .armed, num := 0, tries := 0, mcOff := 0, naks := [], sig := 0, acks := [],
      tile := none, ending := none }
  match driftHdr i with
  | some h => if h.thresh.toNat ≤ (tget 0 s.ctrs h.trig.toNat).toNat then { e with phase := .fired } else e
  | none => e

/-- Put an entry into the table, after the others, with a number of its own (R50). -/
def State.addEnt (s : State) (e : DriftEnt) : State :=
  let id := match s.drifts.getLast? with | some p => p.1 + 1 | none => 0
  { s.setEnt id { e with num := s.cmdNext } with cmdNext := s.cmdNext + 1 }

/-- A list ends without arming: its completion is due. -/
def State.failList (s : State) (lst : Nat) (l : DriftList) (idx st : Nat) : State :=
  { s with dlists := tset s.dlists lst { l with waiting := none, left := 0, failed := some (idx, st) } }

/-- Arm a list: every entry is read and checked first (R368, R373). -/
def State.armList (s0 : State) (lst : Nat) (l : DriftList) (va : W64) : State :=
  let s := s0.driftFill l.asid va (64 * l.n)
  match s.readList l.asid va l.n 0 with
  | .error (i, st) => s.failList lst l i st
  | .ok es =>
    let s1 := { s with dlists := tset s.dlists lst { l with waiting := none, left := l.n } }
    (es.zipIdx).foldl (fun s p => s.addEnt (s.armed lst p.2 p.1)) s1

/-- A list fits the armed table of 4,096 entries. -/
def State.fits (s : State) (n : Nat) : Bool := s.drifts.length + n ≤ 4096

/-- Waiting lists are armed in arrival order while they fit (R373). -/
def State.armWaiting (s : State) : State :=
  (s.dlists.foldl (fun r p => match p.2.waiting with
    | some va => if r.2 && r.1.fits p.2.n then (r.1.armList p.1 p.2 va, true) else (r.1, false)
    | none => r) (s, true)).1

/-! Completion (R370, R371, R373). -/

/-- A header's counter takes its increment. -/
def State.ctrInc (s : State) (e : DriftEnt) (c : BitVec 16) : State := s.rctr e ownTdev c

/-- An entry is over: it leaves the table, and its list counts it; at the first failure the entries that have not fired
are disarmed (R371). -/
def State.closeEnt (s : State) (n : Nat) (e : DriftEnt) (st lines : Nat) : State :=
  let l := { s.dlist e.list with lines := lines, nakmap := nakMap e.naks }
  let s0 := { s with drifts := tdel s.drifts n }
  if st = 0 then
    let s1 := { s0 with dlists := tset s0.dlists e.list { l with left := l.left - 1, ok := l.ok + 1 } }
    match driftHdr e.entry with
    | some h => ((s1.ctrInc e h.ctra).ctrInc e h.ctrb).armWaiting
    | none => s1.armWaiting
  else
    let unfired (p : Nat × DriftEnt) : Bool := p.2.list == e.list && p.2.phase == .armed
    let gone := (s0.drifts.filter unfired).length
    let l1 := { l with left := l.left - 1 - gone,
                       failed := match l.failed with | some f => some f | none => some (e.idx, st) }
    ({ s0 with drifts := s0.drifts.filter (fun p => !unfired p), dlists := tset s0.dlists e.list l1 }).armWaiting

/-- DRIFT_ENTRY_COMPLETION (R370, R371). -/
def execDriftEntryCompletion (ent : Nat) (s : State) : Host.Outcome State Fault Refusal :=
  let close (s : State) : State :=
    match tfind s.drifts ent with
    | some e => match e.phase with
      | .ended st lines => s.closeEnt ent e st lines
      | _ => s
    | none => s
  match tfind s.drifts ent with
  | none => .next s
  | some e =>
    match e.phase with
    | .ended _ _ => .next (close s)
    | .sending => if e.allSent && e.acks.isEmpty then .next (close (s.mcEnd ent e)) else .next s
    | _ => .next s

/-- DRIFT_RETRY (R371). -/
def execDriftRetry (ent : Nat) (s : State) : Host.Outcome State Fault Refusal :=
  match tfind s.drifts ent with
  | none => .next s
  | some e =>
    match e.phase with
    | .retry t => if t ≤ s.wallus.toNat then .next (s.setEnt ent { e with phase := .fired }) else .next s
    | _ => .next s

/-- The status of a list or DPUT that has ended. -/
def DriftList.status (l : DriftList) : Nat := match l.failed with | some f => f.2 | none => 0

/-- Its DETAIL (R373, R374). -/
def DriftList.detail (l : DriftList) : Nat :=
  if l.dput then l.lines
  else (match l.failed with | some f => f.1 | none => 0x3FF) * 2 ^ 22 + l.ok

/-- DARM_COMPLETION: every entry of a list is over, or a DPUT's is (R373, R374). -/
def execDarmCompletion (lst : Nat) (s : State) : Host.Outcome State Fault Refusal :=
  match tfind s.dlists lst with
  | none => .next s
  | some l =>
    if l.left != 0 || l.waiting.isSome then .next s
    else
      let s0 := { s with dlists := tdel s.dlists lst }
      let s1 := match l.qid2 with | some q => s0.fillRaw l.org.core l.org.lid qDrift q l.nakmap | none => s0
      .next (s1.complete l.org qDrift l.qid (if l.dput then 0x16 else 0x15) l.status l.detail (some l.sig))

/-! DARM and DPUT. -/

/-- Put a list into the table; its number. -/
def State.addList (s : State) (l : DriftList) : Nat × State :=
  let id := match s.dlists.getLast? with | some p => p.1 + 1 | none => 0
  (id, { s with dlists := tset s.dlists id l })

/-- The bytes of a list. -/
def State.listUnits (s : State) (asid : BitVec 16) (va : W64) (n : Nat) : Nat → Nat → Bool :=
  match s.xlateRange s.driftTlb asid .load 2 va (64 * n) with
  | .ok ps => inPieces ps
  | .error _ => fun _ _ => false

/-- DARM reaches the engine: it reads the list as its context would, and the entries with ACQ will observe what the context
has acquired (R368, R373, R383). -/
def State.sendDarm (s : State) (o : EngArgs) (qid : Nat) : State :=
  let s1 := s.drainCmd s.origin
  let h := s1.pHnd o 19
  let org := s1.origin
  let l := { noDList with org := org, asid := s1.cx.launch.asid, n := hDim h 0, qid := qid, sig := EngArgs.signal o }
  let (id, s2) := s1.addList l
  if hRes h = 0 || hRes h = 3 || !hContig h then s2.failList id l 0 5
  else if hDim h 0 = 0 || 1024 < hDim h 0 then s2.failList id l 0 0x30
  else if (hBase h).toNat % 64 != 0 then s2.failList id l 0 1
  else
    let s3 := (s2.beginOver org o .drift (s2.listUnits l.asid (hBase h) l.n) (fun _ _ => false)).release s2.ctxAgent (.list id) 6
      (fun _ _ => true)
    ({ s3 with dlists := tset s3.dlists id { l with waiting := some (hBase h) } }).armWaiting

/-- DARM (R373). -/
def execDarm (o : EngArgs) (s : State) : Host.Outcome State Fault Refusal :=
  slot (.darm o) s (fun s => s.engCmd (.darm o) o (fun q s => s.sendDarm o q))

/-- The entry that a DPUT stands for: a PUT, or a PUTMC (R374). -/
def dputEntry (h : W256) (desc sr : W64) : Instr :=
  let hd : DHdr := { rel := 0, acq := 0, scope := 0, re := 0, rn := 0, trig := 0, thresh := 0, ctra := 0, ctrb := 0 }
  let rctr : BitVec 16 := sr.extractLsb' 0 16 &&& 0x8FFF
  let len := BitVec.ofNat 32 (hBytes h)
  if desc.getLsbD 63 then .putmc hd (hBase h) desc len rctr 0 else .put hd (hBase h) desc len rctr

/-- DPUT reaches the engine: its entry has fired (R374); with the armed table full it ends NOROOM (R372; DEDUCED, log 28). -/
def State.sendDput (s : State) (o : EngArgs) (qid : Nat) : State :=
  let h := s.pHnd o 19
  let s1 := (s.drainCmd s.origin).beginOver s.origin o .drift (s.inWin s.origin h) (fun _ _ => false)
  let desc := s1.pScal o 13
  let org := s1.origin
  let l := { noDList with
    org := org, asid := s1.cx.launch.asid, n := 1, left := 1, qid := qid,
    qid2 := if desc.getLsbD 63 then some (qid + 1) else none, dput := true, sig := EngArgs.signal o
    src := if hRes h = 0 then some (s1.winBytes org h (hCount h)) else none }
  let (id, s2) := s1.addList l
  let i := dputEntry h desc (s1.pScal o 7)
  if hRes h = 3 || !hContig h || hNibbles h = 0 || hNibbles h % 2 = 1 then s2.failList id l 0 5
  else if 2 ^ 24 < hBytes h || !driftLegal i then s2.failList id l 0 0x30
  else if hRes h = 0 && !winInShare s2.cx.launch h then s2.failList id l 0 1
  else if !s2.fits 1 then s2.failList id l 0 0x0A
  else s2.addEnt { s2.armed id 0 i with phase := .fired }

/-- DPUT (R374). -/
def execDput (o : EngArgs) (s : State) : Host.Outcome State Fault Refusal :=
  slot (.dput o) s (fun s => s.engCmd (.dput o) o (fun q s => s.sendDput o q))

/-! What is due. -/

/-- The entry that the engine performs next (R368). -/
def State.driftReady (s : State) : Option Nat :=
  (s.drifts.find? (fun p => match p.2.phase, p.2.ending with
    | .fired, _ => true
    | .sending, some _ => true
    | _, _ => false)).map Prod.fst

/-- The event that is due of an entry. -/
def State.entDue (s : State) (n : Nat) (e : DriftEnt) : Option Event :=
  match e.phase with
  | .ended _ _ => some (.driftEntryCompletion n)
  | .retry t => if t ≤ s.wallus.toNat then some (.driftRetry n) else none
  | .sending => match e.entry with
    | .putmc .. =>
      if !e.allSent then some (.multicastLine n) else if e.acks.isEmpty then some (.driftEntryCompletion n) else none
    | _ => none
  | _ => none

/-- The first event that is due of the engine. -/
def State.driftDue (s : State) : Option Event :=
  match s.drifts.findSome? (fun p => s.entDue p.1 p.2) with
  | some e => some e
  | none =>
    match s.rings.find? (fun p => s.ringFree p.2) with
    | some p => some (.ringSlotTransfer p.1)
    | none => (s.dlists.find? (fun p => p.2.left == 0 && p.2.waiting.isNone)).map (fun p => .darmCompletion p.1)

end Sys2Proof.Machine
end

