-- ==== Sys2Proof/Machine/Launch.lean ====
section
/-! DEFINITION. Launches: records and their checks (R27 to R29, R48), placement and admission (R32 to R35), the count of
an indirect launch (R43), completion (R30, R31), and LAUNCH and LAUNCHI (R273). -/

namespace Sys2Proof.Machine

open Sys2Proof

/-! The record (R27). -/

/-- A little-endian field of a launch record. -/
def recField (r : List Byte) (off n : Nat) : Nat := natOfBytes ((r.drop off).take n)

def recFlag (r : List Byte) (b : Nat) : Bool := recField r 4 4 / 2 ^ b % 2 == 1
def recIndirect (r : List Byte) : Bool := recFlag r 2
def recCskind (r : List Byte) : Nat := recField r 4 4 / 8 % 4
def recAsid (r : List Byte) : BitVec 16 := BitVec.ofNat 16 (recField r 0x42 2)
def recW (r : List Byte) : Nat := recField r 0x18 2
def recH (r : List Byte) : Nat := recField r 0x1A 2
def recOx (r : List Byte) : Nat := recField r 0x1C 2
def recOy (r : List Byte) : Nat := recField r 0x1E 2
def recLsneed (r : List Byte) : Nat := recField r 0x2C 4

/-- LAUNCH takes INDIRECT and CSKIND as 0; LAUNCHI takes INDIRECT as 1 (R273). -/
def recAdjust (r : List Byte) (indirect : Bool) : List Byte :=
  r.set 4 (if indirect then r.getD 4 0 ||| 4 else r.getD 4 0 &&& 0xE3)

/-- The translation cache of a die's launch unit, of 64 entries (R406), and the pages of a range installed in it. -/
def State.lunitTlb (s : State) (die : Nat) : List TlbEnt := tget [] s.unitTlbs die
def State.lunitFill (s : State) (die : Nat) (asid : BitVec 16) (va : W64) (n : Nat) : State :=
  (pageStarts va n).foldl (fun s a =>
    { s with unitTlbs := tput [] s.unitTlbs die (s.tlbAdd (s.lunitTlb die) 64 asid a) }) s

/-- Bytes of a launch's address space, as its launch unit reads them; none where a translation or a read fails. -/
def State.lunitBytes (s : State) (die : Nat) (asid : BitVec 16) (va : W64) (n : Nat) : Option (List Byte) :=
  match s.xlateRange (s.lunitTlb die) asid .load (n / 65536 + 2) va n with
  | .error _ => none
  | .ok ps =>
    if ps.any (fun p => regionOf p.1 == .counters) then none
    else match s.readPieces (.launcher die) ps with | .ok bs => some bs | .error _ => none

/-- An entry of the region table is well-formed (R48). -/
def regionOk (e : List Byte) : Bool :=
  let base := recField e 0 8
  let size := recField e 8 8
  let sync := recField e 0x10 8
  let kind := recField e 0x18 8
  base % 65536 == 0 && size % 65536 == 0 && size != 0 &&
  (match kind with
   | 0 => sync == 0
   | 1 | 2 => sync % 64 == 0
   | 3 => sync < 2 ^ 24
   | _ => false)

/-- Two regions share a byte. -/
def regionsMeet (a b : List Byte) : Bool :=
  recField a 0 8 < recField b 0 8 + recField b 8 8 && recField b 0 8 < recField a 0 8 + recField a 8 8

/-- The die whose launch unit takes a record (R35). -/
def recDie (r : List Byte) : Nat := if recOx r = 0xFFFF then 0 else recOx r / 8

/-- The entries of the region table; none where it cannot be read (R48). -/
def State.regTab (s : State) (r : List Byte) : Option (List (List Byte)) :=
  let n := recField r 0x40 2
  if n = 0 then some []
  else (s.lunitBytes (recDie r) (recAsid r) (BitVec.ofNat 64 (recField r 0x38 8)) (32 * n)).map (fun bs =>
    (List.range n).map (fun i => (bs.drop (32 * i)).take 32))

/-- The region table passes R48. -/
def State.regTabOk (s : State) (r : List Byte) : Bool :=
  match s.regTab r with
  | none => false
  | some es => es.all regionOk && (es.zipIdx).all (fun p => (es.drop (p.2 + 1)).all (fun q => !regionsMeet p.1 q))

/-- A region: virtual base, size, KIND, SYNC (R48). -/
def regionEntry (e : List Byte) : Nat × Nat × Nat × Nat := (recField e 0 8, recField e 8 8, recField e 0x18 8, recField e 0x10 8)

/-- The checks of R28 that end in BADREC, with those of R48. -/
def State.badRec (s : State) (slot : Bool) (r : List Byte) : Bool :=
  let lsimg := recField r 0x70 8
  let lslen := recField r 0x78 4
  let big (off : Nat) : Bool := 2 ^ 24 < recField r off 4
  r.length != 128 || recField r 0 4 / 2 != 0 || recField r 4 4 / 2 ^ 5 != 0 || recField r 0x46 2 != 0 ||
  recField r 0x64 4 != 0 || recField r 0x7C 4 != 0 ||
  recW r == 0 || recH r == 0 ||
  (recOx r % 2 == 1 && recOx r != 0xFFFF) || (recOy r % 2 == 1 && recOy r != 0xFFFF) ||
  (recOx r == 0xFFFF) != (recOy r == 0xFFFF) ||
  recLsneed r % 16384 != 0 || 786432 < recLsneed r || 4096 < recField r 0x40 2 ||
  recField r 0x10 8 % 64 != 0 || recField r 0x48 8 % 16 != 0 || recField r 0x68 8 % 16 != 0 || lsimg % 8 != 0 ||
  lslen % 8 != 0 || (lsimg == 0 && lslen != 0) ||
  (!recIndirect r && (big 0x20 || big 0x24 || big 0x28)) ||
  (slot && !recIndirect r && recCskind r != 0) ||
  !s.regTabOk r

/-- The cores of a rectangle, row by row. -/
def rectCores (ox oy w h : Nat) : List Nat :=
  (List.range h).flatMap (fun y => (List.range w).map (fun x => 16 * (ox + x) + (oy + y)))

/-- A rectangle fits the mesh and holds no retired core. -/
def State.rectOk (s : State) (w h ox oy : Nat) : Bool :=
  ox + w ≤ 32 && oy + h ≤ 16 && (rectCores ox oy w h).all (fun c => !tget false s.nun.retired c)

/-- The origins that the launch unit may choose, in increasing y, then x (R33). -/
def origins : List (Nat × Nat) := (List.range 8).flatMap (fun y => (List.range 16).map (fun x => (2 * x, 2 * y)))

/-- The origin of a round: the fixed one, or the first candidate that qualifies. -/
def State.originOf (s : State) (r : List Byte) : Option (Nat × Nat) :=
  if recOx r = 0xFFFF then origins.find? (fun o => s.rectOk (recW r) (recH r) o.1 o.2) else some (recOx r, recOy r)

/-- The record cannot fit the mesh (R28). -/
def State.noFit (s : State) (r : List Byte) : Bool :=
  match s.originOf r with
  | none => true
  | some o => !s.rectOk (recW r) (recH r) o.1 o.2

/-! Launches and their queues (R35). -/

def Launch.field (l : Launch) (off n : Nat) : Nat := recField l.record off n
def Launch.asid (l : Launch) : BitVec 16 := recAsid l.record

def State.setLaunch (s : State) (r : Nat) (l : Launch) : State := { s with launches := tset s.launches r l }

/-- The queue that a launch waits in. -/
def Launch.qkey (l : Launch) : Nat := 2 * l.die + (if l.prio then 1 else 0)
def State.lqueue (s : State) (k : Nat) : List Nat := tget [] s.lqueues k

/-- A launch goes to the tail of its queue. -/
def State.enqueueLaunch (s : State) (r : Nat) (l : Launch) : State :=
  { s.setLaunch r { l with phase := .queued } with lqueues := tput [] s.lqueues l.qkey (s.lqueue l.qkey ++ [r]) }

/-- A launch leaves its queue. -/
def State.unqueue (s : State) (r : Nat) (l : Launch) : State :=
  { s with lqueues := tput [] s.lqueues l.qkey ((s.lqueue l.qkey).filter (fun q => q != r)) }

/-- The launch at the head of a die's unit: a priority launch goes ahead of any normal one (R35). -/
def State.headOf (s : State) (die : Nat) : Option Nat :=
  match s.lqueue (2 * die + 1) with
  | r :: _ => some r
  | [] => (s.lqueue (2 * die)).head?

/-- A launch ends: only its completion is due. -/
def State.endLaunch (s : State) (r : Nat) (l : Launch) (code : Nat) : State :=
  (s.unqueue r l).setLaunch r { l with phase := .ended code }

/-- A record as it was copied is checked and queued (R28, R35). -/
def State.takeRecord (s0 : State) (src : LaunchSrc) (rec' : List Byte) : State :=
  let tab := 32 * recField rec' 0x40 2
  let s := if tab = 0 then s0
    else s0.lunitFill (recDie rec') (recAsid rec') (BitVec.ofNat 64 (recField rec' 0x38 8)) tab
  let id := match s.launches.getLast? with | some p => p.1 + 1 | none => 0
  let slot := match src with | .slot _ => true | .cmd .. => false
  let seed := BitVec.ofNat 32 (recField rec' 0x60 4)
  let l : Launch :=
    { src := src, record := rec', phase := .queued, lid := 0, die := recDie rec',
      prio := recFlag rec' 0, refusals := 0, x := if seed = 0 then 1 else seed, gx := recField rec' 0x20 4,
      gy := recField rec' 0x24 4, gz := recField rec' 0x28 4, counted := !recIndirect rec', ox := 0, oy := 0, tasks := 0,
      regions := ((s.regTab rec').getD []).map regionEntry }
  let ended (code : Nat) : State := s.setLaunch id { l with phase := .ended code }
  if s.badRec slot rec' then ended 2
  else if l.counted && (l.gx == 0 || l.gy == 0 || l.gz == 0) then ended 1
  else if s.noFit rec' then ended 3
  else s.enqueueLaunch id l

/-- The device admits launches and loads (R413, R417). -/
def State.admits (s : State) : Bool := s.nun.scrubbed && !s.nun.recovery

/-- The address of launch slot n (R410). -/
def launchSlot (n : Nat) : Nat := Config.windowBase + 128 * n

/-- The launch slot whose V was set first of those that wait (R35). -/
def State.slotDue (s : State) : Option Nat :=
  (s.doorbells.find? (fun a => a < launchSlot 256)).map (fun a => (a - Config.windowBase) / 128)

/-- LAUNCH_RECORD_COPY: the record of the slot next in line is copied, each 8-byte word as it has reached the launch unit, and V
becomes 0 (R27 to R29, R35). -/
def execLaunchRecordCopy (slot : Nat) (s : State) : Host.Outcome State Fault Refusal :=
  let a := launchSlot slot
  let v := tget 0 s.mem a
  if s.slotDue = some slot && v.getLsbD 0 && s.admits then
    let r := s.asSeen (.launcher 0) ownTdev a (readBytes s.mem a 128)
    .next ((s.storeMem [.launcher 0] a [v &&& 0xFE]).takeRecord (.slot slot) r)
  else .next s

/-! LAUNCH and LAUNCHI (R273). -/

/-- The command reaches the launch unit, which reads the record once. A read that fails leaves no record. -/
def State.sendLaunch (s : State) (o : EngArgs) (indirect : Bool) : State :=
  let s1 := [0, 1, 2, 3].foldl (fun t d => t.beginOver s.origin o (.launcher d) (fun _ _ => true) (fun _ _ => false)) (s.drainCmd s.origin)
  let va := hBase (s1.pHnd o 19)
  let e := s1.cx.launch
  let r := match s1.xlRange va 128 .load with
    | .error _ => []
    | .ok ps => match s1.readPieces (.launcher (coreDie s.focusCore)) ps with | .ok bs => bs | .error _ => []
  (s1.tlbFill s1.focusCore e.asid va).takeRecord (.cmd s1.origin va e.asid (EngArgs.signal o)) (recAdjust r indirect)

/-- LAUNCH (R273). -/
def execLaunch (o : EngArgs) (s : State) : Host.Outcome State Fault Refusal :=
  slot (.launch o) s (fun s => s.engCmd (.launch o) o (fun _ s => s.sendLaunch o false))

/-- LAUNCHI (R273). -/
def execLaunchi (o : EngArgs) (s : State) : Host.Outcome State Fault Refusal :=
  slot (.launchi o) s (fun s => s.engCmd (.launchi o) o (fun _ s => s.sendLaunch o true))

/-! The count of an indirect launch (R43). -/

/-- Where the count's sync object stands. -/
def State.syncAt (s : State) (l : Launch) (ok : Region → Bool) : Option Nat :=
  let va := BitVec.ofNat 64 (l.field 0x50 8)
  if va.toNat % 64 != 0 then none
  else match s.xlate (s.lunitTlb l.die) l.asid va .load with
    | .error _ => none
    | .ok a => if ok (regionOf a) then some a else none

/-- Its first word. -/
def State.syncWord (s : State) (l : Launch) (ok : Region → Bool) : Option Nat :=
  (s.syncAt l ok).bind (fun a => match s.readDpa a 8 with | .ok bs => some (natOfBytes bs) | .error _ => none)

/-- The acquire of the count's sync object (R43, R52). -/
def State.acquireCount (s : State) (l : Launch) : State :=
  let at' (ok : Region → Bool) (o : Nat → SyncObj) (x : SyncObj) : Bool := (s.syncAt l ok).any (fun a => x == o a)
  let is (x : SyncObj) : Bool := match recCskind l.record with
    | 1 => at' (fun g => g == .firn) .barrier x
    | 2 => at' latchRegion .latch x
    | 3 => x == .name (BitVec.ofNat 64 (l.field 0x50 8))
    | _ => false
  s.acquire (.launcher l.die) 6 is

/-- The count's sync object is acquired. -/
def State.countReady (s : State) (l : Launch) : Bool :=
  let target := l.field 0x58 8
  match recCskind l.record with
  | 0 => true
  | 1 => match s.syncWord l (fun g => g == .firn) with | some v => v / 2 ^ 63 % 2 == target % 2 | none => false
  | 2 => match s.syncWord l latchRegion with | some v => target ≤ v | none => false
  | _ =>
    let name : W64 := BitVec.ofNat 64 (l.field 0x50 8)
    match s.homeOf (128 * l.die) name with
    | some home => ((s.die (dieKey home)).record name).any (fun e => e.name == name)
    | none => false

/-- The count block is read as two 8-byte loads: GX, GY, GZ. -/
def State.countBlock (s : State) (l : Launch) : Option (Nat × Nat × Nat) :=
  let a := BitVec.ofNat 64 (l.field 0x48 8)
  match s.lunitBytes l.die l.asid a 8, s.lunitBytes l.die l.asid (a + 8) 8 with
  | some lo, some hi => some (recField lo 0 4, recField lo 4 4, recField hi 0 4)
  | _, _ => none

/-- COUNT_BLOCK_READ: the launch acquires its sync object, and then reads its grid; while the object is not there it
leaves the head of its queue (R43). -/
def execCountBlockRead (lnch : Nat) (s : State) : Host.Outcome State Fault Refusal :=
  match tfind s.launches lnch with
  | none => .next s
  | some l =>
    let read (again : Bool) : State :=
      let s := (s.acquireCount l).lunitFill l.die l.asid (BitVec.ofNat 64 (l.field 0x48 8)) 16
      match s.countBlock l with
      | none => s.endLaunch lnch l 2
      | some (x, y, z) =>
        let l1 := { l with gx := x, gy := y, gz := z, counted := true }
        if 2 ^ 24 < x || 2 ^ 24 < y || 2 ^ 24 < z then s.endLaunch lnch l1 5
        else if x = 0 || y = 0 || z = 0 then s.endLaunch lnch l1 1
        else if again then s.enqueueLaunch lnch l1 else s.setLaunch lnch l1
    match l.phase with
    | .queued =>
      if l.counted || s.headOf l.die != some lnch then .next s
      else if s.countReady l then .next (read false)
      else .next ((s.unqueue lnch l).setLaunch lnch { l with phase := .counting })
    | .counting => if s.countReady l then .next (read true) else .next s
    | _ => .next s

/-! Rounds (R32 to R34). -/

/-- RESERVATION_ROUND: the launch at the head of its queue takes a round number and an origin (R32, R33). -/
def execReservationRound (lnch : Nat) (s : State) : Host.Outcome State Fault Refusal :=
  match tfind s.launches lnch with
  | none => .next s
  | some l =>
    match l.phase with
    | .queued =>
      if !l.counted || s.headOf l.die != some lnch || !s.admits then .next s
      else match s.originOf l.record with
        | none => .next (s.endLaunch lnch l 3)
        | some (ox, oy) =>
          let cores := rectCores ox oy (recW l.record) (recH l.record)
          let l1 := { l with ox := ox, oy := oy, phase := .round s.nextRound cores false }
          .next { s.setLaunch lnch l1 with nextRound := s.nextRound + 1 }
    | _ => .next s

/-- Who a flight answers to: a context whose command it is (R30). -/
def Flight.orgs : Flight → List Origin
  | .atom o .. | .vatom o .. | .vred o .. | .binit o .. | .barr o .. | .bwait o .. | .ask o .. | .acqName o _ | .announce o ..
  | .seal o .. | .rel o .. | .flush o .. | .smload o .. => [o]
  | .red _ _ _ _ who _ => who.map RedWho.org
  | .trigName .. | .acqObj .. | .annUnit .. | .annDrift .. => []

/-- A core holds a tile task, or work, of a launch. -/
def Core.busyFor (k : Core) (lid : Nat) : Bool :=
  k.copies.any (fun p => p.2.lid == lid) ||
  k.arrays.any (fun p => p.2.run.any (fun r => r.cmd.lid == lid) || p.2.susp.any (fun r => r.cmd.lid == lid) ||
    p.2.queue.any (fun c => c.lid == lid)) ||
  k.ctxs.any (fun p => p.2.env.any (fun e => e.lid == lid) &&
    (p.2.tile.isSome || p.2.next.isSome || p.2.guard.commitDue))

/-- A command of a launch that satisfies a test is under way outside the cores, or a child of one (R30, R273). -/
def State.abroad (s : State) (mine : Origin → Bool) : Bool :=
  s.flights.any (fun p => p.2.orgs.any mine) || s.blocks.any (fun p => mine p.2.org) || s.dlists.any (fun p => mine p.2.org) ||
  s.launches.any (fun p => match p.2.src with | .cmd o .. => mine o | .slot _ => false)

/-- The shadow context of a core holds no launch, or one whose last tile task there has ended; one without a tile there holds it
until the launch completes (R36, R41). -/
def State.shadowFree (s : State) (c : Nat) : Bool :=
  let x := (s.core c).ctx 4
  match x.env with
  | none => true
  | some e => (e.firstTile c).isSome && x.tile.isNone && x.next.isNone && !x.guard.commitDue

/-- A normal context, or the shadow context, is free beyond the grants made (R32). -/
def State.ctxFree (s : State) (c : Nat) (prio : Bool) : Bool :=
  let k := s.core c
  let mine := k.grants.countP (fun g => ((tfind s.launches g.1).map Launch.prio) == some prio)
  let free := if prio then (if s.shadowFree c then 1 else 0) else [0, 1, 2, 3].countP (fun n => (k.ctx n).env.isNone)
  mine < free

/-- Bytes of local store that no launch holds and no grant claims. -/
def Core.lsFree (k : Core) : Nat := 16384 * (48 - k.units.length) - (k.grants.map Prod.snd).sum

/-- A round with a lower number has still to ask a core (R32). -/
def State.earlierRound (s : State) (num core : Nat) : Bool :=
  s.launches.any (fun p => match p.2.phase with | .round n left _ => n < num && left.contains core | _ => false)

/-- RESERVE: a core of the rectangle grants or refuses (R32). -/
def execReserve (lnch : Nat) (core : Nat) (s : State) : Host.Outcome State Fault Refusal :=
  match tfind s.launches lnch with
  | none => .next s
  | some l =>
    match l.phase with
    | .round num left refused =>
      if !left.contains core || s.earlierRound num core then .next s
      else
        let k := s.core core
        let ok := !tget false s.nun.retired core && s.ctxFree core l.prio && recLsneed l.record ≤ k.lsFree
        let s1 := s.setLaunch lnch { l with phase := .round num (left.erase core) (refused || !ok) }
        .next (if ok then s1.setCore core { k with grants := k.grants ++ [(lnch, recLsneed l.record)] } else s1)
    | _ => .next s

/-- Every grant of a launch's round is returned. -/
def State.dropGrants (s : State) (r : Nat) : State :=
  { s with cores := s.cores.map (fun (p : Nat × Core) => (p.1, { p.2 with grants := p.2.grants.filter (fun g => g.1 != r) })) }

/-- The next x of the back-off (R34). -/
def xorshift (x : W32) : W32 :=
  let a := x ^^^ (x <<< 13)
  let b := a ^^^ (a >>> 17)
  b ^^^ (b <<< 5)

/-- A round ends as a refusal: the launch gives up, or backs off (R32, R34). -/
def State.refuseRound (s : State) (r : Nat) (l : Launch) : State :=
  let s1 := (s.dropGrants r).unqueue r l
  let k := l.refusals + 1
  let x := xorshift l.x
  let max' := l.field 0x44 2
  let l1 := { l with refusals := k, x := x }
  if max' != 0 && max' ≤ k then s1.endLaunch r l1 4
  else s1.setLaunch r { l1 with phase := .backoff (s1.wallus.toNat + (1 + x.toNat % 64) * 2 ^ (min k 11 - 1)) }

/-- RELEASE: a core has refused (R32). -/
def execRelease (lnch : Nat) (s : State) : Host.Outcome State Fault Refusal :=
  match tfind s.launches lnch with
  | none => .next s
  | some l =>
    match l.phase with
    | .round _ [] true => .next (s.refuseRound lnch l)
    | _ => .next s

/-- BACKOFF_EXPIRY: the launch rejoins its queue at the tail (R34). -/
def execBackoffExpiry (lnch : Nat) (s : State) : Host.Outcome State Fault Refusal :=
  match tfind s.launches lnch with
  | none => .next s
  | some l =>
    match l.phase with
    | .backoff t => if t ≤ s.wallus.toNat then .next (s.enqueueLaunch lnch l) else .next s
    | _ => .next s

/-! COMMIT (R32, R37, R235). -/

/-- The data records of a local-store image: offsets and bytes; none where one is malformed or leaves the share (R103,
R111). -/
def lsRecords (need : Nat) : Nat → List Byte → Option (List (Nat × List Byte))
  | 0, _ => some []
  | fuel + 1, bs =>
    if bs.isEmpty then some []
    else
      let a := recField bs 0 8
      let n := recField bs 8 4
      let kind := recField bs 12 4
      let body := (bs.drop 16)
      let pad := (n + 7) / 8 * 8
      if bs.length < 16 || n = 0 || need < a + n || 2 ≤ kind || (kind = 0 && body.length < pad) then none
      else if kind = 1 then (lsRecords need fuel body).map (fun r => (a, List.replicate n 0) :: r)
      else (lsRecords need fuel (body.drop pad)).map (fun r => (a, body.take n) :: r)

/-- The launch's local-store image (R111). -/
def State.lsImage (s : State) (l : Launch) : Option (List (Nat × List Byte)) :=
  let n := l.field 0x78 4
  if n = 0 then some []
  else match s.lunitBytes l.die l.asid (BitVec.ofNat 64 (l.field 0x70 8)) n with
    | none => none
    | some bs => lsRecords (recLsneed l.record) (n / 8 + 1) bs

/-- RES of the launch handle by where PARAM lies, whatever its page permits (R37; log 29). -/
def State.paramRes (s : State) (l : Launch) (param : W64) : Nat :=
  if param = 0 then 2
  else match s.xlate (s.lunitTlb l.die) l.asid param .handle with
    | .ok dpa => match regionOf dpa with
      | .remote .. | .aperture .. => 3
      | .firn | .window | .counters | .regs => 1
      | _ => 2
    | .error f => if f.kind = 8 then 1 else 2

/-- A dimension of the launch handle: a grid size above 65,535 is held as 0xFFFF (R117). -/
def dimField (n : Nat) : Nat := min n 0xFFFF

/-- The launch handle (R37, R115). -/
def State.launchHandle (s : State) (l : Launch) : W256 :=
  let param : W64 := BitVec.ofNat 64 (l.field 0x30 8)
  BitVec.ofNat 256 (param.toNat % 2 ^ 57 + s.paramRes l param * 2 ^ 57 +
    dimField l.gx * 2 ^ 128 + dimField l.gy * 2 ^ 144 + dimField l.gz * 2 ^ 160 + 2 ^ 176)

/-- What every core's context knows of a launch. -/
def Launch.env (l : Launch) (h0 : W256) : LaunchEnv :=
  { lid := l.lid, asid := l.asid, lsneed := recLsneed l.record, ox := l.ox, oy := l.oy, w := recW l.record,
    h := recH l.record, gx := l.gx, gy := l.gy, gz := l.gz, param := BitVec.ofNat 64 (l.field 0x30 8),
    guard := recFlag l.record 1, prio := l.prio, regions := l.regions, entry := BitVec.ofNat 64 (l.field 8 8 + l.field 0x10 8), umap := [], h0 := h0 }

/-- The lowest-numbered units that no context holds (R235). -/
def Core.takeUnits (k : Core) (n : Nat) : List Nat := ((List.range 48).filter (fun u => !tmem k.units u)).take n

/-- The share of a launch on a core: zeroed, then written with its image (R235). -/
def Core.fillShare (k : Core) (e : LaunchEnv) (img : List (Nat × List Byte)) : Core :=
  let k1 := { k with
    ls := k.ls.filter (fun p => !e.umap.contains (p.1 / 16384)),
    lsUe := k.lsUe.filter (fun p => !e.umap.contains (p.1 * 32 / 16384)),
    units := e.umap.foldl (fun t u => tset t u e.lid) k.units }
  img.foldl (fun k p => k.lsWrite e p.1 p.2) k1

/-- What is left of a launch in the shadow context stands aside until the launch completes: its commands still answer to it, and
its share is still held (R30, R41, R242). -/
def Core.standAside (k : Core) : Core :=
  match (k.ctx 4).env with
  | none => k
  | some _ => k.setCtx (tfreeFrom k.ctxs k.ctxs.length 5) (k.ctx 4)

/-- A core gives the launch its lowest-numbered free normal context, or its shadow context, and a share (R32, R235); the
snapshot marks of arrays that nobody owns clear (R282). -/
def Core.enrol (k0 : Core) (ref core : Nat) (e : LaunchEnv) (img : Option (List (Nat × List Byte))) : Core :=
  let k := if e.prio then k0.standAside else k0
  let n := if e.prio then 4 else ([0, 1, 2, 3].find? (fun n => (k.ctx n).env.isNone)).getD 0
  let e1 := { e with umap := k.takeUnits (e.lsneed / 16384) }
  let x := { Ctx.reset with env := some e1, next := if img.isSome then e1.firstTile core else none }
  let k1 := { k with
    grants := k.grants.filter (fun g => g.1 != ref)
    late := k.late.erase n
    shYield := if e.prio then 0 else k.shYield
    arrays := k.arrays.map (fun (p : Nat × Arr) => if p.2.owner.isNone then (p.1, { p.2 with snapv := false }) else p) }
  (k1.fillShare e1 (img.getD [])).setCtx n x

/-- The first LAUNCH_ID from a number on that no launch holds; 0xFFFF_FFFF is followed by 1 (R32). -/
def State.lidFrom (s : State) : Nat → Nat → Nat
  | 0, n => n
  | fuel + 1, n =>
    if s.launches.any (fun p => p.2.lid == n) then s.lidFrom fuel (if n = 0xFFFFFFFF then 1 else n + 1) else n

/-- The cause of a local-store image that could not be read, in the event log: an uncorrectable error with its DPA, or else a
translation fault at the launch's origin; one that reads well but is malformed, or leaves the share, is entered as such a fault
too, since R111 names no entry for it (R111, R424; DESIGN CHOICE, log 13). -/
def State.logImage (s : State) (l : Launch) : State :=
  let bad : Option Nat := match s.xlateRange (s.lunitTlb l.die) l.asid .load (l.field 0x78 4 / 65536 + 2) (BitVec.ofNat 64 (l.field 0x70 8))
      (l.field 0x78 4) with
    | .ok ps => (ps.find? (fun p => s.ueIn p.1 p.2)).bind (fun p =>
        ((granules p.1 p.2).find? (tget false s.memUe)).map (fun g => 8 * g))
    | .error _ => none
  match bad with
  | some a => s.logUe 0x3FF a (if regionOf a == .hbm then 3 else 2)
  | none => s.log (16 * l.ox + l.oy) 0x0004 (bytesOfNat 8 l.lid ++ [BitVec.ofNat 8 Cause.xlate.code, if l.prio then 4 else 0])

/-- COMMIT: every core has granted; a core that has retired since refuses (R32, R45). -/
def execCommit (lnch : Nat) (s : State) : Host.Outcome State Fault Refusal :=
  match tfind s.launches lnch with
  | none => .next s
  | some l =>
    match l.phase with
    | .round _ [] false =>
      let cores := rectCores l.ox l.oy (recW l.record) (recH l.record)
      if cores.any (tget false s.nun.retired) then .next (s.refuseRound lnch l)
      else
        let lid := s.lidFrom s.launches.length s.nextLid
        let lsimg := l.field 0x78 4
        let s := (if lsimg = 0 then s else s.lunitFill l.die l.asid (BitVec.ofNat 64 (l.field 0x70 8)) lsimg).lunitFill
          l.die l.asid (BitVec.ofNat 64 (l.field 0x30 8)) 1
        let img := s.lsImage l
        let l1 := { l with lid := lid, phase := if img.isSome then .running else .stopping 7 }
        let e := l1.env (s.launchHandle l)
        let s1 := { (s.unqueue lnch l).setLaunch lnch l1 with nextLid := if lid = 0xFFFFFFFF then 1 else lid + 1 }
        let s2 := if img.isSome then s1 else s1.logImage l1
        .next (cores.foldl (fun s c => s.setCore c ((s.core c).enrol lnch c e img)) s2)
    | _ => .next s

/-! Completion (R30, R31). -/

/-- Something of a launch is under way: a tile task, a command, a child, or an evicted context (R30, R42, R273). -/
def State.launchBusy (s : State) (lid : Nat) (evicted : Bool) : Bool :=
  s.cores.any (fun p => p.2.busyFor lid) || s.abroad (fun o => o.lid == lid) ||
  (evicted && s.cores.any (fun p => p.2.parking.any (fun q => q.lid == lid)))

/-- Contexts of a launch that has been stopped start no further tile (R31). -/
def Ctx.drained (x : Ctx) (lid : Nat) : Ctx :=
  if x.env.any (fun e => e.lid == lid) then { x with next := none } else x

def Core.drained (k : Core) (lid : Nat) : Core :=
  { k with ctxs := k.ctxs.map (fun (q : Nat × Ctx) => (q.1, q.2.drained lid)) }

/-- How a launch that is over ends, if it is. -/
def State.launchEnd (s : State) (l : Launch) : Option Nat :=
  match l.phase with
  | .ended code => some code
  | .running => if s.launchBusy l.lid true then none else some 0
  | .stopping code =>
    let t := { s with cores := s.cores.map (fun (p : Nat × Core) => (p.1, p.2.drained l.lid)) }
    if t.launchBusy l.lid false then none else some code
  | _ => none

/-- A core frees what a launch holds on it (R30, R235, R294). -/
def Core.freeLaunch (k : Core) (lid : Nat) : Core :=
  { k with
    ctxs := (k.ctxs.map (fun (q : Nat × Ctx) => (q.1, if q.2.env.any (fun e => e.lid == lid) then Ctx.reset else q.2))).filter
      (fun q => q.2 != Ctx.reset)
    units := k.units.filter (fun p => p.2 != lid)
    arrays := k.arrays.map (fun (p : Nat × Arr) => if p.2.owner = some lid then (p.1, { p.2 with owner := none }) else p)
    parking := k.parking.filter (fun p => p.lid != lid) }

/-- Where the completion record goes, if it can be written (R30). -/
def State.doneAt (s : State) (l : Launch) : Option Nat :=
  let va : W64 := BitVec.ofNat 64 (l.field 0x68 8)
  if l.record.length != 128 || va.toNat % 16 != 0 then none
  else match s.xlate (s.lunitTlb l.die) l.asid va .store with
    | .error _ => none
    | .ok a => match regionOf a with | .hbm | .firn | .window => some a | _ => none

/-- The completion record (R30). -/
def completionRecord (lid refusals code tasks : Nat) : List Byte :=
  bytesOfNat 8 (lid * 2 ^ 32 + min refusals 0xFFFF * 256 + code) ++ bytesOfNat 8 tasks

/-- The completion of a launch is a release of all that it wrote: on the record as a latch, and for the signal of a LAUNCH by
its command (R30, R51, R273). What its commands wrote by units and by Drift is among it. -/
def State.releaseLaunch (s : State) (l : Launch) (at' : Option Nat) : State :=
  if s.lags.isEmpty then s
  else
    let ours : Agent → Bool
      | .ctx _ n | .cmd _ n _ => n == l.lid
      | _ => false
    let also : List Agent := .launcher l.die :: (match l.src with | .cmd o .. => [o.agent] | .slot _ => [])
    let s1 : State := { s with lags := s.lags.map (fun g => { g with unseen := g.unseen.map (fun w =>
      if w.writers.any ours then { w with writers := w.writers ++ also } else w) }) }
    match at' with
    | some a => s1.release (.launcher l.die) (.latch a) (if regionOf a == .window then 6 else 3) (fun _ _ => true)
    | none => s1

/-- LAUNCH_COMPLETION: contexts and local store are freed, the record is written, and the signal of a LAUNCH or LAUNCHI
is applied (R30, R424). -/
def execLaunchCompletion (lnch : Nat) (s : State) : Host.Outcome State Fault Refusal :=
  match tfind s.launches lnch with
  | none => .next s
  | some l =>
    match s.launchEnd l with
    | none => .next s
    | some code =>
      let s := s.lunitFill l.die l.asid (BitVec.ofNat 64 (l.field 0x68 8)) 16
      let s1 := { s.unqueue lnch l with
        launches := tdel s.launches lnch
        cores := if l.lid = 0 then s.cores else s.cores.map (fun (p : Nat × Core) => (p.1, p.2.freeLaunch l.lid)) }
      let done := s1.doneAt l
      let (s2, lost) := match done with
        | some a => ((s1.storeMem [.launcher l.die] a (completionRecord l.lid l.refusals code l.tasks)).releaseLaunch l done, false)
        | none => (s1.releaseLaunch l none, true)
      let s3 := if lost || 2 ≤ code then
          s2.log 0x3FF 0x0003 (bytesOfNat 8 l.lid ++ [BitVec.ofNat 8 code, if lost then 1 else 0])
        else s2
      .next (match l.src with | .cmd o _ _ sig => s3.applySignal o sig | .slot _ => s3)

/-! What is due. -/

/-- The event that is due of a launch, or of the round it is in. -/
def State.oneLaunchDue (s : State) (r : Nat) (l : Launch) : Option Event :=
  match l.phase with
  | .queued =>
    if s.headOf l.die != some r then none
    else if !l.counted then some (.countBlockRead r)
    else if s.admits then some (.reservationRound r) else none
  | .counting => if s.countReady l then some (.countBlockRead r) else none
  | .round num left refused =>
    match left.find? (fun c => !s.earlierRound num c) with
    | some c => some (.reserve r c)
    | none => if left.isEmpty then some (if refused then .release r else .commit r) else none
  | .backoff t => if t ≤ s.wallus.toNat then some (.backoffExpiry r) else none
  | .running | .stopping _ | .ended _ => if (s.launchEnd l).isSome then some (.launchCompletion r) else none

/-- The first event that is due of the launch units. -/
def State.launchDue (s : State) : Option Event :=
  match s.launches.findSome? (fun p => s.oneLaunchDue p.1 p.2) with
  | some e => some e
  | none => if s.admits then s.slotDue.map Event.launchRecordCopy else none

end Sys2Proof.Machine
end

