-- ==== Sys2Proof/Machine/Image.lean ====
section
/-! DEFINITION. The save image of a context (R395 to R398): what an eviction writes and a restore reads. -/

namespace Sys2Proof.Machine

open Sys2Proof

/-! The save image (R395 to R397). -/

/-- Little-endian bytes of a word. -/
def b8 (v : W64) : List Byte := bytesOfNat 8 v.toNat

/-- A table's values as bytes, n bytes each. -/
def tableBytes (f : Nat → Nat) (count size : Nat) : List Byte := (List.range count).flatMap (fun i => bytesOfNat size (f i))

/-- DIRTY and STALE as the image holds them (R397). -/
def arrayBits (r : SerSt) : Nat :=
  ((List.range 4).map (fun a => (if r.dirty.getLsbD a then 2 ^ (24 + 2 * a) else 0) + (if r.stale.getLsbD a then 2 ^ (25 + 2 * a) else 0))).sum

/-- The system state block (R397). -/
def Arch.sysBlock (a : Arch) : List Byte :=
  let c := a.c
  let l := c.loops
  let lc (n : Nat) : Nat := (tget 0 l.lc n).toNat % 2 ^ 32
  [c.trapVec, c.trapPc, c.trapCause, c.trapInfo, c.replayVec, c.ckptPc].flatMap b8 ++
  bytesOfNat 8 (lc 0 + lc 1 * 2 ^ 32) ++
  bytesOfNat 8 (lc 2 + l.state.toNat % 2 ^ 10 * 2 ^ 32 + c.runLeft % 2 ^ 8 * 2 ^ 48) ++
  (List.range 3).flatMap (fun n => b8 (tget 0 l.start n) ++ b8 (tget 0 l.last n)) ++
  b8 c.smemErr ++ b8 a.v.vflags ++
  bytesOfNat 8 (a.v.intfmt.toNat + (if a.v.ftz then 2 ^ 16 else 0) + arrayBits a.r) ++
  bytesOfNat 8 a.r.spair.toNat ++ bytesOfNat 8 a.r.sflags.toNat ++
  (List.range 8).flatMap (fun n => b8 (tget 0 a.r.mp n)) ++
  bytesOfNat 8 a.v.replaySel ++ b8 c.xlateInfo ++ List.replicate 24 0

/-- A replay slot (R395). -/
def slotBytes : Option RSlot → List Byte
  | none => List.replicate 64 0
  | some r => bytesOfNat 32 r.hnd.toNat ++ b8 r.idx ++ b8 r.d1 ++
      (List.range 8).flatMap (fun g => bytesOfNat 2 (r.act.getD g 0).toNat)

/-- Poison bits of a group (R395). -/
def VecSt.poisonBits (v : VecSt) (g : Nat) : Nat :=
  ((List.range 64).map (fun r => if tmem v.poison (64 * g + r) then 2 ^ r else 0)).sum

/-- The header (R396). -/
def imageHeader (core n varlen : Nat) (x : Ctx) (yielding : Bool) : List Byte :=
  bytesOfNat 4 0x43564153 ++ bytesOfNat 2 1 ++ bytesOfNat 2 varlen ++ bytesOfNat 8 x.launch.lid ++ b8 (coreXY core) ++
  b8 x.a.c.pc ++ b8 x.a.c.bcount ++ bytesOfNat 1 n ++
  bytesOfNat 1 ((if yielding then 1 else 0) + (if x.a.c.active then 2 else 0)) ++ List.replicate 22 0

/-- The fixed part of the image of context n of a core (R395). -/
def saveImage (core n varlen : Nat) (x : Ctx) (yielding : Bool) : List Byte :=
  let a := x.a
  imageHeader core n varlen x yielding ++
  tableBytes (fun i => (tget 0 a.c.scal i).toNat) 63 8 ++ List.replicate 8 0 ++
  tableBytes (fun i => (tget 0 a.c.hnd i).toNat) 32 32 ++
  tableBytes (fun i => (tget 0 a.c.sem i).toNat) 256 2 ++
  a.sysBlock ++
  (List.range 32).flatMap (fun i => slotBytes (tfind a.v.replay i)) ++
  tableBytes (fun i => (a.v.gen core i).toNat) 320 4 ++
  (List.range 8).flatMap (fun g => tableBytes (fun k => (a.v.msk g k).toNat) 8 2) ++
  tableBytes a.v.poisonBits 8 8 ++
  (List.range 8).flatMap (fun g =>
    bytesOfNat 64 (tget 0 a.v.sfA g).toNat ++ bytesOfNat 64 (tget 0 a.v.sfB g).toNat ++ bytesOfNat 64 (tget 0 a.v.sfY g).toNat) ++
  tableBytes (fun i => (tget 0 a.v.vreg i).toNat) 512 64

/-- A table read back from an image. -/
def tabulate {α : Type} [DecidableEq α] (d : α) (n : Nat) (f : Nat → α) : Tbl α :=
  (List.range n).filterMap (fun i => if f i = d then none else some (i, f i))

/-- The levels of LOOP_STATE in the order activated (R120). -/
def loopOrder (st : Nat) : List Nat :=
  [st / 16 % 4, st / 64 % 4, st / 256 % 4].take ((List.range 3).countP (fun i => st / 2 ^ i % 2 == 1))

/-! The variable records (R398). R398 names what each body holds; the places of its fields are the model's own (DESIGN CHOICE,
log 30). -/

/-- A record: its tag and its body (R398). -/
def recordBytes (kind : Nat) (body : List Byte) : List Byte := bytesOfNat 8 (kind * 2 ^ 56 + body.length * 2 ^ 40) ++ body

/-- The destination of a landing entry as a code and a number. -/
def LandDest.code : LandDest → Nat × Nat
  | .vec r => (0, r) | .pair r => (1, r) | .mask k => (2, k) | .scal r => (3, r) | .hnd h => (4, h) | .sfy => (5, 0)
def landDest (code n : Nat) : LandDest :=
  match code with
  | 0 => .vec n | 1 => .pair n | 2 => .mask n | 3 => .scal n | 4 => .hnd n | _ => .sfy

/-- The cause with which a group will land poisoned; 0 for data. -/
def Arrival.code : Arrival → Nat
  | .ok => 0 | .bad c => c | .unread => 5

/-- A landing entry: the bundles that remain up to its landing [9:0], its destination [18:10], G [26:19], its replay slot or 0xFF
[34:27], the cause of each poisoned group from bit 35 on; lane activity and raised flags of g0 to g7; its data. -/
def Landing.body (e : Landing) : List Byte :=
  let gs := (List.range 8).map (fun g => e.groups.find? (fun p => p.grp == g))
  let there := gs.filterMap id
  let dest := e.dest.code
  bytesOfNat 8 ((e.count + 1) % 2 ^ 10 + dest.1 * 2 ^ 10 + dest.2 * 2 ^ 13 + (there.map (fun p => 2 ^ p.grp)).sum * 2 ^ 19 +
    e.slot.getD 0xFF * 2 ^ 27 + (there.map (fun p => p.arr.code * 2 ^ (35 + 3 * p.grp))).sum) ++
  gs.flatMap (fun p => bytesOfNat 2 ((p.map GroupLand.act).getD 0).toNat) ++
  gs.map (fun p => (p.map GroupLand.flags).getD 0) ++
  (match e.dest with
   | .vec _ | .sfy => there.flatMap (fun p => bytesOfNat 64 p.lo.toNat)
   | .pair _ => there.flatMap (fun p => bytesOfNat 64 p.lo.toNat ++ bytesOfNat 64 p.hi.toNat)
   | .mask _ => gs.flatMap (fun p => bytesOfNat 2 (maskOf (fun l => (lane ((p.map GroupLand.lo).getD 0) l).getLsbD 0)).toNat)
   | .scal _ => bytesOfNat 8 e.value.toNat
   | .hnd _ => bytesOfNat 32 e.value.toNat)

/-- A landing entry as its body gives it. -/
def landingOf (b : List Byte) : Landing :=
  let w := recField b 0 8
  let dest := landDest (w / 2 ^ 10 % 2 ^ 3) (w / 2 ^ 13 % 2 ^ 6)
  let row (off : Nat) : BitVec 512 := BitVec.ofNat 512 (recField b off 64)
  let group (p : Nat × Nat) : GroupLand :=
    let g := p.1
    let data : BitVec 512 × BitVec 512 := match dest with
      | .vec _ | .sfy => (row (32 + 64 * p.2), 0)
      | .pair _ => (row (32 + 128 * p.2), row (96 + 128 * p.2))
      | .mask _ => (rowOf (fun l => if recField b (32 + 2 * g) 2 / 2 ^ l % 2 = 1 then 1 else 0), 0)
      | _ => (0, 0)
    let cause := w / 2 ^ (35 + 3 * g) % 8
    { grp := g, act := BitVec.ofNat 16 (recField b (8 + 2 * g) 2), lo := data.1, hi := data.2, flags := b.getD (24 + g) 0,
      arr := if cause = 0 then .ok else .bad cause, late := false }
  let slot := w / 2 ^ 27 % 2 ^ 8
  { count := w % 2 ^ 10 - 1, dest := dest, groups := (((List.range 8).filter (fun g => w / 2 ^ (19 + g) % 2 == 1)).zipIdx).map group
    value := (match dest with
      | .scal _ => BitVec.ofNat 256 (recField b 32 8)
      | .hnd _ => BitVec.ofNat 256 (recField b 32 32)
      | _ => 0)
    slot := if slot = 0xFF then none else some slot }

/-- A reserved queue slot: its queue [7:0], its position from the head [15:8], whether it is filled [16], and its entry. -/
def QSlot.body (code pos : Nat) (q : QSlot) : List Byte :=
  bytesOfNat 8 (code + pos * 2 ^ 8 + (if q.entry.isSome then 2 ^ 16 else 0)) ++ bytesOfNat 8 (q.entry.getD 0).toNat

/-- The queues with the slots that records list, each as the context reserved it and with the record's entry. -/
def QueueSt.listed (q : QueueSt) (bodies : List (List Byte)) : QueueSt :=
  { q with q := q.q.filterMap (fun (p : Nat × List QSlot) =>
      let l := bodies.filterMap (fun b =>
        if recField b 0 1 = p.1 then
          (p.2[recField b 1 1]?).map (fun e => { e with entry := if recField b 2 1 % 2 = 1 then some (BitVec.ofNat 64 (recField b 8 8)) else none })
        else none)
      if l.isEmpty then none else some (p.1, l)) }

/-- What a Serac command copied at issue: its ENG word, SPAIR [5:0], FTZ [6], INTFMT [23:8] and its array [31:24], and its queue
slot (R312). -/
def ArrCmd.head (arr : Nat) (c : ArrCmd) : List Byte :=
  bytesOfNat 8 (Sys2Proof.encodeEng (BitVec.ofNat 6 c.op) c.eng).toNat ++
  bytesOfNat 8 (c.pair.toNat + (if c.ftz then 2 ^ 6 else 0) + c.intfmt.toNat * 2 ^ 8 + arr * 2 ^ 24) ++ bytesOfNat 8 c.qid
def arrCmdOf (lid : Nat) (mp : Tbl W64) (b : List Byte) : Nat × ArrCmd :=
  let w := BitVec.ofNat 64 (recField b 0 8)
  let f := recField b 8 8
  (f / 2 ^ 24 % 2 ^ 8,
    { op := (w.extractLsb' 58 6).toNat, eng := Sys2Proof.engArgsOf w, lid := lid, shadow := false, qid := recField b 16 8, mp := mp,
      pair := BitVec.ofNat 6 f, ftz := f / 2 ^ 6 % 2 == 1, intfmt := BitVec.ofNat 16 (f / 2 ^ 8) })

/-- mp0 to mp7, and as they are read back. -/
def mpBytes (mp : Tbl W64) : List Byte := tableBytes (fun n => (tget 0 mp n).toNat) 8 8
def mpOf (b : List Byte) (off : Nat) : Tbl W64 := tabulate 0 8 (fun n => BitVec.ofNat 64 (recField b (off + 8 * n) 8))

/-- A pending Serac command: the 24 bytes above, its mp0 to mp7, and 8 bytes 0. -/
def ArrCmd.body (arr : Nat) (c : ArrCmd) : List Byte := c.head arr ++ mpBytes c.mp ++ List.replicate 8 0

/-- A routine's micro-state (R297): its command; array [7:0], library routine or 0xFF [15:8], flags [23:16], yield point [24], gather
unit armed [25], loop levels [31:28], rows in the latch [39:32], scales of a row [47:40], rows still to gather [55:48]; micro-PC,
steps since the last yield point and the strides of rows and scales, 2 bytes each; steps; the gather unit's three addresses;
MLOOP levels 0 to 2, innermost first; mp0 to mp7; the latch's rows and their scales. -/
def Routine.body (arr : Nat) (r : Routine) : List Byte :=
  let g : Gather := r.gather.getD { idxAddr := 0, left := 0, base := 0, rstr := 0, sbase := 0, sstr := 0, latch := [] }
  let per := ((g.latch.head?).map (fun l => l.scales.length)).getD 0
  let loop (n : Nat) : Nat := match r.loops[n]? with
    | some l => l.lvl + l.start * 2 ^ 2 + l.last * 2 ^ 14 + l.left * 2 ^ 26
    | none => 0
  let rows := g.latch.flatMap (fun l => l.row ++ l.scales)
  r.cmd.head arr ++
  bytesOfNat 8 (arr + r.lib.getD 0xFF * 2 ^ 8 + r.flags.toNat * 2 ^ 16 + (if r.atYield then 2 ^ 24 else 0) +
    (if r.gather.isSome then 2 ^ 25 else 0) + r.loops.length * 2 ^ 28 + g.latch.length * 2 ^ 32 + per * 2 ^ 40 + g.left * 2 ^ 48) ++
  bytesOfNat 8 (r.pc + r.sinceYield * 2 ^ 16 + g.rstr * 2 ^ 32 + g.sstr * 2 ^ 48) ++ bytesOfNat 8 r.steps ++
  bytesOfNat 8 g.idxAddr ++ b8 g.base ++ b8 g.sbase ++
  (List.range 3).flatMap (fun n => bytesOfNat 8 (loop n)) ++ mpBytes r.mp ++
  rows ++ List.replicate ((8 - rows.length % 8) % 8) 0

/-- A routine as its body gives it, and its array. -/
def routineOf (lid : Nat) (b : List Byte) : Nat × Routine :=
  let w := recField b 24 8
  let v := recField b 32 8
  let per := w / 2 ^ 40 % 2 ^ 8
  let lib := w / 2 ^ 8 % 2 ^ 8
  let latch : List LatchRow := (List.range (w / 2 ^ 32 % 2 ^ 8)).map (fun i =>
    { row := (b.drop (160 + (48 + per) * i)).take 48, scales := (b.drop (208 + (48 + per) * i)).take per })
  let loops : List MicroLoop := (List.range (w / 2 ^ 28 % 2 ^ 4)).map (fun n =>
    let l := recField b (72 + 8 * n) 8
    { lvl := l % 2 ^ 2, start := l / 2 ^ 2 % 2 ^ 12, last := l / 2 ^ 14 % 2 ^ 12, left := l / 2 ^ 26 })
  let gather : Gather :=
    { idxAddr := recField b 48 8, left := w / 2 ^ 48 % 2 ^ 8, base := BitVec.ofNat 64 (recField b 56 8), rstr := v / 2 ^ 32 % 2 ^ 16,
      sbase := BitVec.ofNat 64 (recField b 64 8), sstr := v / 2 ^ 48 % 2 ^ 16, latch := latch }
  let mp := mpOf b 96
  (w % 2 ^ 8,
    { cmd := (arrCmdOf lid mp b).2, pc := v % 2 ^ 16, lib := if lib = 0xFF then none else some lib, mp := mp, loops := loops,
      gather := if w / 2 ^ 25 % 2 = 1 then some gather else none, steps := recField b 40 8, sinceYield := v / 2 ^ 16 % 2 ^ 16,
      flags := BitVec.ofNat 8 (w / 2 ^ 16), atYield := w / 2 ^ 24 % 2 == 1 })

/-- The landing entries of a context in issue order: those that a trap entry holds issued before the others (R138, R398). -/
def Ctx.landings (x : Ctx) : List Landing := (x.a.c.held.map Held.landing).getD [] ++ x.a.v.landing

/-- The variable records of a context, in the order of their kinds (R398). -/
def Ctx.records (x : Ctx) : List Byte :=
  (x.landings.flatMap (fun e => recordBytes 1 e.body)) ++
  (x.a.q.q.flatMap (fun p => (p.2.zipIdx).flatMap (fun e => recordBytes 2 (e.1.body p.1 e.2)))) ++
  (x.pendCmds.flatMap (fun p => recordBytes 3 (p.2.body p.1))) ++
  (x.routines.flatMap (fun p => recordBytes 4 (p.2.body p.1)))

/-- The records of an image's variable part: kinds and bodies (R398). -/
def recordsFrom : Nat → List Byte → List (Nat × List Byte)
  | 0, _ => []
  | fuel + 1, bs =>
    if bs.length < 8 then []
    else
      let tag := recField bs 0 8
      let len := tag / 2 ^ 40 % 2 ^ 16
      (tag / 2 ^ 56, (bs.drop 8).take len) :: recordsFrom fuel (bs.drop (8 + len))
def evictRecords (bs : List Byte) : List (Nat × List Byte) := recordsFrom (bs.length / 8) bs

/-- What the variable records of an image give a context; a trap that is active holds as many landing entries as when it was saved
(R138, R401). -/
def Ctx.withRecords (x : Ctx) (recs : List (Nat × List Byte)) : Ctx :=
  let of (kind : Nat) : List (List Byte) := (recs.filter (fun r => r.1 == kind)).map Prod.snd
  let lands := (of 1).map landingOf
  let lid := x.launch.lid
  let n := match x.a.c.held with | some h => h.landing.length | none => 0
  { x with
    a := { x.a with
      c := { x.a.c with held := x.a.c.held.map (fun h => { h with landing := lands.take n }) }
      v := { x.a.v with landing := lands.drop n
                        replay := x.a.v.replay.map (fun (p : Nat × RSlot) =>
                          (p.1, { p.2 with flying := lands.any (fun e => e.slot == some p.1) })) }
      q := x.a.q.listed (of 2) }
    pendCmds := (of 3).map (fun b => arrCmdOf lid (mpOf b 24) b)
    routines := (of 4).map (routineOf lid) }

/-- The registers of a context as an image at an address gives them, with what its variable records give beside them, and what the
core has kept; reserved bits of a register stay 0 (R9, R395 to R398, R401). -/
def loadImage (core : Nat) (x : Ctx) (rd : Nat → Nat → Nat) (recs : List (Nat × List Byte)) : Ctx :=
  let w (off : Nat) : W64 := BitVec.ofNat 64 (rd off 8)
  let sys (i : Nat) : W64 := w (0x840 + 8 * i)
  let six := (sys 6).toNat
  let seven := (sys 7).toNat
  let fmts := (sys 16).toNat
  let bit (n : Nat) : Bool := fmts / 2 ^ n % 2 == 1
  let mask4 (lo : Nat) : BitVec 4 :=
    BitVec.ofNat 4 ((List.range 4).map (fun a => if bit (lo + 2 * a) then 2 ^ a else 0)).sum
  let lcs : List Nat := [six % 2 ^ 32, six / 2 ^ 32, seven % 2 ^ 32]
  let loops : LoopSt :=
    { lc := tabulate 0 3 (fun n => BitVec.ofNat 64 (lcs.getD n 0)),
      start := tabulate 0 3 (fun n => sys (8 + 2 * n)), last := tabulate 0 3 (fun n => sys (9 + 2 * n)),
      order := loopOrder (seven / 2 ^ 32 % 2 ^ 10) }
  let c : CtlSt := { x.a.c with
    scal := tabulate 0 63 (fun i => w (0x40 + 8 * i))
    hnd := tabulate 0 32 (fun i => BitVec.ofNat 256 (rd (0x240 + 32 * i) 32))
    sem := tabulate 0 256 (fun i => BitVec.ofNat 16 (rd (0x640 + 2 * i) 2))
    loops := loops, runLeft := seven / 2 ^ 48 % 2 ^ 8
    trapVec := sys 0, trapPc := sys 1, trapCause := sys 2, trapInfo := sys 3, replayVec := sys 4, ckptPc := sys 5
    active := rd 0x29 1 / 2 % 2 == 1, smemErr := sys 14 &&& 0xF1FFFFFFFFFFFFFF, xlateInfo := sys 28 &&& 0xFF0F, bcount := w 0x20, pc := w 0x18 }
  let slotOf (i : Nat) : RSlot :=
    let o := 0x940 + 64 * i
    let d := rd (o + 40) 8
    { flying := false
      hnd := BitVec.ofNat 256 (rd o 32), idx := w (o + 32)
      act := (List.range 8).map (fun g => BitVec.ofNat 16 (rd (o + 48 + 2 * g) 2))
      pgrp := BitVec.ofNat 8 (d / 2 ^ 40), grps := BitVec.ofNat 8 (d / 2 ^ 32), dst := d / 2 ^ 26 % 64
      lat := d / 2 ^ 14 % 1024, remote := d / 256 % 2 == 1, cause := d % 16 }
  let slots : Tbl RSlot := (List.range 32).filterMap (fun i => if rd (0x940 + 64 * i) 64 = 0 then none else some (i, slotOf i))
  let poisonedBy (i : Nat) : Nat := (tfind x.a.v.poison i).getD
    (((slots.find? (fun p => p.2.dst == i % 64 && p.2.pgrp.getLsbD (i / 64))).map Prod.fst).getD 0)
  let gen (t : Tbl W32) (i : Nat) : Tbl W32 :=
    let v := BitVec.ofNat 32 (rd (0x1140 + 4 * i) 4)
    if v = x.a.v.gen core i then t else tset t i v
  let v : VecSt := { x.a.v with
    vreg := tabulate 0 512 (fun i => BitVec.ofNat 512 (rd (0x1D00 + 64 * i) 64))
    mask := tabulate 0 64 (fun i => if i % 8 = 0 then 0 else BitVec.ofNat 16 (rd (0x1640 + 2 * i) 2))
    poison := (List.range 512).filterMap (fun i =>
      if rd (0x16C0 + 8 * (i / 64)) 8 / 2 ^ (i % 64) % 2 = 1 then some (i, poisonedBy i) else none)
    frazil := (List.range 320).foldl gen x.a.v.frazil
    vflags := sys 15 &&& 0x3F3F3F3F3F3F3F3F, ftz := bit 16, intfmt := BitVec.ofNat 16 fmts
    sfA := tabulate 0 8 (fun g => BitVec.ofNat 512 (rd (0x1700 + 192 * g) 64))
    sfB := tabulate 0 8 (fun g => BitVec.ofNat 512 (rd (0x1740 + 192 * g) 64))
    sfY := tabulate 0 8 (fun g => BitVec.ofNat 512 (rd (0x1780 + 192 * g) 64))
    replay := slots, replaySel := (sys 27).toNat % 32 }
  let r : SerSt :=
    { mp := tabulate 0 8 (fun n => sys (19 + n)), spair := (sys 17).truncate 24, dirty := mask4 24, stale := mask4 25,
      sflags := (sys 18).truncate 32 &&& 0x37373737 }
  { x with a := { x.a with c := c, v := v, r := r } }.withRecords recs

end Sys2Proof.Machine
end

