-- ==== Sys2Proof/Machine/Serac.lean ====
section
/-! DEFINITION. What a Serac array computes: the geometry of its pairs (R281, R283, R290), its three modes (R284 to R289),
its drains (R320), and the routines at work on it: their reads and writes of the local store, the gather unit (R293), and
how a routine stops (R315). -/

namespace Sys2Proof.Machine

open Sys2Proof

/-! Geometry (R281, R290, R310): formats by the codes of R310. -/

/-- Bits of an element: 4, 8 or 16. -/
def serBits (f : Nat) : Nat := match f with | 3 | 4 => 4 | 5 => 16 | _ => 8
/-- The format is an integer format. -/
def serInt (f : Nat) : Bool := f == 2 || f == 4
/-- The format of a floating-point code. -/
def serFmt (f : Nat) : Fmt := match f with | 0 => .e4m3 | 1 => .e5m2 | 3 => .e2m1 | _ => .bf16
/-- N, the logical size. -/
def serN (f : Nat) : Nat := match serBits f with | 4 => 96 | 16 => 24 | _ => 48
/-- Rows of the accumulator file's view. -/
def serView (f : Nat) : Nat := 3072 / serN f
/-- Scale codes of an operand row. -/
def serPer (f : Nat) : Nat := match serBits f with | 4 => 6 | 16 => 0 | _ => 3

/-- The streamed and the weight format of a command's pair. -/
def ArrCmd.sf (c : ArrCmd) : Nat := c.pair.toNat / 8
def ArrCmd.wf (c : ArrCmd) : Nat := c.pair.toNat % 8
/-- A floating-point pair of the 8-bit or 16-bit class: outer mode and the G plane are open to it (R286, R319, R320). -/
def ArrCmd.outerOk (c : ArrCmd) : Bool := !serInt c.sf && serBits c.sf != 4

/-- Element k of a 48-byte row. -/
def serCode (f : Nat) (row : List Byte) (k : Nat) : Nat :=
  match serBits f with
  | 4 => (row.getD (k / 2) 0).toNat / 16 ^ (k % 2) % 16
  | 16 => (row.getD (2 * k) 0).toNat + 256 * (row.getD (2 * k + 1) 0).toNat
  | _ => (row.getD k 0).toNat

/-- An element and the power of two that its block scale adds; none for a NaN scale (R283). -/
abbrev SElem := Num × Option Int

/-- The elements of a row under its scale codes. -/
def serElems (f : Nat) (row scales : List Byte) : List SElem :=
  (List.range (serN f)).map (fun k =>
    (decodeNum (serFmt f) (serCode f row k), if serPer f = 0 then some 0 else scaleExp (scales.getD (k / 16) 0x7F).toNat))

/-- The integers of a row under one side of INTFMT (R288). -/
def serInts (f : Nat) (side : BitVec 8) (row : List Byte) : List Int :=
  (List.range (serN f)).map (fun k => intDecode (serBits f == 8) side (serCode f row k))

/-! The modes (R284 to R289). -/

/-- An accumulator after one step of a floating-point pair (R287). -/
def floatStep (ftz : Bool) (ps : List (SElem × SElem)) (acc : W32) : W32 × BitVec 8 :=
  dotAcc ftz (ps.any (fun p => p.1.2.isNone || p.2.2.isNone))
    (ps.map (fun p => (p.1.1, p.2.1, p.1.2.getD 0 + p.2.2.getD 0))) acc

/-- An accumulator after one step of an integer pair (R288). -/
def intStep (ps : List (Int × Int)) (acc : W32) : W32 :=
  BitVec.ofInt 32 (clamp (-(2 ^ 31)) (2 ^ 31 - 1) (acc.toInt + (ps.map (fun p => p.1 * p.2)).sum))

/-- Row i of the W plane, and the scale codes of its block row. -/
def Plane.wRow (p : Plane) (i : Nat) : List Byte := readBytes p.w (48 * i) 48
def Plane.wScales (p : Plane) (per i : Nat) : List Byte :=
  (List.range per).map (fun c => tget 0x7F p.wscale (per * (i / 16) + c))

/-- The list whose place i is in line with weight W[i][o] in row mode, or W[o][i] in column mode. -/
def alongW {α : Type} (d : α) (n : Nat) (w : List (List α)) (col : Bool) (o : Nat) : List α :=
  if col then w.getD o [] else (List.range n).map (fun i => (w.getD i []).getD o d)

/-- One step of row mode or column mode into accumulator row r (R284, R285). -/
def Plane.stream (p : Plane) (c : ArrCmd) (row scales : List Byte) (r : Nat) (col : Bool) : Plane × BitVec 8 :=
  let n := serN c.sf
  let put (q : Plane × BitVec 8) (o : Nat) (v : W32 × BitVec 8) : Plane × BitVec 8 :=
    ({ q.1 with acc := tput 0 q.1.acc (n * r + o) v.1 }, q.2 ||| v.2)
  let old (q : Plane × BitVec 8) (o : Nat) : W32 := tget 0 q.1.acc (n * r + o)
  if serInt c.sf then
    let xs := serInts c.sf (sideS c.intfmt) row
    let w := (List.range n).map (fun i => serInts c.wf (sideW c.intfmt) (p.wRow i))
    (List.range n).foldl (fun q o => put q o (intStep (xs.zip (alongW 0 n w col o)) (old q o), 0)) (p, 0)
  else
    let xs := serElems c.sf row scales
    let w := (List.range n).map (fun i => serElems c.wf (p.wRow i) (p.wScales (serPer c.wf) i))
    (List.range n).foldl (fun q o =>
      put q o (floatStep c.ftz (xs.zip (alongW (.fin false 0 0, some 0) n w col o)) (old q o))) (p, 0)

/-- One step of outer mode (R286). -/
def Plane.outer (p : Plane) (c : ArrCmd) (xrow xsc yrow ysc : List Byte) : Plane × BitVec 8 :=
  let ys := serElems c.sf yrow ysc
  ((serElems c.sf xrow xsc).zipIdx).foldl (fun q x =>
    (ys.zipIdx).foldl (fun q y =>
      let k := 48 * x.2 + y.2
      let v := floatStep c.ftz [(x.1, y.1)] (tget 0 q.1.g k)
      ({ q.1 with g := tput 0 q.1.g k v.1 }, q.2 ||| v.2)) q) (p, 0)

/-- Words of row r: of the accumulators, or of G. -/
def Plane.words (p : Plane) (n : Nat) (g : Bool) (r : Nat) : List W32 :=
  (List.range n).map (fun c => if g then tget 0 p.g (48 * r + c) else tget 0 p.acc (n * r + c))
def Plane.setWords (p : Plane) (n : Nat) (g : Bool) (r : Nat) (ws : List W32) : Plane :=
  (ws.zipIdx).foldl (fun p w =>
    if g then { p with g := tput 0 p.g (48 * r + w.2) w.1 } else { p with acc := tput 0 p.acc (n * r + w.2) w.1 }) p

/-! Drains (R320). -/

/-- How a drain converts. -/
structure DrainFmt where
  fmt : Nat
  rm : Nat
  sat : Bool
  sc : Bool
  se : Nat
  deriving DecidableEq, Repr

/-- Bits of a drained element. -/
def DrainFmt.bits (d : DrainFmt) : Nat := match d.fmt with | 0 | 5 => 32 | 1 => 16 | 4 => 4 | _ => 8
def DrainFmt.narrow (d : DrainFmt) : Fmt := match d.fmt with | 1 => .bf16 | 2 => .e4m3 | 3 => .e5m2 | _ => .e2m1

/-- The checks of a drain against its pair. -/
def DrainFmt.ok (d : DrainFmt) (c : ArrCmd) (g : Bool) : Bool :=
  d.fmt ≤ 5 && d.rm ≤ 4 &&
  (if serInt c.sf then d.fmt == 5 && !d.sc && !d.sat && d.rm == 0 && !g else d.fmt != 5 && (!g || c.outerOk))

/-- One drained word, where u is its generator's new state. -/
def DrainFmt.word (d : DrainFmt) (ftz : Bool) (u w : W32) : Nat × BitVec 8 :=
  if d.fmt = 5 then (w.toNat, 0)
  else
    let (w1, fa) := ftzIn ftz w
    let v := num32 w1
    let x := if !d.sc then v else match scaleExp d.se with
      | none => .nan false
      | some n => match v with | .fin neg m e => .fin neg m (e - n) | t => t
    if d.fmt = 0 then
      if !d.sc then (w1.toNat, fa)
      else match x with
        | .nan q => (nan32.toNat, fa ||| flagIf (!q) fNV)
        | x => let r := round32 ftz (rmOf d.rm) x (x.low 24) u; (r.1.toNat, fa ||| r.2)
    else
      let (c, fl) := cvtNum d.sat d.narrow (rmOf d.rm) u x
      (c, fa ||| fl)

/-- Elements of so many bits packed, the first lowest (R100). -/
def packBits (bits : Nat) (cs : List Nat) : List Byte :=
  bytesOfNat (bits * cs.length / 8) (cs.foldr (fun c n => c % 2 ^ bits + 2 ^ bits * n) 0)

/-! A routine at work. -/

/-- Why a routine stops: the status of R308, and the chunk of the local store where an error stood. -/
structure SStop where
  status : Nat
  chunk : Option Nat
  deriving DecidableEq, Repr

/-- A failed check of fields, and one of a row (R315). -/
def microIll : SStop := { status := 0x20, chunk := none }
def rowXlate : SStop := { status := 1, chunk := none }

/-- A routine with all that it acts on: its core, its context and that context's launch, its plane set, the flags that it
has raised since it was loaded, and how it has stopped, if it has. -/
structure Work where
  k : Core
  arr : Nat
  n : Nat
  e : LaunchEnv
  x : Ctx
  core : Nat
  p : Plane
  r : Routine
  flags : BitVec 8
  stop : Option SStop
  deriving DecidableEq, Repr

/-- The plane set of a command: 1 for the shadow context (R295). -/
def Arr.plane (a : Arr) (shadow : Bool) : Plane := if shadow then a.p1 else a.p0
def Arr.setPlane (a : Arr) (shadow : Bool) (p : Plane) : Arr := if shadow then { a with p1 := p } else { a with p0 := p }

/-- The routine that an array of a core runs. -/
def State.work (s : State) (core arr : Nat) : Option Work :=
  let k := s.core core
  match (k.arr arr).run with
  | none => none
  | some r => match k.find r.cmd.lid with
    | none => none
    | some n => some { k := k, arr := arr, n := n, e := (k.ctx n).launch, x := k.ctx n, core := core,
                       p := (k.arr arr).plane r.cmd.shadow, r := r, flags := 0, stop := none }

/-- No context of a core is ready: the core issues nothing, and its ACLK pass (R39). -/
def State.idle (s : State) (core : Nat) : Bool := [0, 1, 2, 3, 4].all (fun n => !s.ready core n)
/-- The later of two clocks. -/
def laterOf (a b : W64) : W64 := if a < b then b else a

/-- Put it back: its flags go into SFLAGS and into its own (R289), and its steps, an ACLK each, into the array's clock, which a core
that issues nothing keeps up with (R39, R296). -/
def State.putWork (s : State) (w : Work) : State :=
  let a := w.k.arr w.arr
  let r := { w.r with flags := w.r.flags ||| w.flags }
  let spent := r.steps - (match a.run with | some q => q.steps | none => 0)
  let clock := a.clock + BitVec.ofNat 64 spent
  let k0 := w.k.setArr w.arr ({ a with run := some r, clock := clock }.setPlane r.cmd.shadow w.p)
  let k := { k0 with acycle := if s.idle w.core then laterOf k0.acycle clock else k0.acycle }
  let x := { w.x with a := { w.x.a with r := { w.x.a.r with
    sflags := w.x.a.r.sflags ||| (w.flags.zeroExtend 32 <<< (8 * w.arr)) } } }
  s.setCore w.core (k.setCtx w.n x)

/-- mp register i of the routine. -/
def Work.mp (w : Work) (i : BitVec 3) : W64 := tget 0 w.r.mp i.toNat
/-- Advance a register past the rows of a word (R318). -/
def Work.bump (w : Work) (i : BitVec 3) (n : Nat) : Work :=
  { w with r := { w.r with mp := tput 0 w.r.mp i.toNat (w.mp i + BitVec.ofNat 64 n) } }

/-- A row of the local store is aligned and wholly below LSNEED; a row of no bytes is not touched (R283, R315). -/
def Work.rowOk (w : Work) (a : W64) (n align : Nat) : Bool := n == 0 || (a.toNat % align == 0 && w.e.inShare a.toNat n)

/-- Read a row; an error stops the routine before the step that uses it (R293, R299). -/
def Work.read (w : Work) (a : W64) (n align : Nat) : Except SStop (List Byte) :=
  if !w.rowOk a n align then .error rowXlate
  else match w.k.lsBad w.e a.toNat n with
    | some c => .error { status := 0x22, chunk := some c }
    | none => .ok (w.k.lsRead w.e a.toNat n)

/-- Stop with the reason given. -/
def Work.stopped (w : Work) (st : SStop) : Work := { w with stop := some st }

/-- The pre-images that a write takes into the journal of a guarded segment (R300). -/
def Work.journal (w : Work) (off n : Nat) : Work :=
  if !w.e.guard then w
  else
    let chunks := (List.range ((off % 32 + n + 31) / 32)).map (fun j => w.e.phys (off / 32 * 32 + 32 * j))
    chunks.foldl (fun w c =>
      if tmem w.x.guard.journal c then w
      else { w with x := { w.x with guard := { w.x.guard with
        journal := tset w.x.guard.journal c (readBytes w.k.ls c 32), journalUsed := w.x.guard.journalUsed + 40 } } }) w

/-- Write a row of the local store. -/
def Work.write (w : Work) (a : W64) (bs : List Byte) : Work :=
  let v := w.journal a.toNat bs.length
  { v with k := v.k.lsWrite v.e a.toNat bs }

/-- Do something for row 0, 1, …, while the routine has not stopped; `fuel` rows from row k. -/
def Work.rows (f : Nat → Work → Work) : Nat → Nat → Work → Work
  | 0, _, w => w
  | fuel + 1, k, w => if w.stop.isSome then w else Work.rows f fuel (k + 1) (f k w)

/-- With what was read, go on; else stop. -/
def Work.with (w : Work) {α : Type} (r : Except SStop α) (f : α → Work) : Work :=
  match r with
  | .ok v => f v
  | .error e => w.stopped e

/-! The gather unit (R293, R321). -/

/-- One row of a gather: index, row and scales. -/
def Work.fetchRow (w : Work) (per : Nat) (g : Gather) : Except SStop LatchRow :=
  match w.read (BitVec.ofNat 64 g.idxAddr) 2 2 with
  | .error e => .error e
  | .ok ix =>
    let v := natOfBytes ix
    if v = 0xFFFF then .ok { row := List.replicate 48 0, scales := List.replicate per 0x7F }
    else
      match w.read (g.sbase + BitVec.ofNat 64 (v / 16 * g.sstr)) per 1 with
      | .error e => .error e
      | .ok sc => match w.read (g.base + BitVec.ofNat 64 (v * g.rstr)) 48 16 with
        | .error e => .error e
        | .ok row => .ok { row := row, scales := sc }

/-- The gather after its next row has been read. -/
def Gather.next (g : Gather) : Gather := { g with idxAddr := (g.idxAddr + 2) % 2 ^ 64, left := g.left - 1 }

/-- Rows that the gather can still supply. -/
def Gather.rowsLeft (g : Gather) : Nat := g.latch.length + g.left

/-- Take the next row: from the latch, or read as the step needs it. -/
def Work.takeRow (w : Work) (per : Nat) : Except SStop (LatchRow × Work) :=
  match w.r.gather with
  | none => .error microIll
  | some g =>
    let put (g : Gather) : Work := { w with r := { w.r with gather := some g } }
    match g.latch with
    | row :: rest => .ok (row, put { g with latch := rest })
    | [] => match w.fetchRow per g with
      | .error e => .error e
      | .ok row => .ok (row, put g.next)

/-- Row k of A and its scales: from memory, or with GA from the gather unit (R318). -/
def Work.aRow (w : Work) (ga : Bool) (a sc : W64) : Except SStop (LatchRow × Work) :=
  let per := serPer w.r.cmd.sf
  if ga then w.takeRow per
  else match w.read sc per 1 with
    | .error e => .error e
    | .ok s => match w.read a 48 16 with
      | .error e => .error e
      | .ok row => .ok ({ row := row, scales := s }, w)

/-! Steps. -/

/-- A plane set and flags after a step. -/
def Work.stepped (w : Work) (q : Plane × BitVec 8) : Work := { w with p := q.1, flags := w.flags ||| q.2 }

/-- A row is streamed into accumulator row r. -/
def Work.streamRow (w : Work) (row : LatchRow) (r : Nat) (col : Bool) : Work :=
  w.stepped (w.p.stream w.r.cmd row.row row.scales r col)

/-- A row of X and one of dY form outer products. -/
def Work.outerRow (w : Work) (x y : LatchRow) : Work :=
  w.stepped (w.p.outer w.r.cmd x.row x.scales y.row y.scales)

/-- Set a row of accumulators or of G. -/
def Work.setRow (w : Work) (g : Bool) (r : Nat) (ws : List W32) : Work :=
  { w with p := w.p.setWords (serN w.r.cmd.sf) g r ws }

/-- W row i is loaded as bits, and the scales of a block row (R317). -/
def Work.loadRow (w : Work) (i : Nat) (row : List Byte) : Work := { w with p := { w.p with w := writeBytes w.p.w (48 * i) row } }
def Work.loadScales (w : Work) (blk : Nat) (sc : List Byte) : Work :=
  { w with p := { w.p with wscale := (sc.zipIdx).foldl (fun t c => tput 0x7F t (serPer w.r.cmd.wf * blk + c.2) c.1) w.p.wscale } }

/-- The words of a row as drained, column by column; sr steps the column's generator (R168, R320). -/
def Work.drainWords (d : DrainFmt) : List (W32 × Nat) → Work → Work × List Nat
  | [], w => (w, [])
  | (v, c) :: r, w =>
    let rounds := d.rm == 4 && !(d.fmt == 0 && !d.sc)
    let (u, vec) := if rounds then w.x.a.v.stepGen w.core (128 + 48 * w.arr + c % 48) else (0, w.x.a.v)
    let (code, fl) := d.word w.r.cmd.ftz u v
    let (w2, cs) := Work.drainWords d r { w with x := { w.x with a := { w.x.a with v := vec } }, flags := w.flags ||| fl }
    (w2, code :: cs)

/-- Bytes of a drained row. -/
def DrainFmt.rowBytes (d : DrainFmt) (c : ArrCmd) : Nat := serN c.sf * d.bits / 8

/-- Drain row r to an address (R320). -/
def Work.drainRow (w : Work) (d : DrainFmt) (g : Bool) (r : Nat) (a : W64) : Work :=
  let (w1, cs) := Work.drainWords d ((w.p.words (serN w.r.cmd.sf) g r).zipIdx) w
  w1.write a (packBits d.bits cs)

/-! Completion of a command of an array (R307, R308). -/

/-- A Serac command completes: its slot is filled and its signal applied. In a guarded launch neither is recorded, since
the reruns perform the command again, but for an SMLOAD that was issued before the segment (R300, R303). -/
def State.completeSerac (s : State) (o : Origin) (op qid status detail : Nat) (sig : Signal) : State :=
  match (s.core o.core).find o.lid with
  | some n =>
    let v := statusEntry status op (s.slotSeq o.core o.lid qSerac qid) detail
    let old := (s.ctxAt o.core n).guard.point.any (fun p => qid < tget 0 p.q.nextId qSerac)
    let put (x : Ctx) (i : Input) : Ctx := if old then x.input i else x.applyInput i
    s.setCtxAt o.core n (put (put (s.ctxAt o.core n) (.fill qSerac qid v)) (.signal sig.sem sig.inc))
  | none => s.complete o qSerac qid op status detail (some sig)

/-- Who a command of an array answers to. -/
def ArrCmd.origin (c : ArrCmd) (core : Nat) : Origin := { core := core, lid := c.lid, shadow := c.shadow, cmd := 0 }

/-- The routine of an array ends: the SCALL completes with a status and the low bits of DETAIL. -/
def State.endRoutine (s : State) (core arr status low : Nat) : State :=
  let k := s.core core
  let a := k.arr arr
  match a.run with
  | none => s
  | some r =>
    let s1 := s.setCore core (k.setArr arr { a with run := none })
    s1.completeSerac (r.cmd.origin core) 0x0E r.cmd.qid status ((r.flags.toNat &&& 0x37) * 2 ^ 24 + low) (EngArgs.signal r.cmd.eng)

/-- Why a routine stopped is acted on: a data error of the local store rolls a guarded launch back, or completes the SCALL
with DATAERR and leaves MCHK due (R299, R303, R393). -/
def State.stopRoutine (s : State) (w : Work) (st : SStop) (low : Nat) : State :=
  match st.chunk with
  | some c =>
    let s1 := (s.putWork w).logUe w.core c 1
    if s1.rollsBack w.core w.n then s1.enqueue (.rollback w.core w.n)
    else
      let x := s1.ctxAt w.core w.n
      let p := { x.a.p with mchk := some (x.a.p.mchk.getD (BitVec.ofNat 64 (c * 65536 + 1))) }
      (s1.setCtxAt w.core w.n { x with a := { x.a with p := p } }).endRoutine w.core w.arr st.status low
  | none => (s.putWork w).endRoutine w.core w.arr st.status low

end Sys2Proof.Machine
end

