-- ==== Sys2Proof/Machine/Evict.lean ====
section
/-! DEFINITION. Translation caches and their invalidation (R406, R407), and the eviction and restore of contexts (R399 to
R401). -/

namespace Sys2Proof.Machine

open Sys2Proof

/-! Walks and invalidation (R406, R407). -/

/-- A device register of 8 bytes. -/
def State.reg64 (s : State) (a : Nat) : Nat := readNat s.regs a 8
def State.setReg64 (s : State) (a v : Nat) : State := { s with regs := writeNat s.regs a 8 v }

/-- What XINV covers (R407). -/
def State.xinvCovers (s : State) (e : TlbEnt) : Bool :=
  let va := s.reg64 Config.xinvDpa
  let w := s.reg64 (Config.xinvDpa + 8)
  (w / 2 ^ 17 % 2 == 1 || e.asid.toNat == w % 2 ^ 16) && (w / 2 ^ 16 % 2 == 1 || e.vpn == va / 2 ^ e.bits)

/-- The address of a walk's page (R46, R406). -/
def Walk.va (w : Walk) : W64 := (BitVec.ofNat 57 (w.page * 65536)).signExtend 64

/-- The walk has one of the 64 places of its die's walker: the others wait, in the order of arrival (R406). -/
def State.walking (s : State) (w : Walk) : Bool := ((s.walks.filter (fun v => v.die == w.die)).take 64).contains w

/-- The outcome of a walk reaches a context that joined it, where it still stands on its core (R406, R408). -/
def State.tellWalk (s : State) (out : Walked) (who : Nat × Nat) : State :=
  match (s.core who.1).find who.2 with
  | none => s
  | some n => s.setCtxAt who.1 n { s.ctxAt who.1 n with walked := (s.ctxAt who.1 n).walked ++ [out] }

/-- TRANSLATION_WALK: the oldest walk of a page ends. Every context that joined it gets its outcome; a fault is never cached, and a
page under invalidation is not installed (R406 to R408). -/
def execTranslationWalk (asid : Nat) (va : W64) (s : State) : Host.Outcome State Fault Refusal :=
  let a : BitVec 16 := BitVec.ofNat 16 asid
  match s.walks.find? (fun w => w.asid == a && w.page == pageNo va && s.walking w) with
  | none => .next s
  | some w =>
    let out := s.walk a w.va
    let s1 := w.reqs.foldl (fun s q => s.tellWalk { page := w.page, out := out } q) { s with walks := s.walks.erase w }
    match out with
    | .error _ => .next s1
    | .ok e =>
      if s.xinvBusy && s.xinvCovers e then .next s1
      else .next (w.reqs.foldl (fun s q => s.tlbFill q.1 a w.va) s1)

/-- The page that a walk looks for: as the tables map it now, or the smallest one (R403, R407). -/
def State.walkEnt (s : State) (w : Walk) : TlbEnt :=
  match s.walk w.asid w.va with
  | .ok e => e
  | .error _ => { asid := w.asid, vpn := w.va.toNat / 2 ^ 16, bits := 16, dpa := 0, perm := 0 }

/-- A walk is due. -/
def State.walkDue (s : State) : Option Event := s.walks.head?.map (fun w => .translationWalk w.asid.toNat w.va)

/-- XINV_INVALIDATE: an invalidation is under way (R407). -/
def execXinvInvalidate (s : State) : Host.Outcome State Fault Refusal := .next { s with xinvBusy := true }

/-- INVALIDATION_COMPLETE: no cache holds an entry for a covered page, once the walks under way for one have ended (R407). -/
def execInvalidationComplete (s : State) : Host.Outcome State Fault Refusal :=
  if s.xinvBusy && !s.walks.any (fun w => s.xinvCovers (s.walkEnt w)) then
    let keep (t : List TlbEnt) : List TlbEnt := t.filter (fun e => !s.xinvCovers e)
    .next { s with
      xinvBusy := false
      driftTlb := keep s.driftTlb
      unitTlbs := (s.unitTlbs.map (fun p => (p.1, keep p.2))).filter (fun p => p.2 != [])
      cores := s.cores.map (fun (p : Nat × Core) => (p.1, { p.2 with tlb := keep p.2.tlb }))
      units := s.units.map (fun (p : Nat × MUnit) => (p.1, { p.2 with tlb := keep p.2.tlb })) }
  else .next s

/-! EVICT and RESTORE (R399 to R401). -/

/-- A command of the control block is done. -/
def State.evDone (s : State) (core st : Nat) : State := s.setCore core { s.core core with evCmd := 0, evStatus := st }

/-- A save image fits at an address (R395, R399). -/
def imageAt (a : Nat) : Bool := a % 131072 == 0 && a + 131072 ≤ Config.hbmEnd

/-- The context in focus would enter a trap at this boundary: a cause taken before the next bundle, or one of that bundle (R390,
R392). -/
def State.trapDue (s : State) : Bool :=
  match s.prepare with
  | .stop t => (t.cx.a.c.active && !s.cx.a.c.active) || t.cx.tile.isNone
  | _ => false

/-- An SDATA that a returned LDS left, and that goes into the image as pending (R400). -/
def PendSt.onlySdata (p : PendSt) : Bool := p.first.any (fun c => c.1 == .sdata)

/-- The context to evict stands at a preemption point with every LDS returned; a trap that the running context would enter there
comes first, but for the SDATA of an LDS that was outstanding when the EVICT was given (R42, R400, R408). -/
def State.evictable (s : State) (core n : Nat) : Bool :=
  let t := s.at' core n
  let k := t.fcore
  t.cx.lds.isNone && t.preemptible &&
    (k.frozen || k.run != n || !t.trapDue || (k.evLds && t.cx.a.p.onlySdata))

/-- Declared-latency loads whose data has not all arrived, those that a trap entry holds among them, are saved poisoned, with
cause PREEMPT (R138, R216, R400). -/
def Ctx.preempted (x : Ctx) : Ctx :=
  { x with acq := none, walked := [], a := x.a.mapLanding (fun e =>
      { e with groups := e.groups.map (fun g => if g.late then { g with arr := .bad 5, late := false } else g) }) }

/-- Commands of a launch that wait at an array, and the routine of it that stands there (R298). -/
def Arr.waiting (a : Arr) (lid : Nat) : List ArrCmd := a.queue.filter (fun c => c.lid == lid && !c.shadow)
def Arr.routineOf (a : Arr) (lid : Nat) : Option Routine :=
  ((a.run.filter (fun r => r.cmd.lid == lid && !r.cmd.shadow)).or (a.susp.filter (fun r => r.cmd.lid == lid)))

/-- An array without what an evicted launch has there; its planes stay (R298). -/
def Arr.without (a : Arr) (lid : Nat) : Arr :=
  { a with run := a.run.filter (fun r => r.cmd.shadow || r.cmd.lid != lid), susp := a.susp.filter (fun r => r.cmd.lid != lid),
           queue := a.queue.filter (fun c => c.shadow || c.lid != lid) }

/-- The context as it leaves its core, with its routines and waiting commands (R298, R400). -/
def Core.packed (k : Core) (x : Ctx) : Ctx :=
  let lid := x.launch.lid
  { x.preempted with
    routines := (List.range 4).filterMap (fun a => ((k.arr a).routineOf lid).map (fun r => (a, r)))
    pendCmds := (List.range 4).flatMap (fun a => ((k.arr a).waiting lid).map (fun c => (a, c))) }

/-- The context leaves: its image is written, its parking record opens, and its hardware context is free (R400, R401). -/
def State.evictNow (s : State) (core n img : Nat) : State :=
  let k := s.core core
  let x := k.packed (k.ctx n)
  let recs := x.records
  let bytes := saveImage core n (recs.length / 8) { x with a := { x.a with c := { x.a.c with pc := (s.at' core n).nextAddr } } }
    (!x.routines.isEmpty) ++ recs
  let rec' : Parking := { lid := x.launch.lid, ctx := x, deltas := [], fills := [] }
  let k1 := { k with
    parking := k.parking ++ [rec']
    late := k.late.erase n
    arrays := k.arrays.map (fun (p : Nat × Arr) => (p.1, p.2.without x.launch.lid)), evCmd := 0, evStatus := 2, evLds := false }
  (s.setCore core (k1.setCtx n .reset)).publish img bytes

/-- EVICT: the command of a core's control block saves a context at its next preemption point (R399, R400). -/
def execEvict (core : Nat) (s : State) : Host.Outcome State Fault Refusal :=
  let k := s.core core
  let n := k.evCtx
  if k.evCmd != 1 then .next s
  else if 4 ≤ n || (k.ctx n).tile.isNone then .next (s.evDone core 3)
  else if 8 ≤ k.parking.length then .next (s.evDone core 4)
  else if !imageAt k.evImage.toNat then .next (s.evDone core 7)
  else if !s.evictable core n then .next s
  else .next (s.evictNow core n k.evImage.toNat)

/-- A launch is running. -/
def State.runs (s : State) (lid : Nat) : Bool :=
  s.launches.any (fun p => p.2.lid == lid && p.2.phase == .running)

/-- What came for a context while it was evicted reaches it (R401). -/
def Parking.unpark (p : Parking) (x : Ctx) : Ctx :=
  let x1 := p.deltas.foldl (fun x d => x.input (.signal d.1 d.2.toNat)) x
  p.fills.foldl (fun x f => x.input (.fill f.1 f.2.1 f.2.2)) x1

/-- A restored context's routines and commands go back to their arrays, which are no further behind than the core's clock (R298,
R401; log 5). -/
def Core.unpacked (k : Core) (now : W64) (x : Ctx) : Core :=
  let k1 := x.routines.foldl (fun k p =>
    let a := { k.arr p.1 with clock := laterOf (k.arr p.1).clock now }
    k.setArr p.1 (if a.run.isNone then { a with run := some p.2 } else { a with susp := some p.2 })) k
  x.pendCmds.foldl (fun k p => let a := k.arr p.1; k.setArr p.1 { a with queue := a.queue ++ [p.2] }) k1

/-- RESTORE: an image is loaded into a free normal context of its core, one beyond the grants made (R32, R399, R401). -/
def execRestore (core : Nat) (s : State) : Host.Outcome State Fault Refusal :=
  let k := s.core core
  let img := k.evImage.toNat
  if k.evCmd != 2 then .next s
  else
    let rd (off n : Nat) : Nat := readNat s.mem (img + off) n
    if !imageAt img || s.ueIn img (40192 + 8 * rd 6 2) || rd 0 4 != 0x43564153 || rd 4 2 != 1 then .next (s.evDone core 7)
    else if !s.runs (rd 8 8) || BitVec.ofNat 64 (rd 0x10 8) != coreXY core then .next (s.evDone core 6)
    else match k.parking.find? (fun p => p.lid == rd 8 8) with
      | none => .next (s.evDone core 6)
      | some p =>
        match (if s.ctxFree core false then [0, 1, 2, 3] else []).find? (fun n => (k.ctx n).env.isNone) with
        | none => .next (s.evDone core 5)
        | some n =>
          let x := loadImage core p.ctx rd (evictRecords (readBytes s.mem (img + 0x9D00) (8 * rd 6 2)))
          let x1 := p.unpark { x with blocked := false, waited := 0, routines := [], pendCmds := [] }
          let k1 := { k.unpacked (s.acycleOf core) x with
            parking := k.parking.filter (fun q => q.lid != p.lid), late := k.late.erase n ++ [n], evCmd := 0, evStatus := 2
            issued := if k.run = n then 0 else k.issued, heldAclk := if k.run = n then 0 else k.heldAclk }
          .next (s.setCore core (k1.setCtx n x1))

/-- CONTROL_STATUS_READ: the read returns STATUS, and clears it (R8, R399). -/
def execControlStatusRead (core : Nat) (s : State) : Host.Outcome State Fault Refusal :=
  .next (s.setCore core { s.core core with evStatus := 0 })

/-- The eviction event that is due of a core. -/
def State.evictDue (s : State) : Option Event :=
  s.cores.findSome? (fun p =>
    if p.2.evCmd = 2 then some (.restore p.1)
    else if p.2.evCmd = 1 then
      if 4 ≤ p.2.evCtx || (p.2.ctx p.2.evCtx).tile.isNone || 8 ≤ p.2.parking.length || !imageAt p.2.evImage.toNat ||
        s.evictable p.1 p.2.evCtx then some (.evict p.1) else none
    else none)

end Sys2Proof.Machine
end

