-- ==== Sys2Proof/Machine/Crypto.lean ====
section
/-! DEFINITION. The hashes and signatures that the loader and Nunatak verify with: SHA-384 and SHA-256 (FIPS 180-4), ECDSA on
curve P-384 (FIPS 186-5, SP 800-186), and LMS_SHA256_M32_H15 with LMOTS_SHA256_N32_W4 (RFC 8554). The spec names these standards
(R107, R108, R413, R416) and does not restate them (PRESUMED, log 10). -/

namespace Sys2Proof.Machine

open Sys2Proof

/-! Big-endian numbers. -/

def natBE (bs : List Byte) : Nat := bs.foldl (fun n b => 256 * n + b.toNat) 0
def bytesBE (n v : Nat) : List Byte := (bytesOfNat n v).reverse

/-! SHA-2. The constants are those that FIPS 180-4 takes from the primes: bits behind the point of their roots. -/

/-- The k-th root of n, as far as it lies below 2^bits above x, bit by bit. -/
def rootFrom (k n : Nat) : Nat → Nat → Nat
  | 0, x => x
  | bits + 1, x => rootFrom k n bits (if (x + 2 ^ bits) ^ k ≤ n then x + 2 ^ bits else x)
/-- The first 64 bits behind the point of the k-th root of a number below 2^10. -/
def rootBits (k n : Nat) : Nat := rootFrom k (n * 2 ^ (64 * k)) 70 0 % 2 ^ 64
/-- The first 80 primes. -/
def primes : List Nat := (List.range 410).filter (fun n => 2 ≤ n && (List.range n).all (fun d => d < 2 || n % d != 0))

/-- A function of the family by the bits of its words: its rounds, the amounts of its four mixing functions (three each; the last of
the third and of the fourth is a shift), and the primes whose square roots it starts from. -/
structure ShaFn (w : Nat) where
  rounds : Nat
  amounts : List Nat
  start : List Nat

/-- The top word of 64 bits. -/
def topWord (w v : Nat) : BitVec w := BitVec.ofNat w (v / 2 ^ (64 - w))

/-- Mixing function j of a word. -/
def ShaFn.mix {w : Nat} (m : ShaFn w) (j : Nat) (x : BitVec w) : BitVec w :=
  let n (i : Nat) : Nat := m.amounts.getD (3 * j + i) 0
  (x.rotateRight (n 0) ^^^ x.rotateRight (n 1)) ^^^ (if j < 2 then x.rotateRight (n 2) else x >>> n 2)

/-- The message words of a block, newest first, with as many more as the rounds need. -/
def ShaFn.expand {w : Nat} (m : ShaFn w) : Nat → List (BitVec w) → List (BitVec w)
  | 0, l => l
  | more + 1, l =>
    let back (i : Nat) : BitVec w := l.getD (i - 1) 0
    m.expand more ((back 16 + back 7 + m.mix 2 (back 15) + m.mix 3 (back 2)) :: l)

/-- A round on the two halves of the working words, with the sum of its constant and its message word: each half takes a new first
word, and its last one goes. -/
def ShaFn.round {w : Nat} (m : ShaFn w) (s : List (BitVec w) × List (BitVec w)) (kw : BitVec w) : List (BitVec w) × List (BitVec w) :=
  let lo (i : Nat) : BitVec w := s.1.getD i 0
  let hi (i : Nat) : BitVec w := s.2.getD i 0
  let carry := kw + hi 3 + m.mix 1 (hi 0) + (hi 2 ^^^ (hi 0 &&& (hi 1 ^^^ hi 2)))
  let majority := (lo 0 &&& lo 1) ||| (lo 2 &&& (lo 0 ||| lo 1))
  ((carry + m.mix 0 (lo 0) + majority) :: s.1.take 3, (lo 3 + carry) :: s.2.take 3)

/-- A block, as a number of 16 words, changes the eight chaining words. -/
def ShaFn.absorb {w : Nat} (m : ShaFn w) (h : List (BitVec w)) (block : Nat) : List (BitVec w) :=
  let words := m.expand (m.rounds - 16) ((List.range 16).map (fun i => BitVec.ofNat w (block / 2 ^ (w * i))))
  let kws := List.zipWith (fun p x => topWord w (rootBits 3 p) + x) primes words.reverse
  let s := kws.foldl m.round (h.take 4, h.drop 4)
  List.zipWith (fun x y => x + y) h (s.1 ++ s.2)

/-- The digest of a message, as a number of eight words: the message is followed by a one bit, by zeros, and by its length in bits in
two words, to whole blocks. -/
def ShaFn.hash {w : Nat} (m : ShaFn w) (bs : List Byte) : Nat :=
  let bits := 8 * bs.length
  let blocks := (bits + 1 + 2 * w + (16 * w - 1)) / (16 * w)
  let all := (2 * natBE bs + 1) * 2 ^ (16 * w * blocks - bits - 1) + bits
  let h := (List.range blocks).foldl (fun h i => m.absorb h (all / 2 ^ (16 * w * (blocks - 1 - i)) % 2 ^ (16 * w)))
    (m.start.map (fun p => topWord w (rootBits 2 p)))
  h.foldl (fun n x => n * 2 ^ w + x.toNat) 0

def sha256Fn : ShaFn 32 := { rounds := 64, amounts := [2, 13, 22, 6, 11, 25, 7, 18, 3, 17, 19, 10], start := primes.take 8 }
def sha384Fn : ShaFn 64 := { rounds := 80, amounts := [28, 34, 39, 14, 18, 41, 1, 8, 7, 19, 61, 6], start := (primes.drop 8).take 8 }

/-- SHA-256: 32 bytes. -/
def sha256 (bs : List Byte) : List Byte := bytesBE 32 (sha256Fn.hash bs)
/-- SHA-384: 48 bytes, the first six of eight words. -/
def sha384 (bs : List Byte) : List Byte := bytesBE 48 (sha384Fn.hash bs / 2 ^ 128)

/-! ECDSA on P-384. -/

/-- The field, the order of the base point, the coefficient b (a is -3) and the base point. -/
def p384 : Nat := 2 ^ 384 - 2 ^ 128 - 2 ^ 96 + 2 ^ 32 - 1
def p384Order : Nat := 0xffffffffffffffffffffffffffffffffffffffffffffffffc7634d81f4372ddf581a0db248b0a77aecec196accc52973
def p384B : Nat := 0xb3312fa7e23ee7e4988e056be3f82d19181d9c6efe8141120314088f5013875ac656398d8a2ed19d2a85c8edd3ec2aef
def p384Base : Nat × Nat :=
  (0xaa87ca22be8b05378eb1c71ef320ad746e1d3b628ba79b9859f741e082542a385502f25dbf55296c3a545e3872760ab7,
   0x3617de4a96262c6f5d9e98bf9292dc29f8f41dbd289a147ce9da3113b5f0b8c00a60b1ce1d7e819d7a431d7c90ea0e5f)

/-- a to the power e modulo m, over the low bits of e. -/
def powMod (m : Nat) : Nat → Nat → Nat → Nat
  | 0, _, _ => 1 % m
  | bits + 1, a, e =>
    let r := powMod m bits (a * a % m) (e / 2)
    if e % 2 = 1 then a * r % m else r
/-- The inverse modulo a prime of 384 bits. -/
def invMod (m a : Nat) : Nat := powMod m 384 a (m - 2)
def subMod (m a b : Nat) : Nat := (a + (m - b % m)) % m

/-- The sum of two points of the curve; none is the point at infinity. -/
def ecAdd : Option (Nat × Nat) → Option (Nat × Nat) → Option (Nat × Nat)
  | none, q => q
  | p, none => p
  | some (x1, y1), some (x2, y2) =>
    let sum (slope : Nat) : Option (Nat × Nat) :=
      let x := subMod p384 (slope * slope) (x1 + x2)
      some (x, subMod p384 (slope * subMod p384 x1 x) y1)
    if x1 != x2 then sum (subMod p384 y2 y1 * invMod p384 (subMod p384 x2 x1) % p384)
    else if y1 != y2 || y1 = 0 then none
    else sum (subMod p384 (3 * x1 * x1) 3 * invMod p384 (2 * y1) % p384)

/-- A multiple of a point, over the low bits of the factor. -/
def ecMul : Nat → Nat → Option (Nat × Nat) → Option (Nat × Nat)
  | 0, _, _ => none
  | bits + 1, k, q =>
    let r := ecMul bits (k / 2) (ecAdd q q)
    if k % 2 = 1 then ecAdd q r else r

/-- A point lies on the curve. -/
def onP384 (q : Nat × Nat) : Bool :=
  q.1 < p384 && q.2 < p384 && q.2 * q.2 % p384 == subMod p384 (q.1 * q.1 * q.1 + p384B) (3 * q.1)

/-- ECDSA verification of a 48-byte message hash: the key as x then y, and r then s, big-endian (R107, R415). A key that is no
point of the curve verifies nothing. -/
def ecdsaOk (key hash rs : List Byte) : Bool :=
  let q := (natBE (key.take 48), natBE ((key.drop 48).take 48))
  let r := natBE (rs.take 48)
  let s := natBE ((rs.drop 48).take 48)
  let w := invMod p384Order s
  onP384 q && 1 ≤ r && r < p384Order && 1 ≤ s && s < p384Order &&
  (match ecAdd (ecMul 384 (natBE hash * w % p384Order) (some p384Base)) (ecMul 384 (r * w % p384Order) (some q)) with
   | none => false
   | some x => x.1 % p384Order == r)

/-! LMS (RFC 8554 sections 4 and 5): LMS_SHA256_M32_H15 is type 7, LMOTS_SHA256_N32_W4 type 3. -/

/-- The i-th nibble of a string, the high one of a byte first. -/
def lmsCoef (bs : List Byte) (i : Nat) : Nat := (bs.getD (i / 2) 0).toNat / (if i % 2 = 0 then 16 else 1) % 16

/-- The string whose nibbles count the chains: a hash and its checksum. -/
def lmsDigits (q : List Byte) : List Byte :=
  q ++ bytesBE 2 (((List.range 64).map (fun i => 15 - lmsCoef q i)).sum * 16)

/-- A hash under a key's identifier I, a number, and a two-byte tag. -/
def lmsHash (ident : List Byte) (n tag : Nat) (bs : List Byte) : List Byte := sha256 (ident ++ bytesBE 4 n ++ bytesBE 2 tag ++ bs)

/-- Steps of chain i. -/
def lmsSteps (ident : List Byte) (q i : Nat) (steps : List Nat) (y : List Byte) : List Byte :=
  steps.foldl (fun t j => lmsHash ident q i (BitVec.ofNat 8 j :: t)) y
/-- The rest of chain i from step a to step 15. -/
def lmsChain (ident : List Byte) (q i a : Nat) (y : List Byte) : List Byte := lmsSteps ident q i ((List.range 15).drop a) y

/-- The one-time public key that a signature over a message leads to: the randomizer C, then 67 strings of 32 bytes. -/
def lmotsKey (ident : List Byte) (q : Nat) (ots message : List Byte) : List Byte :=
  let digits := lmsDigits (lmsHash ident q 0x8181 (ots.take 32 ++ message))
  lmsHash ident q 0x8080 ((List.range 67).flatMap (fun i =>
    lmsChain ident q i (lmsCoef digits i) ((ots.drop (32 + 32 * i)).take 32)))

/-- The root that a node and its path lead to. -/
def lmsRoot (ident : List Byte) : Nat → List (List Byte) → List Byte → List Byte
  | _, [], t => t
  | n, p :: ps, t => lmsRoot ident (n / 2) ps (lmsHash ident (n / 2) 0x8383 (if n % 2 = 1 then p ++ t else t ++ p))

/-- LMS verification: the key as type, one-time type, I and T[1]; the signature as q, the one-time signature, the type and 15
path nodes (R107, R415). -/
def lmsOk (key message sig : List Byte) : Bool :=
  let q := natBE (sig.take 4)
  let ident := (key.drop 8).take 16
  let path := (List.range 15).map (fun i => (sig.drop (2188 + 32 * i)).take 32)
  key.length == 56 && sig.length == 2668 && natBE (key.take 4) == 7 && natBE ((key.drop 4).take 4) == 3 &&
  natBE ((sig.drop 4).take 4) == 3 && natBE ((sig.drop 2184).take 4) == 7 && q < 2 ^ 15 &&
  lmsRoot ident (2 ^ 15 + q) path (lmsHash ident (2 ^ 15 + q) 0x8282 (lmotsKey ident q ((sig.drop 8).take 2176) message)) ==
    key.drop 24

/-! The device identity key (R416, R422): made at manufacture, so its secrets are constants that nothing evaluates (log 10); its
public keys and its signatures follow from them. -/

def idScalar : Nat := 1 + Config.identityScalar % (p384Order - 1)
/-- The x coordinate and the y coordinate of a multiple of the base point. -/
def baseTimes (k : Nat) : Nat × Nat := (ecMul 384 k (some p384Base)).getD (0, 0)
/-- The P-384 public key in the layout of ECPUB (R415). -/
def idEcPub : List Byte := bytesBE 48 (baseTimes idScalar).1 ++ bytesBE 48 (baseTimes idScalar).2
/-- An ECDSA signature over a hash: r, then s, with the number of its own that each takes (R107, R416). -/
def idEcSign (hash : List Byte) : List Byte :=
  let k := 1 + Config.identityNonce hash % (p384Order - 1)
  let r := (baseTimes k).1 % p384Order
  bytesBE 48 r ++ bytesBE 48 (invMod p384Order k * ((natBE hash + r * idScalar) % p384Order) % p384Order)

def idLmsName : List Byte := bytesBE 16 Config.identityLmsName.toNat
/-- The start of chain i of one-time key q. -/
def idLmsStart (q i : Nat) : List Byte := bytesBE 32 (Config.identityLmsStart q i).toNat
/-- Node r of the tree, at a height above the leaves. -/
def idLmsNode : Nat → Nat → List Byte
  | 0, r => lmsHash idLmsName r 0x8282 (lmsHash idLmsName (r - 2 ^ 15) 0x8080
      ((List.range 67).flatMap (fun i => lmsChain idLmsName (r - 2 ^ 15) i 0 (idLmsStart (r - 2 ^ 15) i))))
  | up + 1, r => lmsHash idLmsName r 0x8383 (idLmsNode up (2 * r) ++ idLmsNode up (2 * r + 1))
/-- The LMS public key in the layout of LMSPUB (R415). -/
def idLmsPub : List Byte := bytesBE 4 7 ++ bytesBE 4 3 ++ idLmsName ++ idLmsNode 15 1
/-- An LMS signature over a message, by a one-time key and a randomizer of its own (R107, R416). -/
def idLmsSign (message : List Byte) : List Byte :=
  let q := Config.identityLeaf message % 2 ^ 15
  let random := bytesBE 32 (Config.identityRandom message).toNat
  let digits := lmsDigits (lmsHash idLmsName q 0x8181 (random ++ message))
  bytesBE 4 q ++ bytesBE 4 3 ++ random ++
    (List.range 67).flatMap (fun i => lmsSteps idLmsName q i (List.range (lmsCoef digits i)) (idLmsStart q i)) ++
    bytesBE 4 7 ++ (List.range 15).flatMap (fun up => idLmsNode up ((2 ^ 15 + q) / 2 ^ up ^^^ 1))
/-- The signature block of the identity key over a digest, in the layout of R107. -/
def idSignature (digest : List Byte) : List Byte :=
  bytesOfNat 4 96 ++ idEcSign digest ++ bytesOfNat 4 2668 ++ bytesOfNat 4 0 ++ idLmsSign digest

end Sys2Proof.Machine
end

