-- ==== Sys2Proof/Machine/Manage.lean ====
section
/-! DEFINITION. Nunatak and the host: device registers (R8, R47), the coherent window (R58, R410), management commands
(R421 to R423), attestation (R416), resets (R413, R417), margins and power (R418, R419). -/

namespace Sys2Proof.Machine

open Sys2Proof

/-! Retirement and stopping (R31, R44). -/

/-- A launch runs on a core. -/
def Launch.onCore (l : Launch) (c : Nat) : Bool := (rectCores l.ox l.oy (recW l.record) (recH l.record)).contains c

/-- A core is retired, for a reason of R424: the map is set, launches that run on it end CORE_RETIRED, and the log has the
restriction of the whole core (R25, R44). A launch that is ending already keeps its code (log 13). -/
def State.retireCore (s : State) (c reason : Nat) : State :=
  let s1 := { s with
    nun := { s.nun with retired := tput false s.nun.retired c true }
    launches := s.launches.map (fun (p : Nat × Launch) => match p.2.phase with
      | .running => if p.2.onCore c then (p.1, { p.2 with phase := .stopping 6 }) else p
      | _ => p) }
  (s1.log c 0x0007 [BitVec.ofNat 8 reason]).log 0x3FF 0x0015 (bytesOfNat 2 c ++ [0xFF])

/-- A launch is cancelled (R31, R45, R422). -/
def State.cancelLaunch (s : State) (r : Nat) (l : Launch) : State :=
  match l.phase with
  | .running | .stopping _ => s.setLaunch r { l with phase := .stopping 8 }
  | _ => (s.dropGrants r).endLaunch r l 8

/-! The mailbox (R421). -/

/-- ARG0 to ARG3 as the command took them when it started (R421). -/
def mboxArg (s : State) (n : Nat) : Nat := (s.nun.args.getD n 0).toNat

/-- A command ends: STATUS and RESULT are written, and the event log records it. -/
def State.mgmtDone (s : State) (st result : Nat) : State :=
  let r : W32 := BitVec.ofNat 32 result
  ({ s with nun := { s.nun with op := 0, status := st, result := r } }).log 0x3FF 0x0014
    ([BitVec.ofNat 8 s.nun.op, BitVec.ofNat 8 st, 0, 0] ++ bytesOfNat 4 r.toNat)

/-- A management command: performed where the mailbox holds its opcode. -/
def mgmt (op : Nat) (s : State) (eff : State → State) : Host.Outcome State Fault Refusal :=
  if s.nun.op = op then .next (eff s) else .next s

/-- An object in HBM that a command names (R421). -/
def hbmObject (a n : Nat) : Bool := a % 64 == 0 && a + n ≤ Config.hbmEnd

/-- CANCEL (R422). -/
def execCancel (s : State) : Host.Outcome State Fault Refusal :=
  mgmt 1 s (fun s =>
    let a1 := mboxArg s 1
    let a2 := mboxArg s 2
    let named (l : Launch) : Bool :=
      match mboxArg s 0, l.src with
      | 0, _ => l.lid != 0 && l.lid == a1
      | 1, .slot n => n == a1
      | 2, .cmd _ va asid _ => va.toNat == a1 && asid.toNat == a2
      | _, _ => false
    if 2 < mboxArg s 0 || (mboxArg s 0 == 1 && 256 ≤ a1) || (mboxArg s 0 == 2 && 65536 ≤ a2) then s.mgmtDone 4 0
    else
      let ls := s.launches.filter (fun p => named p.2)
      if ls.isEmpty then s.mgmtDone 3 0
      else (ls.foldl (fun s p => s.cancelLaunch p.1 p.2) s).mgmtDone 2 ls.length)

/-- RETIRE (R44, R422). -/
def execRetire (s : State) : Host.Outcome State Fault Refusal :=
  mgmt 2 s (fun s => if 512 ≤ mboxArg s 0 then s.mgmtDone 4 0 else (s.retireCore (mboxArg s 0) 3).mgmtDone 2 0)

/-- A link that is down trains again, with a number of retrainings that end held; the third leaves it down (R364, R422;
log 8 for the number). -/
def State.retrainUp (s : State) (link held : Nat) : State :=
  let l8 := BitVec.ofNat 8 link
  let s1 := (List.range held).foldl (fun s i => s.log (0x300 + link) 0x000A [l8, BitVec.ofNat 8 (i + 1)]) s
  if held < 3 then (s1.setLink link .up).mgmtDone 2 1
  else ((s1.setLink link .down).log (0x300 + link) 0x000B [l8]).mgmtDone 2 2

/-- LINKUP (R364, R422). -/
def execLinkup (s : State) : Host.Outcome State Fault Refusal :=
  mgmt 3 s (fun s =>
    let link := mboxArg s 0
    if 32 ≤ link then s.mgmtDone 4 0
    else { s with free := s.free + 1 }.retrainUp link (Config.freeChoice s.free % 4))

/-- A silent peer answers its links again, or does not yet: which of the two is open (R366; log 8). -/
def State.rejoin (s : State) (t : Nat) : State :=
  if t = ownTdev || (s.peer t).up then s
  else { s.setPeer t { s.peer t with up := Config.freeChoice s.free % 2 == 1 } with free := s.free + 1 }

/-- REINSTATE: refused while the peer does not answer (R366, R422). -/
def execReinstate (s : State) : Host.Outcome State Fault Refusal :=
  mgmt 4 s (fun s =>
    let p := mboxArg s 0
    let t := panelTdev p
    if 64 ≤ p then s.mgmtDone 4 0
    else
      let s1 := s.rejoin t
      if t != ownTdev && (!(s1.peer t).up || s1.cutOff) then s1.mgmtDone 3 0
      else { s1 with isolated := tput false s1.isolated t false }.mgmtDone 2 0)

/-- POWERCAP (R419, R422). -/
def execPowercap (s : State) : Host.Outcome State Fault Refusal :=
  mgmt 5 s (fun s =>
    let w := mboxArg s 0
    if w < 400 || 1600 < w then s.mgmtDone 4 0 else { s with nun := { s.nun with capWatts := w } }.mgmtDone 2 w)

/-! Firmware (R413). -/

def Nunatak.slot (n : Nunatak) (b : Bool) : FwSlot := if b then n.fwB else n.fwA
def Nunatak.setSlot (n : Nunatak) (b : Bool) (f : FwSlot) : Nunatak := if b then { n with fwB := f } else { n with fwA := f }

/-- A field of an object's header (R101). -/
def objField (o : List Byte) (off n : Nat) : Nat := recField o off n

/-- Step 1 of R109: the header. A table that does not start at a multiple of 8 (R101) ends the load here, since R109 gives that
check no status of its own (DESIGN CHOICE, log 34). -/
def headerOk (o : List Byte) : Bool :=
  128 ≤ o.length && objField o 0 4 == 0x4F564743 && objField o 4 2 == 1 && objField o 6 2 == 0x80 &&
  objField o 0x1D 3 == 0 && objField o 0x2A 6 == 0 && ((o.drop 0x38).take 72).all (fun b => b == 0) &&
  objField o 0x30 8 == o.length && 3 ≤ objField o 0x28 2 && objField o 0x28 2 ≤ 64 && objField o 0x20 8 % 8 == 0 &&
  objField o 0x20 8 + 32 * objField o 0x28 2 ≤ o.length

/-- A section table entry (R102). -/
structure Sect where
  type : Nat
  info : Nat
  off : Nat
  size : Nat
  deriving DecidableEq, Repr

/-- The section table. -/
def sections (o : List Byte) : List Sect :=
  (List.range (objField o 0x28 2)).map (fun i =>
    let e := objField o 0x20 8 + 32 * i
    { type := objField o e 2, info := objField o (e + 4) 4, off := objField o (e + 8) 8, size := objField o (e + 16) 8 })

/-- Bytes of a section. -/
def sectBytes (o : List Byte) (t : Sect) : List Byte := (o.drop t.off).take t.size

/-- The bytes of the one section of a type; none, no bytes. -/
def sectOf (o : List Byte) (t : Nat) : List Byte :=
  ((sections o).find? (fun s => s.type == t)).elim [] (sectBytes o)

/-- Sections of a type. -/
def countType (ss : List Sect) (t : Nat) : Nat := ss.countP (fun s => s.type == t)

/-- Entries of the launch section. -/
def launchCount (ss : List Sect) : Nat := ((ss.find? (fun s => s.type == 0x0B)).map (fun s => s.size / 128)).getD 0

/-- Spans of a file that lie apart. -/
def apart (l : List (Nat × Nat)) : Bool :=
  (l.zipIdx).all (fun p => (l.drop (p.2 + 1)).all (fun q => p.1.1 + p.1.2 ≤ q.1 || q.1 + q.2 ≤ p.1.1 || p.1.2 == 0 || q.2 == 0))

/-- Bytes of a file that no span covers are zero. -/
def gapsZero (o : List Byte) (l : List (Nat × Nat)) : Bool :=
  (o.zipIdx).all (fun p => p.1 == 0 || l.any (fun q => q.1 ≤ p.2 && p.2 < q.1 + q.2))

/-- Sections of a type have a size of whole entries. -/
def wholeEntries (ss : List Sect) (t m : Nat) : Bool := ss.all (fun s => s.type != t || s.size % m == 0)

/-- Step 2 of R109: the section table (R102). Code of a length that R102 does not allow fails here (DEDUCED, log 34). -/
def sectionsOk (o : List Byte) : Bool :=
  let ss := sections o
  let tab := objField o 0x20 8
  let spans := (tab, 32 * ss.length) :: ss.map (fun s => (s.off, s.size))
  let one (t : Nat) : Bool := countType ss t ≤ 1
  let ls := ss.filter (fun s => s.type == 3)
  ss.all (fun s => (1 ≤ s.type && s.type ≤ 0x0D || s.type == 0x0F) && s.off % 64 == 0 && s.off + s.size ≤ o.length &&
    (s.info == 0 || s.type == 3)) &&
  (List.range ss.length).all (fun i => objField o (tab + 32 * i + 2) 2 == 0 && objField o (tab + 32 * i + 24) 8 == 0) &&
  countType ss 1 + countType ss 2 == 1 && [4, 5, 6, 7, 8, 9, 0xA, 0xB, 0xD].all one &&
  countType ss 0xC == 1 && countType ss 0xF == 1 &&
  ls.all (fun s => s.info < launchCount ss && (ls.countP (fun t => t.info == s.info)) == 1) &&
  (ss.getLast?.any (fun s => s.type == 0x0F && s.off + s.size == o.length)) &&
  wholeEntries ss 1 64 && wholeEntries ss 2 8 && apart spans && gapsZero o ((0, 128) :: spans)

/-- The canonical byte string (R108). -/
def canonicalBytes (o : List Byte) : List Byte :=
  let tab := objField o 0x20 8
  (o.take 128) ++ ((sections o).zipIdx).flatMap (fun p =>
    if p.1.type == 0x0F then [] else (o.drop (tab + 32 * p.2)).take 32 ++ sectBytes o p.1)

/-- The digest of an object (R108). -/
def objDigest (o : List Byte) : List Byte := sha384 (canonicalBytes o)

/-- The signatures of a block of R107 over a digest, each against its key: whether the two verify. In a block of another size, or
with another ECDSALEN, LMSLEN or LMSTYPE, neither does: R107 gives such a block no status (DESIGN CHOICE, log 34). -/
def sigBlock (ec lms digest sig : List Byte) : Bool × Bool :=
  let shape := sig.length == 2776 && recField sig 0 4 == 96 && recField sig 0x64 4 == 2668 && recField sig 0x68 4 == 0
  (shape && ecdsaOk ec digest ((sig.drop 4).take 96), shape && lmsOk lms digest ((sig.drop 0x6C).take 2668))

/-- The load status that refuses a firmware object, or none (R109, R413). -/
def State.fwRefusal (s : State) (o : List Byte) : Option Nat :=
  if !headerOk o then some 1
  else if !sectionsOk o then some 2
  else if sigBlock Config.vendorEc Config.vendorLms (objDigest o) (sectOf o 0xF) != (true, true) then some 4
  else if objField o 0x14 4 < s.nun.fuseCnt || 256 < objField o 0x14 4 then some 5
  else if objField o 8 4 != 0x0F02 then some 6
  else none

/-- FWUPDATE (R413, R422). -/
def execFwupdate (s : State) : Host.Outcome State Fault Refusal :=
  mgmt 6 s (fun s =>
    let a := mboxArg s 0
    let n := mboxArg s 1
    if !hbmObject a n then s.mgmtDone 4 0
    else
      let o := readBytes s.mem a n
      match s.fwRefusal o with
      | some st => s.mgmtDone 3 st
      | none =>
        let b := !s.nun.fwActive
        let f : FwSlot := { object := o, secver := objField o 0x14 4, valid := true, fresh := true }
        { s with nun := { (s.nun.setSlot b f) with fwNext := b } }.mgmtDone 2 0)

/-- FWCONFIRM (R413, R422). -/
def execFwconfirm (s : State) : Host.Outcome State Fault Refusal :=
  mgmt 7 s (fun s =>
    let f := s.nun.slot s.nun.fwActive
    if !f.fresh then s.mgmtDone 3 0
    else
      let c := max s.nun.fuseCnt f.secver
      { s with nun := { (s.nun.setSlot s.nun.fwActive { f with fresh := false }) with fuseCnt := c } }.mgmtDone 2 c)

/-! Owner keys (R415, R423). -/

def Nunatak.key (n : Nunatak) (k : Nat) : List Byte := tget (List.replicate 256 0) n.keys k
def keyEnrolled (k : List Byte) : Bool := k.getD 0 0 == 1
def keyMinsec (k : List Byte) : Nat := recField k 4 4
def keyEc (k : List Byte) : List Byte := (k.drop 8).take 96
def keyLms (k : List Byte) : List Byte := (k.drop 0x68).take 56

/-- The 256 bytes of an enrolled slot. -/
def keyBytes (minsec : Nat) (ec lms : List Byte) : List Byte :=
  [1, 0, 0, 0] ++ bytesOfNat 4 minsec ++ ec ++ lms ++ List.replicate 96 0

/-- The STATUS with which a signed key command ends, 2 where it is accepted (R423). -/
def State.keyStatus (s : State) (c : List Byte) : Nat :=
  let action := recField c 4 1
  let slot := recField c 5 1
  let minsec := recField c 0x10 4
  let k := s.nun.key slot
  let self := action == 1 && slot == 0 && !keyEnrolled (s.nun.key 0)
  let signer := s.nun.key 0
  let ec := (c.drop 0x18).take 96
  let lms := (c.drop 0x78).take 56
  let both := sigBlock (if self then ec else keyEc signer) (if self then lms else keyLms signer)
    (sha384 (c.take 0xB0)) (c.drop 0xB0)
  let zero (l : List Byte) : Bool := l.all (fun b => b == 0)
  if recField c 0 4 != 0x4B4D4344 || action == 0 || 4 < action || 7 < slot || recField c 6 2 != 0 || recField c 0x14 4 != 0 ||
    (2 < action && !(zero ec && zero lms)) then 3
  else if !(self || keyEnrolled signer) || !both.1 || !both.2 then 5
  else if recField c 8 8 ≤ s.nun.keySeq.toNat then 6
  else
    let ok := match action with
      | 1 => !keyEnrolled k
      | 3 => slot != 0
      | _ => keyEnrolled k && keyMinsec k ≤ minsec
    if ok then 2 else 3

/-- KEYCMD (R415, R422, R423). -/
def execKeycmd (s : State) : Host.Outcome State Fault Refusal :=
  mgmt 8 s (fun s =>
    let a := mboxArg s 0
    if !hbmObject a 2952 || mboxArg s 1 != 2952 then s.mgmtDone 4 0
    else
      let c := readBytes s.mem a 2952
      let st := s.keyStatus c
      if st != 2 then s.mgmtDone st 0
      else
        let action := recField c 4 1
        let slot := recField c 5 1
        let minsec := recField c 0x10 4
        let old := s.nun.key slot
        let new := match action with
          | 3 => List.replicate 256 0
          | 4 => keyBytes minsec (keyEc old) (keyLms old)
          | _ => keyBytes minsec ((c.drop 0x18).take 96) ((c.drop 0x78).take 56)
        let n := { s.nun with keys := tput (List.replicate 256 0) s.nun.keys slot new, keySeq := BitVec.ofNat 64 (recField c 8 8) }
        (({ s with nun := n }).log 0x3FF 0x0011 ([BitVec.ofNat 8 slot, BitVec.ofNat 8 action, 0, 0] ++ bytesOfNat 4 minsec)).mgmtDone 2 slot)

/-! Identity and attestation (R414, R416). -/

/-- XLATVER of the active firmware: 1 to 4,095 (R414). -/
def State.xlatVer (s : State) : Nat := 1 + Config.xlatVer (s.nun.slot s.nun.fwActive).object % 4095

/-- DEVINFO (R414). -/
def State.devinfo (s : State) : Nat :=
  0x0F02 * 2 ^ 32 + Config.stepping.toNat * 2 ^ 24 + (if s.nun.fwActive then 2 ^ 21 else 0) + s.nun.fuseCnt % 512 * 2 ^ 12 +
    s.xlatVer

/-- The attestation report with its signature block (R416, R423). -/
def State.report (s : State) (nonce : List Byte) : List Byte :=
  let r := nonce ++ bytesOfNat 8 s.devinfo ++ sha384 (s.nun.slot s.nun.fwActive).object ++
    bytesOfNat 4 s.images.length ++ bytesOfNat 4 0 ++
    s.images.flatMap (fun i => i.digest.take 48 ++ bytesOfNat 2 i.asid.toNat ++ List.replicate 6 0)
  r ++ idSignature (sha384 r)

/-- ATTEST (R416, R422). -/
def execAttest (s : State) : Host.Outcome State Fault Refusal :=
  mgmt 9 s (fun s =>
    let need := 0x60 + 56 * s.images.length + 2776
    if !hbmObject (mboxArg s 0) 32 || !hbmObject (mboxArg s 1) (min need (mboxArg s 2)) then s.mgmtDone 4 0
    else if mboxArg s 2 < need then s.mgmtDone 3 need
    else (s.publish (mboxArg s 1) (s.report (readBytes s.mem (mboxArg s 0) 32))).mgmtDone 2 need)

/-- IDKEY (R422). -/
def execIdkey (s : State) : Host.Outcome State Fault Refusal :=
  mgmt 10 s (fun s =>
    if !hbmObject (mboxArg s 0) 152 then s.mgmtDone 4 0
    else (s.publish (mboxArg s 0) (idEcPub ++ idLmsPub)).mgmtDone 2 152)

/-! Writes to device registers (R8, R47). -/

/-- Registers of R254, R351, R369, R365, R376 and R402 that hold what is written, by their first and last byte. -/
def plainRegs : List (Nat × Nat) :=
  [(Config.nameTableDpa, 0x40000), (Config.msumAddrDpa, 8), (Config.windowsDpa, 512), (Config.exposureDpa, 4096),
   (Config.aprxDpa, 128), (Config.xlatCtxDpa, 0x100000), (Config.xinvDpa, 16), (Config.mailboxDpa, 32)]

/-- The bits of a register byte that are not reserved, by registers of 16 or 32 bytes that repeat (R9, R254, R351, R365, R369,
R376, R407). -/
def regMask (a : Nat) : Byte :=
  let at' (base : Nat) (m : List Byte) : Byte := m.getD ((a - base) % m.length) 0
  let ones (n : Nat) : List Byte := List.replicate n 0xFF
  if Config.nameTableDpa ≤ a && a < Config.nameTableDpa + 0x40000 then at' Config.nameTableDpa ([0xFF, 0x01, 0x3F, 0, 0, 0] ++ ones 9 ++ [0x80])
  else if Config.msumAddrDpa ≤ a && a < Config.msumAddrDpa + 8 then at' Config.msumAddrDpa ([0xC1] ++ ones 7)
  else if Config.windowsDpa ≤ a && a < Config.windowsDpa + 512 then
    at' Config.windowsDpa (ones 5 ++ [0, 0, 0] ++ ones 16 ++ [0, 0] ++ ones 3 ++ [0, 0, 0xC0])
  else if Config.exposureDpa ≤ a && a < Config.exposureDpa + 4096 then at' Config.exposureDpa (ones 5 ++ [0, 0, 0] ++ ones 5 ++ [0, 0, 0xC0])
  else if Config.groupTableDpa ≤ a && a < Config.groupTableDpa + 32768 then
    at' Config.groupTableDpa (ones 8 ++ [0, 0, 0, 0, 0, 0, 0, 0] ++ ones 13 ++ [0, 0, 0xF8])
  else if Config.xinvDpa ≤ a && a < Config.xinvDpa + 16 then at' Config.xinvDpa (ones 10 ++ [0x03, 0, 0, 0, 0, 0])
  else 0xFF

/-- A byte of a number replaced. -/
def setByte (v : Nat) (i : Nat) (b : Byte) : Nat := v - v / 256 ^ i % 256 * 256 ^ i + b.toNat * 256 ^ i

/-- A byte of a core's control block is written (R399). -/
def State.ctlByte (s : State) (core off : Nat) (b : Byte) : State :=
  let k := s.core core
  if off = 0 then s.setCore core { k with evCtx := b.toNat % 8 }
  else if 8 ≤ off && off < 16 then s.setCore core { k with evImage := BitVec.ofNat 64 (setByte k.evImage.toNat (off - 8) b) }
  else if off = 16 && k.evStatus != 1 && (b.toNat % 4 = 1 || b.toNat % 4 = 2) then
    s.setCore core { k with evCmd := b.toNat % 4, evStatus := 1, evLds := (k.ctx k.evCtx).lds.isSome }
  else s

/-- OP of the mailbox is written: the command starts with the arguments as they stand, unless one is under way (R421). -/
def State.mboxOp (s : State) (b : Byte) : State :=
  if s.nun.status = 1 then s
  else if b = 0 || 10 < b.toNat then ({ s with nun := { s.nun with op := b.toNat } }).mgmtDone 4 0
  else { s with nun := { s.nun with
    op := b.toNat, status := 1
    args := (List.range 4).map (fun n => BitVec.ofNat 64 (s.reg64 (Config.mailboxDpa + 8 * n))) } }

/-- One byte is written to a device register by privileged software or the host; a byte that is read-only, or that
belongs to no register, is ignored (R8); a reserved bit stays 0 (R9). -/
def State.regByte (s : State) (a : Nat) (b : Byte) : State :=
  if a = Config.xinvDpa + 10 then
    let t := { s with regs := tput 0 s.regs a (b &&& regMask a) }
    if b.getLsbD 2 then t.enqueue .xinvInvalidate else t
  else if plainRegs.any (fun r => r.1 ≤ a && a < r.1 + r.2) then { s with regs := tput 0 s.regs a (b &&& regMask a) }
  else if Config.groupTableDpa ≤ a && a < Config.groupTableDpa + 32768 then
    { s with groups := tput 0 s.groups (a - Config.groupTableDpa) (b &&& regMask a) }
  else if Config.controlDpa ≤ a && a < Config.controlDpa + 32 * 512 then
    s.ctlByte ((a - Config.controlDpa) / 32) ((a - Config.controlDpa) % 32) b
  else if a = Config.mailboxDpa + 32 then s.mboxOp b
  else s

/-- Counter c after bytes have been written over its word; the word is written whole (R367). -/
def State.ctrOver (s : State) (dpa : Nat) (data : List Byte) (c : Nat) : State :=
  let a := Config.countersDpa + 8 * c
  s.setCtr c (BitVec.ofNat 32 ((List.range 4).foldl (fun v i =>
    if dpa ≤ a + i && a + i < dpa + data.length then setByte v i (data.getD (a + i - dpa) 0) else v) (tget 0 s.ctrs c).toNat))

/-- The counters that a range touches in bits [31:0], in order. -/
def ctrsIn (dpa n : Nat) : List Nat :=
  (((List.range n).filter (fun i => regionOf (dpa + i) == .counters && (dpa + i - Config.countersDpa) % 8 < 4)).map
    (fun i => (dpa + i - Config.countersDpa) / 8)).eraseDups

/-- REGISTER_WRITE: bytes are written to device registers, lowest first, and counters word by word (R8, R367). -/
def execRegisterWrite (dpa : Nat) (data : List Byte) (s : State) : Host.Outcome State Fault Refusal :=
  let s1 := (data.zipIdx).foldl (fun s p => if regionOf (dpa + p.2) == .regs then s.regByte (dpa + p.2) p.1 else s) s
  .next ((ctrsIn dpa data.length).foldl (fun s c => s.ctrOver dpa data c) s1)

/-! Reads of device registers by privileged software and, through BAR0, by the host. -/

/-- Byte i of a number. -/
def numByte (v i : Nat) : Byte := BitVec.ofNat 8 (v / 256 ^ i)

/-- Byte j of RETIRED_MAP (R44). -/
def State.retiredByte (s : State) (j : Nat) : Byte :=
  BitVec.ofNat 8 ((List.range 8).map (fun i => if tget false s.nun.retired (8 * j + i) then 2 ^ i else 0)).sum

/-- EVHEAD: SEQ of the newest entry, 0 where there is none (R421). -/
def Nunatak.evHead (n : Nunatak) : Nat := (n.log.map LogEnt.seq).foldl max 0

/-- The 32 bytes of a log entry (R420). -/
def LogEnt.bytes (e : LogEnt) : List Byte :=
  bytesOfNat 8 e.seq ++ bytesOfNat 8 e.wallus ++ bytesOfNat 2 e.source ++ bytesOfNat 2 e.code ++ (e.data ++ List.replicate 12 0).take 12

/-- The newest entry whose number falls on a place of the log (R424). -/
def Nunatak.logAt (n : Nunatak) (k : Nat) : Option LogEnt := n.log.reverse.find? (fun e => e.seq % 65536 == k)

/-- A byte of a core's control block (R399). -/
def State.ctlRead (s : State) (core off : Nat) : Byte :=
  let k := s.core core
  if off = 0 then BitVec.ofNat 8 k.evCtx
  else if 8 ≤ off && off < 16 then numByte k.evImage.toNat (off - 8)
  else if off = 24 then BitVec.ofNat 8 k.evStatus
  else 0

/-- What a byte of the device registers reads as (R44, R367, R376, R399, R407, R414, R421, R424); a byte of no register
reads as 0. -/
def State.regRead (s : State) (a : Nat) : Byte :=
  if Config.devinfoDpa ≤ a && a < Config.devinfoDpa + 8 then numByte s.devinfo (a - Config.devinfoDpa)
  else if Config.retiredMapDpa ≤ a && a < Config.retiredMapDpa + 64 then s.retiredByte (a - Config.retiredMapDpa)
  else if Config.groupTableDpa ≤ a && a < Config.groupTableDpa + 32768 then tget 0 s.groups (a - Config.groupTableDpa)
  else if Config.countersDpa ≤ a && a < Config.countersEnd then
    numByte (tget 0 s.ctrs ((a - Config.countersDpa) / 8)).toNat ((a - Config.countersDpa) % 8)
  else if Config.xinvDpa + 16 ≤ a && a < Config.xinvDpa + 24 then
    if a = Config.xinvDpa + 16 && !s.xinvBusy && !s.queue.contains .xinvInvalidate then 1 else 0
  else if Config.mailboxDpa + 32 ≤ a && a < Config.mailboxDpa + 64 then
    let o := a - Config.mailboxDpa
    if o = 40 then BitVec.ofNat 8 s.nun.status
    else if 44 ≤ o && o < 48 then numByte s.nun.result.toNat (o - 44)
    else if 48 ≤ o && o < 56 then numByte s.nun.evHead (o - 48)
    else 0
  else if Config.controlDpa ≤ a && a < Config.controlDpa + 32 * 512 then
    s.ctlRead ((a - Config.controlDpa) / 32) ((a - Config.controlDpa) % 32)
  else if Config.eventLogDpa ≤ a && a < Config.eventLogEnd then
    match s.nun.logAt ((a - Config.eventLogDpa) / 32) with
    | some e => e.bytes.getD ((a - Config.eventLogDpa) % 32) 0
    | none => 0
  else tget 0 s.regs a

/-! The coherent window (R58, R410). -/

/-- The address of load slot n (R410). -/
def loadSlot (n : Nat) : Nat := Config.windowBase + 0x8000 + 128 * n

/-- The host may write the window by CXL.mem, and HBM through BAR2 (R58, R409). -/
def hostReach (dpa n : Nat) : Bool :=
  (Config.windowBase ≤ dpa && dpa + n ≤ Config.windowEnd) || dpa + n ≤ Config.hbmEnd

/-- The 64-byte objects of the window that a range touches. -/
def objectsOf (dpa n : Nat) : List Nat :=
  if dpa < Config.windowBase then [] else (List.range ((dpa % 64 + n + 63) / 64)).map (fun i => dpa / 64 * 64 + 64 * i)

/-- A store of the host to an object of the window is a release of its earlier writes, which an ACQ that waits there may meet
(R56, R58). -/
def State.hostRelease (s : State) (a : Nat) : State := (s.release .host (.latch a) 6 (fun _ _ => true)).wakeLatch a

/-- The launch units' read of V = 1 in a slot is the acquire of that release (R52, R410). -/
def State.slotAcquire (s : State) (a : Nat) : State :=
  [0, 1, 2, 3].foldl (fun s d => s.acquire (.launcher d) 6 (fun o => o == .latch (a / 64 * 64))) s

/-- HOST_CXL_WRITE (R58, R410). -/
def execHostCxlWrite (dpa : Nat) (data : List Byte) (s : State) : Host.Outcome State Fault Refusal :=
  if hostReach dpa data.length then
    let s1 := (objectsOf dpa data.length).foldl State.hostRelease (s.storeMem [.host] dpa data)
    let set := (data.zipIdx).filter (fun p => slotBase (dpa + p.2) && p.1.getLsbD 0)
    .next (set.foldl (fun s p => s.slotAcquire (dpa + p.2)) s1)
  else .next s

/-- HOST_CXL_READ: a read of an object of the window acquires what has been released on it; nothing else changes (R56, R58). -/
def execHostCxlRead (dpa : Nat) (len : Nat) (s : State) : Host.Outcome State Fault Refusal :=
  if hostReach dpa len then .next ((objectsOf dpa len).foldl (fun s a => s.acquire .host 6 (fun o => o == .latch a)) s) else .next s

/-! What peers ask (R365, R367). -/

/-- A peer's access to this device's memory or counters, once its exposure allows it: device registers are not reached
(R47; DEDUCED, log 24), and an operation that the width or the alignment does not allow does nothing. -/
def State.peerServe (s : State) (acc : PeerAcc) (dpa : Nat) (data : List Byte) : State :=
  let v := natOfBytes
  match acc with
  | .load _ => s
  | .store from' =>
    if inCounters dpa data.length && dpa % 8 = 0 && data.length = 8 then
      s.setCtr ((dpa - Config.countersDpa) / 8) (BitVec.ofNat 32 (v (data.take 4)))
    else if !plainDpa dpa data.length || (data.length ≤ 8 && s.partBad dpa data.length) then s
    else s.storeMem [.peer (panelTdev from')] dpa data
  | .atomic from' aop wide rel =>
    let ag : Agent := .peer (panelTdev from')
    let w := if wide then 8 else 4
    if 12 < aop || (wide && 9 ≤ aop && aop ≤ 11) || dpa % w != 0 then s
    else if !inCounters dpa w && !plainDpa dpa w then s
    else
      let s1 := match rel with
        | some scope =>
          if inCounters dpa w then s.release ag (.ctr ownTdev ((dpa - Config.countersDpa) / 8)) scope (fun _ _ => true) else s
        | none => s
      match s1.applyWord [ag] dpa w aop (v (data.take w)) (v ((data.drop w).take w)) with
      | .ok (_, t) => t
      | .error _ => s

/-- The bytes that a peer's access touches, and whether it writes. -/
def peerSpan (acc : PeerAcc) (len : Nat) (data : List Byte) : Nat × Bool :=
  match acc with
  | .load _ => (len, false)
  | .store _ => (data.length, true)
  | .atomic _ _ wide _ => (if wide then 8 else 4, true)

/-- PEER_ACCESS by a device of the panel: refused outside the exposed ranges, and where no link is up (R364, R365). -/
def execPeerAccess (acc : PeerAcc) (dpa len : Nat) (data : List Byte) (s : State) : Host.Outcome State Fault Refusal :=
  let (n, wr) := peerSpan acc len data
  if n = 0 || s.cutOff || !exposed s.regs wr dpa n then .next s else .next (s.peerServe acc dpa data)

/-! Resets (R413, R417). -/

/-- The slot that Nunatak boots: the active one, else the other, if it passes verification (R413). -/
def Nunatak.boot (n : Nunatak) : Option Bool :=
  let ok (b : Bool) : Bool := (n.slot b).valid && n.fuseCnt ≤ (n.slot b).secver
  if ok n.fwNext then some n.fwNext else if ok (!n.fwNext) then some (!n.fwNext) else none

/-- What of Nunatak survives a reset, and what boot leaves (R413, R417, R418). -/
def Nunatak.rebooted (n : Nunatak) : Nunatak :=
  { Nunatak.new with
    retired := n.retired, log := n.log, nextSeq := n.nextSeq, fuseCnt := n.fuseCnt, keys := n.keys, keySeq := n.keySeq,
    fwA := n.fwA, fwB := n.fwB, fwActive := n.boot.getD n.fwNext, fwNext := n.boot.getD n.fwNext, recovery := n.boot.isNone }

/-- Boot is recorded. -/
def State.bootLog (s : State) : State :=
  if s.nun.recovery then s
  else s.log 0x3FF 0x0001 ([if s.nun.fwActive then 1 else 0, 0, 0, 0] ++ bytesOfNat 4 (s.nun.slot s.nun.fwActive).secver)

/-- A reset: local stores, Firn, the névé stores and the window are zero, and every register that R417 does not keep takes
its reset value. HBM stands until it is scrubbed. The panel's switches and the other devices keep theirs over a reset
from a link. -/
def State.rebooted (s : State) (cold : Bool) : State :=
  let t := { State.reset with
    mem := s.mem.filter (fun p => p.1 < Config.hbmEnd), memUe := s.memUe.filter (fun p => 8 * p.1 < Config.hbmEnd)
    nun := s.nun.rebooted, sched := s.sched, free := s.free }
  (if cold then t
   else { t with
     groups := s.groups, peers := s.peers, isolated := s.isolated, planes := s.planes, torusDown := s.torusDown
     redLines := s.redLines.map (fun l => { l with own := l.own.map (fun _ => .other Config.devId.toNat) }) }).bootLog

/-- RESET (R417). -/
def execReset (cold : Bool) (s : State) : Host.Outcome State Fault Refusal := .next (s.rebooted cold)

/-- SCRUB_DONE: HBM is zero, and admissions may start (R417). -/
def execScrubDone (s : State) : Host.Outcome State Fault Refusal :=
  if s.nun.scrubbed then .next s
  else
    let t := { s with
      mem := s.mem.filter (fun p => Config.hbmEnd ≤ p.1), memUe := s.memUe.filter (fun p => Config.hbmEnd ≤ 8 * p.1)
      nun := { s.nun with scrubbed := true } }
    .next (t.log 0x3FF 0x0016 (bytesOfNat 4 (s.wallus.toNat / 1000)))

/-! Margins and power (R418, R419). -/

/-- The effective rate in MHz: gating removes 25 MHz a step (R419). -/
def Nunatak.effective (n : Nunatak) : Nat := n.aclkMhz - 25 * n.gating

/-- An ACLK step is logged (R418, R419, R424). -/
def State.aclkLog (s : State) (reason : Nat) (gates : Bool) : State :=
  s.log 0x3FF 0x0008 (bytesOfNat 2 s.nun.effective ++ [BitVec.ofNat 8 reason, if gates then 1 else 0])

def State.modNun (s : State) (f : Nunatak → Nunatak) : State := { s with nun := f s.nun }

/-- MARGIN_STEP: ACLK steps down by 25 MHz; at 350 MHz the core is retired (R418). -/
def execMarginStep (core : Nat) (s : State) : Host.Outcome State Fault Refusal :=
  if s.nun.aclkMhz ≤ 350 then .next (s.retireCore core 2)
  else
    let to' := max 350 (s.nun.aclkMhz - 25)
    .next ((s.modNun (fun n => { n with planMhz := to', aclkMhz := to' })).aclkLog 1 false)

/-- The rate of a plan: the step of 25 MHz below 700 MHz at or under what it allows, and never below 350 MHz (R17, R25, R418). -/
def planRate (mhz : Nat) : Nat := min 700 (max 350 (mhz / 25 * 25))

/-- REPLAN: voltage and ACLK are planned anew; while gating stands ACLK does not rise, and steps back up by R419 once it is
lifted (R418, R419). -/
def execReplan (mhz : Nat) (s : State) : Host.Outcome State Fault Refusal :=
  .next (({ s with free := s.free + 1 }.modNun (fun n => { n with
    planMhz := planRate mhz, aclkMhz := if n.gating = 0 then planRate mhz else min n.aclkMhz (planRate mhz)
    planDue := s.wallus.toNat + planEvery })).aclkLog 4 false)

/-- POWER_CAP_STEP: the step of one millisecond, down or up, by the 10 ms average, the junction in °C, and whether the
coolant is out of its limits (R419). -/
def execPowerCapStep (watts junction : Nat) (inlet : Bool) (s : State) : Host.Outcome State Fault Refusal :=
  let n := s.nun
  let hot := 105 ≤ junction || inlet
  let reason := if n.capWatts < watts then 2 else 3
  if n.capWatts < watts || hot then
    if 350 < n.aclkMhz then .next ((s.modNun (fun n => { n with aclkMhz := n.aclkMhz - 25 })).aclkLog reason false)
    else if 100 < n.effective then .next ((s.modNun (fun n => { n with gating := n.gating + 1 })).aclkLog reason true)
    else if n.capWatts < watts then .next (s.aclkLog 2 false)
    else .next s
  else if watts * 100 ≤ n.capWatts * 95 then
    if 0 < n.gating then .next ((s.modNun (fun n => { n with gating := n.gating - 1 })).aclkLog 2 true)
    else if n.aclkMhz < n.planMhz then .next ((s.modNun (fun n => { n with aclkMhz := min (n.aclkMhz + 25) n.planMhz })).aclkLog 2 false)
    else .next s
  else .next s

/-- THERMAL_TRIP: issue stops, the event is logged, and the device resets (R419). -/
def execThermalTrip (junction : Nat) (s : State) : Host.Outcome State Fault Refusal :=
  if 115 ≤ junction then .next ((s.log 0x3FF 0x0010 (bytesOfNat 2 junction)).rebooted false) else .next s

/-- The management event that is due: the re-plan of boot or of 90 days, whose rate is the device's own, the end of the scrub, or a
command in the mailbox (R417, R418, R421; log 8 for the rate). -/
def State.manageDue (s : State) : Option Event :=
  if s.nun.planDue ≤ s.wallus.toNat && !s.nun.recovery then some (.replan (Config.freeChoice s.free))
  else if !s.nun.scrubbed then some .scrubDone
  else match s.nun.op with
    | 1 => some .cancel
    | 2 => some .retire
    | 3 => some .linkup
    | 4 => some .reinstate
    | 5 => some .powercap
    | 6 => some .fwupdate
    | 7 => some .fwconfirm
    | 8 => some .keycmd
    | 9 => some .attest
    | 10 => some .idkey
    | _ => none

end Sys2Proof.Machine
end

