-- ==== Sys2Proof/Machine/Micro.lean ====
section
/-! DEFINITION. The Serac micro-words (R315 to R323), the library routines (R324 to R328), and how an array starts,
suspends and resumes routines (R294 to R299). A micro-word acts on the routine that the array in focus runs. -/

namespace Sys2Proof.Machine

open Sys2Proof

/-! The micro-program (R313, R315, R322). -/

/-- A word of the microprogram store; words 0 to 255 are the firmware's (R313, R324). -/
def Core.microWord (k : Core) (a : Nat) : W64 := if a < 256 then Config.libraryWord a else tget 0 k.micro a

/-- A level whose last word is at an address sends the routine back, innermost first; one that is done ends (R322). -/
def microBack (at' : Nat) : List MicroLoop → Option Nat × List MicroLoop
  | [] => (none, [])
  | l :: r =>
    if l.last = at' then
      if 1 < l.left then (some l.start, { l with left := l.left - 1 } :: r) else microBack at' r
    else
      let (b, r') := microBack at' r
      (b, l :: r')

/-- The routine after the word at its pc, which took so many steps; levels stand innermost first. Yield points lie at a
YP, and at the first boundary 48 steps after the last (R296). -/
def Routine.after (r : Routine) (steps : Nat) (yp : Bool) : Routine :=
  let (back, loops) := microBack r.pc r.loops
  let since := r.sinceYield + steps
  let y := yp || 48 ≤ since
  { r with pc := back.getD (r.pc + 1), loops := loops, steps := r.steps + steps,
           sinceYield := if y then 0 else since, atYield := y }

/-- A micro-word on the routine of the array in focus: its effect, then the next word; or the stop that a failed check or
a failed read brings (R315). A library routine's words are the firmware's, and none of them is met here (log 9). -/
def micro (i : Instr) (s : State) (steps : Nat) (yp : Bool) (eff : Work → Work) : Host.Outcome State Fault Refusal :=
  match s.work s.focusCore s.focusArr with
  | none => .next s
  | some w =>
    if w.r.lib.isSome then .next s
    else
      let w1 := if microLegal i then eff w else w.stopped microIll
      match w1.stop with
      | some st => .next (s.stopRoutine w1 st (w.r.pc % 2048))
      | none => .next (s.putWork { w1 with r := w1.r.after steps yp })

/-- A word's checks: of fields, then of rows (R315). -/
def Work.check (w : Work) (fields : Bool) (rows : Bool) (f : Work → Work) : Work :=
  if !fields then w.stopped microIll else if !rows then w.stopped rowXlate else f w

/-- Rows a + k × stride, k = 0 to cnt, can be touched. -/
def Work.rowsOk (w : Work) (a : W64) (stride n align cnt : Nat) : Bool :=
  (List.range (cnt + 1)).all (fun k => w.rowOk (a + BitVec.ofNat 64 (k * stride)) n align)

/-- SLDW (R317). -/
def execSldw (pa ps : BitVec 3) (cnt : BitVec 4) (row : BitVec 7) (rstr : BitVec 16) (s : State) : Host.Outcome State Fault Refusal :=
  micro (.sldw pa ps cnt row rstr) s (cnt.toNat + 1) false (fun w =>
    let f := w.r.cmd.wf
    let last := row.toNat + cnt.toNat
    w.check (last < serN f && row.toNat / 16 == last / 16)
      (w.rowsOk (w.mp pa) rstr.toNat 48 16 cnt.toNat && w.rowOk (w.mp ps) (serPer f) 1)
      (fun w => w.with (w.read (w.mp ps) (serPer f) 1) (fun sc =>
        Work.rows (fun k w => w.with (w.read (w.mp pa + BitVec.ofNat 64 (k * rstr.toNat)) 48 16) (fun b =>
          w.loadRow (row.toNat + k) b)) (cnt.toNat + 1) 0 (w.loadScales (row.toNat / 16) sc))))

/-- The A rows of a streaming word can be touched, or the gather unit can supply them (R315, R318). -/
def Work.aOk (w : Work) (ga : Bool) (pa ps : BitVec 3) (stride cnt : Nat) : Bool :=
  ga || (w.rowsOk (w.mp pa) stride 48 16 cnt && w.rowOk (w.mp ps) (serPer w.r.cmd.sf) 1)
def Work.latchOk (w : Work) (ga : Bool) (cnt : Nat) : Bool :=
  !ga || (match w.r.gather with | some g => cnt < g.rowsLeft | none => false)

/-- SSTRM (R318). -/
def execSstrm (pa ps : BitVec 3) (cnt : BitVec 4) (row : BitVec 7) (md ga inc : BitVec 1) (rstr : BitVec 16) (s : State) :
    Host.Outcome State Fault Refusal :=
  micro (.sstrm pa ps cnt row md ga inc rstr) s (cnt.toNat + 1) false (fun w =>
    let g := ga == 1
    w.check (row.toNat + cnt.toNat < serView w.r.cmd.sf && w.latchOk g cnt.toNat) (w.aOk g pa ps rstr.toNat cnt.toNat) (fun w =>
      let w1 := Work.rows (fun k w =>
        w.with (w.aRow g (w.mp pa + BitVec.ofNat 64 (k * rstr.toNat)) (w.mp ps)) (fun q =>
          q.2.streamRow q.1 (row.toNat + k) (md == 1))) (cnt.toNat + 1) 0 w
      if inc = 1 && !g then w1.bump pa ((cnt.toNat + 1) * rstr.toNat) else w1))

/-- SOUTR (R318). -/
def execSoutr (pa pb ps pt : BitVec 3) (cnt : BitVec 4) (ga inc : BitVec 1) (rstr dstr : BitVec 16) (s : State) :
    Host.Outcome State Fault Refusal :=
  micro (.soutr pa pb ps pt cnt ga inc rstr dstr) s (cnt.toNat + 1) false (fun w =>
    let g := ga == 1
    let per := serPer w.r.cmd.sf
    w.check (w.r.cmd.outerOk && w.latchOk g cnt.toNat)
      (w.aOk g pa ps rstr.toNat cnt.toNat && w.rowsOk (w.mp pb) dstr.toNat 48 16 cnt.toNat && w.rowOk (w.mp pt) per 1) (fun w =>
        let w1 := Work.rows (fun k w =>
          w.with (w.aRow g (w.mp pa + BitVec.ofNat 64 (k * rstr.toNat)) (w.mp ps)) (fun q =>
            q.2.with (q.2.aRow false (q.2.mp pb + BitVec.ofNat 64 (k * dstr.toNat)) (q.2.mp pt)) (fun y =>
              y.2.outerRow q.1 y.1))) (cnt.toNat + 1) 0 w
        if inc = 1 then
          let w2 := if g then w1 else w1.bump pa ((cnt.toNat + 1) * rstr.toNat)
          w2.bump pb ((cnt.toNat + 1) * dstr.toNat)
        else w1))

/-- Words of 4 bytes from bytes. -/
def wordsOf (n : Nat) (bs : List Byte) : List W32 :=
  (List.range n).map (fun i => BitVec.ofNat 32 (natOfBytes ((bs.drop (4 * i)).take 4)))

/-- SACC (R319). -/
def execSacc (sub : BitVec 2) (pa : BitVec 3) (cnt : BitVec 4) (row : BitVec 7) (inc : BitVec 1) (rstr : BitVec 16) (s : State) :
    Host.Outcome State Fault Refusal :=
  micro (.sacc sub pa cnt row inc rstr) s (cnt.toNat + 1) false (fun w =>
    let f := w.r.cmd.sf
    let n := serN f
    let g := sub.getLsbD 0
    let load := sub.getLsbD 1
    let last := row.toNat + cnt.toNat
    w.check ((if g then last < n else last < serView f) && (!g || w.r.cmd.outerOk))
      (!load || w.rowsOk (w.mp pa) rstr.toNat (4 * n) 16 cnt.toNat) (fun w =>
        let w1 := Work.rows (fun k w =>
          if load then
            w.with (w.read (w.mp pa + BitVec.ofNat 64 (k * rstr.toNat)) (4 * n) 16) (fun b => w.setRow g (row.toNat + k) (wordsOf n b))
          else w.setRow g (row.toNat + k) (List.replicate n 0)) (cnt.toNat + 1) 0 w
        if inc = 1 then w1.bump pa ((cnt.toNat + 1) * rstr.toNat) else w1))

/-- OPX of SDRN (R320). -/
def drainOf (opx : BitVec 16) : DrainFmt :=
  { fmt := (opx.extractLsb' 13 3).toNat, rm := (opx.extractLsb' 10 3).toNat, sat := opx.getLsbD 9, sc := opx.getLsbD 8,
    se := (opx.extractLsb' 0 8).toNat }

/-- SDRN (R320). -/
def execSdrn (pa : BitVec 3) (cnt : BitVec 4) (row : BitVec 7) (md : BitVec 1) (rstr opx : BitVec 16) (s : State) :
    Host.Outcome State Fault Refusal :=
  micro (.sdrn pa cnt row md rstr opx) s (cnt.toNat + 1) false (fun w =>
    let d := drainOf opx
    let f := w.r.cmd.sf
    let g := md == 1
    let last := row.toNat + cnt.toNat
    w.check (d.ok w.r.cmd g && (if g then last < serN f else last < serView f))
      (w.rowsOk (w.mp pa) rstr.toNat (d.rowBytes w.r.cmd) 4 cnt.toNat) (fun w =>
        Work.rows (fun k w => w.drainRow d g (row.toNat + k) (w.mp pa + BitVec.ofNat 64 (k * rstr.toNat))) (cnt.toNat + 1) 0 w))

/-- SGATH (R321). -/
def execSgath (pa pb ps : BitVec 3) (ni : BitVec 6) (rstr sstr : BitVec 16) (s : State) : Host.Outcome State Fault Refusal :=
  micro (.sgath pa pb ps ni rstr sstr) s 0 false (fun w => { w with r := { w.r with gather := some {
    idxAddr := (w.mp pa).toNat, left := ni.toNat + 1, base := w.mp pb, rstr := rstr.toNat, sbase := w.mp ps,
    sstr := sstr.toNat, latch := [] } } })

/-- MLOOP: a body of no passes is passed over, and a level that ends there is tested (R322). -/
def execMloop (lvl : BitVec 2) (cs : BitVec 1) (pc : BitVec 3) (eo : BitVec 11) (count : BitVec 32) (s : State) :
    Host.Outcome State Fault Refusal :=
  micro (.mloop lvl cs pc eo count) s 0 false (fun w =>
    let last := w.r.pc + eo.toNat
    let n := if cs = 1 then min (w.mp pc).toNat (2 ^ 32 - 1) else count.toNat
    w.check (last ≤ 2047 && w.r.loops.all (fun l => l.lvl != lvl.toNat && last ≤ l.last)) true (fun w =>
      if n = 0 then { w with r := { w.r with pc := last } }
      else { w with r := { w.r with loops := { lvl := lvl.toNat, start := w.r.pc + 1, last := last, left := n } :: w.r.loops } }))

/-- MADD (R322). -/
def execMadd (pd ps : BitVec 3) (us : BitVec 1) (imm : BitVec 32) (s : State) : Host.Outcome State Fault Refusal :=
  micro (.madd pd ps us imm) s 0 false (fun w =>
    { w with r := { w.r with mp := tput 0 w.r.mp pd.toNat (w.mp pd + (if us = 1 then w.mp ps else 0) + imm.signExtend 64) } })

/-- YP (R322). -/
def execYp (s : State) : Host.Outcome State Fault Refusal := micro .yp s 0 true id

/-- MSIG: the routine's earlier writes are performed; the semaphore of its context takes INC (R323, R130). -/
def execMsig (sem : BitVec 8) (inc : BitVec 4) (s : State) : Host.Outcome State Fault Refusal :=
  micro (.msig sem inc) s 0 false (fun w => { w with x := w.x.semAdd sem.toNat inc.toNat })

/-- An MWAIT is met. -/
def Ctx.semHas (x : Ctx) (sem val : BitVec 8) : Bool := val.toNat ≤ (tget 0 x.a.c.sem sem.toNat).toNat

/-- The context after an MWAIT has taken its value (R323). -/
def Ctx.semTake (x : Ctx) (sem val : BitVec 8) : Ctx :=
  { x with a := { x.a with c := { x.a.c with sem := tput 0 x.a.c.sem sem.toNat (tget 0 x.a.c.sem sem.toNat - val.zeroExtend 16) } } }

/-- MWAIT: it waits at a yield point until the semaphore holds VAL, and takes it (R323). -/
def execMwait (sem val : BitVec 8) (s : State) : Host.Outcome State Fault Refusal :=
  match s.work s.focusCore s.focusArr with
  | none => .next s
  | some w =>
    if w.r.lib.isNone && !w.x.semHas sem val then
      .next (s.putWork { w with r := { w.r with atYield := true, sinceYield := 0 } })
    else micro (.mwait sem val) s 0 false (fun w => { w with x := w.x.semTake sem val })

/-- MEND: the routine ends OK, with its step count (R308, R322). -/
def execMend (s : State) : Host.Outcome State Fault Refusal :=
  match s.work s.focusCore s.focusArr with
  | none => .next s
  | some w =>
    if w.r.lib.isSome then .next s
    else .next (s.endRoutine s.focusCore s.focusArr 0 (w.r.steps % 2 ^ 24))

/-- The micro-word that the array in focus runs next: none where the routine has stopped here, with the state that the
stop leaves, or where no micro-program runs (R315). -/
def State.microNext (s : State) : Option Instr × State :=
  match s.work s.focusCore s.focusArr with
  | none => (none, s)
  | some w =>
    if w.r.lib.isSome then (none, s)
    else if 2048 ≤ w.r.pc then (none, s.stopRoutine w microIll (w.r.pc % 2048))
    else match decodeMicro (w.k.microWord w.r.pc) with
      | .ok i => (some i, s)
      | .error _ => (none, s.stopRoutine w microIll (w.r.pc % 2048))

/-! The library (R324 to R328). -/

/-- An mp register of a routine, as a number. -/
def Work.mpn (w : Work) (i : Nat) : Nat := (tget 0 w.r.mp i).toNat

/-- The drain that mp3 asks of DRAIN (R328). -/
def libDrain (v : Nat) : DrainFmt :=
  { fmt := v % 8, rm := v / 8 % 8, sat := v / 64 % 2 == 1, sc := v / 128 % 2 == 1, se := v / 256 % 256 }

/-- The first parameter at fault (R324 to R328). -/
def Work.badArg (w : Work) (lib : Nat) : Option Nat :=
  let c := w.r.cmd
  let m := w.mpn
  let f := c.sf
  let scaled := serPer f != 0
  let first (l : List (Bool × Nat)) : Option Nat := (l.find? (fun p => !p.1)).map (fun p => p.2)
  match lib with
  | 0 | 1 => first [
      (m 0 % 16 == 0, 0), (m 1 < 2 ^ 16 && m 1 % 16 == 0, 1), (!scaled || m 3 < 2 ^ 16, 3),
      (1 ≤ m 4 && m 4 < 128 && m 4 ≤ serView f, 4), (m 5 < 128 && m 5 + m 4 ≤ serView f, 5), (m 6 < 2, 6),
      (m 7 / 2 ^ 32 % 2 ^ 31 == 0, 7)]
  | 2 => if !c.outerOk then some 6 else first [
      (m 0 % 16 == 0, 0), (m 1 < 2 ^ 32 && m 1 % 16 == 0 && m 1 / 2 ^ 16 % 16 == 0, 1), (m 4 % 16 == 0, 4),
      (m 6 < 128 && m 6 ≤ serView f, 6), (m 7 < 2, 7)]
  | 3 => first [(m 0 % 16 == 0, 0), (m 1 < 2 ^ 16 && m 1 % 16 == 0, 1), (serPer c.wf == 0 || m 3 < 2 ^ 16, 3)]
  | _ =>
    let g := m 2 % 2 == 1
    let rows := m 2 / 2 ^ 16 % 256
    first [
      (m 0 % 4 == 0, 0), (m 1 < 2 ^ 16 && m 1 % 4 == 0, 1),
      (m 2 < 2 ^ 24 && m 2 / 2 % 2 ^ 7 == 0 && m 2 / 2 ^ 15 % 2 == 0 && 1 ≤ rows && rows ≤ 128 &&
        m 2 / 2 ^ 8 % 128 + rows ≤ (if g then serN f else serView f), 2),
      (m 3 < 2 ^ 16 && (libDrain (m 3)).ok c g, 3)]

/-- Rows that a library routine clears first, and rows that it then works on. -/
def Work.libRows (w : Work) (lib : Nat) : Nat × Nat :=
  match lib with
  | 0 | 1 => (if w.mpn 6 % 2 = 1 then w.mpn 4 else 0, w.mpn 4)
  | 2 => (if w.mpn 7 % 2 = 1 then serN w.r.cmd.sf else 0, w.mpn 6)
  | 3 => (0, serN w.r.cmd.wf)
  | _ => (0, w.mpn 2 / 2 ^ 16 % 256)

/-- A row that is A row m of a routine: base, stride, and the scale base and stride (R326, R327). -/
def Work.libAddr (w : Work) (base stride m : Nat) : W64 := tget 0 w.r.mp base + BitVec.ofNat 64 (m * stride)

/-- Whether the rows of the word that begins at row m, of at most 16 rows, can be touched (R315, R324). -/
def Work.libOk (w : Work) (lib m total : Nat) : Bool :=
  let c := w.r.cmd
  let here := min 16 (total - m) - 1
  let str := w.mpn 1 % 2 ^ 16
  let rows (b stride n align : Nat) : Bool := w.rowsOk (w.libAddr b stride m) stride n align here
  match lib with
  | 0 | 1 => w.mpn 7 / 2 ^ 63 = 1 || (rows 0 str 48 16 && w.rowOk (w.libAddr 2 (w.mpn 3 % 2 ^ 16) (m / 16)) (serPer c.sf) 1)
  | 2 => rows 0 str 48 16 && rows 4 (w.mpn 1 / 2 ^ 16) 48 16 &&
      w.rowOk (w.libAddr 2 (w.mpn 3 % 2 ^ 32) (m / 16)) (serPer c.sf) 1 &&
      w.rowOk (w.libAddr 5 (w.mpn 3 / 2 ^ 32) (m / 16)) (serPer c.sf) 1
  | 3 => rows 0 str 48 16 && w.rowOk (w.libAddr 2 (w.mpn 3 % 2 ^ 16) (m / 16)) (serPer c.wf) 1
  | _ => rows 0 str ((libDrain (w.mpn 3)).rowBytes c) 4

/-- Row m of a library routine. -/
def Work.libRow (w : Work) (lib m : Nat) : Work :=
  let str := w.mpn 1 % 2 ^ 16
  let sstr := w.mpn 3 % 2 ^ 16
  match lib with
  | 0 | 1 =>
    w.with (w.aRow (w.mpn 7 / 2 ^ 63 == 1) (w.libAddr 0 str m) (w.libAddr 2 sstr (m / 16))) (fun q =>
      q.2.streamRow q.1 (w.mpn 5 + m) (lib == 1))
  | 2 =>
    w.with (w.aRow false (w.libAddr 0 str m) (w.libAddr 2 (w.mpn 3 % 2 ^ 32) (m / 16))) (fun q =>
      w.with (w.aRow false (w.libAddr 4 (w.mpn 1 / 2 ^ 16) m) (w.libAddr 5 (w.mpn 3 / 2 ^ 32) (m / 16))) (fun y => w.outerRow q.1 y.1))
  | 3 =>
    let scales : Except SStop Work :=
      if m % 16 != 0 then .ok w
      else match w.read (w.libAddr 2 sstr (m / 16)) (serPer w.r.cmd.wf) 1 with
        | .ok sc => .ok (w.loadScales (m / 16) sc)
        | .error e => .error e
    w.with scales (fun v => v.with (v.read (v.libAddr 0 str m) 48 16) (fun b => v.loadRow m b))
  | _ => w.drainRow (libDrain (w.mpn 3)) (w.mpn 2 % 2 == 1) (w.mpn 2 / 2 ^ 8 % 128 + m) (w.libAddr 0 str m)

/-- A row that a library routine clears. -/
def Work.libClear (w : Work) (lib m : Nat) : Work :=
  let n := serN w.r.cmd.sf
  if lib = 2 then w.setRow true m (List.replicate n 0) else w.setRow false (w.mpn 5 + m) (List.replicate n 0)

/-- A library routine's next step, or its end (R324); where a row stops it the word's address is the firmware's (log 9). -/
def State.libStep (s : State) : State :=
  let c := s.focusCore
  let a := s.focusArr
  match s.work c a with
  | none => s
  | some w =>
    match w.r.lib with
    | none => s
    | some lib =>
      let (clears, rows) := w.libRows lib
      let done (w : Work) : State := s.putWork { w with r := { w.r.after 1 false with loops := [] } }
      if w.r.pc = 0 && (w.badArg lib).isSome then s.endRoutine c a 0x25 ((w.badArg lib).getD 0)
      else if w.r.pc < clears then done (w.libClear lib w.r.pc)
      else
        let m := w.r.pc - clears
        if rows ≤ m then s.endRoutine c a 0 (w.r.steps % 2 ^ 24)
        else
          let g : Gather :=
            { idxAddr := w.mpn 7 % 2 ^ 32, left := rows, base := tget 0 w.r.mp 0, rstr := w.mpn 1 % 2 ^ 16,
              sbase := tget 0 w.r.mp 2, sstr := w.mpn 3 % 2 ^ 16, latch := [] }
          let w1 : Work := if lib ≤ 1 && m = 0 && w.mpn 7 / 2 ^ 63 = 1 then { w with r := { w.r with gather := some g } } else w
          let w2 := if m % 16 = 0 && !w1.libOk lib m rows then w1.stopped rowXlate else w1.libRow lib m
          match w2.stop with
          | some st => (s.nextFree).stopRoutine w2 st ((Config.freeWord s.free).toNat % 256)
          | none => done w2

/-! Starting, suspending and resuming (R294 to R298, R312). -/

/-- A launch that takes a plane set after another zeroes it (R295). -/
def Plane.takenBy (p : Plane) (lid : Nat) : Plane := if p.lastLid = lid then p else { Plane.reset with lastLid := lid }

/-- An array is commanded by a context: a free one becomes its launch's, unless the context is the shadow context (R294,
R295). -/
def Arr.take (a : Arr) (lid : Nat) (shadow : Bool) : Arr :=
  if shadow then a
  else match a.owner with
    | some _ => a
    | none => { a with owner := some lid, snapv := a.snapv && a.p0.lastLid == lid, p0 := a.p0.takenBy lid }

/-- The first command in line that may start: a shadow command before any other (R297). -/
def Arr.nextCmd (a : Arr) : Option ArrCmd :=
  (a.queue.find? (fun c => c.shadow && c.op == 0x0E)).or
    (if a.susp.isSome then none else a.queue.find? (fun c => !c.shadow && c.op == 0x0E))

/-- No earlier command of its context stands before a command in an array's line. -/
def Arr.headOf (a : Arr) (c : ArrCmd) : Bool :=
  ((a.queue.find? (fun d => d.lid == c.lid)).map ArrCmd.qid == some c.qid) &&
  !(a.run.any (fun r => r.cmd.lid == c.lid)) && !(a.susp.any (fun r => r.cmd.lid == c.lid))

/-- An earlier SMLOAD of the command's context is still to be performed (R305, note 4). -/
def State.loadsBefore (s : State) (core : Nat) (c : ArrCmd) : Bool :=
  s.flights.any (fun p => match p.2 with
    | .smload o _ _ q _ => o.core == core && o.lid == c.lid && q < c.qid
    | _ => false)

/-- The SCALL that an array would start now. -/
def State.startable (s : State) (core arr : Nat) : Option ArrCmd :=
  let a := (s.core core).arr arr
  if a.run.isSome then none
  else match a.nextCmd with
    | some c => if a.headOf c && !s.loadsBefore core c then some c else none
    | none => none

/-- Entry idx of the routine table: 0 to 4 are the library (R313, R324). -/
def Core.entry (k : Core) (idx : Nat) : Option (Nat × Option Nat) :=
  if idx < 5 then some (0, some idx)
  else if idx < 16 then none
  else
    let e := tget 0 k.rtab idx
    if e.getLsbD 15 then some ((e.extractLsb' 0 11).toNat, none) else none

/-- ROUTINE_START: the next SCALL of an array starts, or completes at once (R312). -/
def execRoutineStart (core arr : Nat) (s : State) : Host.Outcome State Fault Refusal :=
  match s.startable core arr with
  | none => .next s
  | some c =>
    let k := s.core core
    let a := k.arr arr
    let rest := a.queue.filter (fun d => !(d.lid == c.lid && d.qid == c.qid))
    let a1 := { a with queue := rest }
    let a2 := if c.shadow then { a1 with p1 := a1.p1.takenBy c.lid, snapv := false } else a1
    let fail (st : Nat) : State :=
      (s.setCore core (k.setArr arr { a with queue := rest })).completeSerac (c.origin core) 0x0E c.qid st 0 (EngArgs.signal c.eng)
    match k.entry (c.eng.pf 14 8) with
    | none => .next (fail 0x21)
    | some (start, lib) =>
      if serBits c.sf = 4 && !a.cap4 then .next (fail 0x23)
      else
        let r : Routine :=
          { cmd := c, pc := start, lib := lib, mp := c.mp, loops := [], gather := none, steps := 0, sinceYield := 0,
            flags := 0, atYield := true }
        .next (s.setCore core (k.setArr arr { a2 with run := some r, clock := laterOf a2.clock (s.acycleOf core) }))

/-- A priority SCALL waits for an array that runs a normal context's routine. -/
def Arr.wantsShadow (a : Arr) : Bool := a.queue.any (fun c => c.shadow && c.op == 0x0E)

/-- ROUTINE_SUSPEND: at a yield point a normal routine gives way to a priority one (R297). -/
def execRoutineSuspend (core arr : Nat) (s : State) : Host.Outcome State Fault Refusal :=
  let k := s.core core
  let a := k.arr arr
  match a.run, a.susp with
  | some r, none =>
    if r.atYield && !r.cmd.shadow && a.wantsShadow then .next (s.setCore core (k.setArr arr { a with run := none, susp := some r }))
    else .next s
  | _, _ => .next s

/-- ROUTINE_RESUME: after the last priority routine the suspended one goes on (R297). -/
def execRoutineResume (core arr : Nat) (s : State) : Host.Outcome State Fault Refusal :=
  let k := s.core core
  let a := k.arr arr
  match a.run, a.susp with
  | none, some r =>
    if a.wantsShadow then .next s else .next (s.setCore core (k.setArr arr { a with run := some r, susp := none }))
  | _, _ => .next s

/-- GATHER_FILL: the gather unit reads a row ahead into its latch of 64 (R293); a row that cannot be read is left to the
step that uses it. -/
def execGatherFill (core arr : Nat) (s : State) : Host.Outcome State Fault Refusal :=
  match s.work core arr with
  | none => .next s
  | some w =>
    match w.r.gather with
    | none => .next s
    | some g =>
      if g.left = 0 || 64 ≤ g.latch.length then .next s
      else match w.fetchRow (serPer w.r.cmd.sf) g with
        | .error _ => .next s
        | .ok row => .next (s.putWork { w with r := { w.r with gather := some { g.next with latch := g.latch ++ [row] } } })

/-- A routine at a yield point stays there: its context is to be evicted, or its tile task to be stopped, and the context's
routines on other arrays have still to reach theirs (R31, R298). -/
def State.heldAtYield (s : State) (core : Nat) (w : Work) : Bool :=
  w.r.atYield &&
  ((w.k.evCmd == 1 && w.k.evCtx == w.n) || (w.x.tile.isSome && s.stopping w.e.lid)) &&
  [0, 1, 2, 3].any (fun a => ((s.core core).arr a).run.any (fun r => r.cmd.lid == w.e.lid && !r.atYield))

/-- A slot names a semaphore in the issue test of its bundle (R129). -/
def testsSem (sem : BitVec 8) (i : Instr) : Bool :=
  match i with
  | .wait s _ | .waitp s _ _ | .post s _ => s == sem
  | i => match engArgs i with | some o => o.wsem == sem && o.wthr != 0 | none => false

/-- The issue test of a context comes before the taking of a semaphore's value that leaves a state: its bundle issues and names
the semaphore, or traps as it would not afterwards (R129, R323). -/
def State.testFirst (s left : State) (core n : Nat) (sem : BitVec 8) : Bool :=
  let at' (t : State) : Prep := ((t.at' core n).modCx (fun x => { x with blocked := false })).prepare
  s.ready core n &&
  match at' s, at' left with
  | .slots l _, _ => l.any (fun p => testsSem sem p.2)
  | .stop _, .stop u => u.cx.blocked
  | .stop _, _ => true
  | .run .., _ => false

/-- An MWAIT that could take its value leaves it, in one ACLK, to the issue test of its context, and to the MWAIT of a
lower-numbered array of the context (R323, R330). -/
def State.mwaitBehind (s : State) (w : Work) (sem val : BitVec 8) : Bool :=
  let clock := s.caughtUp (w.k.arr w.arr).clock
  let left := s.setCtxAt w.core w.n (w.x.semTake sem val)
  (s.acycleOf w.core ≤ clock && ((s.poll w.core).choose w.core).1 == some w.n && s.testFirst left w.core w.n sem) ||
  (List.range w.arr).any (fun b => s.caughtUp (w.k.arr b).clock ≤ clock && (match s.work w.core b with
    | some v => v.n == w.n && v.r.lib.isNone && (match decodeMicro (v.k.microWord v.r.pc) with
      | .ok (.mwait sem' val') => sem' == sem && v.x.semHas sem' val' && !(left.ctxAt w.core w.n).semHas sem' val'
      | _ => false)
    | none => false))

/-- The array's next micro-word is an MWAIT that another test comes before. -/
def State.mwaitHeld (s : State) (w : Work) : Bool :=
  w.r.lib.isNone && (match decodeMicro (w.k.microWord w.r.pc) with
    | .ok (.mwait sem val) => w.x.semHas sem val && val != 0 && s.mwaitBehind w sem val
    | _ => false)

/-- An array's clock is ahead of a core that has something to issue (R39, R296). -/
def State.arrayAhead (s : State) (core arr : Nat) : Bool :=
  s.acycleOf core < s.caughtUp ((s.core core).arr arr).clock && !s.idle core

/-- The array runs: its routine has a next step, it is not ahead of its core, and neither an MWAIT nor an eviction holds it. -/
def State.arrayReady (s : State) (core arr : Nat) : Bool :=
  match s.work core arr with
  | none => false
  | some w =>
    !s.arrayAhead core arr && !s.heldAtYield core w && !s.mwaitHeld w &&
    (w.r.lib.isSome ||
    match decodeMicro (w.k.microWord w.r.pc) with
    | .ok (.mwait sem val) => w.x.semHas sem val || !w.r.atYield
    | _ => true)

/-! Data errors in an array's own cells (R299, R303). -/

/-- The words of G and of the accumulators hold free values (R299, log 7). -/
def Plane.free (p : Plane) (n : Nat) : Plane :=
  let w (i : Nat) : W32 := (Config.freeWord (n + i)).truncate 32
  { p with g := (List.range 2304).foldl (fun t i => tput 0 t i (w i)) [],
           acc := (List.range 3072).foldl (fun t i => tput 0 t i (w (2304 + i))) [] }

/-- SERAC_DATA_ERROR: an uncorrectable error in the cells of an array that runs a routine, or whose snapshot a commit is to
take (R306). A guarded launch rolls back, and where the array has no snapshot the rollback is handled as an unguarded error (R303);
else the SCALL completes DATAERR, MCHK with SRC 2 is due, and every G and accumulator word of the array is unknown (R299,
R303). The address at which a library routine stops is the firmware's (R308; log 9). -/
def execSeracDataError (core arr : Nat) (s0 : State) : Host.Outcome State Fault Refusal :=
  let s := s0.logUe core 0 4
  match s.work core arr with
  | none =>
    let k := s.core core
    (match k.ctxs.find? (fun q => (k.arr arr).owner == some q.2.launch.lid && q.2.launch.guard && q.2.guard.commitDue) with
     | some q => .next (s.enqueue (.rollback core q.1))
     | none => .next s)
  | some w =>
    if s.rollsBack core w.n then .next (s.enqueue (.rollback core w.n))
    else
      let p := { w.x.a.p with mchk := some (w.x.a.p.mchk.getD (BitVec.ofNat 64 (256 * arr + 2))) }
      let a := w.k.arr arr
      let k := w.k.setArr arr (a.setPlane (!w.r.cmd.shadow) ((a.plane (!w.r.cmd.shadow)).free (s.free + 5376)))
      let w1 := { w with k := k, p := w.p.free s.free, x := { w.x with a := { w.x.a with p := p } } }
      let at' := if w.r.lib.isSome then (Config.freeWord (s.free + 10752)).toNat % 256 else w.r.pc % 2048
      .next ((({ s with free := s.free + 10753 }).putWork w1).endRoutine core arr 0x22 at')

/-- CAP4_OFF: Nunatak restricts an array that no launch owns to the 8-bit and 16-bit classes (R25, R292). -/
def execCap4Off (core arr : Nat) (s : State) : Host.Outcome State Fault Refusal :=
  let k := s.core core
  let a := k.arr arr
  if a.owner.isNone && a.pending = 0 && a.cap4 then
    .next (((s.setCore core (k.setArr arr { a with cap4 := false })).log core 0x0009 [BitVec.ofNat 8 arr]).log 0x3FF 0x0015
      (bytesOfNat 2 core ++ [BitVec.ofNat 8 arr]))
  else .next s

/-! The commands (R307, R310 to R314). -/

/-- A command is put into an array's line, with what it copies at issue (R307, R312). -/
def State.pushArr (s : State) (op arr qid : Nat) (o : EngArgs) : State :=
  let x := s.cx
  let lid := x.launch.lid
  let shadow := s.focusCtx == 4
  let k := s.fcore
  let a := (k.arr arr).take lid shadow
  let c : ArrCmd := { op := op, eng := o, lid := lid, shadow := shadow, qid := qid, mp := x.a.r.mp,
                      pair := x.a.r.spair.extractLsb' (6 * arr) 6, ftz := x.a.v.ftz, intfmt := s.intfmt }
  s.setFcore (k.setArr arr { a with queue := a.queue ++ [c] })

/-- Set a bit of DIRTY or STALE. -/
def setBit4 (b : BitVec 4) (i : Nat) (v : Bool) : BitVec 4 :=
  let m : BitVec 4 := 1 <<< i
  if v then b ||| m else b &&& ~~~ m

/-- SCALL (R312). -/
def execScall (o : EngArgs) (s : State) : Host.Outcome State Fault Refusal :=
  slot (.scall o) s (fun s => s.engCmd (.scall o) o (fun q s =>
    let arr := o.pf 22 2
    (s.pushArr 0x0E arr q o).modSer (fun r => { r with dirty := setBit4 r.dirty arr true })))

/-- SCFG: ownership and the pair at issue; its signal follows the bundle (R310). -/
def execScfg (o : EngArgs) (s : State) : Host.Outcome State Fault Refusal :=
  slot (.scfg o) s (fun s => s.engCmd (.scfg o) o (fun q s =>
    let arr := o.pf 22 2
    let pair : BitVec 6 := BitVec.ofNat 6 (8 * o.pf 19 3 + o.pf 16 3)
    let k := s.fcore
    let a := (k.arr arr).take s.cx.launch.lid (s.focusCtx == 4)
    let refused := serBits (o.pf 19 3) == 4 && !a.cap4
    let r := s.cx.a.r
    let old := r.spair.extractLsb' (6 * arr) 6
    let r1 : SerSt :=
      if refused || old = pair then r
      else { r with stale := if r.dirty.getLsbD arr then setBit4 r.stale arr true else r.stale,
                    spair := (r.spair &&& ~~~ ((0x3F : BitVec 24) <<< (6 * arr))) ||| (pair.zeroExtend 24 <<< (6 * arr)) }
    let now := r1.spair.extractLsb' (6 * arr) 6
    let s1 := (s.setFcore (k.setArr arr a)).modSer (fun _ => r1)
    (s1.completeSerac s1.origin 0x0F q (if refused then 0x23 else 0) (if refused then 0 else now.toNat)
      { EngArgs.signal o with inc := 0 }).post (.semAdd o.ssem.toNat o.sinc.toNat)))

/-- SDRAIN: DIRTY and STALE clear at issue (R291, R311). -/
def execSdrain (o : EngArgs) (s : State) : Host.Outcome State Fault Refusal :=
  slot (.sdrain o) s (fun s => s.engCmd (.sdrain o) o (fun q s =>
    let arr := o.pf 22 2
    (s.pushArr 0x10 arr q o).modSer (fun r => { r with dirty := setBit4 r.dirty arr false, stale := setBit4 r.stale arr false })))

/-- The SDRAIN of an array that would complete now. -/
def Arr.drained (a : Arr) : Option ArrCmd := a.queue.find? (fun c => c.op == 0x10 && a.headOf c)

/-- SDRAIN_COMPLETION: every earlier command of the context to the array has completed; with FREE its ownership ends
(R311). -/
def execSdrainCompletion (core arr : Nat) (s : State) : Host.Outcome State Fault Refusal :=
  let k := s.core core
  let a := k.arr arr
  match a.drained with
  | none => .next s
  | some c =>
    let rest := a.queue.filter (fun d => !(d.lid == c.lid && d.qid == c.qid))
    let owner := if c.eng.pf 21 1 = 1 && !c.shadow && a.owner == some c.lid then none else a.owner
    .next ((s.setCore core (k.setArr arr { a with queue := rest, owner := owner })).completeSerac (c.origin core) 0x10 c.qid 0 0
      (EngArgs.signal c.eng))

/-- SMLOAD (R313). -/
def execSmload (o : EngArgs) (s : State) : Host.Outcome State Fault Refusal :=
  slot (.smload o) s (fun s => s.engCmd (.smload o) o (fun q s =>
    ((s.drainCmd s.origin).addFlight (.smload s.origin o (s.pHnd o 19) q (EngArgs.signal o))).2))

/-- SINTF: the value governs from three bundles on; its signal follows the bundle (R160, R314). -/
def execSintf (o : EngArgs) (s : State) : Host.Outcome State Fault Refusal :=
  slot (.sintf o) s (fun s => s.engCmd (.sintf o) o (fun _ s =>
    (s.modVec (fun v => { v with intPend := v.intPend ++ [(3, BitVec.ofNat 16 (o.pf 0 16))] })).post
      (.semAdd o.ssem.toNat o.sinc.toNat)))

/-- The last word of the routine that starts at an address: its first MEND, or 2,047 (R313). -/
def Core.routineEnd (k : Core) (start : Nat) : Nat :=
  (((List.range (2048 - start)).find? (fun i => (k.microWord (start + i)).extractLsb' 59 5 == 0x0C)).map (fun i => start + i)).getD 2047

/-- The table entry that an SCALL names, and where its routine starts, if the entry is valid and of the microprogram store. -/
def Core.calls (k : Core) (c : ArrCmd) : Nat × Option Nat :=
  let idx := c.eng.pf 14 8
  (idx, match k.entry idx with | some (st, none) => some st | _ => none)

/-- The routines that an SMLOAD must not write under: those that run or are suspended on the core, those of evicted
contexts excepted, and earlier SCALLs of its own context (R305 note 3, R313). -/
def Core.inUse (k : Core) (lid qid : Nat) : List (Nat × Option Nat) :=
  [0, 1, 2, 3].flatMap (fun n =>
    let a := k.arr n
    let of (r : Option Routine) : List ArrCmd := match r with | some r => [r.cmd] | none => []
    (of a.run ++ of a.susp ++ a.queue.filter (fun c => c.op == 0x0E && c.lid == lid && c.qid < qid)).map k.calls)

/-- Routines of contexts that are evicted from the core, and earlier SCALLs of the command's own context that had not started
at its eviction (R298, R305 note 3). -/
def State.asleep (s : State) (core lid qid : Nat) : List (Nat × Option Nat) :=
  let unstarted (p : Parking) : List ArrCmd :=
    (p.ctx.pendCmds.map Prod.snd).filter (fun c => c.op == 0x0E && c.lid == lid && c.qid < qid)
  (s.core core).parking.flatMap (fun p => (p.ctx.routines.map (fun r => r.2.cmd) ++ unstarted p).map (s.core core).calls)

/-- Writing n entries from one on would touch a routine in use. -/
def State.loadWaits (s : State) (core lid qid : Nat) (table : Bool) (first n : Nat) : Bool :=
  (((s.core core).inUse lid qid) ++ s.asleep core lid qid).any (fun p =>
    if table then first ≤ p.1 && p.1 < first + n
    else p.2.any (fun st => st < first + n && first ≤ (s.core core).routineEnd st))

/-- One SMLOAD (R313). -/
def State.loadMicro (s : State) (id : Nat) : State :=
  match tfind s.flights id with
  | some (.smload org o h qid sig) =>
    let done (s : State) (st detail : Nat) : State := (s.dropFlight id).completeSerac org 0x11 qid st detail sig
    let table := o.pf 18 1 == 1
    let unit := if table then 2 else 8
    let first := if table then o.pf 7 8 else o.pf 7 11
    let n := hBytes h / unit
    if hRes h = 3 || !hContig h || hNibbles h % 2 = 1 || hBytes h % unit != 0 then done s 5 0
    else if hRes h = 0 && !winInShare (s.envOf org) h then done s 1 0
    else match s.winBytes org h (hCount h) with
      | (_, some st) => done s (if st = 2 then 2 else 1) 0
      | (bs, none) =>
        let w (k : Nat) : Nat := natOfBytes ((bs.drop (unit * k)).take unit)
        if first < (if table then 16 else 256) && n != 0 then done s 0x24 0
        else if (if table then 256 else 2048) < first + n then done s 0x0B 0
        else match (if table then (List.range n).find? (fun k => w k / 2 ^ 11 % 16 != 0) else none) with
          | some k => done s 0x20 k
          | none =>
            if s.loadWaits org.core org.lid qid table first n then s
            else
              let k := s.core org.core
              let k1 := (List.range n).foldl (fun (k : Core) i =>
                if table then { k with rtab := tput 0 k.rtab (first + i) (BitVec.ofNat 16 (w i)) }
                else { k with micro := tput 0 k.micro (first + i) (BitVec.ofNat 64 (w i)) }) k
              done (s.setCore org.core k1) 0 n
  | _ => s

/-- An earlier SMLOAD of the same context has not been performed (R305). -/
def State.loadBehind (s : State) (id : Nat) (org : Origin) : Bool :=
  s.flights.any (fun p => p.1 < id && (match p.2 with | .smload g .. => g.same org | _ => false))

/-- SMLOAD_WRITE: an SMLOAD is performed after the earlier ones of its context (R305), unless it waits (R313). -/
def execSmloadWrite (req : Nat) (s : State) : Host.Outcome State Fault Refusal :=
  match tfind s.flights req with
  | some (.smload org ..) => .next (if s.loadBehind req org then s else s.loadMicro req)
  | _ => .next s

end Sys2Proof.Machine
end

