-- ==== Sys2Proof/Machine/Moraine.lean ====
section
/-! DEFINITION. The Moraine units (R334 to R355): what a unit reaches, the instructions of a RUN, the commands of a block,
joins, stops and status, and the ENG commands MSUB and MSTAT. An instruction or a command acts on the unit in focus. -/

namespace Sys2Proof.Machine

open Sys2Proof

/-! Units and their reach (R334, R348). -/

def State.unit (s : State) (u : Nat) : MUnit := tget MUnit.reset s.units u
def State.setUnit (s : State) (u : Nat) (m : MUnit) : State := { s with units := tput MUnit.reset s.units u m }

/-- The DPA lies in HBM of a unit's own stack, and of its own channel. -/
def ownStack (u dpa : Nat) : Bool := regionOf dpa == .hbm && dpa / 2 ^ 36 == u / 32
def ownChannel (u dpa : Nat) : Bool := regionOf dpa == .hbm && dpa / 2 ^ 31 == u

/-- The core whose router serves a unit (R345, R347). -/
def unitRouter (u : Nat) : Nat :=
  let d := u / 64
  if u / 32 % 2 = 0 then 16 * (8 * d) else 16 * (8 * d + 7) + 15

/-- Why a unit's execution of a block stops: the code of R342, the DPA of the access, the stream, and the z register that
a failed VLD poisons (R346, R349). -/
structure MStop where
  code : Nat
  dpa : Option Nat
  stream : Option Nat
  mark : Option Nat
  deriving DecidableEq, Repr

/-- A stop that is no access. -/
def MStop.of (code : Nat) : MStop := { code := code, dpa := none, stream := none, mark := none }

/-- The pieces of a range that a unit translates; own: only its own stack is in reach (R334, R348). -/
def State.unitXl (s : State) (u : Nat) (asid : BitVec 16) (va : W64) (n : Nat) (acc : Acc) (own : Bool) : Except MStop (List (Nat × Nat)) :=
  match s.xlateRange (s.unit u).tlb asid acc (n / 65536 + 2) va n with
  | .error _ => .error (.of 1)
  | .ok ps => match ps.find? (fun p => own && !ownStack u p.1) with
    | some p => .error { MStop.of 1 with dpa := some p.1 }
    | none => .ok ps

/-- The pages of a range go into the unit's cache of 64 entries (R348; log 11). -/
def State.unitFill (s : State) (u : Nat) (asid : BitVec 16) (va : W64) (n : Nat) : State :=
  (pageStarts va n).foldl (fun s a => s.setUnit u { s.unit u with tlb := s.tlbAdd (s.unit u).tlb 64 asid a }) s

/-- Who writes when a unit writes for its block: the unit, and the MSUB that it executes (R50, R341). -/
def State.unitWriters (s : State) (u : Nat) : List Agent :=
  .unit u :: (((s.unit u).exec.bind (fun x => tfind s.blocks x.blk)).map (fun b => b.org.agent)).toList

/-- The first byte of some pieces that reads as an uncorrectable error for an agent. -/
def State.firstBad (s : State) (ag : Agent) (ps : List (Nat × Nat)) : Option Nat :=
  if s.memUe.isEmpty && s.lags.isEmpty then none
  else ps.findSome? (fun p => ((List.range p.2).find? (fun i => s.badFor ag ownTdev (p.1 + i))).map (fun i => p.1 + i))

/-- Read bytes of the unit's stack: a fault, or an uncorrectable error, with the DPA of the granule that holds it (R349). -/
def State.unitRead (s : State) (u : Nat) (asid : BitVec 16) (va : W64) (n : Nat) : Except MStop (List Byte) :=
  match s.unitXl u asid va n .load true with
  | .error e => .error e
  | .ok ps => match s.firstBad (.unit u) ps with
    | some d => .error { MStop.of 2 with dpa := some d }
    | none => .ok (ps.flatMap (fun p => s.asSeen (.unit u) ownTdev p.1 (readBytes s.mem p.1 p.2)))

/-! Status (R349 to R351). -/

/-- The sticky bit of a stop's code. -/
def stickyBit (code : Nat) : W64 := match code with | 2 => 1 | 1 => 4 | 0x30 => 8 | 0x0E => 16 | _ => 2
/-- The CAUSE of MUST. -/
def mustCause (code : Nat) : Nat := match code with | 0x30 => 12 | 0x31 => 13 | c => c

/-- A unit's bit is ORed into the device summary word, where the word is enabled (R351). -/
def State.summary (s : State) (u : Nat) : State :=
  let w := readNat s.regs Config.msumAddrDpa 8
  let a := w / 64 * 64 + 8 * (u / 64)
  if w % 2 = 1 && regionOf a == .firn then
    match s.applyWord [.unit u] a 8 6 (2 ^ (u % 64)) 0 with | .ok (_, t) => t | .error _ => s
  else s

/-- The bank whose register records an access: that of its DPA in the unit's own channel, else bank 0 (R349). -/
def bankOf (u : Nat) : Option Nat → Nat
  | some d => if ownChannel u d then d / 2 ^ 10 % 16 else 0
  | none => 0

/-- A corrected error of a unit's read: the bank's count goes up to 255, with a report when it changes (R349 to R351), and the
event log has it (R424). -/
def State.unitCorrected (s : State) (u dpa : Nat) : State :=
  let m := s.unit u
  let b := bankOf u (some dpa)
  let old := tget 0 m.bstat b
  let s1 := if old.toNat / 256 % 256 = 255 then s
    else (s.setUnit u { m with bstat := tput 0 m.bstat b (old + 256) }).summary u
  s1.log (0x200 + u) 0x000D (bytesOfNat 8 dpa ++ [3])

/-- A sticky bit of a bank, and the report when it changes. -/
def State.sticky (s : State) (u : Nat) (e : MStop) : State :=
  let b := bankOf u e.dpa
  let m := s.unit u
  let old := tget 0 m.bstat b
  let new := old ||| stickyBit e.code
  if new = old then s else (s.setUnit u { m with bstat := tput 0 m.bstat b new }).summary u

/-- MSUMU (R350). -/
def MUnit.msumu (m : MUnit) : W64 :=
  let bs := (List.range 16).map (fun b => (tget 0 m.bstat b).toNat)
  let banks := ((bs.zipIdx).map (fun p => if p.1 = 0 then 0 else 2 ^ p.2)).sum
  BitVec.ofNat 64 (banks * 2 ^ 16 + min (bs.map (fun v => v / 256 % 256)).sum 255 * 256 + bs.foldl (fun o v => o ||| v % 256) 0)

/-- The register that MSTAT selects (R350, R352). -/
def MUnit.reg (m : MUnit) (sel : Nat) : W64 :=
  if sel < 16 then tget 0 m.bstat sel
  else if sel = 16 then m.msumu
  else if sel = 17 then m.must
  else BitVec.ofNat 64 (min m.queue.length 8 * 16 + (if m.exec.isSome then 1 else 0))

/-! Blocks: their ends (R341, R342, R346). -/

/-- The element index of a stop that is no stream access: 16 × the passes completed by the innermost active loop. -/
def MUnit.passes (m : MUnit) : Nat :=
  16 * (match m.inner, m.outer with | some l, _ => l.done | none, some l => l.done | none, none => 0)

/-- A unit's execution of its block is over. -/
def State.endBlock (s : State) (u code elem : Nat) : State :=
  let m := s.unit u
  match m.exec with
  | none => s
  | some x =>
    let s1 := s.setUnit u { m with exec := none, outer := none, inner := none }
    match tfind s1.blocks x.blk with
    | none => s1
    | some b =>
      let b1 := { b with ends := b.ends ++ [{ unit := u, code := code, cmd := x.cmd, elem := elem }] }
      let s2 := { s1 with blocks := tset s1.blocks x.blk b1 }
      if b1.ends.length = b1.units.length then s2.enqueue (.msubCompletion x.blk) else s2

/-- The instruction index of a phase; 127 outside a RUN. -/
def MorPhase.pc : MorPhase → Nat
  | .running pc _ => pc
  | .mbxWait pc _ => pc
  | _ => 127

/-- A stop: MUST and a sticky bit record it, and the block ends at the unit (R346, R349, R350). -/
def State.morStop (s0 : State) (u : Nat) (e : MStop) : State :=
  let s := match e.code, e.dpa with
    | 2, some d => s0.logUe (0x200 + u) d (if regionOf d == Region.hbm then 3 else 2)
    | _, _ => s0
  let m := s.unit u
  match m.exec with
  | none => s
  | some x =>
    let elem := match e.stream with | some i => 16 * tget 0 m.accs i | none => m.passes
    let must := mustCause e.code * 2 ^ 60 + x.cmd * 2 ^ 54 + (e.stream.getD 0) * 2 ^ 51 + x.phase.pc % 128 * 2 ^ 44 + elem % 2 ^ 32
    let zp := match e.mark with | some z => tput false m.zpois z true | none => m.zpois
    ((s.setUnit u { m with must := BitVec.ofNat 64 must, zpois := zp }).sticky u e).endBlock u e.code elem

/-- A command is done: the next one, or the end of the block. -/
def State.morNext (s : State) (u : Nat) : State :=
  let m := s.unit u
  match m.exec with
  | none => s
  | some x =>
    match tfind s.blocks x.blk with
    | none => s
    | some b =>
      if b.ncmd ≤ x.cmd + 1 then s.endBlock u 0 0
      else s.setUnit u { m with exec := some { x with cmd := x.cmd + 1, phase := .atCmd }, outer := none, inner := none }

/-- A time limit has passed: satisfaction in its own µs counts (R345). -/
def State.expired (s : State) : Option Nat → Bool
  | some t => t < s.wallus.toNat
  | none => false

/-! The instructions of a RUN (R336 to R340). -/

/-- The z registers that an instruction reads. -/
def morReads : Instr → List (BitVec 5)
  | .moraineVst z _ _ => [z]
  | .moraineFadd _ a b | .moraineFsub _ a b | .moraineFmul _ a b | .moraineFmin _ a b | .moraineFmax _ a b
  | .moraineFcmp _ a b _ => [a, b]
  | .moraineFma _ a b c | .moraineFsel _ a b c => [a, b, c]
  | .moraineRcp _ a | .moraineRsq _ a | .moraineCvtb _ a => [a]
  | _ => []

/-- Its stream, if it has one. -/
def morStream : Instr → Option Nat
  | .moraineVld _ st _ | .moraineVst _ st _ => some st.toNat
  | _ => none

/-- One level's test at an instruction: where it goes back to, and the level after it. -/
def MorLoop.turn (l : MorLoop) : Option Nat × Option MorLoop :=
  if 1 < l.left then (some l.start, some { l with left := l.left - 1, done := l.done + 1 }) else (none, none)

/-- After the instruction at an index: the loop-back of the inner level, then of the outer one (R339). -/
def MUnit.after (m : MUnit) (at' : Nat) : Nat × MUnit :=
  let outer (m : MUnit) : Nat × MUnit :=
    match m.outer with
    | some l => if l.last = at' then let r := l.turn; (r.1.getD (at' + 1), { m with outer := r.2 }) else (at' + 1, m)
    | none => (at' + 1, m)
  match m.inner with
  | some l =>
    if l.last = at' then
      match l.turn with
      | (some pc, l') => (pc, { m with inner := l' })
      | (none, l') => outer { m with inner := l' }
    else outer m
  | none => outer m

/-- An instruction of the RUN of the unit in focus: it stops on a limit that has passed, a field or a poisoned register
(R336, R346, R349); else its effect gives the unit, the index that counts as executed, and the state. -/
def morRun (i : Instr) (s : State) (eff : Nat → MUnit → State → Except MStop (MUnit × Nat × State)) :
    Host.Outcome State Fault Refusal :=
  let u := s.focusUnit
  let m := s.unit u
  match m.exec with
  | some x => match x.phase with
    | .running pc limit =>
      if s.expired limit then .next (s.morStop u (.of 0x0E))
      else if !moraineLegal i then .next (s.morStop u (.of 0x30))
      else if (morReads i).any (fun z => tget false m.zpois z.toNat) then .next (s.morStop u { MStop.of 2 with stream := morStream i })
      else match eff pc m s with
        | .error e => .next (s.morStop u e)
        | .ok (m1, at', t) =>
          let (pc1, m2) := m1.after at'
          .next (t.setUnit u { m2 with exec := some { x with phase := .running pc1 limit } })
    | _ => .next s
  | none => .next s

/-- A z register. -/
def MUnit.zr (m : MUnit) (z : BitVec 5) : BitVec 512 := tget 0 m.z z.toNat
/-- Writing a z register clears its poison (R349). -/
def MUnit.setZ (m : MUnit) (z : BitVec 5) (r : BitVec 512) : MUnit :=
  { m with z := tput 0 m.z z.toNat r, zpois := tput false m.zpois z.toNat false }
def MUnit.qr (m : MUnit) (q : BitVec 3) : W32 := tget 0 m.q q.toNat
def MUnit.setQ (m : MUnit) (q : Nat) (v : W32) : MUnit := { m with q := tput 0 m.q q v }

/-- A lane operation of the VV form (R338). -/
def morLanes (i : Instr) (zd : BitVec 5) (s : State) (f : MUnit → Nat → W32) : Host.Outcome State Fault Refusal :=
  morRun i s (fun pc m s => .ok (m.setZ zd (rowOf (f m)), pc, s))

/-- The launch and ASID of the block that a unit executes. -/
def State.morBlock (s : State) (m : MUnit) : Option Block := m.exec.bind (fun x => tfind s.blocks x.blk)
def State.morAsid (s : State) (m : MUnit) : BitVec 16 := match s.morBlock m with | some b => b.asid | none => 0
def State.morLid (s : State) (m : MUnit) : Nat := match s.morBlock m with | some b => b.org.lid | none => 0

/-- The stream has completed an access (R337, R346). -/
def MUnit.streamed (m : MUnit) (i : Nat) : MUnit :=
  { m with cur := tput 0 m.cur i (tget 0 m.cur i + (tget 0 m.stride i).signExtend 64), accs := tput 0 m.accs i (tget 0 m.accs i + 1) }

/-- Bytes of a stream access. -/
def morSize (fmt : BitVec 2) : Nat := if fmt = 0 then 64 else 32

/-- VLD (R337, R349). -/
def execMoraineVld (z : BitVec 5) (st : BitVec 3) (fmt : BitVec 2) (s : State) : Host.Outcome State Fault Refusal :=
  morRun (.moraineVld z st fmt) s (fun pc m s =>
    let i := st.toNat
    let n := morSize fmt
    let va := tget 0 m.cur i
    if va.toNat % n != 0 then .error { MStop.of 1 with stream := some i }
    else match s.unitRead s.focusUnit (s.morAsid m) va n with
      | .error e => .error { e with stream := some i, mark := if e.code = 2 then some z.toNat else none }
      | .ok bs =>
        let s1 := s.unitFill s.focusUnit (s.morAsid m) va n
        let row := if fmt = 0 then rowOfBytes bs
          else rowOf (fun l => BitVec.ofNat 32 (natOfBytes ((bs.drop (2 * l)).take 2) * 2 ^ 16))
        .ok (({ m with tlb := (s1.unit s.focusUnit).tlb }.setZ z row).streamed i, pc, s1))

/-- VST: one store of the access size; bf16 takes the high half of each lane (R337). -/
def execMoraineVst (z : BitVec 5) (st : BitVec 3) (fmt : BitVec 2) (s : State) : Host.Outcome State Fault Refusal :=
  morRun (.moraineVst z st fmt) s (fun pc m s =>
    let i := st.toNat
    let n := morSize fmt
    let va := tget 0 m.cur i
    if va.toNat % n != 0 then .error { MStop.of 1 with stream := some i }
    else match s.unitXl s.focusUnit (s.morAsid m) va n .store true with
      | .error e => .error { e with stream := some i }
      | .ok ps =>
        let s1 := s.unitFill s.focusUnit (s.morAsid m) va n
        let bs := if fmt = 0 then bytesOfRow (m.zr z)
          else (List.range 16).flatMap (fun l => bytesOfNat 2 ((lane (m.zr z) l).toNat / 2 ^ 16))
        .ok ({ m with tlb := (s1.unit s.focusUnit).tlb }.streamed i, pc, (ps.head?.map (fun p => s1.storeMem (s.unitWriters s.focusUnit) p.1 bs)).getD s1))

/-- FADD (R336, R338). -/
def execMoraineFadd (zd za zb : BitVec 5) (s : State) : Host.Outcome State Fault Refusal :=
  morLanes (.moraineFadd zd za zb) zd s (fun m l => (fAdd false false .rne 0 (lane (m.zr za) l) (lane (m.zr zb) l)).1)
/-- FSUB (R336, R338). -/
def execMoraineFsub (zd za zb : BitVec 5) (s : State) : Host.Outcome State Fault Refusal :=
  morLanes (.moraineFsub zd za zb) zd s (fun m l => (fAdd true false .rne 0 (lane (m.zr za) l) (lane (m.zr zb) l)).1)
/-- FMUL (R336, R338). -/
def execMoraineFmul (zd za zb : BitVec 5) (s : State) : Host.Outcome State Fault Refusal :=
  morLanes (.moraineFmul zd za zb) zd s (fun m l => (fMul false .rne 0 (lane (m.zr za) l) (lane (m.zr zb) l)).1)
/-- FMA (R336, R338). -/
def execMoraineFma (zd za zb zc : BitVec 5) (s : State) : Host.Outcome State Fault Refusal :=
  morLanes (.moraineFma zd za zb zc) zd s (fun m l =>
    (fFma false false false .rne 0 (lane (m.zr za) l) (lane (m.zr zb) l) (lane (m.zr zc) l)).1)
/-- FMIN (R176, R336). -/
def execMoraineFmin (zd za zb : BitVec 5) (s : State) : Host.Outcome State Fault Refusal :=
  morLanes (.moraineFmin zd za zb) zd s (fun m l => (minMax false false (lane (m.zr za) l) (lane (m.zr zb) l)).1)
/-- FMAX (R176, R336). -/
def execMoraineFmax (zd za zb : BitVec 5) (s : State) : Host.Outcome State Fault Refusal :=
  morLanes (.moraineFmax zd za zb) zd s (fun m l => (minMax true false (lane (m.zr za) l) (lane (m.zr zb) l)).1)
/-- FCMP: all ones where the condition holds (R177, R336). -/
def execMoraineFcmp (zd za zb : BitVec 5) (cond : BitVec 3) (s : State) : Host.Outcome State Fault Refusal :=
  morLanes (.moraineFcmp zd za zb cond) zd s (fun m l =>
    if fcmpHolds cond.toNat (num32 (lane (m.zr za) l)) (num32 (lane (m.zr zb) l)) then 0xFFFFFFFF else 0)
/-- FSEL (R178, R336). -/
def execMoraineFsel (zd za zb zc : BitVec 5) (s : State) : Host.Outcome State Fault Refusal :=
  morLanes (.moraineFsel zd za zb zc) zd s (fun m l =>
    (fPass false (if lane (m.zr zc) l = 0 then lane (m.zr zb) l else lane (m.zr za) l)).1)
/-- RCP (R203, R336). -/
def execMoraineRcp (zd za : BitVec 5) (s : State) : Host.Outcome State Fault Refusal :=
  morLanes (.moraineRcp zd za) zd s (fun m l => (sfuResult false 4 (lane (m.zr za) l) 0).1)
/-- RSQ (R203, R336). -/
def execMoraineRsq (zd za : BitVec 5) (s : State) : Host.Outcome State Fault Refusal :=
  morLanes (.moraineRsq zd za) zd s (fun m l => (sfuResult false 5 (lane (m.zr za) l) 0).1)
/-- CVTB: BF16 held as FP32 (R336). -/
def execMoraineCvtb (zd za : BitVec 5) (s : State) : Host.Outcome State Fault Refusal :=
  morLanes (.moraineCvtb zd za) zd s (fun m l =>
    BitVec.ofNat 32 ((cvtNum false .bf16 .rne 0 (num32 (lane (m.zr za) l))).1 * 2 ^ 16))

/-- MOVI: one half of q (R336). -/
def execMovi (q : BitVec 3) (half : BitVec 1) (imm : BitVec 16) (s : State) : Host.Outcome State Fault Refusal :=
  morRun (.movi q half imm) s (fun pc m s =>
    let old := m.qr q
    .ok (m.setQ q.toNat (if half = 1 then imm ++ old.extractLsb' 0 16 else old.extractLsb' 16 16 ++ imm), pc, s))

/-- BCAST (R336). -/
def execMoraineBcast (zd : BitVec 5) (q : BitVec 3) (s : State) : Host.Outcome State Fault Refusal :=
  morLanes (.moraineBcast zd q) zd s (fun m _ => m.qr q)

/-- A loop of n passes over the instructions up to END, or past them (R339). -/
def MUnit.loopAt (pc n last : Nat) : MorLoop := { start := pc + 1, last := last, left := n, done := 0 }

/-- LOOPA, the outer level (R339). -/
def execLoopa (cs : BitVec 1) (q : BitVec 3) (eo : BitVec 7) (cnt : BitVec 16) (s : State) : Host.Outcome State Fault Refusal :=
  morRun (.loopa cs q eo cnt) s (fun pc m s =>
    let n := if cs = 1 then (m.qr q).toNat else cnt.toNat
    if eo.toNat ≤ pc || m.outer.isSome || m.inner.isSome then .error (.of 0x30)
    else if n = 0 then .ok (m, eo.toNat, s)
    else .ok ({ m with outer := some (MUnit.loopAt pc n eo.toNat) }, pc, s))

/-- LOOPB, the inner level (R339). -/
def execLoopb (cs : BitVec 1) (q : BitVec 3) (eo : BitVec 7) (cnt : BitVec 16) (s : State) : Host.Outcome State Fault Refusal :=
  morRun (.loopb cs q eo cnt) s (fun pc m s =>
    let n := if cs = 1 then (m.qr q).toNat else cnt.toNat
    if eo.toNat ≤ pc || m.inner.isSome || m.outer.any (fun l => l.last < eo.toNat) then .error (.of 0x30)
    else if n = 0 then .ok (m, eo.toNat, s)
    else .ok ({ m with inner := some (MUnit.loopAt pc n eo.toNat) }, pc, s))

/-- END: the RUN is done (R345, R346). -/
def execMoraineEnd (s : State) : Host.Outcome State Fault Refusal :=
  let u := s.focusUnit
  match (s.unit u).exec with
  | some x => match x.phase with
    | .running _ limit => if s.expired limit then .next (s.morStop u (.of 0x0E)) else .next (s.morNext u)
    | _ => .next s
  | none => .next s

/-- A mailbox slot is written, and its wake bit set (R340). -/
def State.mailbox (s : State) (dst slot : Nat) (v : W64) (lid : Nat) : State :=
  let m := s.unit dst
  s.setUnit dst { m with mbox := tput (0, 0) m.mbox slot (v, lid), wake := m.wake ||| ((1 : BitVec 16) <<< slot) }

/-- The word of a slot: value, sender, and whether a command wrote it. -/
def mailWord (v : W32) (sender : Nat) (cmd : Bool) : W64 :=
  BitVec.ofNat 64 (v.toNat + sender % 256 * 2 ^ 32 + (if cmd then 2 ^ 40 else 0))

/-- MBXS (R340). -/
def execMbxs (unit : BitVec 8) (slot : BitVec 4) (q : BitVec 3) (s : State) : Host.Outcome State Fault Refusal :=
  morRun (.mbxs unit slot q) s (fun pc m s =>
    let t := (s.setUnit s.focusUnit m).mailbox unit.toNat slot.toNat (mailWord (m.qr q) s.focusUnit false) (s.morLid m)
    .ok (t.unit s.focusUnit, pc, t))

/-- The lowest wake bit of a mask whose slot a launch wrote (R340). -/
def MUnit.awake (m : MUnit) (lid : Nat) (mask : BitVec 16) : Option Nat :=
  (List.range 16).find? (fun i => mask.getLsbD i && m.wake.getLsbD i && (tget (0, 0) m.mbox i).2 == lid)

/-- MBXW: it takes a wake bit, or waits for one (R340). -/
def execMbxw (q : BitVec 3) (msk : BitVec 16) (s : State) : Host.Outcome State Fault Refusal :=
  let u := s.focusUnit
  let m := s.unit u
  match m.exec with
  | some x => match x.phase with
    | .running pc limit =>
      if moraineLegal (.mbxw q msk) && msk != 0 && (m.awake (s.morLid m) msk).isNone && !s.expired limit then
        .next (s.setUnit u { m with exec := some { x with phase := .mbxWait pc limit } })
      else
        morRun (.mbxw q msk) s (fun pc m s =>
          match m.awake (s.morLid m) msk with
          | none => .ok (m, pc, s)
          | some i =>
            let w := (tget (0, 0) m.mbox i).1
            let m1 := { m with wake := m.wake &&& ~~~ ((1 : BitVec 16) <<< i) }
            .ok ((m1.setQ q.toNat (w.truncate 32)).setQ (q.toNat + 1) (BitVec.ofNat 32 (16 * (w.extractLsb' 32 8).toNat + i)), pc, s))
    | _ => .next s
  | none => .next s

/-- MAILBOX_WAKE: an MBXW that waits is tested again (R340). -/
def execMailboxWake (unit : Nat) (s : State) : Host.Outcome State Fault Refusal :=
  let m := s.unit unit
  match m.exec with
  | some x => match x.phase with
    | .mbxWait pc limit =>
      match decodeMoraine (tget 0 m.ib pc) with
      | .ok (.mbxw q msk) =>
        if (m.awake (s.morLid m) msk).isSome then
          match execMbxw q msk ({ s with focusUnit := unit }.setUnit unit { m with exec := some { x with phase := .running pc limit } }) with
          | .next t => .next { t with focusUnit := s.focusUnit }
          | r => r
        else .next s
      | _ => .next s
    | _ => .next s
  | none => .next s

/-! The commands (R343 to R345, R347). -/

/-- A command at which the unit in focus stands: a field that R343 does not allow stops the block with ILL. -/
def morCmd (i : Instr) (s : State) (eff : Nat → MUnit → Block → State → Except MStop State) : Host.Outcome State Fault Refusal :=
  let u := s.focusUnit
  let m := s.unit u
  match m.exec, s.morBlock m with
  | some x, some b => match x.phase with
    | .atCmd =>
      if !commandLegal i then .next (s.morStop u (.of 0x30))
      else match eff u m b s with
        | .error e => .next (s.morStop u e)
        | .ok t => .next t
    | _ => .next s
  | _, _ => .next s

/-- The parameter record (R344). -/
def MUnit.params (m : MUnit) (bs : List Byte) : MUnit :=
  let w (off n : Nat) : Nat := natOfBytes ((bs.drop off).take n)
  { m with
    base := (List.range 8).foldl (fun t i => tput 0 t i (BitVec.ofNat 64 (w (16 * i) 8))) []
    stride := (List.range 8).foldl (fun t i => tput 0 t i (BitVec.ofNat 32 (w (16 * i + 8) 4))) []
    rstep := (List.range 8).foldl (fun t i => tput 0 t i (BitVec.ofNat 32 (w (16 * i + 12) 4))) []
    q := (List.range 8).foldl (fun t j => tput 0 t j (BitVec.ofNat 32 (w (0x80 + 4 * j) 4))) [] }

/-- LOADP: everything is read before anything is written (R344). -/
def execLoadp (kind first count : BitVec 8) (addr : W64) (s : State) : Host.Outcome State Fault Refusal :=
  morCmd (.loadp kind first count addr) s (fun u m b s =>
    let n := if kind = 0 then 4 * count.toNat else 160
    match s.unitRead u b.asid addr n with
    | .error e => .error e
    | .ok bs =>
      let s1 := s.unitFill u b.asid addr n
      let m1 : MUnit := { m with tlb := (s1.unit u).tlb }
      let m2 := if kind = 0 then
          { m1 with ib := (List.range count.toNat).foldl (fun t k =>
              tput 0 t (first.toNat + k) (BitVec.ofNat 32 (natOfBytes ((bs.drop (4 * k)).take 4)))) m1.ib }
        else m1.params bs
      .ok ((s1.setUnit u m2).morNext u))

/-- The WALLUS at which a limit passes; 0 is none (R343). -/
def State.limitOf (s : State) (n : Nat) : Option Nat := if n = 0 then none else some (s.wallus.toNat + n)

/-- RUN: the loop state is cleared and every CUR set by rank (R337, R345). -/
def execRun (start : BitVec 8) (limit : BitVec 16) (s : State) : Host.Outcome State Fault Refusal :=
  morCmd (.run start limit) s (fun u m b s =>
    let rank := (b.units.findIdx? (fun v => v == u)).getD 0
    let cur := (List.range 8).foldl (fun t i =>
      tput 0 t i (tget 0 m.base i + BitVec.ofNat 64 rank * (tget 0 m.rstep i).signExtend 64)) []
    match m.exec with
    | some x => .ok (s.setUnit u { m with
        cur := cur, accs := [], outer := none, inner := none
        exec := some { x with phase := .running start.toNat (s.limitOf limit.toNat) } })
    | none => .ok s)

/-- ROWSH: a row with its ECC bits goes to the adjacent subarray (R334, R345). -/
def execRowsh (src dst : W64) (s : State) : Host.Outcome State Fault Refusal :=
  morCmd (.rowsh src dst) s (fun u _ b s =>
    if src.toNat % 1024 != 0 || dst.toNat % 1024 != 0 then .error (.of 0x30)
    else match s.unitXl u b.asid src 1024 .load true, s.unitXl u b.asid dst 1024 .store true with
      | .ok ((p, _) :: _), .ok ((q, _) :: _) =>
        let sub (a : Nat) : Nat := a / 2 ^ 23 % 256
        if ownChannel u p && ownChannel u q && p / 2 ^ 10 % 2 ^ 4 == q / 2 ^ 10 % 2 ^ 4 && p / 2 ^ 14 % 2 ^ 9 == q / 2 ^ 14 % 2 ^ 9 &&
            (sub p == sub q + 1 || sub q == sub p + 1) then
          let ue := (List.range 128).foldl (fun t k => tput false t (q / 8 + k) (tget false s.memUe (p / 8 + k))) s.memUe
          let bs := readBytes s.mem p 1024
          let s1 := ((s.noteAt (s.unitWriters u) q bs).unitFill u b.asid src 1024).unitFill u b.asid dst 1024
          .ok ({ s1 with mem := writeBytes s.mem q bs, memUe := ue }.morNext u)
        else .error (.of 0x30)
      | .error e, _ => .error e
      | _, .error e => .error e
      | _, _ => .error (.of 1))

/-- MBX (R345). -/
def execMbx (unit slot : BitVec 8) (value : W64) (s : State) : Host.Outcome State Fault Refusal :=
  morCmd (.mbx unit slot value) s (fun u _ b s =>
    .ok ((s.mailbox unit.toNat slot.toNat (mailWord (value.truncate 32) u true) b.org.lid).morNext u))

/-- A latch that a unit reaches: 64-byte aligned, in Firn or the window (R56, R334). -/
def State.unitLatch (s : State) (u : Nat) (asid : BitVec 16) (va : W64) (acc : Acc) : Except MStop Nat :=
  if va.toNat % 64 != 0 then .error (.of 1)
  else match s.unitXl u asid va 8 acc false with
    | .error e => .error e
    | .ok ps => match ps with
      | (a, _) :: _ =>
        if !latchRegion (regionOf a) then .error { MStop.of 1 with dpa := some a }
        else if s.ueIn a 8 then .error { MStop.of 2 with dpa := some a }
        else .ok a
      | [] => .error (.of 1)

/-- TRIG: it waits on a latch, or places an interest in a name at its router (R345). -/
def execTrig (kind scope : BitVec 8) (limit : W32) (obj target : W64) (s : State) : Host.Outcome State Fault Refusal :=
  morCmd (.trig kind scope limit obj target) s (fun u m b s =>
    match m.exec with
    | none => .ok s
    | some x =>
      let wait (s : State) (f : Option Nat) : State :=
        s.setUnit u { s.unit u with exec := some { x with phase := .trigWait (.trig kind scope limit obj target) (s.limitOf limit.toNat) f none } }
      if kind = 0 then
        match s.unitLatch u b.asid obj .load with
        | .error e => .error e
        | .ok _ => .ok (wait (s.unitFill u b.asid obj 8) none)
      else
        let expiry := s.wallus.toNat + Config.defaultLife
        let (id, s1) := s.addFlight (.trigName u expiry)
        .ok (wait (s1.placeInterest (unitRouter u) obj id expiry) (some id)))

/-- What a TRIG that waits would do now: nothing, go on, stop with a reason, or place a new interest. -/
inductive TrigNow where
  | waits | met | fails (e : MStop) | again
  deriving DecidableEq, Repr

/-- The state of a unit's TRIG. -/
def State.trigNow (s : State) (u : Nat) : TrigNow :=
  let m := s.unit u
  match m.exec with
  | some x => match x.phase with
    | .trigWait (.trig kind _ _ obj target) limit _ ending =>
      if s.expired limit then .waits
      else if kind = 0 then
        match s.unitLatch u (s.morAsid m) obj .load with
        | .error e => .fails e
        | .ok a => if target.toNat ≤ readNat s.mem a 8 then .met else .waits
      else match ending with
        | none => .waits
        | some 0 => .met
        | some 6 => .again
        | some c => .fails (.of c)
    | _ => .waits
  | none => .waits

/-- The acquire that a satisfied TRIG is, and the next command (R52, R345). -/
def State.trigMet (s : State) (u : Nat) (kind scope : BitVec 8) (obj : W64) : State :=
  let is (x : SyncObj) : Bool :=
    if kind = 0 then (match s.unitLatch u (s.morAsid (s.unit u)) obj .load with | .ok a => x == .latch a | .error _ => false)
    else x == .name obj
  (s.acquire (.unit u) scope.toNat is).morNext u

/-- TRIG_SATISFIED: a TRIG that waits ends, or places a new interest where the last expired (R345). -/
def execTrigSatisfied (unit : Nat) (s : State) : Host.Outcome State Fault Refusal :=
  let m := s.unit unit
  match s.trigNow unit with
  | .waits => .next s
  | .met => match m.exec.map MorExec.phase with
    | some (.trigWait (.trig kind scope _ obj _) _ _ _) => .next (s.trigMet unit kind scope obj)
    | _ => .next s
  | .fails e => .next (s.morStop unit e)
  | .again =>
    match m.exec with
    | some x => match x.phase with
      | .trigWait (.trig kind scope limit obj target) lim _ _ =>
        let expiry := s.wallus.toNat + Config.defaultLife
        let (id, s1) := s.addFlight (.trigName unit expiry)
        .next ((s1.setUnit unit { m with exec := some { x with
          phase := .trigWait (.trig kind scope limit obj target) lim (some id) none } }).placeInterest (unitRouter unit) obj id expiry)
      | _ => .next s
    | none => .next s

/-- The limit of what a unit does. -/
def MorPhase.limit : MorPhase → Option Nat
  | .running _ l => l
  | .mbxWait _ l => l
  | .trigWait _ l _ _ => l
  | _ => none

/-- MORAINE_LIMIT_EXPIRY: a RUN or a TRIG whose limit has passed stops with TIMEOUT (R345). -/
def execMoraineLimitExpiry (unit : Nat) (s : State) : Host.Outcome State Fault Refusal :=
  match (s.unit unit).exec with
  | some x =>
    if s.expired x.phase.limit then
      let s1 := match x.phase with | .trigWait _ _ (some id) _ => s.dropFlight id | _ => s
      .next (s1.morStop unit (.of 0x0E))
    else .next s
  | none => .next s

/-- RELM's addition to its latch, a release of what the unit wrote (R51, R56, R347). -/
def State.latchAdd (s : State) (u a inc scope : Nat) : State :=
  ((s.storeMem (s.unitWriters u) a (bytesOfNat 8 (min (readNat s.mem a 8 + inc) (2 ^ 64 - 1)))).release (.unit u) (.latch a) scope
    (fun _ _ => true)).wakeLatch a

/-- What the units of a block wrote counts as a unit's own in a release that covers it (R347). -/
def State.joinWrites (s : State) (us : List Nat) (u : Nat) : State :=
  if s.lags.isEmpty then s
  else { s with lags := s.lags.map (fun g => { g with unseen := g.unseen.map (fun w =>
    if us.any (fun v => w.heldBy (.unit v)) && !w.heldBy (.unit u) then { w with holders := w.holders ++ [.unit u] } else w) }) }

/-- The scope of a command that waits for a unit's writes (R347). -/
def morScope : Instr → Nat
  | .fencem scope _ | .relm scope .. | .annm scope .. => scope.toNat
  | _ => 0

/-- Memory in which a unit reaches the tile that it announces: its own stack, Firn and the window (R334, R347). -/
def annReach (u dpa : Nat) : Bool := ownStack u dpa || regionOf dpa == .firn || regionOf dpa == .window

/-- A unit performs FENCEM, RELM or ANNM for some units of its block: their earlier writes are performed at the scope (R347). -/
def State.morRelease (s : State) (us : List Nat) (u : Nat) (b : Block) (i : Instr) : Except MStop State :=
  let s0 := (us.foldl (fun s v => s.performStores (.unit v) (morScope i)) s).joinWrites us u
  match i with
  | .relm scope _ latch inc =>
    match s0.unitLatch u b.asid latch .atomic with
    | .error e => .error e
    | .ok a => .ok (((s0.unitFill u b.asid latch 8).latchAdd u a inc.toNat scope.toNat).morNext u)
  | .annm scope _ len name src =>
    match s0.unitXl u b.asid src len.toNat .load false with
    | .error e => .error e
    | .ok ps => match ps.find? (fun p => !annReach u p.1) with
      | some p => .error { MStop.of 1 with dpa := some p.1 }
      | none =>
        let (id, s1) := (s0.unitFill u b.asid src len.toNat).addFlight (.annUnit u scope.toNat)
        match (s1.unit u).exec with
        | none => .ok s
        | some x =>
          .ok ((s1.setUnit u { s1.unit u with exec := some { x with phase := .annWait id none } }).addPacket
            (.announce (unitRouter u) name ps len.toNat id 0))
  | _ => .ok (s0.morNext u)

/-- A command that a unit performs itself, or reaches and waits at (R347). -/
def morSync (i : Instr) (join : BitVec 8) (s : State) : Host.Outcome State Fault Refusal :=
  morCmd i s (fun u m b s =>
    if join = 0 then s.morRelease [u] u b i
    else match m.exec with
      | some x => .ok (s.setUnit u { m with exec := some { x with phase := .joined i } })
      | none => .ok s)

/-- FENCEM (R347). -/
def execFencem (scope join : BitVec 8) (s : State) : Host.Outcome State Fault Refusal := morSync (.fencem scope join) join s
/-- RELM (R347). -/
def execRelm (scope join : BitVec 8) (latch inc : W64) (s : State) : Host.Outcome State Fault Refusal :=
  morSync (.relm scope join latch inc) join s
/-- ANNM (R347). -/
def execAnnm (scope join : BitVec 8) (len : W32) (name src : W64) (s : State) : Host.Outcome State Fault Refusal :=
  morSync (.annm scope join len name src) join s

/-- The command at which a unit has joined in a block: its index, and the command. -/
def State.joinedAt (s : State) (blk u : Nat) : Option (Nat × Instr) :=
  match (s.unit u).exec with
  | some x => if x.blk = blk then match x.phase with | .joined i => some (x.cmd, i) | _ => none else none
  | none => none

/-- The units of a block that stand at a joined command. -/
def State.joiners (s : State) (blk : Nat) (b : Block) : List (Nat × Nat × Instr) :=
  b.units.filterMap (fun u => (s.joinedAt blk u).map (fun p => (u, p)))

/-- A joined command can be completed, or must stop: every unit of the block stands at it, or one has stopped. -/
def State.joinDue (s : State) (blk : Nat) : Bool :=
  match tfind s.blocks blk with
  | none => false
  | some b =>
    let js := s.joiners blk b
    !js.isEmpty && (js.length == b.units.length || b.ends.any (fun e => e.code != 0))

/-- JOIN_COMPLETE: rank 0 performs the joined command and all go on; or, with a unit stopped, the others stop PARTNER
(R347). -/
def execJoinComplete (blk : Nat) (s : State) : Host.Outcome State Fault Refusal :=
  match tfind s.blocks blk with
  | none => .next s
  | some b =>
    let js := s.joiners blk b
    if js.isEmpty then .next s
    else if b.ends.any (fun e => e.code != 0) then .next (js.foldl (fun s j => s.morStop j.1 (.of 0x31)) s)
    else if js.length = b.units.length then
      match js with
      | (u, _, i) :: rest =>
        let s1 := rest.foldl (fun s j => s.morNext j.1) s
        match s1.morRelease b.units u b i with
        | .ok t => .next t
        | .error e => .next (s1.morStop u e)
      | [] => .next s
    else .next s

/-- BLOCK_START: a free unit takes its next block; what another launch left is cleared (R335, R341). -/
def execBlockStart (unit : Nat) (s : State) : Host.Outcome State Fault Refusal :=
  let m := s.unit unit
  match m.exec, m.queue with
  | none, b :: rest =>
    match tfind s.blocks b with
    | none => .next (s.setUnit unit { m with queue := rest })
    | some blk =>
      let m1 : MUnit := if m.lastLid = blk.org.lid then m else
        { MUnit.reset with bstat := m.bstat, must := m.must, tlb := m.tlb, lastLid := blk.org.lid }
      .next (s.setUnit unit { m1 with queue := rest, exec := some { blk := b, cmd := 0, phase := .atCmd } })
  | _, _ => .next s

/-- What the unit in focus runs next: an instruction of a RUN, or a command; or none with the state that a stop leaves
(R345, R346, R349), or that an ended announcement leaves. -/
def State.morFetch (s : State) : Option Instr × State :=
  let u := s.focusUnit
  let m := s.unit u
  match m.exec, s.morBlock m with
  | some x, some b => match x.phase with
    | .atCmd =>
      let va := b.addr + BitVec.ofNat 64 (32 * x.cmd)
      match s.unitRead u b.asid va 32 with
      | .error e => (none, s.morStop u e)
      | .ok bs => match decodeCommand bs with
        | .ok i => (some i, s.unitFill u b.asid va 32)
        | .error _ => (none, s.morStop u (.of 0x30))
    | .running pc limit =>
      if s.expired limit then (none, s.morStop u (.of 0x0E))
      else if 96 ≤ pc then (none, s.morStop u (.of 0x30))
      else match decodeMoraine (tget 0 m.ib pc) with
        | .ok i => (some i, s)
        | .error _ => (none, s.morStop u (.of 0x30))
    | .annWait _ (some st) => (none, if st = 0 then s.morNext u else s.morStop u (.of st))
    | _ => (none, s)
  | _, _ => (none, s)

/-- The unit has something to run. -/
def State.unitReady (s : State) (u : Nat) : Bool :=
  match (s.unit u).exec with
  | some x => match x.phase with
    | .atCmd | .running _ _ | .annWait _ (some _) => true
    | _ => false
  | none => false

/-- An event that is due at a unit. -/
def State.unitDue (s : State) (u : Nat) : Option Event :=
  let m := s.unit u
  match m.exec with
  | none => if m.queue.isEmpty then none else some (.blockStart u)
  | some x =>
    if s.expired x.phase.limit then some (.moraineLimitExpiry u)
    else match x.phase with
      | .mbxWait pc _ => match decodeMoraine (tget 0 m.ib pc) with
        | .ok (.mbxw _ msk) => if (m.awake (s.morLid m) msk).isSome then some (.mailboxWake u) else none
        | _ => none
      | .trigWait .. => if s.trigNow u == .waits then none else some (.trigSatisfied u)
      | .joined _ => if s.joinDue x.blk then some (.joinComplete x.blk) else none
      | _ => none

/-! MSUB and MSTAT (R341, R342, R352). -/

/-- The ENG opcode of MSUB. -/
def opMsub : Nat := 0x13

/-- MSUB is sent, or fails at issue (R341, R342). -/
def State.sendMsub (s : State) (o : EngArgs) (qid : Nat) : State :=
  let s1 := s.drainCmd s.origin
  let h := s1.pHnd o 19
  let sm := s1.pScal o 13
  let units := msubUnits sm
  let ncmd := (sm.extractLsb' 40 8).toNat
  let sig := EngArgs.signal o
  let fail (st : Nat) : State := s1.complete s1.origin qMor qid opMsub st 0 (some sig)
  if hRes h = 0 || hRes h = 3 || (fmtBits (hFmt h)).isNone || (hBase h).toNat % 32 != 0 then fail 5
  else if ncmd = 0 || 64 < ncmd || units.isEmpty then fail 0x32
  else
    let id := match s1.blocks.getLast? with | some p => p.1 + 1 | none => 0
    let s2 := units.foldl (fun s u => s.beginOver s.origin o (.unit u) (fun _ _ => true) (fun _ _ => false)) s1
    let b : Block := { org := s1.origin, asid := s1.cx.launch.asid, addr := hBase h, ncmd := ncmd, units := units,
                       acq := o.acq == 1, ends := [], qid := qid, sig := sig }
    units.foldl (fun s u => s.setUnit u { s.unit u with queue := (s.unit u).queue ++ [id] }) { s2 with blocks := tset s2.blocks id b }

/-- MSUB (R341). -/
def execMsub (o : EngArgs) (s : State) : Host.Outcome State Fault Refusal :=
  slot (.msub o) s (fun s => s.engCmd (.msub o) o (fun q s => s.sendMsub o q))

/-- The unit whose stop an MSUB reports: the lowest whose cause is not PARTNER, else the lowest that stopped (R342). -/
def Block.report (b : Block) : Option MorEnd :=
  let low (l : List MorEnd) : Option MorEnd := l.foldl (fun m e => match m with
    | none => some e
    | some x => if e.unit < x.unit then some e else m) none
  let stops := b.ends.filter (fun e => e.code != 0)
  (low (stops.filter (fun e => e.code != 0x31))).or (low stops)

/-- MSUB_COMPLETION: with REL it releases what every target unit wrote for the block, which counts as the command's own (R341,
R342). -/
def execMsubCompletion (blk : Nat) (s : State) : Host.Outcome State Fault Refusal :=
  match tfind s.blocks blk with
  | none => .next s
  | some b =>
    if b.ends.length != b.units.length then .next s
    else
      let s1 := { s with blocks := tdel s.blocks blk }
      match b.report with
      | none => .next (s1.complete b.org qMor b.qid opMsub 0 0 (some b.sig))
      | some e =>
        .next (s1.complete b.org qMor b.qid opMsub e.code (e.unit * 2 ^ 24 + e.cmd * 2 ^ 18 + min e.elem 0x3FFFF) (some b.sig))

/-- MSTAT: the register as it stands, and cleared where CLR asks (R352). -/
def State.sendMstat (s : State) (o : EngArgs) (qid : Nat) : State :=
  let u := o.pf 16 8
  let sel := o.pf 11 5
  let m := s.unit u
  let s1 := s.fillRaw s.origin.core s.origin.lid qMor qid (m.reg sel)
  let m1 := if o.pf 10 1 = 0 then m else if sel < 16 then { m with bstat := tput 0 m.bstat sel 0 }
    else if sel = 17 then { m with must := 0 } else m
  (s1.setUnit u m1).applySignal s.origin (EngArgs.signal o)

/-- MSTAT (R352). -/
def execMstat (o : EngArgs) (s : State) : Host.Outcome State Fault Refusal :=
  slot (.mstat o) s (fun s => s.engCmd (.mstat o) o (fun q s => s.sendMstat o q))

end Sys2Proof.Machine
end

