-- ==== Sys2Proof/Machine/Guard.lean ====
section
/-! DEFINITION. Guarded segments: the commit, the rollback and the comparison of the two reruns (R300 to R304). -/

namespace Sys2Proof.Machine

open Sys2Proof

/-! The release of held effects (R302). -/

/-- Do something with the operands that a held instruction took at issue, and put the registers back. -/
def State.withOperands (s : State) (scal : Tbl W64) (hnd : Tbl W256) (vreg : Tbl (BitVec 512)) (mask : Tbl (BitVec 16))
    (f : State → State) : State :=
  let c := s.cx.a.c
  let v := s.cx.a.v
  let t := f ((s.modCtl (fun c => { c with scal := scal, hnd := hnd })).modVec (fun v => { v with vreg := vreg, mask := mask }))
  (t.modCtl (fun d => { d with scal := c.scal, hnd := c.hnd })).modVec (fun w => { w with vreg := v.vreg, mask := v.mask })

/-- A held instruction takes effect; q is its first result slot. -/
def State.sendHeld (s : State) (i : Instr) (q : Nat) : State :=
  match i with
  | .vred o => s.vredEffect o
  | .rel sa sb scope => s.relEffect (s.sr sa) (s.sr sb) scope.toNat
  | .copy o => (s.beginCmd i o).sendCopy 1 o q
  | .copys o => (s.beginCmd i o).sendCopy 2 o q
  | .rotq o => (s.beginCmd i o).sendRotq o q
  | .ask o => (s.beginCmd i o).sendAsk o q
  | .announce o => (s.beginCmd i o).sendAnnounce o q
  | .seal o => (s.beginCmd i o).sendSeal o q
  | .red o => (s.beginCmd i o).sendRedCmd o
  | .binit o => (s.beginCmd i o).sendBinit o q
  | .barr o => (s.beginCmd i o).sendBarr opBarr o q
  | .barrx o => (s.beginCmd i o).sendBarr opBarrx o q
  | .bwait o => (s.beginCmd i o).sendBwait opBwait o q
  | .btwait o => (s.beginCmd i o).sendBwait opBtwait o q
  | .msub o => (s.beginCmd i o).sendMsub o q
  | .mstat o => (s.beginCmd i o).sendMstat o q
  | .darm o => (s.beginCmd i o).sendDarm o q
  | .dput o => (s.beginCmd i o).sendDput o q
  | .launch o => (s.beginCmd i o).sendLaunch o false
  | .launchi o => (s.beginCmd i o).sendLaunch o true
  | .flushh o => (s.beginCmd i o).sendFlushh o
  | _ => s

/-- One held effect is released. -/
def State.releaseHeld (s : State) : HeldEff → State
  | .store va bs => s.storeVirt va bs
  | .send num i scal hnd vreg mask q => { s with cmdNow := num }.withOperands scal hnd vreg mask (fun s => s.sendHeld i (q.getD 0))

/-- Arrays of a core that a launch owns. -/
def Core.owned (k : Core) (lid : Nat) : List Nat := [0, 1, 2, 3].filter (fun a => (k.arr a).owner == some lid)

/-- The commit of the context in focus: held effects are released in order, the journal and the record are emptied, the
context state is taken, and plane set 0 of each array owned is copied into plane set 1 (R302). Inputs that a rerun has
kept waiting enter now. -/
def State.commitNow (s : State) : State :=
  let left := s.cx.guard.replayLeft
  let s1 := s.cx.guard.hold.foldl State.releaseHeld s
  let k := s1.fcore
  let owned := k.owned s1.cx.launch.lid
  let k1 := owned.foldl (fun k a => let r := k.arr a; k.setArr a { r with p1 := r.p0, snapv := true }) k
  let s2 := s1.setFcore { k1 with acycle := s1.acycleOf s1.focusCore + BitVec.ofNat 64 (96 * owned.length) }
  s2.modCx (fun x =>
    let y := { x with guard := { Guard.none with point := some x.a, tile := x.tile }, blocked := false }
    left.foldl (fun y r => match r.what with | .signal .. | .fill .. => y.input r.what | _ => y) y)

/-- A commit of a context is due and can begin. -/
def State.commitReady (s : State) : Bool := s.cx.guard.commitDue && s.canCommit

/-- Keep the focus over something done to a context. -/
def State.onCtx (s : State) (core ctx : Nat) (f : State → State) : State := (f (s.at' core ctx)).at' s.focusCore s.focusCtx

/-- CHECKPOINT_COMMIT (R301, R302). -/
def execCheckpointCommit (core ctx : Nat) (s : State) : Host.Outcome State Fault Refusal :=
  if (s.at' core ctx).commitReady && (s.ctxAt core ctx).guard.rerun = 0 then .next (s.onCtx core ctx State.commitNow)
  else .next s

/-! Rollback and reruns (R303, R304). -/

/-- Each journaled chunk gets its pre-image back; a whole chunk written stores fresh check bits (R236). -/
def Core.unjournal (k : Core) (j : Tbl (List Byte)) : Core :=
  { k with ls := j.foldl (fun t p => writeBytes t p.1 p.2) k.ls, lsUe := if k.lsUe.isEmpty then k.lsUe else j.foldl (fun t p => tdel t (p.1 / 32)) k.lsUe }

/-- An array without the commands of a launch, and with plane set 0 as it was at the commit. -/
def Arr.unwind (a : Arr) (lid : Nat) : Arr :=
  { a with
    queue := a.queue.filter (fun c => c.lid != lid)
    run := if a.run.any (fun r => r.cmd.lid == lid) then none else a.run
    susp := if a.susp.any (fun r => r.cmd.lid == lid) then none else a.susp
    p0 := if a.owner == some lid && a.snapv then a.p1 else a.p0 }

/-- SMLOADs of the segment that are still under way: the reruns issue them again (R303). -/
def State.dropLoads' (s : State) (o : Origin) (from' : Nat) : State :=
  { s with flights := s.flights.filter (fun p => match p.2 with
    | .smload org _ _ q _ => !(org.same o && from' ≤ q)
    | _ => true) }

/-- The segment of the context in focus begins again from its commit, as the rerun of a number (R303). A tile task that has
halted since has not. -/
def State.unwind (s : State) (n : Nat) : State :=
  let x := s.cx
  let lid := x.launch.lid
  let g := x.guard
  let k := s.fcore.unjournal g.journal
  let first := (g.point.map (fun p => tget 0 p.q.nextId qSerac)).getD 0
  let s0 := s.dropAcq.dropLoads' s.origin first
  let s1 := s0.setFcore ([0, 1, 2, 3].foldl (fun k a => k.setArr a ((k.arr a).unwind lid)) k)
  let s2 := if x.tile.isNone then
      { s1 with launches := s1.launches.map (fun p => if p.2.lid = lid then (p.1, { p.2 with tasks := p.2.tasks - 1 }) else p) }
    else s1
  s2.modCx (fun x => { x with
    a := g.point.getD x.a, tile := g.tile, next := none, lds := none, acq := none, iss := .idle, blocked := false, waited := 0
    guard := { g with hold := [], holdUsed := 0, journal := [], journalUsed := 0, record := [],
                      replayLeft := g.record ++ g.replayLeft, rerun := n, aclk := 0, commitDue := false } })

/-- The outcome of a rollback is logged, with the CKPT_PC of the segment (R424). -/
def State.logRollback (s : State) (core ctx : Nat) (bad : Bool) : State :=
  let pc := ((s.ctxAt core ctx).guard.point.map (fun a => a.c.ckptPc)).getD 0
  s.log core 0x0006 ([if bad then 1 else 0, 0, 0, 0] ++ bytesOfNat 4 pc.toNat)

/-- The core is retired, since its reruns do not stand (R44, R304). -/
def State.unsound (s : State) (core ctx : Nat) : State :=
  ((s.logRollback core ctx true).onCtx core ctx (fun s => s.modCx (fun x => { x.endTask with guard := Guard.none, next := none }))).retireCore core 1

/-- A rollback that needs an array without a snapshot is handled as an unguarded error of it: its routine completes DATAERR, its
words are unknown, MCHK with SRC 2 is due, and the segment goes on (R299, R303; DEDUCED, log 16). -/
def State.unguarded (s : State) (core ctx : Nat) : State :=
  let lid := (s.ctxAt core ctx).launch.lid
  let lost := ((s.core core).owned lid).filter (fun a => !((s.core core).arr a).snapv)
  let s1 := lost.foldl (fun s a =>
    let k := s.core core
    let r := k.arr a
    let t := ({ s with free := s.free + 10753 }).setCore core (k.setArr a { r with p0 := r.p0.free s.free, p1 := r.p1.free (s.free + 5376) })
    match r.run with
    | some q =>
      if q.cmd.lid = lid then
        t.endRoutine core a 0x22 (if q.lib.isSome then (Config.freeWord (s.free + 10752)).toNat % 256 else q.pc % 2048)
      else t
    | none => t) s
  let x := s1.ctxAt core ctx
  let p := { x.a.p with mchk := some (x.a.p.mchk.getD (BitVec.ofNat 64 (256 * lost.headD 0 + 2))) }
  let left := x.guard.replayLeft
  let y : Ctx := { x with a := { x.a with p := p }, guard := { x.guard with rerun := 0, replayLeft := [] } }
  s1.setCtxAt core ctx (left.foldl (fun y r => match r.what with | .signal .. | .fill .. => y.input r.what | _ => y) y)

/-- ROLLBACK: a detected error in a guarded segment; in a rerun it ends the core (R303, R304). -/
def execRollback (core ctx : Nat) (s : State) : Host.Outcome State Fault Refusal :=
  let x := s.ctxAt core ctx
  if !x.env.any LaunchEnv.guard || x.guard.point.isNone then .next s
  else if x.guard.rerun != 0 then .next (s.unsound core ctx)
  else if !(s.core core).snapped x.launch.lid then .next (s.unguarded core ctx)
  else .next (s.onCtx core ctx (fun s => s.unwind 1))

/-- CRC-32C: reflected polynomial 0x82F63B78, initial and final value all ones. -/
def crc32c (bs : List Byte) : W32 :=
  ~~~ (bs.foldl (fun c b => (List.range 8).foldl (fun c _ => if c.getLsbD 0 then (c >>> 1) ^^^ 0x82F63B78 else c >>> 1)
    (c ^^^ b.zeroExtend 32)) (0xFFFFFFFF : W32))

/-- A held effect as bytes: the spec gives a hold-buffer entry's size and no layout (log 21). -/
def HeldEff.bytes : HeldEff → List Byte
  | .store va bs => b8 va ++ bs
  | .send _ i scal hnd vreg mask q => encode i ++
      scal.flatMap (fun p => bytesOfNat 2 p.1 ++ b8 p.2) ++ hnd.flatMap (fun p => bytesOfNat 2 p.1 ++ bytesOfNat 32 p.2.toNat) ++
      vreg.flatMap (fun p => bytesOfNat 2 p.1 ++ bytesOfNat 64 p.2.toNat) ++
      mask.flatMap (fun p => bytesOfNat 2 p.1 ++ bytesOfNat 2 p.2.toNat) ++ bytesOfNat 4 (q.getD 0)

/-- What a rerun ends with: the CRC-32C of the held effects in issue order and then of the journaled chunks in increasing
address order (R303). -/
def State.rerunCrc (s : State) : W32 :=
  crc32c (s.cx.guard.hold.flatMap HeldEff.bytes ++ s.cx.guard.journal.flatMap (fun p => readBytes s.fcore.ls p.1 32))

/-- RERUN_COMPARE: the first rerun's end is kept and the second begins; the second's end is compared with it, in ACLK and CRC,
and the commit proceeds or the core is retired (R303, R304). -/
def execRerunCompare (core ctx : Nat) (s : State) : Host.Outcome State Fault Refusal :=
  let t := s.at' core ctx
  let g := t.cx.guard
  if !t.commitReady then .next s
  else if g.rerun = 1 then
    if !(s.core core).snapped t.cx.launch.lid then .next (s.unguarded core ctx)
    else .next (s.onCtx core ctx (fun s => (s.modCx (fun x => { x with guard := { x.guard with
      firstAclk := g.aclk, firstCrc := t.rerunCrc } })).unwind 2))
  else if g.rerun = 2 then
    if g.aclk = g.firstAclk && t.rerunCrc = g.firstCrc then
      .next ((s.logRollback core ctx false).onCtx core ctx State.commitNow)
    else .next (s.unsound core ctx)
  else .next s

/-- The commit, or the comparison in its place, that is due of some context. -/
def State.guardDue (s : State) : Option Event :=
  (s.cores.flatMap (fun p => p.2.ctxs.map (fun q => (p.1, q.1)))).findSome? (fun cn =>
    if (s.ctxAt cn.1 cn.2).guard.commitDue && (s.at' cn.1 cn.2).commitReady then
      some (if (s.ctxAt cn.1 cn.2).guard.rerun = 0 then .checkpointCommit cn.1 cn.2 else .rerunCompare cn.1 cn.2)
    else none)

end Sys2Proof.Machine
end

