-- ==== Sys2Proof/Machine/Gpf.lean ====
section
/-! DEFINITION. The translator of the Golzal portable form: ops, blocks, the placing of ops in bundles, and the packing of
bundles into lines (R81 to R88). -/

namespace Sys2Proof.Machine

open Sys2Proof

/-! Ops (R81, R82). -/

/-- An op: its class, its slot word with port subfields 0, and the instruction of the word. -/
structure Gop where
  cls : Nat
  word : Nat
  instr : Instr
  deriving DecidableEq, Repr

/-- The operand fields of an instruction, in the order in which ports are chosen: use, groups read, field, low bit of the
field in the slot word (R69, R86). -/
def gpfFields (i : Instr) : List (Use × BitVec 8 × BitVec 8 × Nat) :=
  match i with
  | .movp o => [(.single, o.readGroups, o.a, 13)]
  | .xgc o | .movv o => [(.single, groupBit o.gs.toNat, o.a, 13)]
  | .kmov o => if o.x.extractLsb' 0 2 = 1 then [(.single, o.readGroups, o.a, 13)] else []
  | .vst o => [(.single, o.g, o.v, 24)]
  | .vldx o => [(.single, o.g, o.idx, 6)]
  | .vstx o | .vatom o | .vred o => [(.single, o.g, o.v, 24), (.single, o.g, o.idx, 6)]
  | i =>
    match vShape i with
    | some (sh, o) => [(sh.a, o.g, o.a, 24), (sh.b, o.g, o.b, 16), (sh.c, o.g, o.c, 8)]
    | none => []

/-- The instruction of a slot word of a class (R81). -/
def gpfDecode (cls w : Nat) : Option Instr :=
  let r : Except Reject Instr := match cls with
    | 0 => decodeCtl (BitVec.ofNat 32 w)
    | 1 => decodeScb (BitVec.ofNat 32 w)
    | 2 => decodeVea (BitVec.ofNat 64 w)
    | 3 => decodeMov (BitVec.ofNat 32 w)
    | 4 => decodeMem (BitVec.ofNat 64 w)
    | _ => decodeEng (BitVec.ofNat 64 w)
  match r with
  | .ok i => if legal i && (gpfFields i).all (fun f => f.2.2.1.toNat % 4 == 0) then some i else none
  | .error _ => none

/-- The ops of an image; the index of the first that is GPF_ILL (R81, R83). -/
def gpfParse : Nat → Nat → List Byte → Except Nat (List Gop)
  | 0, n, bs => if bs.isEmpty then .ok [] else .error n
  | fuel + 1, n, bs =>
    if bs.isEmpty then .ok []
    else
      let w := field bs 0 8
      let v := natOfBytes (bs.take 8)
      let cls := v / 2 ^ 60
      let two := cls == 2 || cls == 4 || cls == 5
      let len := v / 2 ^ 58 % 4
      let used := if two then 16 else 8
      if bs.length < used || 5 < cls || len != (if two then 1 else 0) || v / 2 ^ 32 % 2 ^ 26 != 0 ||
        (two && w.extractLsb' 0 32 != 0) then .error n
      else
        let word := if two then natOfBytes ((bs.drop 8).take 8) else v % 2 ^ 32
        match gpfDecode cls word with
        | none => .error n
        | some i =>
          match gpfParse fuel (n + 1) (bs.drop used) with
          | .ok r => .ok ({ cls := cls, word := word, instr := i } :: r)
          | .error e => .error e

/-! What an op reads and writes (R85). A register is a number: scalars, handles, vector rows and masks by group, SFU ports
by group, system registers, and, so that R82's sequential meaning holds of them too, semaphores and the Frazil generators by
group (8 for those of the arrays): a semaphore's new value, and a generator's next state, is there in the next bundle
(R129, R131, R169, R210). -/

def gScal (r : BitVec 6) : List Nat := if r = 63 then [] else [r.toNat]
def gHnd (h : BitVec 5) : List Nat := [64 + h.toNat]
def gVec (gs : BitVec 8) (r : Nat) : List Nat := (groupList gs).map (fun g => 1000 + 64 * g + r)
def gMask (gs : BitVec 8) (k : Nat) : List Nat := if k = 0 then [] else (groupList gs).map (fun g => 2000 + 8 * g + k)
def gPort (gs : BitVec 8) (p : Nat) : List Nat := (groupList gs).map (fun g => 3000 + 8 * p + g)
def gSys (n : Nat) : List Nat := [5000 + n]
def gSem (n : BitVec 8) : List Nat := [7000 + n.toNat]
def gGen (gs : BitVec 8) : List Nat := (groupList gs).map (fun g => 8000 + g)
def gArrGen : List Nat := [8008]

/-- The semaphore and the generators that an op uses and changes (R129, R169, R312). -/
def gpfUsed (i : Instr) : List Nat :=
  match i with
  | .wait n _ | .post n _ | .waitp n _ _ => gSem n
  | .scall o => (if o.wthr = 0 then [] else gSem o.wsem) ++ gArrGen
  | .fadd o | .fsub o | .fmul o | .fma o | .fms o | .fnma o | .rndi o | .ftoi o | .itof o | .expins o | .cvtf o | .cvtn o
  | .cvtb o => if o.rm = 4 then gGen o.g else []
  | i => match engArgs i with
    | some o => if o.wthr = 0 then [] else gSem o.wsem
    | none => []

/-- The floating-point operations to which VMODE.FTZ has no meaning (R184, R186, R188 to R190, R193). -/
def gpfNoFtz : Instr → Bool
  | .itof _ | .faddx _ | .fsubx _ | .fmulx _ | .dwadd _ | .dwsub _ | .dwmul _ | .dwadds _ | .dwnorm _ | .dwtof _ | .rsumc _
  | .rsumi _ | .idotb _ | .idotn _ => true
  | _ => false

/-- The floating-point operations that raise no flag (R189, R193). -/
def gpfNoFlag : Instr → Bool
  | .rsumi _ | .idotb _ | .idotn _ => true
  | _ => false

/-- Scalars and handles that an ENG command names in P (R263 to R274, R310 to R314, R341, R352, R373, R374), and the
registers that SCALL copies (R312). -/
def gpfEngReads (i : Instr) : List Nat :=
  let f (o : EngArgs) (ss hs : List Nat) : List Nat :=
    ss.flatMap (fun p => gScal (BitVec.ofNat 6 (o.pf p 6))) ++ hs.flatMap (fun p => gHnd (BitVec.ofNat 5 (o.pf p 5)))
  match i with
  | .copy o => f o [8] [19, 14]
  | .copys o => f o [8, 2] [19, 14]
  | .rotq o => f o [] [19, 14]
  | .ask o | .announce o | .smload o | .darm o | .launch o | .launchi o | .flushh o => f o [] [19]
  | .seal o | .barr o | .bwait o | .btwait o => f o [18] []
  | .atom o => f o (if o.pf 2 4 = 12 then [18, 12, 6] else [18, 12]) []
  | .red o | .barrx o => f o [18, 12] []
  | .binit o => f o (if o.pf 11 1 = 0 then [18, 12] else [18]) []
  | .msub o => f o [13] [19]
  | .dput o => f o [13, 7] [19]
  | .scall _ => (List.range 8).flatMap (fun k => gSys (0x110 + k)) ++ gSys 0x081 ++ gSys 0x082
  | _ => []

/-- The registers that an op reads, but for those that it uses. -/
def gpfOperands (i : Instr) : List Nat :=
  let ports := (portReads i).flatMap (fun r => gVec r.groups r.reg)
  match i with
  | .brc sc _ _ => gScal sc
  | .jr r | .loop _ _ r | .mts r _ => gScal r
  | .ret => gScal 62
  | .acq a b _ k => gScal a ++ (if k = 2 then [] else gScal b)
  | .rel a b _ => gScal a ++ gScal b
  | .mfs _ n => gSys n.toNat
  | .addi _ a _ | .andi _ a _ | .ori _ a _ | .xori _ a _ | .shli _ a _ | .shri _ a _ | .srai _ a _ | .clz _ a | .popc _ a
  | .lds _ a _ _ | .ldf _ a _ _ => gScal a
  | .add _ a b | .sub _ a b | .and _ a b | .or _ a b | .xor _ a b | .shl _ a b | .shr _ a b | .sra _ a b | .mul _ a b
  | .mulh _ a b | .mulhu _ a b | .divs _ a b | .divu _ a b | .min _ a b | .max _ a b | .minu _ a b | .maxu _ a b
  | .slt _ a b | .sltu _ a b | .seq _ a b | .sne _ a b => gScal a ++ gScal b
  | .selz _ a b c => gScal a ++ gScal b ++ gScal c
  | .sts d a _ _ | .stf d a _ _ => gScal d ++ gScal a
  | .hset h r _ | .hadv h r _ => gHnd h ++ gScal r
  | .hget h _ _ => gHnd h
  | .htile h r t _ => gHnd h ++ gScal r ++ gScal t
  | .hname h r t fld => gHnd h ++ gScal r ++ (if fld = 2 then gScal t else [])
  | .movp o => ports ++ (if o.x.extractLsb' 1 3 = 0 then [] else gPort o.readGroups 1 ++ gSys 0x081)
  | .movr o => gPort o.readGroups 2
  | .kmov o => ports ++ (if o.x.extractLsb' 0 2 = 1 then [] else gMask o.readGroups (o.a.toNat % 8))
  | .kand o | .kor o => gMask o.readGroups (o.a.toNat % 8) ++ gMask o.readGroups (o.x.extractLsb' 0 3).toNat
  | .movs o | .srseed o => gScal (o.a.extractLsb' 0 6)
  | .reld o => gScal o.s
  | .vld o | .vst o | .vldx o | .vstx o | .ldg o | .ldr o | .vatom o | .vred o =>
    ports ++ gHnd o.h ++ gScal o.s ++ gMask o.g o.k.toNat
  | .fsel o => ports ++ gMask o.g o.k.toNat ++ gMask o.g (o.x.extractLsb' 0 3).toNat ++ gSys 0x081
  | .idotb o | .idotn o => ports ++ gMask o.g o.k.toNat ++ gSys 0x082
  | .cvtn o => ports ++ gMask o.g o.k.toNat ++ gSys 0x081 ++ (if (o.x.extractLsb' 0 3).toNat < 4 then [] else gSys 0x082)
  | i =>
    match vShape i with
    | some (_, o) => ports ++ gMask o.g o.k.toNat ++ (if usesFpPipe i && !gpfNoFtz i then gSys 0x081 else [])
    | none => ports ++ gpfEngReads i

/-- The registers that an op reads. -/
def gpfReads (i : Instr) : List Nat := gpfOperands i ++ gpfUsed i

/-- The registers that an op writes, with the latency of each, but for those that it uses. -/
def gpfResults (i : Instr) : List (Nat × Nat) :=
  let at' (n : Nat) (l : List Nat) : List (Nat × Nat) := l.map (fun r => (r, n))
  let sc (d : BitVec 6) : List (Nat × Nat) := at' (scalarLatency i) (gScal d)
  match i with
  | .call _ => at' 1 (gScal 62)
  | .waitp _ _ d | .mfs d _ | .hget _ d _ => at' 1 (gScal d)
  | .mts _ n => at' 1 (gSys n.toNat)
  | .acq _ b _ k => if k = 2 then at' 1 (gScal b) else []
  | .add d _ _ | .sub d _ _ | .addi d _ _ | .and d _ _ | .or d _ _ | .xor d _ _ | .andi d _ _ | .ori d _ _ | .xori d _ _
  | .shl d _ _ | .shr d _ _ | .sra d _ _ | .shli d _ _ | .shri d _ _ | .srai d _ _ | .mul d _ _ | .mulh d _ _
  | .mulhu d _ _ | .divs d _ _ | .divu d _ _ | .min d _ _ | .max d _ _ | .minu d _ _ | .maxu d _ _ | .slt d _ _
  | .sltu d _ _ | .seq d _ _ | .sne d _ _ | .selz d _ _ _ | .li d _ | .lui d _ | .clz d _ | .popc d _ | .lds d _ _ _
  | .ldf d _ _ _ => sc d
  | .hset h _ _ | .hadv h _ _ | .htile h _ _ _ | .hname h _ _ _ => at' 1 (gHnd h)
  | .sintf _ => at' 3 (gSys 0x082)
  | .movp o =>
    if o.x.extractLsb' 0 4 = 1 then at' 1 (gPort o.readGroups 1)
    else at' 1 (gPort o.readGroups 0) ++ (if o.x.extractLsb' 1 3 = 0 then [] else at' 14 (gPort o.readGroups 2))
  | .movr o | .movs o => at' 2 (gVec o.readGroups o.d.toNat)
  | .xgc o => at' 3 (gVec (if o.all then 0xFF else groupBit o.gd.toNat) o.d.toNat)
  | .pop o => at' 1 (gScal o.d ++ (if o.x.getLsbD 3 then [] else gScal (o.d + 1)))
  | .kmov o => if o.x.extractLsb' 0 2 = 2 then at' 2 (gVec o.readGroups o.d.toNat) else at' 1 (gMask o.readGroups (o.d.toNat % 8))
  | .kand o | .kor o => at' 1 (gMask o.readGroups (o.d.toNat % 8))
  | .movv o => at' 2 (gScal o.d)
  | .vld o | .vldx o => at' 6 (gVec o.g (opReg o.v))
  | .ldg o | .ldr o => at' o.lat.toNat (gVec o.g (opReg o.v))
  | i =>
    match vShape i with
    | some (sh, o) => at' sh.lat (match sh.dst with
      | .reg => gVec o.g o.d.toNat
      | .pair => gVec o.g o.d.toNat ++ gVec o.g (o.d.toNat + 1)
      | .mask => gMask o.g (o.d.toNat % 8))
    | none => []

/-- The registers that an op writes, with the latency of each. -/
def gpfWrites (i : Instr) : List (Nat × Nat) :=
  gpfResults i ++ (gpfUsed i ++ (match i with
    | .srseed o => (if o.x.getLsbD 0 then gGen 0xFF else []) ++ (if o.x.getLsbD 1 then gArrGen else [])
    | _ => [])).map (fun r => (r, 1))

/-- The latency with which an op ORs into VFLAGS, if it raises flags (R155, R158). -/
def gpfFlags (i : Instr) : Option Nat :=
  match i with
  | .movp o => if o.x.extractLsb' 1 3 = 0 then none else some 14
  | i => match vShape i with
    | some (sh, _) => if usesFpPipe i && !gpfNoFlag i then some sh.lat else none
    | none => none

/-- The writes of an op that R71 counts; those of a RELD are counted for every group of G. -/
def gpfPortWrites (i : Instr) : List PortWrite :=
  match i with
  | .reld o => [⟨o.g, 1, o.lat.toNat⟩]
  | i => portWrites i

/-- The control transfers (R84). -/
def gpfTransfer : Instr → Bool
  | .br _ | .brc .. | .jr _ | .call _ | .ret | .loop .. | .loopi .. | .lbrk | .eret | .halt => true
  | _ => false

/-- The ordered ops (R84). -/
def gpfOrdered (i : Instr) : Bool :=
  match i with
  | .pop _ | .wait .. | .post .. | .waitp .. | .yield | .ckpt | .trap _ | .fence _ | .acq .. | .rel .. | .mfs .. | .mts ..
  | .lds .. | .sts .. | .ldf .. | .stf .. => true
  | i => (memOp i).isSome || (engArgs i).isSome

/-! Placing the ops of a block (R85 to R87). Bundles are counted from the block's first. -/

/-- An op in its bundle: its index, its word with its ports, its slot and its port reads. -/
structure GPlaced where
  idx : Nat
  instr : Instr
  word : Nat
  b : Nat
  slot : Slot
  ports : List PortRead
  deriving DecidableEq, Repr

/-- The last bundle in which something of the op lands; the bundle after it where nothing does. -/
def GPlaced.land (p : GPlaced) : Nat :=
  p.b + max 1 (((gpfWrites p.instr).map Prod.snd ++ (gpfPortWrites p.instr).map PortWrite.lat ++ (gpfFlags p.instr).toList).foldl max 0)

/-- The slots that accept an op, the preferred first (R86). -/
def gpfSlots (o : Gop) : List Slot :=
  match o.cls with
  | 0 => [.ctl]
  | 1 => if o.word / 2 ^ 26 ≤ 0x21 then [.sca, .scb] else [.scb]
  | 2 => if (vShape o.instr).any (fun s => s.1.veb) then [.vea, .veb] else [.vea]
  | 3 => [.mov]
  | 4 => [.mem]
  | _ => [.eng]

/-- Ports for the fields of an op beside those in use: the fields' port reads and the word with its ports (R86). -/
def gpfPorts : List (Use × BitVec 8 × BitVec 8 × Nat) → List PortRead → List PortRead → Nat → Option (List PortRead × Nat)
  | [], _, own, w => some (own, w)
  | (u, g, f, pos) :: fs, used, own, w =>
    if u = .none then gpfPorts fs used own w
    else
      let reads (p : Nat) : List PortRead := fieldReads u g (f + BitVec.ofNat 8 p)
      match (if u = .pair then [0, 2] else [0, 1, 2, 3]).find? (fun p =>
        !(reads p).any (fun r => (used ++ own).any (portConflict r))) with
      | some p => gpfPorts fs used (own ++ reads p) (w + p * 2 ^ pos)
      | none => none

/-- Conditions 1, 3 and 4 of R85, and R87 for a transfer. -/
def gpfWhen (i : Instr) (ps : List GPlaced) (b : Nat) : Bool :=
  let rs := gpfReads i
  let ws := gpfWrites i
  let flags := gpfFlags i
  ps.all (fun p =>
    let pw := gpfWrites p.instr
    let pr := gpfReads p.instr
    let pf := gpfFlags p.instr
    (!gpfOrdered p.instr || p.b ≤ b) &&
    (!gpfTransfer i || (p.b ≤ b && p.land ≤ b + 1)) &&
    pw.all (fun w => !rs.contains w.1 || p.b + w.2 ≤ b) &&
    (pf.all (fun l => !rs.contains 5128 || p.b + l ≤ b)) &&
    ws.all (fun w => pw.all (fun x => x.1 != w.1 || p.b + x.2 < b + w.2) && (!pr.contains w.1 || p.b < b + w.2) &&
      (w.1 != 5128 || pf.all (fun l => p.b + l < b + w.2))) &&
    flags.all (fun l => pw.all (fun x => x.1 != 5128 || p.b + x.2 < b + l) && (!pr.contains 5128 || p.b < b + l)))

/-- Condition 7 of R85. -/
def gpfRoom (i : Instr) (ps : List GPlaced) (b : Nat) : Bool :=
  let all := (gpfPortWrites i).map (fun w => (b + w.lat, w)) ++
    ps.flatMap (fun p => (gpfPortWrites p.instr).map (fun w => (p.b + w.lat, w)))
  (gpfPortWrites i).all (fun w => (groupList w.groups).all (fun g =>
    ((all.filter (fun q => q.1 == b + w.lat && q.2.groups.getLsbD g)).map (fun q => q.2.count)).sum ≤ 3))

/-- The earliest bundle of an op, from b. -/
def gpfPlace (n : Nat) (o : Gop) (ps : List GPlaced) : Nat → Nat → Option GPlaced
  | 0, _ => none
  | fuel + 1, b =>
    let here := ps.filter (fun p => p.b == b)
    let slot := (gpfSlots o).find? (fun sl => !here.any (fun p => p.slot == sl))
    match slot, gpfPorts (gpfFields o.instr) (here.flatMap GPlaced.ports) [] o.word with
    | some sl, some (rs, w) =>
      if gpfWhen o.instr ps b && gpfRoom o.instr ps b &&
        !(gpfOrdered o.instr && here.any (fun p => gpfOrdered p.instr && sl.bit ≤ p.slot.bit)) then
        some { idx := n, instr := o.instr, word := w, b := b, slot := sl, ports := rs }
      else gpfPlace n o ps fuel (b + 1)
    | _, _ => gpfPlace n o ps fuel (b + 1)

/-- The bundles of a block: until every result has landed. -/
def gpfLength (ps : List GPlaced) : Nat := (ps.map GPlaced.land).foldl max 0

/-- Place ops in order. -/
def gpfBlock : List (Nat × Gop) → List GPlaced → List GPlaced
  | [], ps => ps
  | (n, o) :: r, ps =>
    match gpfPlace n o ps (gpfLength ps + 2) 0 with
    | some p => gpfBlock r (ps ++ [p])
    | none => ps

/-! Blocks (R84). -/

/-- The op that a branch or call goes to. -/
def gpfTarget (n : Nat) : Instr → Option Int
  | .br ofs | .call ofs => some (n + ofs.toInt)
  | .brc _ _ ofs => some (n + ofs.toInt)
  | _ => none

/-- The last op of a loop's body. -/
def gpfEnd (n : Nat) : Instr → Option Nat
  | .loop _ eo _ | .loopi _ eo _ => some (n + eo.toNat)
  | _ => none

/-- A target outside the image, or a body that does not end on an op after the loop's (R83). -/
def gpfBadTarget (count n : Nat) (i : Instr) : Bool :=
  (gpfTarget n i).any (fun t => t < 0 || (count : Int) ≤ t) || (gpfEnd n i).any (fun e => e = n || count ≤ e)

/-- The ops at which blocks begin. -/
def gpfStarts (ops : List (Nat × Gop)) (entries : List Nat) : List Nat :=
  0 :: entries ++ ops.flatMap (fun p =>
    (match gpfTarget p.1 p.2.instr with | some t => [t.toNat] | none => []) ++
    (match gpfEnd p.1 p.2.instr with | some e => [p.1 + 1, e + 1] | none => []) ++
    (if gpfTransfer p.2.instr then [p.1 + 1] else []))

/-- Cut the ops into blocks. -/
def gpfCut (starts : List Nat) : List (Nat × Gop) → List (List (Nat × Gop))
  | [] => []
  | p :: r =>
    match gpfCut starts r with
    | [] => [[p]]
    | b :: bs => if b.head?.any (fun q => starts.contains q.1) then [p] :: b :: bs else (p :: b) :: bs

/-! Packing (R88). -/

/-- A bundle or a run of a block, at its place: the block's first and last op, the place, and the ops or the run's
count. -/
structure GItem where
  first : Nat
  last : Nat
  pos : Nat
  ops : List GPlaced
  run : Nat
  deriving DecidableEq, Repr

def GItem.size (i : GItem) : Nat := if i.ops.isEmpty then 2 else 1 + (i.ops.map (fun p => p.slot.bytes)).sum

/-- Ops of one bundle in header-bit order. -/
def inSlots (ps : List GPlaced) : List GPlaced := allSlots.filterMap (fun sl => ps.find? (fun p => p.slot == sl))

/-- Empty bundles as runs of at most 255, longest first. -/
def gpfRuns (first last : Nat) : Nat → Nat → List GItem
  | 0, _ => []
  | fuel + 1, n =>
    if n = 0 then []
    else { first := first, last := last, pos := 0, ops := [], run := min n 255 } :: gpfRuns first last fuel (n - 255)

/-- The bundles and runs of a block, not placed yet: empty is how many empty bundles stand before bundle b. -/
def gpfItems (first last : Nat) (ps : List GPlaced) : Nat → Nat → Nat → List GItem
  | 0, _, empty => gpfRuns first last (empty + 1) empty
  | fuel + 1, b, empty =>
    let here := ps.filter (fun p => p.b == b)
    if here.isEmpty then gpfItems first last ps fuel (b + 1) (empty + 1)
    else
      let i : GItem := { first := first, last := last, pos := 0, ops := inSlots here, run := 0 }
      gpfRuns first last (empty + 1) empty ++ (i :: gpfItems first last ps fuel (b + 1) 0)

/-- The first byte for something of a size, or for an entry's block. -/
def gpfPos (pos size : Nat) (entry : Bool) : Nat :=
  if pos % 64 != 0 && (entry || 64 < pos % 64 + size) then (pos / 64 + 1) * 64 else pos

/-- Give every bundle and run its place; the first of an entry's block starts a line. -/
def gpfLayout (entries : List Nat) : List GItem → Option Nat → Nat → List GItem
  | [], _, _ => []
  | i :: r, prev, pos =>
    let p := gpfPos pos i.size (prev != some i.first && entries.contains i.first)
    { i with pos := p } :: gpfLayout entries r (some i.first) (p + i.size)

/-- Where the block that begins at an op stands. -/
def gpfAt (items : List GItem) (op : Nat) : Nat := ((items.find? (fun i => i.first == op)).map GItem.pos).getD 0

/-- Where the last bundle or run of the block that ends with an op stands. -/
def gpfLastAt (items : List GItem) (op : Nat) : Nat := (((items.filter (fun i => i.last == op)).getLast?).map GItem.pos).getD 0

/-- A translated loop body is too long (R83, R124). -/
def gpfLong (items : List GItem) (at' : Nat) (p : GPlaced) : Bool :=
  match gpfEnd p.idx p.instr with
  | some e => 256 < items.countP (fun i => at' < i.pos && i.pos ≤ gpfLastAt items e)
  | none => false

/-- A word with its OFS or END as byte offsets; none where it does not fit (R83, R88). -/
def gpfPatch (items : List GItem) (at' : Nat) (p : GPlaced) : Option Nat :=
  let ofs (n : Nat) : Option Int :=
    match gpfTarget p.idx p.instr with
    | some t =>
      let d := (gpfAt items t.toNat : Int) - at'
      if -(2 ^ (n - 1)) ≤ d && d < 2 ^ (n - 1) then some d else none
    | none => none
  let eo : Option Nat := (gpfEnd p.idx p.instr).bind (fun e =>
    let d := gpfLastAt items e - at'
    if d < 2 ^ 14 then some d else none)
  match p.instr with
  | .br _ => (ofs 26).map (fun d => (encode32 (.br (BitVec.ofInt 26 d))).toNat)
  | .call _ => (ofs 26).map (fun d => (encode32 (.call (BitVec.ofInt 26 d))).toNat)
  | .brc c k _ => (ofs 17).map (fun d => (encode32 (.brc c k (BitVec.ofInt 17 d))).toNat)
  | .loop l _ r => eo.map (fun d => (encode32 (.loop l (BitVec.ofNat 14 d) r)).toNat)
  | .loopi l _ n => eo.map (fun d => (encode32 (.loopi l (BitVec.ofNat 14 d) n)).toNat)
  | _ => some p.word

/-- The bytes of a bundle or run. -/
def gpfBytes (items : List GItem) (i : GItem) : List Byte :=
  if i.ops.isEmpty then [0, BitVec.ofNat 8 (i.run - 1)]
  else BitVec.ofNat 8 ((i.ops.map (fun p => 2 ^ p.slot.bit)).sum) ::
    i.ops.flatMap (fun p => bytesOfNat p.slot.bytes ((gpfPatch items i.pos p).getD 0))

/-- The bytes from a place on, with line pads between (R88). -/
def gpfEmit (items : List GItem) : List GItem → Nat → List Byte
  | [], _ => []
  | i :: r, pos =>
    let gap := i.pos - pos
    (if gap = 0 then [] else if gap = 1 then [0] else 0 :: 0xFF :: List.replicate (gap - 2) 0) ++
      gpfBytes items i ++ gpfEmit items r (i.pos + i.size)

/-- The translation of an image whose entry points are given: its native code and the place of each block by its first op,
or the status and the op index (R83). -/
def gpfTranslate (image : List Byte) (entries : List Nat) : Except (Nat × Nat) (List Byte × List (Nat × Nat)) :=
  match gpfParse (image.length / 8 + 1) 0 image with
  | .error n => .error (0xA, n)
  | .ok ops0 =>
    let ops := ops0.zipIdx.map (fun p => (p.2, p.1))
    match ops.find? (fun p => gpfBadTarget ops.length p.1 p.2.instr) with
    | some p => .error (0xB, p.1)
    | none =>
      let blocks := gpfCut (gpfStarts ops entries) ops
      let raw := blocks.flatMap (fun b =>
        let ps := gpfBlock b []
        gpfItems ((b.head?.map Prod.fst).getD 0) ((b.getLast?.map Prod.fst).getD 0) ps (gpfLength ps) 0 0)
      let items := gpfLayout entries raw none 0
      let each := items.flatMap (fun i => i.ops.map (fun p => (i.pos, p)))
      let least (q : Nat × GPlaced → Bool) : Option Nat := Machine.least ((each.filter q).map (fun x => x.2.idx))
      match least (fun x => gpfLong items x.1 x.2) with
      | some n => .error (0xC, n)
      | none =>
        match least (fun x => (gpfPatch items x.1 x.2).isNone) with
        | some n => .error (0xD, n)
        | none => .ok (gpfEmit items items 0, blocks.filterMap (fun b => b.head?.map (fun p => (p.1, gpfAt items p.1))))

end Sys2Proof.Machine
end

