-- ==== Sys2Proof/Machine/Load.lean ====
section
/-! DEFINITION. The loader: the checks of a CGVO object (R101 to R106, R109), placement (R110), relocation and the bytes it
writes (R111), the load record (R412), and unloading (R112). -/

namespace Sys2Proof.Machine

open Sys2Proof

/-! Symbols, names, relocations (R104 to R106). -/

/-- Fixed-size entries of a section. -/
def entriesOf (bs : List Byte) (n : Nat) : List (List Byte) := (List.range (bs.length / n)).map (fun i => (bs.drop (n * i)).take n)

structure Sym where
  value : Nat
  sect : Nat
  kind : Nat
  entry : Bool
  deriving DecidableEq, Repr

def symOf (e : List Byte) : Sym :=
  { value := recField e 0 8, sect := recField e 8 2, kind := recField e 10 1, entry := recField e 11 1 == 1 }
def symbols (o : List Byte) : List Sym := (entriesOf (sectOf o 0xC) 32).map symOf

/-- A name of 1 to 16 ASCII characters, padded with 0 (R98, R105). -/
def nameOk (bs : List Byte) : Bool :=
  let body := bs.takeWhile (fun b => b != 0)
  !body.isEmpty && body.all (fun b => b.toNat < 128) && (bs.drop body.length).all (fun b => b == 0)

def symEntryOk (nsect : Nat) (e : List Byte) : Bool :=
  (recField e 8 2 < nsect || recField e 8 2 == 0xFFFF) && recField e 10 1 ≤ 11 && recField e 11 1 ≤ 1 && nameOk (e.drop 16)

/-- Tensor ids of the name table. -/
def tensorsOf (o : List Byte) : List Nat := (entriesOf (sectOf o 0xA) 16).map (fun e => recField e 0 3)

def nameEntryOk (nsym : Nat) (e : List Byte) : Bool :=
  recField e 4 4 < nsym && recField e 3 1 == 0 && recField e 0 3 != 0 && recField e 8 8 == 0

structure Reloc where
  off : Nat
  sym : Nat
  sect : Nat
  kind : Nat
  addend : Nat
  deriving DecidableEq, Repr

def relocOf (e : List Byte) : Reloc :=
  { off := recField e 0 8, sym := recField e 8 4, sect := recField e 12 2, kind := recField e 14 1, addend := recField e 16 8 }
def relocs (o : List Byte) : List Reloc := (entriesOf (sectOf o 0xD) 24).map relocOf
def Reloc.size (r : Reloc) : Nat := if r.kind = 2 then 4 else 8

/-- A relocation names its section, symbol and kind, and its field lies inside and is zero (R106, R109 step 8). -/
def relocOk (o : List Byte) (nsym : Nat) (e : List Byte) : Bool :=
  let r := relocOf e
  match (sections o)[r.sect]? with
  | none => false
  | some s =>
    let f := recField (sectBytes o s) r.off r.size
    s.type != 0xC && s.type != 0xD && s.type != 0xF && r.sym < nsym && 1 ≤ r.kind && r.kind ≤ 5 && recField e 15 1 == 0 &&
    r.off + r.size ≤ s.size && (if r.kind = 4 then f % 2 ^ 57 == 0 else f == 0)

/-! Data records (R103). -/

/-- Records in increasing order, apart, with padding of zeros: their offsets and bytes. -/
def dataRecords (limit : Nat) : Nat → Nat → List Byte → Option (List (Nat × List Byte))
  | 0, _, _ => some []
  | fuel + 1, from', bs =>
    if bs.isEmpty then some []
    else
      let a := recField bs 0 8
      let n := recField bs 8 4
      let kind := recField bs 12 4
      let body := bs.drop 16
      let pad := (n + 7) / 8 * 8
      if bs.length < 16 || n = 0 || a < from' || limit < a + n || 2 ≤ kind || (kind = 0 && body.length < pad) then none
      else if kind = 1 then (dataRecords limit fuel (a + n) body).map (fun r => (a, List.replicate n 0) :: r)
      else if ((body.take pad).drop n).any (fun b => b != 0) then none
      else (dataRecords limit fuel (a + n) (body.drop pad)).map (fun r => (a, body.take n) :: r)

def recordsOf (limit : Nat) (bs : List Byte) : Option (List (Nat × List Byte)) := dataRecords limit (bs.length / 16 + 1) 0 bs

/-- Offsets within the Firn and HBM images have no limit of their own: an image that is too long fails at placement. -/
def imageRecords (bs : List Byte) : Option (List (Nat × List Byte)) := recordsOf (2 ^ 65) bs

/-- LSNEED of a launch record of the image. -/
def lsneedOf (o : List Byte) (i : Nat) : Nat := recLsneed (((sectOf o 0xB).drop (128 * i)).take 128)

/-- Step 9 of R109. -/
def recordsOk (o : List Byte) : Bool :=
  (sections o).all (fun s =>
    if s.type = 3 then (recordsOf (lsneedOf o s.info) (sectBytes o s)).isSome
    else if s.type = 4 || s.type = 5 then (imageRecords (sectBytes o s)).isSome
    else true)

/-! Regions (R110). -/

/-- A region to map: its section, its bytes as runs, its size, whether Firn backs it, and its permissions X, W, R. -/
structure Want where
  sect : Nat
  runs : List (Nat × List Byte)
  size : Nat
  firn : Bool
  perm : Nat
  deriving DecidableEq, Repr

/-- The highest byte of some runs, rounded up to 64 KiB. -/
def regionSize (runs : List (Nat × List Byte)) : Nat :=
  ((runs.map (fun r => r.1 + r.2.length)).foldl max 0 + 65535) / 65536 * 65536

/-- What a section is mapped as: backing and access; the translated code takes the place of GPF words. -/
def wantOf (o code : List Byte) (i : Nat) (s : Sect) : Option Want :=
  let bs := sectBytes o s
  let mk (runs : List (Nat × List Byte)) (firn : Bool) (perm : Nat) : Option Want :=
    let n := regionSize runs
    if n = 0 then none else some { sect := i, runs := runs, size := n, firn := firn, perm := perm }
  match s.type with
  | 1 | 2 => mk [(0, code)] false 5
  | 3 => mk [(0, bs)] false 1
  | 4 => mk ((imageRecords bs).getD []) true 3
  | 5 => mk ((imageRecords bs).getD []) false 3
  | 6 | 7 => mk [(0, bs)] false 1
  | 8 => mk [(0, bs)] true 3
  | 9 | 0xB => mk [(0, bs)] false 3
  | _ => none

def wants (o code : List Byte) : List Want := ((sections o).zipIdx).filterMap (fun p => wantOf o code p.2 p.1)

/-! What stands already: the tables that translation reads, and the pages that they map (R402 to R404). -/

/-- Valid entries of a table of n entries: the index and the entry. -/
def State.entriesIn (s : State) (t n : Nat) : List (Nat × Nat) :=
  (s.mem.filter (fun c => t ≤ c.1 && c.1 < t + 8 * n && c.1 % 8 == 0 && c.2.getLsbD 0)).map (fun c =>
    ((c.1 - t) / 8, readNat s.mem c.1 8))

/-- A table, or a page that an address space maps: where it is mapped, the memory behind it, its size. -/
structure Span where
  va : Option Nat
  dpa : Nat
  size : Nat
  deriving DecidableEq, Repr

/-- Tables and pages from a table on: at each level the address bits below an entry, the entries, and whether a leaf may
stand there. -/
def State.spansFrom (s : State) : List (Nat × Nat × Bool) → Nat → Nat → List Span
  | [], _, _ => []
  | (shift, n, leafOk) :: ls, t, va =>
    { va := none, dpa := t, size := 8 * n } :: (s.entriesIn t n).flatMap (fun e =>
      let a := e.2 / 2 ^ 8 % 2 ^ 40 * 256
      let v := va + e.1 * 2 ^ shift
      if leafOk && e.2 / 2 % 2 = 1 then [{ va := some v, dpa := a, size := 2 ^ shift }] else s.spansFrom ls a v)

/-- The levels of the walk. -/
def spanLevels : List (Nat × Nat × Bool) := [(39, 2 ^ 18, false), (30, 512, true), (21, 512, true), (16, 32, true)]

/-- The root table of an ASID whose translation context is valid. -/
def State.rootAt (s : State) (asid : Nat) : Option Nat :=
  let v := s.reg64 (Config.xlatCtxDpa + 16 * asid)
  if v % 2 = 1 then some (v / 2 ^ 21 % 2 ^ 27 * 2 ^ 21) else none

/-- Tables and pages of an ASID; addresses as sign-extended from 57 bits. -/
def State.spansOf (s : State) (asid : Nat) : List Span :=
  ((s.rootAt asid).elim [] (fun root => s.spansFrom spanLevels root 0)).map (fun x =>
    { x with va := x.va.map (fun v => if v < 2 ^ 56 then v else v + (2 ^ 64 - 2 ^ 57)) })

/-- ASIDs whose translation context is valid. -/
def State.asids (s : State) : List Nat :=
  (s.regs.filter (fun c => Config.xlatCtxDpa ≤ c.1 && c.1 < Config.xlatCtxDpa + 16 * 65536 && c.1 % 16 == 0 && c.2.getLsbD 0)).map
    (fun c => (c.1 - Config.xlatCtxDpa) / 16)

/-- The memory behind a DPA: this device's own where the remote range names it (R47). -/
def ownDpa (a : Nat) : Nat :=
  match regionOf a with
  | .remote p off => if panelTdev p = ownTdev then off else a
  | _ => a

/-- This device's memory that a launch reaches without a mapping of it: through the receive windows with their tail words,
and through the windows of the groups (R369, R376). -/
def State.windowMem (s : State) : List (Nat × Nat) :=
  ((List.range 16).map (s.recvWin ownTdev)).flatMap (fun w => if w.valid then [(w.base, w.size), (w.tail, 8)] else []) ++
  ((s.groups.map (fun c => c.1 / 32)).eraseDups.map s.group).flatMap (fun e =>
    if e.valid && e.members.getLsbD Config.devId.toNat then [(e.apbase, e.size)] else [])

/-- Memory that a load may not take: the regions of the images, every translation table, and what a launch that runs can
reach (R112). -/
def State.takenMem (s : State) : List (Nat × Nat) :=
  s.images.flatMap (fun i => i.regions.map (fun m => (m.dpa, m.size))) ++
  s.asids.flatMap (fun x => ((s.spansOf x).filter (fun m =>
    m.va.isNone || s.launches.any (fun p => p.2.asid.toNat == x))).map (fun m => (ownDpa m.dpa, m.size))) ++
  (if s.launches.isEmpty then [] else s.windowMem)

/-- A place that the device chooses: the first, if it fits, else a fitting one next to what stands already. Where any place
fits, one of these does. -/
def placeIn (choice base align : Nat) (spans : List (Nat × Nat)) (ok : Nat → Bool) : Option Nat :=
  (choice :: base :: spans.map (fun p => (p.1 + p.2 + align - 1) / align * align)).find? ok

/-- A range lies apart from spans. -/
def clearOf (a n : Nat) (spans : List (Nat × Nat)) : Bool := spans.all (fun p => p.1 + p.2 ≤ a || a + n ≤ p.1)

/-- A new table of zeros, at a place in HBM that the loader chooses, apart from what is taken. -/
def State.newTable (s : State) (own : List (Nat × Nat)) (size : Nat) : Option (Nat × State) :=
  let spans := own ++ s.takenMem
  (placeIn (Config.placeTable s.free) 0 size spans (fun a => a % size == 0 && a + size ≤ Config.hbmEnd && clearOf a size spans)).map
    (fun a => (a, ({ s with free := s.free + 1 }).publish a (List.replicate size 0)))

/-- Levels with a next table: the address bits below an entry, its index bits, and the size of the next table. -/
def levelShift : List (Nat × Nat × Nat) := [(39, 18, 4096), (30, 9, 4096), (21, 9, 256)]

/-- Enter a 64 KiB page: tables that are missing are added; none where a leaf stands in the way. -/
def State.mapFrom (s : State) (own : List (Nat × Nat)) (va leaf : Nat) : List (Nat × Nat × Nat) → Nat → Option State
  | [], t =>
    let a := t + 8 * (va / 2 ^ 16 % 32)
    if readNat s.mem a 8 % 2 = 1 then none else some (s.publish a (bytesOfNat 8 leaf))
  | (shift, bits, size) :: ls, t =>
    let a := t + 8 * (va / 2 ^ shift % 2 ^ bits)
    let e := readNat s.mem a 8
    if e % 2 = 1 then
      if e / 2 % 2 = 1 then none else s.mapFrom own va leaf ls (e / 2 ^ 8 % 2 ^ 40 * 256)
    else match s.newTable own size with
      | none => none
      | some (n, s1) => (s1.publish a (bytesOfNat 8 (n + 1))).mapFrom own va leaf ls n

/-- The root table of an ASID, added with its translation context where that is not valid (R402). -/
def State.rootOf (s : State) (own : List (Nat × Nat)) (asid : Nat) : Option (Nat × State) :=
  match s.rootAt asid with
  | some root => some (root, s)
  | none => (s.newTable own (2 ^ 21)).map (fun p => (p.1, p.2.setReg64 (Config.xlatCtxDpa + 16 * asid) (p.1 + 1)))

/-- Map a region, page by page. -/
def State.mapPages (s : State) (own : List (Nat × Nat)) (asid va dpa perm : Nat) : Nat → Option State
  | 0 => some s
  | n + 1 =>
    match s.rootOf own asid with
    | none => none
    | some (root, s1) =>
      match s1.mapFrom own va (dpa + perm * 4 + 3) levelShift root with
      | none => none
      | some s2 => s2.mapPages own asid (va + 65536) (dpa + 65536) perm n

/-- The addresses that an ASID maps, and the regions of its images. -/
def State.takenVa (s : State) (asid : Nat) : List (Nat × Nat) :=
  (s.spansOf asid).filterMap (fun m => m.va.map (fun v => (v, m.size))) ++
  (s.images.filter (fun i => i.asid.toNat == asid)).flatMap (fun i => i.regions.map (fun m => (m.va, m.size)))

/-- A base for a region: aligned, within one half of the canonical addresses, and clear of every mapping of the ASID (R110). -/
def State.placeBase (s : State) (asid size : Nat) : Option Nat :=
  let spans := s.takenVa asid
  let ok (va : Nat) : Bool :=
    va % 65536 == 0 && (va + size ≤ 2 ^ 56 || (2 ^ 64 - 2 ^ 56 ≤ va && va + size ≤ 2 ^ 64)) && clearOf va size spans
  (placeIn (Config.placeVa s.free) 0 65536 spans ok).or (if ok (2 ^ 64 - 2 ^ 56) then some (2 ^ 64 - 2 ^ 56) else none)

/-- Memory behind a region: in Firn or in HBM, and clear of what is taken (R110, R112). -/
def State.backing (s : State) (own : List (Nat × Nat)) (w : Want) : Option Nat :=
  let spans := own ++ s.takenMem
  let base := if w.firn then Config.firnBase else 0
  let top := if w.firn then Config.firnEnd else Config.hbmEnd
  placeIn (Config.placeDpa s.free) base 65536 spans (fun a =>
    a % 65536 == 0 && base ≤ a && a + w.size ≤ top && clearOf a w.size spans)

/-- Place the regions in order: each at a base that the loader chooses (R110). -/
def State.place (s : State) (asid : Nat) : List Want → List Mapped → Option (List Mapped × State)
  | [], done => some (done, s)
  | w :: ws, done =>
    let own := done.map (fun m => (m.dpa, m.size))
    match s.placeBase asid w.size, s.backing own w with
    | some va, some dpa =>
      match ({ s with free := s.free + 1 }).mapPages (own ++ [(dpa, w.size)]) asid va dpa w.perm (w.size / 65536) with
      | none => none
      | some s1 => s1.place asid ws (done ++ [{ va := va, dpa := dpa, size := w.size }])
    | _, _ => none

/-! Relocation (R106, R110). -/

/-- The base of the region that a section is mapped into. -/
def baseOf (ws : List Want) (ms : List Mapped) (sect : Nat) : Option Nat :=
  ((ws.zip ms).find? (fun p => p.1.sect == sect)).map (fun p => p.2.va)

/-- The byte offset of a code symbol; for GPF the bundle of its block (R106). -/
def codeOff (gpf : Option (List (Nat × Nat))) (v : Nat) : Option Nat :=
  match gpf with
  | none => some v
  | some t => tfind t v

/-- The value of a relocation; none where step 12 refuses it. A symbol of a section that is mapped into no region takes 0 for
the base of its region (R106, DESIGN CHOICE, log 34). -/
def relocValue (o : List Byte) (ws : List Want) (ms : List Mapped) (gpf : Option (List (Nat × Nat))) (r : Reloc) : Option Nat :=
  let ss := sections o
  let sym := (symbols o).getD r.sym { value := 0, sect := 0xFFFF, kind := 0, entry := false }
  let ty := ((ss[sym.sect]?).map Sect.type).getD 0
  let code := ty == 1 || ty == 2
  let base := (baseOf ws ms sym.sect).getD 0
  let m64 (v : Nat) : Nat := (v + r.addend) % 2 ^ 64
  let a : Option Nat :=
    if sym.sect = 0xFFFF || ty = 3 then some sym.value
    else if code then (codeOff gpf sym.value).map (fun x => base + x) else some (base + sym.value)
  match r.kind with
  | 1 => a.map m64
  | 2 => a.bind (fun v => if m64 v < 2 ^ 32 then some (m64 v) else none)
  | 3 => if code then (codeOff gpf sym.value).map m64 else none
  | 4 => a.bind (fun v => if canonical (BitVec.ofNat 64 (m64 v)) then some (m64 v) else none)
  | _ => if sym.sect = 0xFFFF then none else some (m64 base)

/-- Where a byte of a data section lies in its image: a record's bytes lie at its ADDR (R103). -/
def recordAt : Nat → Nat → List Byte → Nat → Option Nat
  | 0, _, _, _ => none
  | fuel + 1, pos, bs, off =>
    if bs.length < 16 then none
    else
      let n := if recField bs 12 4 = 0 then (recField bs 8 4 + 7) / 8 * 8 else 0
      if pos + 16 ≤ off && off < pos + 16 + n then some (recField bs 0 8 + (off - (pos + 16)))
      else recordAt fuel (pos + 16 + n) (bs.drop (16 + n)) off

/-! A load (R109 to R111, R411, R412). -/

/-- How a load ends: its status and detail, or the image with its bases. -/
structure Loaded where
  status : Nat
  detail : Nat
  bases : List Nat
  deriving DecidableEq, Repr

def failed (st detail : Nat) : Loaded := { status := st, detail := detail, bases := List.replicate 8 0 }

/-- The sections whose bases a load record gives, in its order (R412). -/
def baseTypes : List (List Nat) := [[1, 2], [4], [5], [6], [7], [8], [9], [0xB]]

/-- Steps 1 to 9 of R109: the status and detail of the first that fails. -/
def State.loadChecks (s : State) (o : List Byte) (asid : BitVec 16) : Option (Nat × Nat) :=
  if !headerOk o then some (1, 0)
  else if !sectionsOk o then some (2, 0)
  else
    let k := s.nun.key (objField o 0x1C 1)
    if 8 ≤ objField o 0x1C 1 || !keyEnrolled k then some (3, 0)
    else
      let both := sigBlock (keyEc k) (keyLms k) (objDigest o) (sectOf o 0xF)
      let gpf := countType (sections o) 2 == 1
      let ts := tensorsOf o
      let syms := entriesOf (sectOf o 0xC) 32
      if !both.1 || !both.2 then some (4, (if both.1 then 0 else 1) + (if both.2 then 0 else 2))
      else if objField o 0x14 4 < keyMinsec k then some (5, 0)
      else if objField o 8 4 != 0x0F02 then some (6, 0)
      else if (if gpf then objField o 0xC 4 != 1 || s.xlatVer < objField o 0x10 4
        else objField o 0xC 4 != 0 || objField o 0x10 4 != 0) then some (7, 0)
      else if !(wholeEntries (sections o) 0xA 16 && wholeEntries (sections o) 0xC 32 && wholeEntries (sections o) 0xD 24) then
        some (8, 0)
      else if !(syms.all (symEntryOk (sections o).length) && (entriesOf (sectOf o 0xA) 16).all (nameEntryOk syms.length) &&
        (entriesOf (sectOf o 0xD) 24).all (relocOk o syms.length)) then some (8, 0)
      else if !(decide ts.Nodup) || ts.any (fun t => s.images.any (fun i => i.asid == asid && i.tensors.contains t)) then some (9, 0)
      else if !recordsOk o then some (2, 0)
      else none

/-- The code as loaded, and for GPF the byte offset of each block's first op; or the status and op index (R83). -/
def codeOf (o : List Byte) : Except (Nat × Nat) (List Byte × Option (List (Nat × Nat))) :=
  if countType (sections o) 2 = 1 then
    match gpfTranslate (sectOf o 2) ((symbols o).filterMap (fun y =>
      if y.entry && ((sections o)[y.sect]?).any (fun t => t.type == 2) then some y.value else none)) with
    | .ok (bs, t) => .ok (bs, some t)
    | .error e => .error e
  else .ok (sectOf o 1, none)

/-- The offset of a field within its region, where its section's bytes are mapped: a field in GPF words or in the header of a
data record has no place in a region, and its relocation writes nothing (R106, DESIGN CHOICE, log 34). -/
def fieldAt (o : List Byte) (r : Reloc) : Option Nat :=
  match (sections o)[r.sect]? with
  | none => none
  | some t =>
    if t.type = 4 || t.type = 5 then recordAt (t.size / 16 + 1) 0 (sectBytes o t) r.off
    else if t.type = 2 then none else some r.off

/-- The regions are written: zeros, then their bytes, then the relocated fields (R110, R111). -/
def State.writeImage (s : State) (o : List Byte) (ws : List Want) (ms : List Mapped) (vals : List (Reloc × Nat)) : State :=
  let s1 := (ws.zip ms).foldl (fun s p =>
    p.1.runs.foldl (fun s r => s.publish (p.2.dpa + r.1) r.2) (s.publish p.2.dpa (List.replicate p.2.size 0))) s
  vals.foldl (fun s q =>
    match (ws.zip ms).find? (fun p => p.1.sect == q.1.sect), fieldAt o q.1, (sections o)[q.1.sect]? with
    | some p, some off, some t =>
      let f := recField (sectBytes o t) q.1.off q.1.size
      s.publish (p.2.dpa + off) (bytesOfNat q.1.size (if q.1.kind = 4 then f / 2 ^ 57 * 2 ^ 57 + q.2 % 2 ^ 57 else q.2))
    | _, _, _ => s) s1

/-- A load of an object into an ASID. -/
def State.load (s : State) (o : List Byte) (asid : BitVec 16) : Loaded × State :=
  match s.loadChecks o asid with
  | some (st, d) => (failed st d, s)
  | none =>
    match codeOf o with
    | .error (st, i) => (failed st i, s)
    | .ok (code, gpf) =>
      let ws := wants o code
      match s.place asid.toNat ws [] with
      | none => (failed 0xE 0, s)
      | some (ms, s1) =>
        let rs := relocs o
        let vals := rs.filterMap (fun r => (relocValue o ws ms gpf r).map (fun v => (r, v)))
        if vals.length != rs.length then (failed 8 0, s)
        else
          let ss := sections o
          let bases := baseTypes.map (fun ts =>
            match ss.findIdx? (fun t => ts.contains t.type) with | some i => (baseOf ws ms i).getD 0 | none => 0)
          let img : Image := { asid := asid, bases := bases, regions := ms, tensors := tensorsOf o, digest := objDigest o }
          ({ status := 0, detail := 0, bases := bases }, { s1.writeImage o ws ms vals with images := s.images ++ [img] })

/-- The load record is written, then V becomes 0; the load is logged (R412, R424). -/
def State.loadRecord (s : State) (slot : Nat) (l : Loaded) (imgver : Nat) : State :=
  let a := loadSlot slot
  let asid := readNat s.mem (a + 4) 2
  let rec' := bytesOfNat 4 l.status ++ bytesOfNat 4 l.detail ++ bytesOfNat 4 imgver ++ bytesOfNat 4 0 ++
    l.bases.flatMap (bytesOfNat 8) ++ List.replicate 16 0
  let s1 := s.publish (a + 0x20) rec'
  (s1.publish a [tget 0 s1.mem a &&& 0xFE]).log 0x3FF 0x0002 ([BitVec.ofNat 8 l.status, 0] ++ bytesOfNat 2 asid ++ bytesOfNat 4 imgver)

/-- The load slot whose V was set first of those that wait (R112, R411). -/
def State.loadNext (s : State) : Option Nat :=
  (s.doorbells.find? (fun a => launchSlot 256 ≤ a)).map (fun a => (a - launchSlot 256) / 128)

/-- A load slot is the next in line, and its UNLOAD is as given (R411). -/
def State.asks (s : State) (slot : Nat) (unload : Bool) : Bool :=
  let a := loadSlot slot
  s.loadNext == some slot && (tget 0 s.mem a).getLsbD 0 && (tget 0 s.mem (a + 6)).getLsbD 0 == unload && s.admits && s.nun.op == 0

/-- A slot's reserved bits (R411). -/
def State.slotReserved (s : State) (slot : Nat) : Bool :=
  let a := loadSlot slot
  readNat s.mem a 4 / 2 != 0 || readNat s.mem (a + 4) 4 / 2 ^ 17 != 0 || readNat s.mem (a + 0x18) 8 != 0

/-- LOAD_REQUEST (R109, R411). -/
def execLoadRequest (slot : Nat) (s : State) : Host.Outcome State Fault Refusal :=
  if !s.asks slot false then .next s
  else
    let a := loadSlot slot
    let obj := readNat s.mem (a + 8) 8
    let len := readNat s.mem (a + 16) 8
    if s.slotReserved slot || !hbmObject obj len then .next (s.loadRecord slot (failed 1 0) 0)
    else
      let o := readBytes s.mem obj len
      let (l, s1) := s.load o (BitVec.ofNat 16 (readNat s.mem (a + 4) 2))
      .next (s1.loadRecord slot l (objField o 0x18 4))

/-- The address of the level-1 entry of a page (R402 to R404). -/
def State.pteAt (s : State) (asid va : Nat) : Option Nat :=
  let root := s.reg64 (Config.xlatCtxDpa + 16 * asid)
  if root % 2 = 0 then none
  else
    let e3 := readNat s.mem (root / 2 ^ 21 % 2 ^ 27 * 2 ^ 21 + 8 * (va / 2 ^ 39 % 2 ^ 18)) 8
    let e2 := readNat s.mem (e3 / 256 % 2 ^ 40 * 256 + 8 * (va / 2 ^ 30 % 512)) 8
    let e1 := readNat s.mem (e2 / 256 % 2 ^ 40 * 256 + 8 * (va / 2 ^ 21 % 512)) 8
    if e3 % 2 = 0 || e2 % 4 != 1 || e1 % 4 != 1 then none else some (e1 / 256 % 2 ^ 40 * 256 + 8 * (va / 2 ^ 16 % 32))

/-- Invalidate the level-1 entries of a region's pages. -/
def State.unmapPages (s : State) (asid va : Nat) : Nat → State
  | 0 => s
  | n + 1 =>
    (match s.pteAt asid va with
      | some a => s.publish a (List.replicate 8 0)
      | none => s).unmapPages asid (va + 65536) n

/-- No cache holds an entry of a region's pages. -/
def State.forget (s : State) (asid : BitVec 16) (m : Mapped) : State :=
  let keep (t : List TlbEnt) : List TlbEnt :=
    t.filter (fun e => !(e.asid == asid && m.va / 2 ^ e.bits ≤ e.vpn && e.vpn * 2 ^ e.bits < m.va + m.size))
  { s with
    driftTlb := keep s.driftTlb
    unitTlbs := (s.unitTlbs.map (fun p => (p.1, keep p.2))).filter (fun p => p.2 != [])
    cores := s.cores.map (fun (p : Nat × Core) => (p.1, { p.2 with tlb := keep p.2.tlb }))
    units := s.units.map (fun (p : Nat × MUnit) => (p.1, { p.2 with tlb := keep p.2.tlb })) }

/-- A launch that has not completed uses an image: its code (R112). -/
def Launch.uses (l : Launch) (i : Image) : Bool :=
  let code := i.bases.getD 0 0
  l.asid == i.asid && (i.regions.find? (fun m => m.va == code)).any (fun m =>
    m.va ≤ l.field 8 8 && l.field 8 8 < m.va + m.size)

/-- UNLOAD_REQUEST (R112, R411, R412). -/
def execUnloadRequest (slot : Nat) (s : State) : Host.Outcome State Fault Refusal :=
  if !s.asks slot true then .next s
  else
    let a := loadSlot slot
    let asid : BitVec 16 := BitVec.ofNat 16 (readNat s.mem (a + 4) 2)
    let base := readNat s.mem (a + 8) 8
    if s.slotReserved slot then .next (s.loadRecord slot (failed 1 0) 0)
    else match s.images.find? (fun i => i.asid == asid && i.bases.getD 0 0 == base) with
      | none => .next (s.loadRecord slot (failed 1 0) 0)
      | some i =>
        if s.launches.any (fun p => p.2.uses i) then .next (s.loadRecord slot (failed 0xF 0) 0)
        else
          let s1 := i.regions.foldl (fun s m => (s.unmapPages asid.toNat m.va (m.size / 65536)).forget asid m) s
          .next (({ s1 with images := s1.images.erase i }).loadRecord slot (failed 0 0) 0)

/-- The load slot that is due (R112, R411). -/
def State.loadDue (s : State) : Option Event :=
  s.loadNext.bind (fun n => if s.asks n true then some (.unloadRequest n) else if s.asks n false then some (.loadRequest n) else none)

end Sys2Proof.Machine
end

