-- ==== Sys2Proof/Machine/Outside.lean ====
section
/-! DEFINITION. What the surroundings do at a moment that no rule fixes: what an agent sees of the writes of others, errors of
stored bits, paths of the panel, what other devices do, and clearings by privileged software. -/

namespace Sys2Proof.Machine

open Sys2Proof

/-! What an agent sees (R53, R57; log 6). -/

/-- An agent keeps n bytes of memory as their homes hold them now, and misses the writes that follow. -/
def State.keepBytes (s : State) (ag : Agent) (dev at' n : Nat) : State :=
  { s with lags := s.lags ++ ((List.range n).filter (fun i => !s.lags.any (fun g => g.is ag dev (at' + i)))).map (fun i =>
      { agent := ag, dev := dev, at' := at' + i, seen := tget 0 (s.devMem (homeTdev dev)) (at' + i),
        bad := homeTdev dev == ownTdev && s.ueIn (at' + i) 1, unseen := [] }) }

/-- The oldest write of a byte that an agent misses reaches it, with the other bytes of its unit (R57); with none missed, the
agent sees the byte as its home does. -/
def State.seeWrite (s : State) (ag : Agent) (dev at' : Nat) : State :=
  match s.lags.find? (fun g => g.is ag dev at') with
  | none => s
  | some g =>
    match g.unseen with
    | [] => { s with lags := s.lags.erase g }
    | w :: _ => s.reachLags (fun h => h.is ag dev at') (fun _ v => v.seq == w.seq)

/-! Errors of stored bits (R213, R236, R246, R299, R349, R393). -/

/-- A correctable error is corrected, and reported only in the event log; a Moraine unit counts it too (R424). -/
def State.corrected (s : State) (c : Cell) : State :=
  let ce (source at' : Nat) (kind : Byte) : State := s.log source 0x000D (bytesOfNat 8 at' ++ [kind])
  match c with
  | .ls core off => ce core (off / 32 * 32) 1
  | .mem dpa => match regionOf dpa with | .hbm => ce 0x3FF dpa 3 | .firn => ce 0x3FF dpa 2 | _ => s
  | .acc core _ => ce core 0 4
  | .stream unit dpa => s.unitCorrected unit dpa
  | .own .. => s

/-- Free rows, registers or handles in place of those of a file (R393, log 7). -/
def VecSt.freeGroup (v : VecSt) (g n : Nat) : VecSt :=
  { v with
    vreg := (List.range 64).foldl (fun t r => tput 0 t (64 * g + r) (Config.freeRow (n + r))) v.vreg
    mask := (List.range 8).foldl (fun t r => tput 0 t (8 * g + r) ((Config.freeWord (n + 64 + r)).truncate 16)) v.mask }
def freeHandle (n : Nat) : W256 :=
  Config.freeWord n ++ Config.freeWord (n + 1) ++ Config.freeWord (n + 2) ++ Config.freeWord (n + 3)
def CtlSt.freeFile (c : CtlSt) (n : Nat) : CtlSt :=
  { c with
    scal := (List.range 63).foldl (fun t r => tput 0 t r (Config.freeWord (n + r))) c.scal
    hnd := (List.range 32).foldl (fun t r => tput 0 t r (freeHandle (n + 64 + 4 * r))) c.hnd }

/-- What an entry would have written holds a free value. -/
def Arch.freeDest (a : Arch) (e : Landing) (n : Nat) : Arch :=
  let rows (a : Arch) (n r : Nat) : Arch := e.groups.foldl (fun a g => { a with v := { a.v with
    vreg := tput 0 a.v.vreg (64 * g.grp + r) (Config.freeRow (n + g.grp)), poison := tdel a.v.poison (64 * g.grp + r) } }) a
  match e.dest with
  | .scal r => { a with c := a.c.setSr r (Config.freeWord n) }
  | .hnd h => { a with c := { a.c with hnd := tput 0 a.c.hnd h (freeHandle n) } }
  | .vec r => rows a n r
  | .pair r => rows (rows a n r) (n + 8) (r + 1)
  | .mask k => e.groups.foldl (fun a g => { a with v := { a.v with
      mask := tput 0 a.v.mask (8 * g.grp + k) ((Config.freeWord (n + g.grp)).truncate 16) } }) a
  | .sfy => e.groups.foldl (fun a g => { a with v := { a.v with sfY := tput 0 a.v.sfY g.grp (Config.freeRow (n + g.grp)) } }) a

/-- The landing buffer and the replay slots are lost: every entry is discarded, no REPLAY follows, and what they would have
written holds free values (R393, R408). -/
def Arch.loseLanding (a : Arch) (n : Nat) : Arch :=
  let gone := a.v.landing ++ (a.c.held.map Held.landing).getD []
  let b := (gone.zipIdx).foldl (fun a p => a.freeDest p.1 (n + 16 * p.2)) a
  { b with
    v := { b.v with landing := [], replay := [], poison := []
                    vreg := (b.v.poison.zipIdx).foldl (fun t p => tput 0 t p.1.1 (Config.freeRow (n + 16 * gone.length + p.2))) b.v.vreg }
    c := { b.c with held := b.c.held.map (fun h => { h with landing := [] }) } }

/-- A parity error in the own state of the context in focus (R303, R393). -/
def State.ownError (s : State) (src grp : Nat) : State :=
  if s.cx.tile.isNone || src < 3 || 5 < src then s
  else if s.rollsBack s.focusCore s.focusCtx then s.enqueue (.rollback s.focusCore s.focusCtx)
  else
    let n := s.free
    let t := s.modCx (fun x => { x with a := match src with
      | 3 => { x.a with v := x.a.v.freeGroup (grp % 8) n }
      | 4 => { x.a with c := x.a.c.freeFile n }
      | _ => x.a.loseLanding n })
    { t with free := n + 16 * (s.cx.a.v.landing.length + ((s.cx.a.c.held.map Held.landing).getD []).length) + s.cx.a.v.poison.length + 256 }.dueMchk
      (BitVec.ofNat 64 ((if src = 3 then grp % 8 else 0) * 256 + src))

/-- Bits of a cell are lost: its granule reads as uncorrectable, and an error of an array's cells or of a context's own state is
found at once. -/
def State.decay (s : State) (c : Cell) : State :=
  let bad (dpa : Nat) : State := match regionOf dpa with
    | .hbm | .firn => { s with memUe := tput false s.memUe (granuleOf (dpa / 8)) true }
    | _ => s
  match c with
  | .ls core off => s.setCore core { s.core core with lsUe := tput false (s.core core).lsUe (off / 32) true }
  | .mem dpa | .stream _ dpa => bad dpa
  | .acc core arr => s.enqueue (.seracDataError core arr)
  | .own core ctx src grp => s.onCtx core ctx (fun t => t.ownError src grp)

/-! Paths of the panel (R382). -/

/-- A switch plane's lines are folded by another plane from now on, or by itself again. -/
def State.setPlane (s : State) (p by' : Nat) : State :=
  if 8 ≤ p || 8 ≤ by' then s
  else { s with planes := if by' = p then tdel s.planes p else tset s.planes p by' }

/-- The torus toward a panel: its link is up (0), data detours (1), or no path reaches it (2) (R372, R382). -/
def State.setTorus (s : State) (panel st : Nat) : State := { s with torusDown := tput 0 s.torusDown panel st }

/-- The links toward a torus device are isolated, or reinstated; a peer of the panel is isolated by its switch (R366, R372). -/
def State.setIsolated (s : State) (tdev : Nat) (on : Bool) : State :=
  if tdev / 64 = ownTdev / 64 then s else { s with isolated := tput false s.isolated tdev on }

/-! Requests performed at a peer whose answers are lost (R366). -/

/-- Some page of a copy's destination lies at a peer. -/
def State.copyToward (s : State) (core peer : Nat) (e : CopyEnt) : Bool :=
  hRes e.hd != 0 &&
  (pageStarts (hBase e.hd) ((hOffsets e.hd (hCount e.hd)).foldl max 0 + 1)).any
    (s.towardPeer core (s.envOf (e.origin core)).asid peer)

/-- An entry that has been performed ends PEER_DOWN after its lines as far as they were acknowledged; where it failed otherwise,
that stands. -/
def State.unheard (n lines : Nat) (r : Host.Outcome State Fault Refusal) (s : State) : State :=
  match r with
  | .next t => match tfind t.drifts n with
    | some e => match e.phase with
      | .ended 0 k => t.setEnt n { e with phase := .ended 3 (min lines k) }
      | _ => t
    | none => t
  | _ => s

/-- A fired entry is performed at a device of the panel, and the answer is lost; a put's counter rises only once its lines are
acknowledged. -/
def State.loseEntry (s : State) (tdev n lines : Nat) : State :=
  let t := { s with focusEnt := n }
  match (tfind s.drifts n).map (fun (e : DriftEnt) => ((e.phase, e.entry) : DriftPhase × Instr)) with
  | some (.fired, .put hd src dst len _) =>
    if dst.getLsbD 63 || descTdev dst != tdev then s else State.unheard n lines (execPut hd src dst len 0 t) s
  | some (.fired, .putred hd src dst len _ fop) =>
    if dst.getLsbD 63 || descTdev dst != tdev then s else State.unheard n lines (execPutred hd src dst len 0 fop t) s
  | some (.fired, .signal hd dst inc rctr) =>
    if descTdev dst != tdev then s else State.unheard n lines (execSignal hd dst inc rctr t) s
  | _ => s

/-- One request toward a peer is performed, after those that are kept before it, and its answer is lost. -/
def State.lose (s : State) (peer : Nat) (l : Lost) : State :=
  match l with
  | .flight id =>
    let there (dpa : Nat) : Bool := match regionOf dpa with | .remote p _ => p == peer | _ => false
    (s.withEarlier (fun j _ => j == id)).foldl (fun s f => if f.1 = id then s.performLost there id else s.performFlight f.1) s
  | .copy core ent n =>
    if (tfind (s.core core).copies ent).any (s.copyToward core peer) then s.loseCopy core ent n else s
  | .entry ent n => s.loseEntry (panelTdev peer) ent n

/-- A peer's port is isolated, with requests that it performed and whose answers are lost. -/
def State.cut (s : State) (peer : Nat) (done : List Lost) : Host.Outcome State Fault Refusal :=
  execPeerIsolation peer false (done.foldl (fun s l => s.lose peer l) s)

/-! What other devices do (R365, R369, R376, R377, R380). -/

/-- Another device of the torus, from which data comes. -/
def State.sends (s : State) (tdev : Nat) : Bool :=
  tdev != ownTdev && inTorus tdev && !s.devDown tdev && !s.cutPanel tdev

/-- Privileged software of another device writes its exposure table, its receive windows or its APRX bits; or, on a device of
the panel, the group table of the switches. -/
def State.peerRegs (s : State) (tdev dpa : Nat) (data : List Byte) : State :=
  let own (base n : Nat) : Bool := base ≤ dpa && dpa + data.length ≤ base + n
  let masked := (data.zipIdx).map (fun p => p.1 &&& regMask (dpa + p.2))
  if tdev = ownTdev then s
  else if own Config.windowsDpa 512 || own Config.exposureDpa 4096 || own Config.aprxDpa 128 then
    s.setPeer tdev { s.peer tdev with regs := writeBytes (s.peer tdev).regs dpa masked }
  else if tdev / 64 = ownTdev / 64 && own Config.groupTableDpa 32768 then
    { s with groups := writeBytes s.groups (dpa - Config.groupTableDpa) masked }
  else s

/-- The descriptor of a window of this device (R369). -/
def ownDesc (win off : Nat) : W64 :=
  (0 : BitVec 2) ++ BitVec.ofNat 14 ownTdev ++ BitVec.ofNat 4 win ++ (0 : BitVec 4) ++ BitVec.ofNat 40 off

/-- A put of another device into a receive window of this one: line by line, then its counter, as a release of the bytes with
REL (R369, R370). -/
def State.peerPut (s : State) (tdev win off : Nat) (data : List Byte) (rctr : BitVec 16) (rel : Option Nat) : State :=
  let ag : Agent := .peer tdev
  if !s.sends tdev || data.isEmpty then s
  else match s.putAt [ag] (ownDesc win off) data.length with
    | .error _ => s
    | .ok (a, s1) =>
      let (s2, st, _) := putLines (fun s o b => s.targetWrite [ag] ownTdev (a + o) b) none (driftLines a data.length) 0 data s1 0
      if st != 0 || !rctr.getLsbD 15 then s2
      else
        let c := (rctr.extractLsb' 0 12).toNat
        (match rel with
         | some scope => s2.release ag (.ctr ownTdev c) scope (inPieces [(a, data.length)])
         | none => s2).bumpCtr ownTdev c 1

/-- Another member of a multicast group writes a line: the switch replicates it to the members, this device among them, where
their bits of APRX are set (R376, R377). -/
def State.peerLine (s : State) (dev grp off : Nat) (line : List Byte) : State :=
  let e := s.group grp
  if e.valid && e.kind = 0 && e.list.contains dev && dev != Config.devId.toNat && s.sends (panelTdev dev) && line.length = 64 &&
    off % 64 = 0 && off + 64 ≤ e.size then
    (s.multicastTo [.peer (panelTdev dev)] grp e off line dev).2
  else s

/-- A message of a ring step comes from another device (R380). -/
def State.ringFrom (s : State) (tdev ctr st : Nat) (data : List Byte) (sig : W64) (rel : Option Nat) : State :=
  let m : RingMsg := { src := .dev tdev rel, dest := ownTdev, sctr := ctr % 4096, st := st, data := data, sig := sig }
  if s.sends tdev then { s with rings := tset s.rings s.nextRing m } else s

/-- Another device has taken the data of a receive slot of its ring: the slot is free (R380). -/
def State.ringTaken (s : State) (tdev key : Nat) : State :=
  s.setPeer tdev { s.peer tdev with slots := tdel (s.peer tdev).slots key }

/-! Names (R257, R261). -/

/-- Privileged software removes a tile's record from a die, or a tensor's seal and records. -/
def State.forgetName (s : State) (die tensor : Nat) (tile : Option Nat) : State :=
  let d := s.die die
  match tile with
  | some t => s.setDie die { d with recs := d.recs.filter (fun r => !(nameTensor r.name == tensor && nameTile r.name == t)) }
  | none => s.setDie die { recs := d.recs.filter (fun r => nameTensor r.name != tensor), seals := tdel d.seals tensor }

end Sys2Proof.Machine
end

