-- ==== Sys2Proof/Machine/Order.lean ====
section
/-! DEFINITION. What moves next when nothing from outside says so: the model's own order (log 5). Every event that it picks
changes the state, so that it always gets on. -/

namespace Sys2Proof.Machine

open Sys2Proof

/-! Events that are due. -/

/-- A tile task that starts (R36, R37). -/
def State.tileDue (s : State) : Option Event :=
  s.cores.findSome? (fun p => (p.2.ctxs.find? (fun q =>
    match q.2.env with
    | some e => q.2.tile.isNone && q.2.next.isSome && !q.2.guard.commitDue && !s.stopping e.lid
    | none => false)).map (fun q => .tileTaskStart p.1 q.1))

/-- A copy whose last acknowledgement has come (R378). -/
def State.copyDue (s : State) : Option Event :=
  s.cores.findSome? (fun p => (p.2.copies.find? (fun q => q.2.op != 3 && q.2.moved.isSome && q.2.acks.isEmpty && !q.2.ended)).map
    (fun q => .copyCompletion p.1 q.1))

/-- A rendezvous that has waited too long (R243). -/
def State.rotDue (s : State) : Option Event :=
  (s.rots.find? (fun p => p.2.joined.length != 4 && p.2.since + Config.rotLimit ≤ s.wallus.toNat)).map
    (fun p => .rotTimeout p.2.lid p.2.quad)

/-- A BTWAIT whose limit has passed (R272). -/
def State.btwaitDue (s : State) : Option Event :=
  (s.flights.find? (fun p => match p.2 with
    | .bwait _ _ _ _ (some t) .. => t < s.wallus.toNat
    | _ => false)).map (fun p => .btwaitTimeout p.1)

/-- A router with an expired interest, or with one that waits and may enter (R255, R260). -/
def State.routerDue (s : State) : Option Event :=
  let now := s.wallus.toNat
  s.routers.findSome? (fun p =>
    let old := p.2.pit.any (fun e => e.faces.any (fun f => f.2 < now) || e.locals.any (fun q => q.2 < now)) ||
      p.2.wait.any (fun w => match w with | .interest _ _ _ _ expiry _ => expiry < now | _ => false)
    if old then some (.interestExpiry p.1) else if s.letsIn p.1 then some (.interestAdmit p.1) else none)

/-- What is due of an array (R294 to R298, R311, R312). -/
def State.arrDue (s : State) (c a : Nat) : Option Event :=
  let r := (s.core c).arr a
  if r.susp.isNone && r.wantsShadow && r.run.any (fun x => x.atYield && !x.cmd.shadow) then some (.routineSuspend c a)
  else if (s.startable c a).isSome then some (.routineStart c a)
  else if r.run.isNone && r.susp.isSome && !r.wantsShadow then some (.routineResume c a)
  else if r.drained.isSome then some (.sdrainCompletion c a)
  else none

def State.arraysDue (s : State) : Option Event :=
  s.cores.findSome? (fun p => p.2.arrays.findSome? (fun q => s.arrDue p.1 q.1))

/-- An SMLOAD that waits for nothing (R305, R313). -/
def State.smloadDue (s : State) : Option Event :=
  (s.flights.find? (fun p => match p.2 with
    | .smload org .. => !s.loadBehind p.1 org && !tmem (s.loadMicro p.1).flights p.1
    | _ => false)).map (fun p => .smloadWrite p.1)

def State.unitsDue (s : State) : Option Event := s.units.findSome? (fun p => s.unitDue p.1)

/-- An invalidation that is under way completes: every walk is over (R407). -/
def State.xinvDue (s : State) : Option Event := if s.xinvBusy then some .invalidationComplete else none

/-- The first event that is due. -/
def State.dueEvent (s : State) : Option Event :=
  [s.manageDue, s.walkDue, s.xinvDue, s.loadDue, s.launchDue, s.evictDue, s.guardDue, s.tileDue, s.copyDue, s.rotDue, s.btwaitDue, s.routerDue,
   s.arraysDue, s.smloadDue, s.unitsDue, s.driftDue].findSome? id

/-! Engines and cores. -/

/-- A clock that is no further ahead than the microsecond that runs, so that all who run get their turn and time passes. -/
def State.inPace (s : State) (clock : W64) : Bool := clock.toNat < s.aclks.toNat + s.nun.effective

/-- The MCLK of the microseconds that have passed: Moraine runs at 1.0 GHz whatever ACLK does (R17). -/
def State.mclks (s : State) : W64 := BitVec.ofNat 64 (Config.mclkMhz * s.wallus.toNat)

/-- An array whose routine has a step to run. -/
def State.anyArray (s : State) : Option Act :=
  s.cores.findSome? (fun p => (p.2.arrays.find? (fun q => s.inPace q.2.clock && s.arrayReady p.1 q.1)).map
    (fun q => .array p.1 q.1))

def State.anyUnit (s : State) : Option Act :=
  (s.units.find? (fun p => p.2.clock.toNat < s.mclks.toNat + Config.mclkMhz && s.unitReady p.1)).map (fun p => .unit p.1)

/-- A context of a core can issue, or is to be tested: it has not been found blocked, it is to end, or a commit before its
bundle may begin. -/
def State.wants (s : State) (c n : Nat) : Bool :=
  let t := s.at' c n
  let x := t.cx
  x.tile.isSome && x.lds.isNone && !x.guard.commitDue &&
  (!x.blocked || (s.stopping x.launch.lid && t.preemptible) || s.ready c n ||
   (match t.prepare with | .stop u => u.cx.guard.commitDue | _ => false))

/-- The cores in rotation, from the one after the core in focus. -/
def State.inTurn (s : State) : List Nat :=
  let ks := s.cores.map Prod.fst
  ks.filter (fun c => s.focusCore < c) ++ ks.filter (fun c => c ≤ s.focusCore)

def State.anyCore (s : State) : Option Act :=
  (s.inTurn.find? (fun c => s.inPace (s.acycleOf c) && ((s.core c).ctxs.map Prod.fst).any (fun n => s.wants c n))).map Act.issue

/-- What moves next: an event caused earlier, an event due, an engine, a core; when nothing can move, time. -/
def State.nextAct (s : State) : Act :=
  match s.queue with
  | e :: _ => .event e
  | [] =>
    match s.dueEvent with
    | some e => .event e
    | none => ((s.anyArray.or s.anyUnit).or ((s.driftReady.map (fun _ => Act.drift)).or s.anyCore)).getD (.tick 1)

/-- The next choice: from outside while any is left, else the model's own. -/
def State.choice (s : State) : Act × State :=
  match s.sched with
  | a :: r => (a, { s with sched := r })
  | [] => (s.nextAct, s)

/-- An event is taken off the queue. -/
def State.takeEvent (s : State) (e : Event) : State := { s with queue := s.queue.erase e }

/-- Microseconds pass, and the ACLK that runs in them (R8, R118). -/
def State.pass (s : State) (us : Nat) : State :=
  { s with wallus := s.wallus + BitVec.ofNat 64 us, aclks := s.aclks + BitVec.ofNat 64 (us * s.nun.effective) }

/-! A core's turn (R39, R40). -/

/-- What a core has to issue, once its contexts have been tested and one is chosen. -/
inductive Turn where
  /-- Nothing issues. -/
  | idle (s : State)
  /-- One bundle of an empty run. -/
  | run (bundles : Nat) (s : State)
  /-- The slots of a bundle, in this order. -/
  | slots (l : List (Slot × Instr)) (s : State)
  deriving DecidableEq, Repr

/-- The contexts of a core are tested, one is chosen, and its bundle is prepared. -/
def State.turn (s : State) (c : Nat) : Turn :=
  match (s.poll c).choose c with
  | (none, t) => .idle t
  | (some n, t) =>
    match (t.at' c n).prepare with
    | .stop u => .idle u
    | .run k u => .run k u
    | .slots l u => .slots l u

/-- The next micro-word is an MWAIT: it takes its value no earlier than it is there (R323). -/
def Work.waits (w : Work) : Bool :=
  w.r.lib.isNone && (match decodeMicro (w.k.microWord w.r.pc) with | .ok (.mwait ..) => true | _ => false)

/-- What an array runs: a micro-word, or, with the state that comes of it, a step of a library routine or a stop; none
where the device has no such array or it runs nothing. -/
def State.arrayTurn (s : State) (c a : Nat) : Option (Option Instr × State) :=
  if 512 ≤ c || 4 ≤ a then none
  else
    let t := { s with focusCore := c, focusArr := a }
    match t.work c a with
    | none => none
    | some w =>
      if s.arrayAhead c a || s.heldAtYield c w || s.mwaitHeld w then none else
      let k := t.core c
      let now := s.caughtUp (k.arr a).clock
      let u := t.setCore c (k.setArr a { k.arr a with clock := if w.waits then laterOf now (s.acycleOf c) else now })
      some (if w.r.lib.isSome then (none, u.libStep) else u.microNext)

/-- What a Moraine unit runs; none where there is no such unit or it has nothing to run. -/
def State.unitTurn (s : State) (u : Nat) : Option (Option Instr × State) :=
  if 256 ≤ u || !s.unitReady u then none else some ({ (s.setUnit u { s.unit u with clock := (if (s.unit u).clock < s.mclks then s.mclks else (s.unit u).clock) + 1 }) with focusUnit := u }.morFetch)

/-- The Drift entry that the engine performs; none where none has fired. -/
def State.driftTurn (s : State) : Option (Instr × State) :=
  match s.driftReady with
  | none => none
  | some n => (tfind s.drifts n).map (fun e => (e.entry, { s with focusEnt := n }))

/-! Where an instruction is placed to be run next (log 5). -/

/-- The page at which a word is placed: its virtual and its physical address. -/
def placeAt : Nat := 0x10000

/-- Translation of the page for any access. -/
def placeTlb : TlbEnt := { asid := 0, vpn := 1, bits := 16, dpa := placeAt, perm := 7 }

/-- A launch of one core over one tile. -/
def placeEnv : LaunchEnv :=
  { noLaunch with lid := 1, lsneed := 65536, w := 1, h := 1, gx := 1, gy := 1, gz := 1, entry := BitVec.ofNat 64 placeAt,
                  umap := [0, 1, 2, 3] }

/-- Bytes at the place, and context 0 of core 0 running there. -/
def State.placeCode (s : State) (bs : List Byte) : State :=
  let k := s.core 0
  let x := k.ctx 0
  let y := { x with
    env := some placeEnv, tile := some (0, 0, 0), iss := .idle, lds := none, guard := .none, blocked := false, walked := []
    a := { x.a with p := .none, c := { x.a.c with pc := BitVec.ofNat 64 placeAt } } }
  let k1 := { (k.setCtx 0 y).setCtx 4 .reset with run := 0, frozen := false, tlb := [placeTlb] }
  { (s.setCore 0 k1).writeMem placeAt bs with sched := [.issue 0] }

/-- The walks of the pages that an instruction touches there are over, so that no page holds it (R406). -/
def State.giveWalks (s : State) (i : Instr) : State :=
  let t := (s.at' 0 0).landed
  s.setCtxAt 0 0 { s.ctxAt 0 0 with
    walked := (t.missing (t.touches i)).map (fun va => { page := pageNo va, out := s.walk 0 va }) }

/-- A bundle of one slot. -/
def oneSlot (i : Instr) (w : List Byte) : List Byte := BitVec.ofNat 8 (2 ^ (slotOf i).bit) :: w

/-- The command that a placed routine answers to. -/
def placeCmd : ArrCmd :=
  { op := 0x0E, eng := { scope := 0, rel := 0, acq := 0, sinc := 0, wsem := 0, wthr := 0, ssem := 0, p := 0 }, lid := 1,
    shadow := false, qid := 0, mp := [], pair := 0, ftz := false, intfmt := 0x1010 }

def placeRoutine : Routine :=
  { cmd := placeCmd, pc := 256, lib := none, mp := [], loops := [], gather := none, steps := 0, sinceYield := 0, flags := 0,
    atYield := true }

/-- A micro-word as the next of a routine on array 0 of core 0. -/
def State.placeMicro (s : State) (w : Nat) : State :=
  let t := s.placeCode []
  let k := t.core 0
  let a := { k.arr 0 with run := some placeRoutine, owner := some 1 }
  { t.setCore 0 ({ k with micro := tput 0 k.micro 256 (BitVec.ofNat 64 w) }.setArr 0 a) with sched := [.array 0 0] }

def noSignal : Signal := { sem := 0, inc := 0, rel := false, scope := 0 }

/-- The block of a placed Moraine command or instruction. -/
def placeBlock : Block :=
  { org := { core := 0, lid := 1, shadow := false, cmd := 0 }, asid := 0, addr := BitVec.ofNat 64 placeAt, ncmd := 1, units := [0], acq := false,
    ends := [], qid := 0, sig := noSignal }

/-- Unit 0 executes a block, in a phase, with a word at the head of its instruction buffer. -/
def State.placeUnit (s : State) (p : MorPhase) (ib : Option W32) : State :=
  let m := s.unit 0
  let m1 := { m with exec := some { blk := 0, cmd := 0, phase := p }, tlb := [placeTlb], lastLid := 1,
                     ib := match ib with | some w => tput 0 m.ib 0 w | none => m.ib }
  { s.setUnit 0 m1 with blocks := tset s.blocks 0 placeBlock, sched := [.unit 0] }

/-- A Drift entry that has fired. -/
def State.placeDrift (s : State) (i : Instr) : State :=
  let e : DriftEnt :=
    { list := 0, idx := 0, entry := i, phase := .fired, num := 0, tries := 0, mcOff := 0, naks := [], sig := 0, acks := [], tile := none,
      ending := none }
  let l : DriftList :=
    { org := { core := 0, lid := 1, shadow := false, cmd := 0 }, asid := 0, n := 1, left := 1, ok := 0, failed := none, qid := 0, qid2 := none,
      dput := false, src := none, lines := 0, nakmap := 0, sig := noSignal, waiting := none }
  { (s.placeCode []) with drifts := tset s.drifts 0 e, dlists := tset s.dlists 0 l, driftTlb := [placeTlb], sched := [.drift] }

/-- An instruction, or a word that none of the decoders takes, placed where it is run next; n is the word's bytes. -/
def State.placeInstr (s : State) (i : Option Instr) (n w : Nat) : State :=
  match i with
  | none => s.placeCode (BitVec.ofNat 8 4 :: bytesOfNat n w)
  | some i =>
    if (driftHdr i).isSome then s.placeDrift i
    else if n = 32 then { (s.writeMem placeAt (bytesOfNat 32 w)) with units := s.units }.placeUnit .atCmd none
    else if n = 8 && (decodeMicro (BitVec.ofNat 64 w) == .ok i) then s.placeMicro w
    else if n = 4 && (decodeMoraine (BitVec.ofNat 32 w) == .ok i) then s.placeUnit (.running 0 none) (some (BitVec.ofNat 32 w))
    else (s.placeCode (oneSlot i (bytesOfNat n w))).giveWalks i

end Sys2Proof.Machine
end

