-- ==== Sys2Proof/Machine/Scalar.lean ====
section
/-! DEFINITION. Scalar arithmetic (R141, R142): every result lands after its latency, sets no flag, and wraps. -/

namespace Sys2Proof.Machine

open Sys2Proof

/-- 1 or 0. -/
def bit64 (b : Bool) : W64 := if b then 1 else 0

/-- The high half of a signed product. -/
def mulHigh (a b : W64) : W64 := BitVec.ofInt 64 (a.toInt * b.toInt / 2 ^ 64)

/-- The high half of an unsigned product. -/
def mulHighU (a b : W64) : W64 := BitVec.ofNat 64 (a.toNat * b.toNat / 2 ^ 64)

/-- DIVS: by zero −1; −2^63 by −1 wraps to −2^63 (R142). -/
def divSigned (a b : W64) : W64 := if b = 0 then -1 else BitVec.ofInt 64 (a.toInt.tdiv b.toInt)

/-- DIVU: by zero 2^64 − 1 (R142). -/
def divUnsigned (a b : W64) : W64 := if b = 0 then -1 else BitVec.ofNat 64 (a.toNat / b.toNat)

/-- Leading zero bits. -/
def leadZeros (a : W64) : Nat := if a = 0 then 64 else 63 - Nat.log2 a.toNat

/-- One bits. -/
def oneBits (a : W64) : Nat := (List.range 64).countP (fun i => a.getLsbD i)

/-- sD := a + b (R141). -/
def execAdd (rd ra rb : BitVec 6) (s : State) : Host.Outcome State Fault Refusal :=
  let i : Instr := .add rd ra rb
  slot i s (fun s => s.landScal rd (scalarLatency i) (s.sr ra + s.sr rb))

/-- sD := a − b (R141). -/
def execSub (rd ra rb : BitVec 6) (s : State) : Host.Outcome State Fault Refusal :=
  let i : Instr := .sub rd ra rb
  slot i s (fun s => s.landScal rd (scalarLatency i) (s.sr ra - s.sr rb))

/-- sD := a + sext(IMM) (R141). -/
def execAddi (rd ra : BitVec 6) (imm : BitVec 14) (s : State) : Host.Outcome State Fault Refusal :=
  let i : Instr := .addi rd ra imm
  slot i s (fun s => s.landScal rd (scalarLatency i) (s.sr ra + imm.signExtend 64))

/-- sD := a AND b (R141). -/
def execAnd (rd ra rb : BitVec 6) (s : State) : Host.Outcome State Fault Refusal :=
  let i : Instr := .and rd ra rb
  slot i s (fun s => s.landScal rd (scalarLatency i) (s.sr ra &&& s.sr rb))

/-- sD := a OR b (R141). -/
def execOr (rd ra rb : BitVec 6) (s : State) : Host.Outcome State Fault Refusal :=
  let i : Instr := .or rd ra rb
  slot i s (fun s => s.landScal rd (scalarLatency i) (s.sr ra ||| s.sr rb))

/-- sD := a XOR b (R141). -/
def execXor (rd ra rb : BitVec 6) (s : State) : Host.Outcome State Fault Refusal :=
  let i : Instr := .xor rd ra rb
  slot i s (fun s => s.landScal rd (scalarLatency i) (s.sr ra ^^^ s.sr rb))

/-- sD := a AND zext(IMM) (R141). -/
def execAndi (rd ra : BitVec 6) (imm : BitVec 14) (s : State) : Host.Outcome State Fault Refusal :=
  let i : Instr := .andi rd ra imm
  slot i s (fun s => s.landScal rd (scalarLatency i) (s.sr ra &&& imm.zeroExtend 64))

/-- sD := a OR zext(IMM) (R141). -/
def execOri (rd ra : BitVec 6) (imm : BitVec 14) (s : State) : Host.Outcome State Fault Refusal :=
  let i : Instr := .ori rd ra imm
  slot i s (fun s => s.landScal rd (scalarLatency i) (s.sr ra ||| imm.zeroExtend 64))

/-- sD := a XOR zext(IMM) (R141). -/
def execXori (rd ra : BitVec 6) (imm : BitVec 14) (s : State) : Host.Outcome State Fault Refusal :=
  let i : Instr := .xori rd ra imm
  slot i s (fun s => s.landScal rd (scalarLatency i) (s.sr ra ^^^ imm.zeroExtend 64))

/-- sD := a shifted left by b[5:0] (R141). -/
def execShl (rd ra rb : BitVec 6) (s : State) : Host.Outcome State Fault Refusal :=
  let i : Instr := .shl rd ra rb
  slot i s (fun s => s.landScal rd (scalarLatency i) (s.sr ra <<< ((s.sr rb).toNat % 64)))

/-- sD := a shifted right logically by b[5:0] (R141). -/
def execShr (rd ra rb : BitVec 6) (s : State) : Host.Outcome State Fault Refusal :=
  let i : Instr := .shr rd ra rb
  slot i s (fun s => s.landScal rd (scalarLatency i) (s.sr ra >>> ((s.sr rb).toNat % 64)))

/-- sD := a shifted right arithmetically by b[5:0] (R141). -/
def execSra (rd ra rb : BitVec 6) (s : State) : Host.Outcome State Fault Refusal :=
  let i : Instr := .sra rd ra rb
  slot i s (fun s => s.landScal rd (scalarLatency i) ((s.sr ra).sshiftRight ((s.sr rb).toNat % 64)))

/-- sD := a shifted left by IMM[5:0] (R141). -/
def execShli (rd ra sh : BitVec 6) (s : State) : Host.Outcome State Fault Refusal :=
  let i : Instr := .shli rd ra sh
  slot i s (fun s => s.landScal rd (scalarLatency i) (s.sr ra <<< sh.toNat))

/-- sD := a shifted right logically by IMM[5:0] (R141). -/
def execShri (rd ra sh : BitVec 6) (s : State) : Host.Outcome State Fault Refusal :=
  let i : Instr := .shri rd ra sh
  slot i s (fun s => s.landScal rd (scalarLatency i) (s.sr ra >>> sh.toNat))

/-- sD := a shifted right arithmetically by IMM[5:0] (R141). -/
def execSrai (rd ra sh : BitVec 6) (s : State) : Host.Outcome State Fault Refusal :=
  let i : Instr := .srai rd ra sh
  slot i s (fun s => s.landScal rd (scalarLatency i) ((s.sr ra).sshiftRight sh.toNat))

/-- The low 64 bits of the product (R141). -/
def execMul (rd ra rb : BitVec 6) (s : State) : Host.Outcome State Fault Refusal :=
  let i : Instr := .mul rd ra rb
  slot i s (fun s => s.landScal rd (scalarLatency i) (s.sr ra * s.sr rb))

/-- The high 64 bits of the signed product (R141). -/
def execMulh (rd ra rb : BitVec 6) (s : State) : Host.Outcome State Fault Refusal :=
  let i : Instr := .mulh rd ra rb
  slot i s (fun s => s.landScal rd (scalarLatency i) (mulHigh (s.sr ra) (s.sr rb)))

/-- The high 64 bits of the unsigned product (R141). -/
def execMulhu (rd ra rb : BitVec 6) (s : State) : Host.Outcome State Fault Refusal :=
  let i : Instr := .mulhu rd ra rb
  slot i s (fun s => s.landScal rd (scalarLatency i) (mulHighU (s.sr ra) (s.sr rb)))

/-- Signed division, truncated toward zero (R142). -/
def execDivs (rd ra rb : BitVec 6) (s : State) : Host.Outcome State Fault Refusal :=
  let i : Instr := .divs rd ra rb
  slot i s (fun s => s.landScal rd (scalarLatency i) (divSigned (s.sr ra) (s.sr rb)))

/-- Unsigned division, truncated (R142). -/
def execDivu (rd ra rb : BitVec 6) (s : State) : Host.Outcome State Fault Refusal :=
  let i : Instr := .divu rd ra rb
  slot i s (fun s => s.landScal rd (scalarLatency i) (divUnsigned (s.sr ra) (s.sr rb)))

/-- Signed minimum (R141). -/
def execMin (rd ra rb : BitVec 6) (s : State) : Host.Outcome State Fault Refusal :=
  let i : Instr := .min rd ra rb
  slot i s (fun s => s.landScal rd (scalarLatency i) (if (s.sr ra).slt (s.sr rb) then s.sr ra else s.sr rb))

/-- Signed maximum (R141). -/
def execMax (rd ra rb : BitVec 6) (s : State) : Host.Outcome State Fault Refusal :=
  let i : Instr := .max rd ra rb
  slot i s (fun s => s.landScal rd (scalarLatency i) (if (s.sr ra).slt (s.sr rb) then s.sr rb else s.sr ra))

/-- Unsigned minimum (R141). -/
def execMinu (rd ra rb : BitVec 6) (s : State) : Host.Outcome State Fault Refusal :=
  let i : Instr := .minu rd ra rb
  slot i s (fun s => s.landScal rd (scalarLatency i) (if (s.sr ra).ult (s.sr rb) then s.sr ra else s.sr rb))

/-- Unsigned maximum (R141). -/
def execMaxu (rd ra rb : BitVec 6) (s : State) : Host.Outcome State Fault Refusal :=
  let i : Instr := .maxu rd ra rb
  slot i s (fun s => s.landScal rd (scalarLatency i) (if (s.sr ra).ult (s.sr rb) then s.sr rb else s.sr ra))

/-- 1 if a < b, signed (R141). -/
def execSlt (rd ra rb : BitVec 6) (s : State) : Host.Outcome State Fault Refusal :=
  let i : Instr := .slt rd ra rb
  slot i s (fun s => s.landScal rd (scalarLatency i) (bit64 ((s.sr ra).slt (s.sr rb))))

/-- 1 if a < b, unsigned (R141). -/
def execSltu (rd ra rb : BitVec 6) (s : State) : Host.Outcome State Fault Refusal :=
  let i : Instr := .sltu rd ra rb
  slot i s (fun s => s.landScal rd (scalarLatency i) (bit64 ((s.sr ra).ult (s.sr rb))))

/-- 1 if a = b (R141). -/
def execSeq (rd ra rb : BitVec 6) (s : State) : Host.Outcome State Fault Refusal :=
  let i : Instr := .seq rd ra rb
  slot i s (fun s => s.landScal rd (scalarLatency i) (bit64 (s.sr ra == s.sr rb)))

/-- 1 if a ≠ b (R141). -/
def execSne (rd ra rb : BitVec 6) (s : State) : Host.Outcome State Fault Refusal :=
  let i : Instr := .sne rd ra rb
  slot i s (fun s => s.landScal rd (scalarLatency i) (bit64 (s.sr ra != s.sr rb)))

/-- a if c = 0, else b (R141). -/
def execSelz (rd ra rb rc : BitVec 6) (s : State) : Host.Outcome State Fault Refusal :=
  let i : Instr := .selz rd ra rb rc
  slot i s (fun s => s.landScal rd (scalarLatency i) (if s.sr rc = 0 then s.sr ra else s.sr rb))

/-- sD := sext(IMM) (R141). -/
def execLi (rd : BitVec 6) (imm : BitVec 20) (s : State) : Host.Outcome State Fault Refusal :=
  let i : Instr := .li rd imm
  slot i s (fun s => s.landScal rd (scalarLatency i) (imm.signExtend 64))

/-- sD := sD × 2^20 + IMM, of the old sD (R141). -/
def execLui (rd : BitVec 6) (imm : BitVec 20) (s : State) : Host.Outcome State Fault Refusal :=
  let i : Instr := .lui rd imm
  slot i s (fun s => s.landScal rd (scalarLatency i) ((s.sr rd <<< (20 : Nat)) + imm.zeroExtend 64))

/-- Leading zero bits of a, 0 to 64 (R141). -/
def execClz (rd ra : BitVec 6) (s : State) : Host.Outcome State Fault Refusal :=
  let i : Instr := .clz rd ra
  slot i s (fun s => s.landScal rd (scalarLatency i) (BitVec.ofNat 64 (leadZeros (s.sr ra))))

/-- One bits of a (R141). -/
def execPopc (rd ra : BitVec 6) (s : State) : Host.Outcome State Fault Refusal :=
  let i : Instr := .popc rd ra
  slot i s (fun s => s.landScal rd (scalarLatency i) (BitVec.ofNat 64 (oneBits (s.sr ra))))

end Sys2Proof.Machine
end

