-- ==== Sys2Proof/Machine/Vector.lean ====
section
/-! DEFINITION. The vector arithmetic instructions (R171 to R198): each computes its active lanes at issue and lands
after its latency. -/

namespace Sys2Proof.Machine

open Sys2Proof

/-- Generator steps of an active lane for one rounding (R169, R171). -/
def srSteps (o : VArgs) : Nat := if o.rm = 4 then 1 else 0

/-- The words of the active lanes of A in a group, in lane order (R189). -/
def activeWords (v : VecSt) (o : VArgs) (g : Nat) : List W32 :=
  ((List.range 16).filter (fun l => (v.act o.g o.k.toNat g).getLsbD l)).map (fun l => v.opnd o.a g l)

/-- A reduction's result in lane 0, zero in the other active lanes (R189). -/
def lane0 (l : Nat) (r : LaneRes) : LaneRes := if l = 0 then r else ⟨0, 0, 0⟩

/-- A vector arithmetic instruction: its lanes, computed at issue, land in its destination after its latency (R155,
R171). -/
def vector (i : Instr) (s : State) (steps : Nat) (f : VecSt → Nat → Nat → W32 → LaneRes) :
    Host.Outcome State Fault Refusal :=
  slot i s (fun s =>
    match vShape i with
    | some (sh, o) => s.landLanes (landDestOf sh.dst o.d) sh.lat o.g o.k.toNat steps f
    | none => s)

/-- a + b, rounded once (R175). -/
def execFadd (o : VArgs) (s : State) : Host.Outcome State Fault Refusal :=
  vector (.fadd o) s (srSteps o) (fun v g l u => one (fAdd false v.ftz (rmOf o.rm.toNat) u (v.opnd o.a g l) (v.opnd o.b g l)))

/-- a − b, rounded once (R175). -/
def execFsub (o : VArgs) (s : State) : Host.Outcome State Fault Refusal :=
  vector (.fsub o) s (srSteps o) (fun v g l u => one (fAdd true v.ftz (rmOf o.rm.toNat) u (v.opnd o.a g l) (v.opnd o.b g l)))

/-- a × b, rounded once (R175). -/
def execFmul (o : VArgs) (s : State) : Host.Outcome State Fault Refusal :=
  vector (.fmul o) s (srSteps o) (fun v g l u => one (fMul v.ftz (rmOf o.rm.toNat) u (v.opnd o.a g l) (v.opnd o.b g l)))

/-- a × b + c, rounded once (R175). -/
def execFma (o : VArgs) (s : State) : Host.Outcome State Fault Refusal :=
  vector (.fma o) s (srSteps o) (fun v g l u => one (fFma false false v.ftz (rmOf o.rm.toNat) u (v.opnd o.a g l) (v.opnd o.b g l) (v.opnd o.c g l)))

/-- a × b − c, rounded once (R175). -/
def execFms (o : VArgs) (s : State) : Host.Outcome State Fault Refusal :=
  vector (.fms o) s (srSteps o) (fun v g l u => one (fFma false true v.ftz (rmOf o.rm.toNat) u (v.opnd o.a g l) (v.opnd o.b g l) (v.opnd o.c g l)))

/-- −(a × b) + c, rounded once (R175). -/
def execFnma (o : VArgs) (s : State) : Host.Outcome State Fault Refusal :=
  vector (.fnma o) s (srSteps o) (fun v g l u => one (fFma true false v.ftz (rmOf o.rm.toNat) u (v.opnd o.a g l) (v.opnd o.b g l) (v.opnd o.c g l)))

/-- The smaller operand, a number before a NaN (R176). -/
def execFmin (o : VArgs) (s : State) : Host.Outcome State Fault Refusal :=
  vector (.fmin o) s 0 (fun v g l _ => one (minMax false v.ftz (v.opnd o.a g l) (v.opnd o.b g l)))

/-- The larger operand, a number before a NaN (R176). -/
def execFmax (o : VArgs) (s : State) : Host.Outcome State Fault Refusal :=
  vector (.fmax o) s 0 (fun v g l _ => one (minMax true v.ftz (v.opnd o.a g l) (v.opnd o.b g l)))

/-- The sign bit cleared (R180). -/
def execFabs (o : VArgs) (s : State) : Host.Outcome State Fault Refusal :=
  vector (.fabs o) s 0 (fun v g l _ => one (fSign false v.ftz (v.opnd o.a g l)))

/-- The sign bit inverted (R180). -/
def execFneg (o : VArgs) (s : State) : Host.Outcome State Fault Refusal :=
  vector (.fneg o) s 0 (fun v g l _ => one (fSign true v.ftz (v.opnd o.a g l)))

/-- A comparison into a mask (R177). -/
def execFcmp (o : VArgs) (s : State) : Host.Outcome State Fault Refusal :=
  vector (.fcmp o) s 0 (fun v g l _ => fCmp v.ftz (o.x.extractLsb' 0 3).toNat (v.opnd o.a g l) (v.opnd o.b g l))

/-- a where the selector mask is 1, else b (R178). -/
def execFsel (o : VArgs) (s : State) : Host.Outcome State Fault Refusal :=
  vector (.fsel o) s 0 (fun v g l _ => one (fPass v.ftz (if (v.msk g (o.x.extractLsb' 0 3).toNat).getLsbD l then (v.opnd o.a g l) else (v.opnd o.b g l))))

/-- The class of a value (R179). -/
def execFclass (o : VArgs) (s : State) : Host.Outcome State Fault Refusal :=
  vector (.fclass o) s 0 (fun v g l _ => one (fClass v.ftz (v.opnd o.a g l)))

/-- Rounding to an integral value (R181). -/
def execRndi (o : VArgs) (s : State) : Host.Outcome State Fault Refusal :=
  vector (.rndi o) s (srSteps o) (fun v g l u => one (rndI v.ftz (rmOf o.rm.toNat) u (v.opnd o.a g l)))

/-- Conversion to a saturated integer (R182). -/
def execFtoi (o : VArgs) (s : State) : Host.Outcome State Fault Refusal :=
  vector (.ftoi o) s (srSteps o) (fun v g l u => one (fToI v.ftz (o.x.getLsbD 0) (rmOf o.rm.toNat) u (v.opnd o.a g l)))

/-- Conversion from an integer (R183). -/
def execItof (o : VArgs) (s : State) : Host.Outcome State Fault Refusal :=
  vector (.itof o) s (srSteps o) (fun v g l u => one (iToF (o.x.getLsbD 0) (rmOf o.rm.toNat) u (v.opnd o.a g l)))

/-- The exponent as a value (R184). -/
def execGetexp (o : VArgs) (s : State) : Host.Outcome State Fault Refusal :=
  vector (.getexp o) s 0 (fun v g l _ => one (getExp v.ftz (v.opnd o.a g l)))

/-- The significand in [1, 2) (R184). -/
def execGetmant (o : VArgs) (s : State) : Host.Outcome State Fault Refusal :=
  vector (.getmant o) s 0 (fun v g l _ => one (getMant v.ftz (v.opnd o.a g l)))

/-- a × 2^N, rounded once (R185). -/
def execExpins (o : VArgs) (s : State) : Host.Outcome State Fault Refusal :=
  vector (.expins o) s (srSteps o) (fun v g l u => one (expIns v.ftz (o.x.getLsbD 0) (rmOf o.rm.toNat) u (v.opnd o.a g l) (v.opnd o.b g l)))

/-- A sum and its exact error (R186). -/
def execFaddx (o : VArgs) (s : State) : Host.Outcome State Fault Refusal :=
  vector (.faddx o) s 0 (fun v g l _ => fAddX false (v.opnd o.a g l) (v.opnd o.b g l))

/-- A difference and its exact error (R186). -/
def execFsubx (o : VArgs) (s : State) : Host.Outcome State Fault Refusal :=
  vector (.fsubx o) s 0 (fun v g l _ => fAddX true (v.opnd o.a g l) (v.opnd o.b g l))

/-- A product and its error (R186). -/
def execFmulx (o : VArgs) (s : State) : Host.Outcome State Fault Refusal :=
  vector (.fmulx o) s 0 (fun v g l _ => fMulX (v.opnd o.a g l) (v.opnd o.b g l))

/-- A double-word sum (R187, R188). -/
def execDwadd (o : VArgs) (s : State) : Host.Outcome State Fault Refusal :=
  vector (.dwadd o) s 0 (fun v g l _ => dwAdd false (v.opnd o.a g l) (v.opndLo o.a g l) (v.opnd o.b g l) (v.opndLo o.b g l))

/-- A double-word difference (R187, R188). -/
def execDwsub (o : VArgs) (s : State) : Host.Outcome State Fault Refusal :=
  vector (.dwsub o) s 0 (fun v g l _ => dwAdd true (v.opnd o.a g l) (v.opndLo o.a g l) (v.opnd o.b g l) (v.opndLo o.b g l))

/-- A double-word product (R187, R188). -/
def execDwmul (o : VArgs) (s : State) : Host.Outcome State Fault Refusal :=
  vector (.dwmul o) s 0 (fun v g l _ => dwMul (v.opnd o.a g l) (v.opndLo o.a g l) (v.opnd o.b g l) (v.opndLo o.b g l))

/-- A pair and a single added (R187, R188). -/
def execDwadds (o : VArgs) (s : State) : Host.Outcome State Fault Refusal :=
  vector (.dwadds o) s 0 (fun v g l _ => dwAddS (v.opnd o.a g l) (v.opndLo o.a g l) (v.opnd o.b g l))

/-- A pair renormalised (R187, R188). -/
def execDwnorm (o : VArgs) (s : State) : Host.Outcome State Fault Refusal :=
  vector (.dwnorm o) s 0 (fun v g l _ => dwNorm (v.opnd o.a g l) (v.opndLo o.a g l))

/-- A pair rounded to one value (R187, R188). -/
def execDwtof (o : VArgs) (s : State) : Host.Outcome State Fault Refusal :=
  vector (.dwtof o) s 0 (fun v g l _ => dwToF (v.opnd o.a g l) (v.opndLo o.a g l))

/-- The sequential rounded sum of a group (R189). -/
def execRsum (o : VArgs) (s : State) : Host.Outcome State Fault Refusal :=
  vector (.rsum o) s 0 (fun v g l _ => lane0 l (one (rSum v.ftz (rmOf o.rm.toNat) (activeWords v o g))))

/-- The compensated sum of a group (R190). -/
def execRsumc (o : VArgs) (s : State) : Host.Outcome State Fault Refusal :=
  vector (.rsumc o) s 0 (fun v g l _ => lane0 l (rSumC (activeWords v o g)))

/-- The maximum of a group (R189). -/
def execRmax (o : VArgs) (s : State) : Host.Outcome State Fault Refusal :=
  vector (.rmax o) s 0 (fun v g l _ => lane0 l (one (rMinMax true v.ftz (activeWords v o g))))

/-- The minimum of a group (R189). -/
def execRmin (o : VArgs) (s : State) : Host.Outcome State Fault Refusal :=
  vector (.rmin o) s 0 (fun v g l _ => lane0 l (one (rMinMax false v.ftz (activeWords v o g))))

/-- The integer sum of a group (R189). -/
def execRsumi (o : VArgs) (s : State) : Host.Outcome State Fault Refusal :=
  vector (.rsumi o) s 0 (fun v g l _ => lane0 l (one (rSumI (activeWords v o g))))

/-- Four scaled products and an accumulator, rounded once (R192). -/
def execFdot4 (o : VArgs) (s : State) : Host.Outcome State Fault Refusal :=
  vector (.fdot4 o) s 0 (fun v g l _ => one (fDot4 v.ftz (dotFmt (o.x.extractLsb' 0 2).toNat) (dotFmt (o.x.extractLsb' 2 2).toNat) (v.opnd o.a g l) (v.opnd o.b g l) (v.opnd o.c g l) (v.opndLo o.c g l)))

/-- Four INT8 products and an accumulator, saturated (R193). -/
def execIdotb (o : VArgs) (s : State) : Host.Outcome State Fault Refusal :=
  vector (.idotb o) s 0 (fun v g l _ => plain (iDot true (o.x.getLsbD 0) v.intfmt (v.opnd o.a g l) (v.opnd o.b g l) (v.opnd o.c g l)))

/-- Eight INT4 products and an accumulator, saturated (R193). -/
def execIdotn (o : VArgs) (s : State) : Host.Outcome State Fault Refusal :=
  vector (.idotn o) s 0 (fun v g l _ => plain (iDot false (o.x.getLsbD 0) v.intfmt (v.opnd o.a g l) (v.opnd o.b g l) (v.opnd o.c g l)))

/-- A narrow code into a field of b (R194). -/
def execCvtf (o : VArgs) (s : State) : Host.Outcome State Fault Refusal :=
  vector (.cvtf o) s (srSteps o) (fun v g l u => one (cvtF v.ftz (o.x.getLsbD 3) (cvtFmt (o.x.extractLsb' 0 3).toNat) (o.x.extractLsb' 4 3).toNat (rmOf o.rm.toNat) u (v.opnd o.a g l) (v.opnd o.b g l)))

/-- A narrow or integer field widened, scaled if asked (R196). -/
def execCvtn (o : VArgs) (s : State) : Host.Outcome State Fault Refusal :=
  vector (.cvtn o) s (srSteps o) (fun v g l u => one (cvtN v.ftz (o.x.getLsbD 7) (o.x.extractLsb' 0 3).toNat (o.x.extractLsb' 4 3).toNat v.intfmt (rmOf o.rm.toNat) u (v.opnd o.a g l) (v.opnd o.b g l)))

/-- Two conversions to BF16, each a rounding of its own (R195). -/
def execCvtb (o : VArgs) (s : State) : Host.Outcome State Fault Refusal :=
  vector (.cvtb o) s (2 * srSteps o) (fun v g l u => one (cvtB v.ftz (o.x.getLsbD 3) (rmOf o.rm.toNat) u (v.opnd o.a g l) (v.opnd o.b g l)))

/-- Sum (R197). -/
def execIadd (o : VArgs) (s : State) : Host.Outcome State Fault Refusal :=
  vector (.iadd o) s 0 (fun v g l _ => plain ((v.opnd o.a g l) + (v.opnd o.b g l)))

/-- Difference (R197). -/
def execIsub (o : VArgs) (s : State) : Host.Outcome State Fault Refusal :=
  vector (.isub o) s 0 (fun v g l _ => plain ((v.opnd o.a g l) - (v.opnd o.b g l)))

/-- Low half of the product (R197). -/
def execImul (o : VArgs) (s : State) : Host.Outcome State Fault Refusal :=
  vector (.imul o) s 0 (fun v g l _ => plain ((v.opnd o.a g l) * (v.opnd o.b g l)))

/-- High half of the product (R197). -/
def execImulh (o : VArgs) (s : State) : Host.Outcome State Fault Refusal :=
  vector (.imulh o) s 0 (fun v g l _ => plain (iMulH (o.x.getLsbD 0) (v.opnd o.a g l) (v.opnd o.b g l)))

/-- Minimum (R197). -/
def execImin (o : VArgs) (s : State) : Host.Outcome State Fault Refusal :=
  vector (.imin o) s 0 (fun v g l _ => plain (iMinMax false (o.x.getLsbD 0) (v.opnd o.a g l) (v.opnd o.b g l)))

/-- Maximum (R197). -/
def execImax (o : VArgs) (s : State) : Host.Outcome State Fault Refusal :=
  vector (.imax o) s 0 (fun v g l _ => plain (iMinMax true (o.x.getLsbD 0) (v.opnd o.a g l) (v.opnd o.b g l)))

/-- Bitwise AND (R197). -/
def execIand (o : VArgs) (s : State) : Host.Outcome State Fault Refusal :=
  vector (.iand o) s 0 (fun v g l _ => plain ((v.opnd o.a g l) &&& (v.opnd o.b g l)))

/-- Bitwise OR (R197). -/
def execIor (o : VArgs) (s : State) : Host.Outcome State Fault Refusal :=
  vector (.ior o) s 0 (fun v g l _ => plain ((v.opnd o.a g l) ||| (v.opnd o.b g l)))

/-- Bitwise XOR (R197). -/
def execIxor (o : VArgs) (s : State) : Host.Outcome State Fault Refusal :=
  vector (.ixor o) s 0 (fun v g l _ => plain ((v.opnd o.a g l) ^^^ (v.opnd o.b g l)))

/-- Shift left by b[4:0] (R197). -/
def execIshl (o : VArgs) (s : State) : Host.Outcome State Fault Refusal :=
  vector (.ishl o) s 0 (fun v g l _ => plain ((v.opnd o.a g l) <<< ((v.opnd o.b g l).toNat % 32)))

/-- Logical shift right by b[4:0] (R197). -/
def execIshr (o : VArgs) (s : State) : Host.Outcome State Fault Refusal :=
  vector (.ishr o) s 0 (fun v g l _ => plain ((v.opnd o.a g l) >>> ((v.opnd o.b g l).toNat % 32)))

/-- Arithmetic shift right by b[4:0] (R197). -/
def execIsra (o : VArgs) (s : State) : Host.Outcome State Fault Refusal :=
  vector (.isra o) s 0 (fun v g l _ => plain ((v.opnd o.a g l).sshiftRight ((v.opnd o.b g l).toNat % 32)))

/-- An integer comparison into a mask (R197). -/
def execIcmp (o : VArgs) (s : State) : Host.Outcome State Fault Refusal :=
  vector (.icmp o) s 0 (fun v g l _ => bitRes (iCmp (o.x.extractLsb' 0 3).toNat (v.opnd o.a g l) (v.opnd o.b g l)) 0)

/-- Absolute value (R197). -/
def execIabs (o : VArgs) (s : State) : Host.Outcome State Fault Refusal :=
  vector (.iabs o) s 0 (fun v g l _ => plain (iAbs (v.opnd o.a g l)))

/-- The lane index, of the group or of the context (R198). -/
def execLaneid (o : VArgs) (s : State) : Host.Outcome State Fault Refusal :=
  vector (.laneid o) s 0 (fun _ g l _ => plain (BitVec.ofNat 32 (if o.x.getLsbD 0 then 16 * g + l else l)))

/-- One lane to all lanes of its group (R198). -/
def execBcast (o : VArgs) (s : State) : Host.Outcome State Fault Refusal :=
  vector (.bcast o) s 0 (fun v g _ _ => plain (v.opnd o.a g (o.x.extractLsb' 0 4).toNat))

/-- Lanes chosen by an index register (R198). -/
def execPerm (o : VArgs) (s : State) : Host.Outcome State Fault Refusal :=
  vector (.perm o) s 0 (fun v g l _ => plain (v.opnd o.a g ((v.opnd o.b g l).toNat % 16)))

end Sys2Proof.Machine
end

