-- ==== Sys2Proof/Machine/Dispatch.lean ====
section
/-! DEFINITION. One arm for each row of the opcode table. -/

namespace Sys2Proof.Machine

open Sys2Proof

/-- The meaning of an instruction, a command or an event. -/
def exec (i : Instr) (s : State) : Host.Outcome State Fault Refusal :=
  match i with
  | .br ofs => Sys2Proof.Machine.execBr ofs s
  | .brc sc cond ofs => Sys2Proof.Machine.execBrc sc cond ofs s
  | .jr rs => Sys2Proof.Machine.execJr rs s
  | .call ofs => Sys2Proof.Machine.execCall ofs s
  | .ret => Sys2Proof.Machine.execRet s
  | .loop lvl eo rs => Sys2Proof.Machine.execLoop lvl eo rs s
  | .loopi lvl eo cnt => Sys2Proof.Machine.execLoopi lvl eo cnt s
  | .lbrk => Sys2Proof.Machine.execLbrk s
  | .wait sem val => Sys2Proof.Machine.execWait sem val s
  | .post sem val => Sys2Proof.Machine.execPost sem val s
  | .waitp sem val rd => Sys2Proof.Machine.execWaitp sem val rd s
  | .yield => Sys2Proof.Machine.execYield s
  | .ckpt => Sys2Proof.Machine.execCkpt s
  | .trap code => Sys2Proof.Machine.execTrap code s
  | .eret => Sys2Proof.Machine.execEret s
  | .halt => Sys2Proof.Machine.execHalt s
  | .fence scope => Sys2Proof.Machine.execFence scope s
  | .acq sa sb scope kind => Sys2Proof.Machine.execAcq sa sb scope kind s
  | .rel sa sb scope => Sys2Proof.Machine.execRel sa sb scope s
  | .mfs rd sys => Sys2Proof.Machine.execMfs rd sys s
  | .mts rs sys => Sys2Proof.Machine.execMts rs sys s
  | .add rd ra rb => Sys2Proof.Machine.execAdd rd ra rb s
  | .sub rd ra rb => Sys2Proof.Machine.execSub rd ra rb s
  | .addi rd ra imm => Sys2Proof.Machine.execAddi rd ra imm s
  | .and rd ra rb => Sys2Proof.Machine.execAnd rd ra rb s
  | .or rd ra rb => Sys2Proof.Machine.execOr rd ra rb s
  | .xor rd ra rb => Sys2Proof.Machine.execXor rd ra rb s
  | .andi rd ra imm => Sys2Proof.Machine.execAndi rd ra imm s
  | .ori rd ra imm => Sys2Proof.Machine.execOri rd ra imm s
  | .xori rd ra imm => Sys2Proof.Machine.execXori rd ra imm s
  | .shl rd ra rb => Sys2Proof.Machine.execShl rd ra rb s
  | .shr rd ra rb => Sys2Proof.Machine.execShr rd ra rb s
  | .sra rd ra rb => Sys2Proof.Machine.execSra rd ra rb s
  | .shli rd ra sh => Sys2Proof.Machine.execShli rd ra sh s
  | .shri rd ra sh => Sys2Proof.Machine.execShri rd ra sh s
  | .srai rd ra sh => Sys2Proof.Machine.execSrai rd ra sh s
  | .mul rd ra rb => Sys2Proof.Machine.execMul rd ra rb s
  | .mulh rd ra rb => Sys2Proof.Machine.execMulh rd ra rb s
  | .mulhu rd ra rb => Sys2Proof.Machine.execMulhu rd ra rb s
  | .divs rd ra rb => Sys2Proof.Machine.execDivs rd ra rb s
  | .divu rd ra rb => Sys2Proof.Machine.execDivu rd ra rb s
  | .min rd ra rb => Sys2Proof.Machine.execMin rd ra rb s
  | .max rd ra rb => Sys2Proof.Machine.execMax rd ra rb s
  | .minu rd ra rb => Sys2Proof.Machine.execMinu rd ra rb s
  | .maxu rd ra rb => Sys2Proof.Machine.execMaxu rd ra rb s
  | .slt rd ra rb => Sys2Proof.Machine.execSlt rd ra rb s
  | .sltu rd ra rb => Sys2Proof.Machine.execSltu rd ra rb s
  | .seq rd ra rb => Sys2Proof.Machine.execSeq rd ra rb s
  | .sne rd ra rb => Sys2Proof.Machine.execSne rd ra rb s
  | .selz rd ra rb rc => Sys2Proof.Machine.execSelz rd ra rb rc s
  | .li rd imm => Sys2Proof.Machine.execLi rd imm s
  | .lui rd imm => Sys2Proof.Machine.execLui rd imm s
  | .clz rd ra => Sys2Proof.Machine.execClz rd ra s
  | .popc rd ra => Sys2Proof.Machine.execPopc rd ra s
  | .lds rd ra sz imm => Sys2Proof.Machine.execLds rd ra sz imm s
  | .sts rd ra sz imm => Sys2Proof.Machine.execSts rd ra sz imm s
  | .ldf rd ra sz imm => Sys2Proof.Machine.execLdf rd ra sz imm s
  | .stf rd ra sz imm => Sys2Proof.Machine.execStf rd ra sz imm s
  | .hset hh rs fld => Sys2Proof.Machine.execHset hh rs fld s
  | .hget hh rs fld => Sys2Proof.Machine.execHget hh rs fld s
  | .hadv hh rs dim => Sys2Proof.Machine.execHadv hh rs dim s
  | .htile hh rs rt fld => Sys2Proof.Machine.execHtile hh rs rt fld s
  | .hname hh rs rt fld => Sys2Proof.Machine.execHname hh rs rt fld s
  | .fadd o => Sys2Proof.Machine.execFadd o s
  | .fsub o => Sys2Proof.Machine.execFsub o s
  | .fmul o => Sys2Proof.Machine.execFmul o s
  | .fma o => Sys2Proof.Machine.execFma o s
  | .fms o => Sys2Proof.Machine.execFms o s
  | .fnma o => Sys2Proof.Machine.execFnma o s
  | .fmin o => Sys2Proof.Machine.execFmin o s
  | .fmax o => Sys2Proof.Machine.execFmax o s
  | .fabs o => Sys2Proof.Machine.execFabs o s
  | .fneg o => Sys2Proof.Machine.execFneg o s
  | .fcmp o => Sys2Proof.Machine.execFcmp o s
  | .fsel o => Sys2Proof.Machine.execFsel o s
  | .fclass o => Sys2Proof.Machine.execFclass o s
  | .rndi o => Sys2Proof.Machine.execRndi o s
  | .ftoi o => Sys2Proof.Machine.execFtoi o s
  | .itof o => Sys2Proof.Machine.execItof o s
  | .getexp o => Sys2Proof.Machine.execGetexp o s
  | .getmant o => Sys2Proof.Machine.execGetmant o s
  | .expins o => Sys2Proof.Machine.execExpins o s
  | .faddx o => Sys2Proof.Machine.execFaddx o s
  | .fsubx o => Sys2Proof.Machine.execFsubx o s
  | .fmulx o => Sys2Proof.Machine.execFmulx o s
  | .dwadd o => Sys2Proof.Machine.execDwadd o s
  | .dwsub o => Sys2Proof.Machine.execDwsub o s
  | .dwmul o => Sys2Proof.Machine.execDwmul o s
  | .dwadds o => Sys2Proof.Machine.execDwadds o s
  | .dwnorm o => Sys2Proof.Machine.execDwnorm o s
  | .dwtof o => Sys2Proof.Machine.execDwtof o s
  | .rsum o => Sys2Proof.Machine.execRsum o s
  | .rsumc o => Sys2Proof.Machine.execRsumc o s
  | .rmax o => Sys2Proof.Machine.execRmax o s
  | .rmin o => Sys2Proof.Machine.execRmin o s
  | .rsumi o => Sys2Proof.Machine.execRsumi o s
  | .fdot4 o => Sys2Proof.Machine.execFdot4 o s
  | .idotb o => Sys2Proof.Machine.execIdotb o s
  | .idotn o => Sys2Proof.Machine.execIdotn o s
  | .cvtf o => Sys2Proof.Machine.execCvtf o s
  | .cvtn o => Sys2Proof.Machine.execCvtn o s
  | .cvtb o => Sys2Proof.Machine.execCvtb o s
  | .iadd o => Sys2Proof.Machine.execIadd o s
  | .isub o => Sys2Proof.Machine.execIsub o s
  | .imul o => Sys2Proof.Machine.execImul o s
  | .imulh o => Sys2Proof.Machine.execImulh o s
  | .imin o => Sys2Proof.Machine.execImin o s
  | .imax o => Sys2Proof.Machine.execImax o s
  | .iand o => Sys2Proof.Machine.execIand o s
  | .ior o => Sys2Proof.Machine.execIor o s
  | .ixor o => Sys2Proof.Machine.execIxor o s
  | .ishl o => Sys2Proof.Machine.execIshl o s
  | .ishr o => Sys2Proof.Machine.execIshr o s
  | .isra o => Sys2Proof.Machine.execIsra o s
  | .icmp o => Sys2Proof.Machine.execIcmp o s
  | .iabs o => Sys2Proof.Machine.execIabs o s
  | .laneid o => Sys2Proof.Machine.execLaneid o s
  | .bcast o => Sys2Proof.Machine.execBcast o s
  | .perm o => Sys2Proof.Machine.execPerm o s
  | .movp o => Sys2Proof.Machine.execMovp o s
  | .movr o => Sys2Proof.Machine.execMovr o s
  | .xgc o => Sys2Proof.Machine.execXgc o s
  | .pop o => Sys2Proof.Machine.execPop o s
  | .kmov o => Sys2Proof.Machine.execKmov o s
  | .kand o => Sys2Proof.Machine.execKand o s
  | .kor o => Sys2Proof.Machine.execKor o s
  | .movs o => Sys2Proof.Machine.execMovs o s
  | .movv o => Sys2Proof.Machine.execMovv o s
  | .srseed o => Sys2Proof.Machine.execSrseed o s
  | .vld o => Sys2Proof.Machine.execVld o s
  | .vst o => Sys2Proof.Machine.execVst o s
  | .vldx o => Sys2Proof.Machine.execVldx o s
  | .vstx o => Sys2Proof.Machine.execVstx o s
  | .ldg o => Sys2Proof.Machine.execLdg o s
  | .ldr o => Sys2Proof.Machine.execLdr o s
  | .reld o => Sys2Proof.Machine.execReld o s
  | .vatom o => Sys2Proof.Machine.execVatom o s
  | .vred o => Sys2Proof.Machine.execVred o s
  | .copy o => Sys2Proof.Machine.execCopy o s
  | .copys o => Sys2Proof.Machine.execCopys o s
  | .rotq o => Sys2Proof.Machine.execRotq o s
  | .ask o => Sys2Proof.Machine.execAsk o s
  | .announce o => Sys2Proof.Machine.execAnnounce o s
  | .seal o => Sys2Proof.Machine.execSeal o s
  | .atom o => Sys2Proof.Machine.execAtom o s
  | .red o => Sys2Proof.Machine.execRed o s
  | .binit o => Sys2Proof.Machine.execBinit o s
  | .barr o => Sys2Proof.Machine.execBarr o s
  | .barrx o => Sys2Proof.Machine.execBarrx o s
  | .bwait o => Sys2Proof.Machine.execBwait o s
  | .btwait o => Sys2Proof.Machine.execBtwait o s
  | .scall o => Sys2Proof.Machine.execScall o s
  | .scfg o => Sys2Proof.Machine.execScfg o s
  | .sdrain o => Sys2Proof.Machine.execSdrain o s
  | .smload o => Sys2Proof.Machine.execSmload o s
  | .sintf o => Sys2Proof.Machine.execSintf o s
  | .msub o => Sys2Proof.Machine.execMsub o s
  | .mstat o => Sys2Proof.Machine.execMstat o s
  | .darm o => Sys2Proof.Machine.execDarm o s
  | .dput o => Sys2Proof.Machine.execDput o s
  | .launch o => Sys2Proof.Machine.execLaunch o s
  | .launchi o => Sys2Proof.Machine.execLaunchi o s
  | .flushh o => Sys2Proof.Machine.execFlushh o s
  | .sldw pa ps cnt row rstr => Sys2Proof.Machine.execSldw pa ps cnt row rstr s
  | .sstrm pa ps cnt row md ga inc rstr => Sys2Proof.Machine.execSstrm pa ps cnt row md ga inc rstr s
  | .soutr pa pb ps pt cnt ga inc rstr dstr => Sys2Proof.Machine.execSoutr pa pb ps pt cnt ga inc rstr dstr s
  | .sacc sub pa cnt row inc rstr => Sys2Proof.Machine.execSacc sub pa cnt row inc rstr s
  | .sdrn pa cnt row md rstr opx => Sys2Proof.Machine.execSdrn pa cnt row md rstr opx s
  | .sgath pa pb ps ni rstr sstr => Sys2Proof.Machine.execSgath pa pb ps ni rstr sstr s
  | .mloop lvl cs pc eo count => Sys2Proof.Machine.execMloop lvl cs pc eo count s
  | .madd pd ps us imm => Sys2Proof.Machine.execMadd pd ps us imm s
  | .yp => Sys2Proof.Machine.execYp s
  | .msig sem inc => Sys2Proof.Machine.execMsig sem inc s
  | .mwait sem val => Sys2Proof.Machine.execMwait sem val s
  | .mend => Sys2Proof.Machine.execMend s
  | .moraineVld z st fmt => Sys2Proof.Machine.execMoraineVld z st fmt s
  | .moraineVst z st fmt => Sys2Proof.Machine.execMoraineVst z st fmt s
  | .moraineFadd zd za zb => Sys2Proof.Machine.execMoraineFadd zd za zb s
  | .moraineFsub zd za zb => Sys2Proof.Machine.execMoraineFsub zd za zb s
  | .moraineFmul zd za zb => Sys2Proof.Machine.execMoraineFmul zd za zb s
  | .moraineFma zd za zb zc => Sys2Proof.Machine.execMoraineFma zd za zb zc s
  | .moraineFmin zd za zb => Sys2Proof.Machine.execMoraineFmin zd za zb s
  | .moraineFmax zd za zb => Sys2Proof.Machine.execMoraineFmax zd za zb s
  | .moraineFcmp zd za zb cond => Sys2Proof.Machine.execMoraineFcmp zd za zb cond s
  | .moraineFsel zd za zb zc => Sys2Proof.Machine.execMoraineFsel zd za zb zc s
  | .moraineRcp zd za => Sys2Proof.Machine.execMoraineRcp zd za s
  | .moraineRsq zd za => Sys2Proof.Machine.execMoraineRsq zd za s
  | .moraineCvtb zd za => Sys2Proof.Machine.execMoraineCvtb zd za s
  | .movi q half imm => Sys2Proof.Machine.execMovi q half imm s
  | .moraineBcast zd q => Sys2Proof.Machine.execMoraineBcast zd q s
  | .loopa cs q eo cnt => Sys2Proof.Machine.execLoopa cs q eo cnt s
  | .loopb cs q eo cnt => Sys2Proof.Machine.execLoopb cs q eo cnt s
  | .moraineEnd => Sys2Proof.Machine.execMoraineEnd s
  | .mbxs unit slot q => Sys2Proof.Machine.execMbxs unit slot q s
  | .mbxw q msk => Sys2Proof.Machine.execMbxw q msk s
  | .mailboxWake unit => Sys2Proof.Machine.execMailboxWake unit s
  | .loadp kind first count addr => Sys2Proof.Machine.execLoadp kind first count addr s
  | .run start limit => Sys2Proof.Machine.execRun start limit s
  | .rowsh src dst => Sys2Proof.Machine.execRowsh src dst s
  | .mbx unit slot value => Sys2Proof.Machine.execMbx unit slot value s
  | .trig kind scope limit obj target => Sys2Proof.Machine.execTrig kind scope limit obj target s
  | .trigSatisfied unit => Sys2Proof.Machine.execTrigSatisfied unit s
  | .moraineLimitExpiry unit => Sys2Proof.Machine.execMoraineLimitExpiry unit s
  | .fencem scope join => Sys2Proof.Machine.execFencem scope join s
  | .relm scope join latch inc => Sys2Proof.Machine.execRelm scope join latch inc s
  | .annm scope join len name src => Sys2Proof.Machine.execAnnm scope join len name src s
  | .joinComplete blk => Sys2Proof.Machine.execJoinComplete blk s
  | .blockStart unit => Sys2Proof.Machine.execBlockStart unit s
  | .msubCompletion blk => Sys2Proof.Machine.execMsubCompletion blk s
  | .put hd src dst len rctr => Sys2Proof.Machine.execPut hd src dst len rctr s
  | .putred hd src dst len rctr fop => Sys2Proof.Machine.execPutred hd src dst len rctr fop s
  | .putmc hd src dst len rctr ack => Sys2Proof.Machine.execPutmc hd src dst len rctr ack s
  | .get hd src dst len => Sys2Proof.Machine.execGet hd src dst len s
  | .signal hd dst inc rctr => Sys2Proof.Machine.execSignal hd dst inc rctr s
  | .rsstep hd buf recv dst len succ sctr np q st sig => Sys2Proof.Machine.execRsstep hd buf recv dst len succ sctr np q st sig s
  | .deliver hd src dst len tsize name => Sys2Proof.Machine.execDeliver hd src dst len tsize name s
  | .ringSlotTransfer msg => Sys2Proof.Machine.execRingSlotTransfer msg s
  | .driftEntryCompletion ent => Sys2Proof.Machine.execDriftEntryCompletion ent s
  | .driftRetry ent => Sys2Proof.Machine.execDriftRetry ent s
  | .darmCompletion lst => Sys2Proof.Machine.execDarmCompletion lst s
  | .driftCounterAccess acc ctr val => Sys2Proof.Machine.execDriftCounterAccess acc ctr val s
  | .multicastLine put => Sys2Proof.Machine.execMulticastLine put s
  | .reduceContribution member grp off line => Sys2Proof.Machine.execReduceContribution member grp off line s
  | .apertureLoad core ctx va => Sys2Proof.Machine.execApertureLoad core ctx va s
  | .peerAccess acc dpa len data => Sys2Proof.Machine.execPeerAccess acc dpa len data s
  | .peerIsolation peer byReset => Sys2Proof.Machine.execPeerIsolation peer byReset s
  | .linkFailure link => Sys2Proof.Machine.execLinkFailure link s
  | .linkRetrain link near far => Sys2Proof.Machine.execLinkRetrain link near far s
  | .emptyBundle => Sys2Proof.Machine.execEmptyBundle s
  | .resultLanding => Sys2Proof.Machine.execResultLanding s
  | .sfuResultLanding => Sys2Proof.Machine.execSfuResultLanding s
  | .declaredLoadLanding => Sys2Proof.Machine.execDeclaredLoadLanding s
  | .loadDataArrival core ctx slot grp => Sys2Proof.Machine.execLoadDataArrival core ctx slot grp s
  | .ldsDataReturn core ctx => Sys2Proof.Machine.execLdsDataReturn core ctx s
  | .stsErrorResponse core ctx cause va => Sys2Proof.Machine.execStsErrorResponse core ctx cause va s
  | .trapEntry cause info => Sys2Proof.Machine.execTrapEntry cause info s
  | .fairnessSwitch core => Sys2Proof.Machine.execFairnessSwitch core s
  | .priorityTakeover core => Sys2Proof.Machine.execPriorityTakeover core s
  | .normalResume core => Sys2Proof.Machine.execNormalResume core s
  | .launchRecordCopy slot => Sys2Proof.Machine.execLaunchRecordCopy slot s
  | .countBlockRead lnch => Sys2Proof.Machine.execCountBlockRead lnch s
  | .reservationRound lnch => Sys2Proof.Machine.execReservationRound lnch s
  | .reserve lnch core => Sys2Proof.Machine.execReserve lnch core s
  | .commit lnch => Sys2Proof.Machine.execCommit lnch s
  | .release lnch => Sys2Proof.Machine.execRelease lnch s
  | .backoffExpiry lnch => Sys2Proof.Machine.execBackoffExpiry lnch s
  | .tileTaskStart core ctx => Sys2Proof.Machine.execTileTaskStart core ctx s
  | .launchCompletion lnch => Sys2Proof.Machine.execLaunchCompletion lnch s
  | .copyCompletion core ent => Sys2Proof.Machine.execCopyCompletion core ent s
  | .barrierDelivered core ent => Sys2Proof.Machine.execBarrierDelivered core ent s
  | .rotqExchange lnch quad => Sys2Proof.Machine.execRotqExchange lnch quad s
  | .rotTimeout lnch quad => Sys2Proof.Machine.execRotTimeout lnch quad s
  | .atomApply req => Sys2Proof.Machine.execAtomApply req s
  | .redApply req => Sys2Proof.Machine.execRedApply req s
  | .routerRedMerge reqA reqB => Sys2Proof.Machine.execRouterRedMerge reqA reqB s
  | .redHoldExpiry req => Sys2Proof.Machine.execRedHoldExpiry req s
  | .barrierInit req => Sys2Proof.Machine.execBarrierInit req s
  | .barrierArrive req => Sys2Proof.Machine.execBarrierArrive req s
  | .barrierWaitArrival req => Sys2Proof.Machine.execBarrierWaitArrival req s
  | .btwaitTimeout req => Sys2Proof.Machine.execBtwaitTimeout req s
  | .interestArrival pkt => Sys2Proof.Machine.execInterestArrival pkt s
  | .interestAdmit router => Sys2Proof.Machine.execInterestAdmit router s
  | .interestExpiry router => Sys2Proof.Machine.execInterestExpiry router s
  | .announcementArrival pkt => Sys2Proof.Machine.execAnnouncementArrival pkt s
  | .tileArrival pkt => Sys2Proof.Machine.execTileArrival pkt s
  | .sealArrival pkt => Sys2Proof.Machine.execSealArrival pkt s
  | .flushhCompletion req => Sys2Proof.Machine.execFlushhCompletion req s
  | .routineStart core arr => Sys2Proof.Machine.execRoutineStart core arr s
  | .routineSuspend core arr => Sys2Proof.Machine.execRoutineSuspend core arr s
  | .routineResume core arr => Sys2Proof.Machine.execRoutineResume core arr s
  | .gatherFill core arr => Sys2Proof.Machine.execGatherFill core arr s
  | .sdrainCompletion core arr => Sys2Proof.Machine.execSdrainCompletion core arr s
  | .smloadWrite req => Sys2Proof.Machine.execSmloadWrite req s
  | .seracDataError core arr => Sys2Proof.Machine.execSeracDataError core arr s
  | .checkpointCommit core ctx => Sys2Proof.Machine.execCheckpointCommit core ctx s
  | .rollback core ctx => Sys2Proof.Machine.execRollback core ctx s
  | .rerunCompare core ctx => Sys2Proof.Machine.execRerunCompare core ctx s
  | .translationWalk asid va => Sys2Proof.Machine.execTranslationWalk asid va s
  | .xinvInvalidate => Sys2Proof.Machine.execXinvInvalidate s
  | .invalidationComplete => Sys2Proof.Machine.execInvalidationComplete s
  | .evict core => Sys2Proof.Machine.execEvict core s
  | .restore core => Sys2Proof.Machine.execRestore core s
  | .controlStatusRead core => Sys2Proof.Machine.execControlStatusRead core s
  | .hostCxlWrite dpa data => Sys2Proof.Machine.execHostCxlWrite dpa data s
  | .hostCxlRead dpa len => Sys2Proof.Machine.execHostCxlRead dpa len s
  | .registerWrite dpa data => Sys2Proof.Machine.execRegisterWrite dpa data s
  | .loadRequest slot => Sys2Proof.Machine.execLoadRequest slot s
  | .unloadRequest slot => Sys2Proof.Machine.execUnloadRequest slot s
  | .cancel => Sys2Proof.Machine.execCancel s
  | .retire => Sys2Proof.Machine.execRetire s
  | .linkup => Sys2Proof.Machine.execLinkup s
  | .reinstate => Sys2Proof.Machine.execReinstate s
  | .powercap => Sys2Proof.Machine.execPowercap s
  | .fwupdate => Sys2Proof.Machine.execFwupdate s
  | .fwconfirm => Sys2Proof.Machine.execFwconfirm s
  | .keycmd => Sys2Proof.Machine.execKeycmd s
  | .attest => Sys2Proof.Machine.execAttest s
  | .idkey => Sys2Proof.Machine.execIdkey s
  | .reset cold => Sys2Proof.Machine.execReset cold s
  | .scrubDone => Sys2Proof.Machine.execScrubDone s
  | .marginStep core => Sys2Proof.Machine.execMarginStep core s
  | .replan mhz => Sys2Proof.Machine.execReplan mhz s
  | .powerCapStep watts junction inlet => Sys2Proof.Machine.execPowerCapStep watts junction inlet s
  | .thermalTrip junction => Sys2Proof.Machine.execThermalTrip junction s
  | .cap4Off core arr => Sys2Proof.Machine.execCap4Off core arr s

end Sys2Proof.Machine
end

