-- ==== Sys2Proof/Machine/Step.lean ====
section
/-! DEFINITION. One step of the device: a bundle of a core, an event, or a step of an engine. -/

namespace Sys2Proof.Machine

open Sys2Proof

/-- An event happens: the meaning of its row. -/
def runEvent (e : Event) (s : State) : Host.Outcome State Fault Refusal :=
  match e with
  | .mailboxWake unit => execMailboxWake unit s
  | .trigSatisfied unit => execTrigSatisfied unit s
  | .moraineLimitExpiry unit => execMoraineLimitExpiry unit s
  | .joinComplete blk => execJoinComplete blk s
  | .blockStart unit => execBlockStart unit s
  | .msubCompletion blk => execMsubCompletion blk s
  | .ringSlotTransfer msg => execRingSlotTransfer msg s
  | .driftEntryCompletion ent => execDriftEntryCompletion ent s
  | .driftRetry ent => execDriftRetry ent s
  | .darmCompletion lst => execDarmCompletion lst s
  | .driftCounterAccess acc ctr val => execDriftCounterAccess acc ctr val s
  | .multicastLine put => execMulticastLine put s
  | .reduceContribution member grp off line => execReduceContribution member grp off line s
  | .apertureLoad core ctx va => execApertureLoad core ctx va s
  | .peerAccess acc dpa len data => execPeerAccess acc dpa len data s
  | .peerIsolation peer byReset => execPeerIsolation peer byReset s
  | .linkFailure link => execLinkFailure link s
  | .linkRetrain link near far => execLinkRetrain link near far s
  | .emptyBundle => execEmptyBundle s
  | .resultLanding => execResultLanding s
  | .sfuResultLanding => execSfuResultLanding s
  | .declaredLoadLanding => execDeclaredLoadLanding s
  | .loadDataArrival core ctx slot grp => execLoadDataArrival core ctx slot grp s
  | .ldsDataReturn core ctx => execLdsDataReturn core ctx s
  | .stsErrorResponse core ctx cause va => execStsErrorResponse core ctx cause va s
  | .trapEntry cause info => execTrapEntry cause info s
  | .fairnessSwitch core => execFairnessSwitch core s
  | .priorityTakeover core => execPriorityTakeover core s
  | .normalResume core => execNormalResume core s
  | .launchRecordCopy slot => execLaunchRecordCopy slot s
  | .countBlockRead lnch => execCountBlockRead lnch s
  | .reservationRound lnch => execReservationRound lnch s
  | .reserve lnch core => execReserve lnch core s
  | .commit lnch => execCommit lnch s
  | .release lnch => execRelease lnch s
  | .backoffExpiry lnch => execBackoffExpiry lnch s
  | .tileTaskStart core ctx => execTileTaskStart core ctx s
  | .launchCompletion lnch => execLaunchCompletion lnch s
  | .copyCompletion core ent => execCopyCompletion core ent s
  | .barrierDelivered core ent => execBarrierDelivered core ent s
  | .rotqExchange lnch quad => execRotqExchange lnch quad s
  | .rotTimeout lnch quad => execRotTimeout lnch quad s
  | .atomApply req => execAtomApply req s
  | .redApply req => execRedApply req s
  | .routerRedMerge reqA reqB => execRouterRedMerge reqA reqB s
  | .redHoldExpiry req => execRedHoldExpiry req s
  | .barrierInit req => execBarrierInit req s
  | .barrierArrive req => execBarrierArrive req s
  | .barrierWaitArrival req => execBarrierWaitArrival req s
  | .btwaitTimeout req => execBtwaitTimeout req s
  | .interestArrival pkt => execInterestArrival pkt s
  | .interestAdmit router => execInterestAdmit router s
  | .interestExpiry router => execInterestExpiry router s
  | .announcementArrival pkt => execAnnouncementArrival pkt s
  | .tileArrival pkt => execTileArrival pkt s
  | .sealArrival pkt => execSealArrival pkt s
  | .flushhCompletion req => execFlushhCompletion req s
  | .routineStart core arr => execRoutineStart core arr s
  | .routineSuspend core arr => execRoutineSuspend core arr s
  | .routineResume core arr => execRoutineResume core arr s
  | .gatherFill core arr => execGatherFill core arr s
  | .sdrainCompletion core arr => execSdrainCompletion core arr s
  | .smloadWrite req => execSmloadWrite req s
  | .seracDataError core arr => execSeracDataError core arr s
  | .checkpointCommit core ctx => execCheckpointCommit core ctx s
  | .rollback core ctx => execRollback core ctx s
  | .rerunCompare core ctx => execRerunCompare core ctx s
  | .translationWalk asid va => execTranslationWalk asid va s
  | .xinvInvalidate => execXinvInvalidate s
  | .invalidationComplete => execInvalidationComplete s
  | .evict core => execEvict core s
  | .restore core => execRestore core s
  | .controlStatusRead core => execControlStatusRead core s
  | .hostCxlWrite dpa data => execHostCxlWrite dpa data s
  | .hostCxlRead dpa len => execHostCxlRead dpa len s
  | .registerWrite dpa data => execRegisterWrite dpa data s
  | .loadRequest slot => execLoadRequest slot s
  | .unloadRequest slot => execUnloadRequest slot s
  | .cancel => execCancel s
  | .retire => execRetire s
  | .linkup => execLinkup s
  | .reinstate => execReinstate s
  | .powercap => execPowercap s
  | .fwupdate => execFwupdate s
  | .fwconfirm => execFwconfirm s
  | .keycmd => execKeycmd s
  | .attest => execAttest s
  | .idkey => execIdkey s
  | .reset cold => execReset cold s
  | .scrubDone => execScrubDone s
  | .marginStep core => execMarginStep core s
  | .replan mhz => execReplan mhz s
  | .powerCapStep watts junction inlet => execPowerCapStep watts junction inlet s
  | .thermalTrip junction => execThermalTrip junction s
  | .cap4Off core arr => execCap4Off core arr s

/-- The slots of a bundle, each by its own meaning, in header-bit order (R64, R68). -/
def runSlots : List (Slot × Instr) → State → Host.Outcome State Fault Refusal
  | [], s => .next s
  | (_, i) :: r, s =>
    match exec i s with
    | .next t => runSlots r t
    | .fault f => .fault f
    | .refused f => .refused f

/-- A whole bundle: its slots, then what follows them. -/
def runBundle (l : List (Slot × Instr)) (s : State) : Host.Outcome State Fault Refusal :=
  match runSlots l s with
  | .next t => .next t.finishBundle
  | .fault f => .fault f
  | .refused f => .refused f

/-- A core's turn. -/
def runTurn : Turn → Host.Outcome State Fault Refusal
  | .idle s => .next s
  | .run n s => .next (s.finishRun n)
  | .slots l s => runBundle l s

/-- An engine's turn. -/
def runEngine : Option (Option Instr × State) → Host.Outcome State Fault Refusal
  | none => .fault .noAgent
  | some (some i, s) => exec i s
  | some (none, s) => .next s

/-- One choice is carried out. -/
def runAct (a : Act) (s : State) : Host.Outcome State Fault Refusal :=
  match a with
  | .event e => runEvent e (s.takeEvent e)
  | .tick us => .next (s.pass us)
  | .lag ag dev at' n => .next (s.keepBytes ag dev at' n)
  | .see ag dev at' => .next (s.seeWrite ag dev at')
  | .corrected c => .next (s.corrected c)
  | .decay c => .next (s.decay c)
  | .plane p by' => .next (s.setPlane p by')
  | .torus panel st => .next (s.setTorus panel st)
  | .isolate tdev on => .next (s.setIsolated tdev on)
  | .cut peer done => s.cut peer done
  | .peerRegs tdev dpa data => .next (s.peerRegs tdev dpa data)
  | .peerPut tdev win off data rctr rel => .next (s.peerPut tdev win off data rctr rel)
  | .peerLine dev grp off line => .next (s.peerLine dev grp off line)
  | .ringFrom tdev ctr st data sig rel => .next (s.ringFrom tdev ctr st data sig rel)
  | .ringTaken tdev key => .next (s.ringTaken tdev key)
  | .forget die tensor tile => .next (s.forgetName die tensor tile)
  | .issue c => if c < 512 then runTurn (s.turn c) else .fault .noAgent
  | .array c a => runEngine (s.arrayTurn c a)
  | .unit u => runEngine (s.unitTurn u)
  | .drift => runEngine (s.driftTurn.map (fun p => (some p.1, p.2)))

/-- One step. -/
def step (s : State) : Host.Outcome State Fault Refusal := runAct s.choice.1 s.choice.2

/-- The bytes of an instruction of nbits bits: 4, 8, 32 or 64. -/
def wordBytes (nbits : Nat) : Nat := if nbits ≤ 32 then 4 else if nbits ≤ 64 then 8 else if nbits ≤ 256 then 32 else 64

/-- The instruction of a word, stored where the next step runs it (log 5). -/
def State.withFetchWord (s : State) (nbits w : Nat) : State := s.placeInstr (decodeTableWord nbits w) (wordBytes nbits) w

end Sys2Proof.Machine
end

