-- ==== Sys2Proof/Safety.lean ====
section
/-! DEFINITION. The terms of the claims: when a slot instruction issues, what a step leaves alone, and safe runs. -/

namespace Sys2Proof.Machine

open Sys2Proof

/-- The canonical form of memory: addresses strictly rising, and no entry equal to what an unlisted address reads as. -/
abbrev Memory.wf (m : List Host.Cell) : Prop := twf 0 m = true

/-- A byte of memory. -/
def State.byte (s : State) (a : Nat) : Byte := tget 0 s.mem a

/-- The state in which a slot instruction reads its operands: within a bundle that has been tested as a whole, the state
itself; by itself, the state in which the results due have landed (R68, R156). -/
def State.issued (s : State) : State := if s.cx.iss.checked then s else s.landed

/-- A slot instruction issues: its bundle has been tested, or the bundle of it alone is neither held nor trapped (R39,
R68, R390). -/
def Ready (i : Instr) (s : State) : Prop :=
  s.cx.iss.checked = true ∨ s.test [(slotOf i, i)] = .go s.landed

/-- The context in focus waits for nothing of its own: no LDS is out and no commit is due; and its guard's buffers are
within their sizes, as they are in every guarded segment (R39, R300, R302). -/
def Free (s : State) : Prop :=
  s.cx.lds = none ∧ s.cx.guard.commitDue = false ∧ s.cx.guard.holdUsed ≤ 16384 ∧ s.cx.guard.journalUsed ≤ 32768

/-- Nothing but the context in focus differs: every other field, core and context stands. -/
def OnlyFocus (s t : State) : Prop :=
  { t with cores := s.cores } = s ∧ (∀ c, c ≠ s.focusCore → t.core c = s.core c) ∧
  { t.fcore with ctxs := s.fcore.ctxs } = s.fcore ∧ ∀ n, n ≠ s.focusCtx → t.fcore.ctx n = s.fcore.ctx n

/-- Nothing of a context's registers differs: scalars, handles, semaphores, vector registers, masks, ports, flags, loops,
trap registers, Serac registers, queues. -/
def SameRegs (x y : Ctx) : Prop :=
  x.a.c = y.a.c ∧ x.a.r = y.a.r ∧ x.a.q = y.a.q ∧ x.a.p = y.a.p ∧
  x.a.v.vreg = y.a.v.vreg ∧ x.a.v.mask = y.a.v.mask ∧ x.a.v.poison = y.a.v.poison ∧ x.a.v.vflags = y.a.v.vflags ∧
  x.a.v.ftz = y.a.v.ftz ∧ x.a.v.seedLanes = y.a.v.seedLanes ∧ x.a.v.seedSerac = y.a.v.seedSerac ∧ x.a.v.intfmt = y.a.v.intfmt ∧ x.a.v.intPend = y.a.v.intPend ∧
  x.a.v.sfA = y.a.v.sfA ∧ x.a.v.sfB = y.a.v.sfB ∧ x.a.v.sfY = y.a.v.sfY ∧ x.a.v.replay = y.a.v.replay ∧
  x.a.v.replaySel = y.a.v.replaySel

/-- Every byte of memory reads as before. -/
def SameMem (s t : State) : Prop := ∀ a, t.byte a = s.byte a

/-- All that differs is that results have joined the landing buffer, and generator states (R156, R168). -/
def OnlyLands (s t : State) : Prop :=
  OnlyFocus s t ∧ SameRegs s.cx t.cx ∧ SameMem s t ∧ t.cx.iss = s.cx.iss ∧
  ∃ es, t.cx.a.v.landing = s.cx.a.v.landing ++ es

/-- A micro-word (R316 to R323). -/
def isMicro : Instr → Bool
  | .sldw .. | .sstrm .. | .soutr .. | .sacc .. | .sdrn .. | .sgath .. | .mloop .. | .madd .. | .yp | .msig .. | .mwait ..
  | .mend => true
  | _ => false

/-- A Moraine instruction (R336). -/
def isMoraine : Instr → Bool
  | .moraineVld .. | .moraineVst .. | .moraineFadd .. | .moraineFsub .. | .moraineFmul .. | .moraineFma .. | .moraineFmin ..
  | .moraineFmax .. | .moraineFcmp .. | .moraineFsel .. | .moraineRcp .. | .moraineRsq .. | .moraineCvtb .. | .movi ..
  | .moraineBcast .. | .loopa .. | .loopb .. | .moraineEnd | .mbxs .. | .mbxw .. => true
  | _ => false

/-- A Moraine command (R343). -/
def isCommand : Instr → Bool
  | .loadp .. | .run .. | .rowsh .. | .mbx .. | .trig .. | .fencem .. | .relm .. | .annm .. => true
  | _ => false

/-- An instruction of a bundle's slots (R64, R79). -/
def inSlot (i : Instr) : Bool := (encode32 i != 0 || encode64 i != 0) && !isMicro i && !isMoraine i

/-- A slot takes an instruction (R72, R79): its own slot, SCA beside SCB for the opcodes 0x01 to 0x21, VEB beside VEA for
the instructions that both take. -/
def Takes (sl : Slot) (i : Instr) : Prop :=
  inSlot i = true ∧
  (slotOf i = sl ∨ (sl = .sca ∧ slotOf i = .scb ∧ (encode32 i).toNat / 2 ^ 26 < 0x22) ∨
   (sl = .veb ∧ ∃ sh o, vShape i = some (sh, o) ∧ sh.veb = true))

/-- The instruction issues wherever it is ready, and its next state is the effect on the state in which it reads its
operands. -/
def Completes (i : Instr) (eff : State → State) : Prop := ∀ s, Ready i s → exec i s = .next (eff s.issued)

/-- Its one effect is a scalar result, some bundles later (R114). -/
def GivesScalar (i : Instr) (rd : BitVec 6) (lat : Nat) (v : State → W64) : Prop :=
  Completes i (fun s => s.landScal rd lat (v s))

/-- The same in a launch that is not guarded (R300). -/
def GivesUnguarded (i : Instr) (rd : BitVec 6) (lat : Nat) (v : State → W64) : Prop :=
  ∀ s, Ready i s → s.issued.cx.launch.guard = false → exec i s = .next (s.issued.landScal rd lat (v s.issued))

/-- Its one effect is a handle result in the next bundle, where the operation is neither illegal nor leaves the canonical
range (R145 to R148). -/
def GivesHandle (i : Instr) (h : BitVec 5) (f : State → HandleRes) : Prop :=
  ∀ s v, Ready i s → f s.issued = .ok v → exec i s = .next (s.issued.landHnd h v)

/-- Its one effect is a result in the active lanes of a vector destination, some bundles later (R152, R155). -/
def GivesLanes (i : Instr) (o : VArgs) (dest : LandDest) (lat steps : Nat) (f : VecSt → Nat → Nat → W32 → LaneRes) : Prop :=
  Completes i (fun s => s.landLanes dest lat o.g o.k.toNat steps f)

/-- The scalar arithmetic instructions (R141). -/
def isScalarArith : Instr → Bool
  | .add .. | .sub .. | .addi .. | .and .. | .or .. | .xor .. | .andi .. | .ori .. | .xori .. | .shl .. | .shr .. | .sra ..
  | .shli .. | .shri .. | .srai .. | .mul .. | .mulh .. | .mulhu .. | .divs .. | .divu .. | .min .. | .max .. | .minu ..
  | .maxu .. | .slt .. | .sltu .. | .seq .. | .sne .. | .selz .. | .li .. | .lui .. | .clz .. | .popc .. => true
  | _ => false

/-- The instructions whose only effect is results that land later (R114, R155, R204). -/
def onlyResults (i : Instr) : Bool :=
  isScalarArith i || (vShape i).isSome ||
  match i with
  | .hset .. | .hget .. | .hadv .. | .htile .. | .hname .. | .movr _ | .xgc _ | .kmov _ | .kand _ | .kor _ | .movs _ | .movv _ => true
  | _ => false

/-- The test after a bundle at an address, so many times (R125). -/
def loopTests (a : W64) : Nat → LoopSt → LoopSt
  | 0, l => l
  | n + 1, l => (LoopSt.test a (loopTests a n l).order.reverse (loopTests a n l)).2

/-- A micro-word of the routine of the array in focus, where its fields and rows pass their checks: its effect, and then the
next word with its steps counted; where a check fails or a read meets an error, the routine stops (R315). -/
def MicroDoes (i : Instr) (steps : Nat) (yp : Bool) (fields rows : Work → Bool) (eff : Work → Work) : Prop :=
  microLegal i = true → ∀ s w, s.work s.focusCore s.focusArr = some w → w.r.lib = none →
    (fields w = true → rows w = true → (eff w).stop = none →
      exec i s = .next (s.putWork { eff w with r := (eff w).r.after steps yp })) ∧
    (fields w = true → rows w = true → ∀ st, (eff w).stop = some st →
      exec i s = .next (s.stopRoutine (eff w) st (w.r.pc % 2048))) ∧
    (fields w = false → exec i s = .next (s.stopRoutine (w.stopped ⟨0x20, none⟩) ⟨0x20, none⟩ (w.r.pc % 2048))) ∧
    (fields w = true → rows w = false → exec i s = .next (s.stopRoutine (w.stopped ⟨1, none⟩) ⟨1, none⟩ (w.r.pc % 2048)))

/-- A Moraine instruction of the unit in focus, which runs it at an index of its instruction buffer within its limit, legal and
with no poisoned operand: what becomes of the unit, then its loops' test at the index that counts as executed, and the next
instruction (R336, R337, R339, R346). -/
def MorDoes (i : Instr) (ok : Nat → MUnit → State → Prop) (eff : Nat → MUnit → State → MUnit × Nat × State) : Prop :=
  moraineLegal i = true → ∀ s x pc lim,
    (s.unit s.focusUnit).exec = some x → x.phase = .running pc lim → s.expired lim = false →
    (morReads i).any (fun z => tget false (s.unit s.focusUnit).zpois z.toNat) = false → ok pc (s.unit s.focusUnit) s →
    exec i s = .next (
      let r := eff pc (s.unit s.focusUnit) s
      r.2.2.setUnit s.focusUnit
        { (r.1.after r.2.1).2 with exec := some { x with phase := .running (r.1.after r.2.1).1 lim } })

/-- A Moraine lane operation: a z register written in every lane, its poison cleared (R338, R349). -/
def MorLanes (i : Instr) (zd : BitVec 5) (f : MUnit → Nat → W32) : Prop :=
  MorDoes i (fun _ _ _ => True) (fun pc m s => (m.setZ zd (rowOf (f m)), pc, s))

/-- A Moraine command at which the unit in focus stands: its effect (R343). -/
def CommandDoes (i : Instr) (ok : Nat → MUnit → MorExec → Block → State → Prop) (eff : Nat → MUnit → MorExec → Block → State → State) : Prop :=
  commandLegal i = true → ∀ s x b,
    (s.unit s.focusUnit).exec = some x → s.morBlock (s.unit s.focusUnit) = some b → x.phase = .atCmd →
    ok s.focusUnit (s.unit s.focusUnit) x b s →
    exec i s = .next (eff s.focusUnit (s.unit s.focusUnit) x b s)

/-- A fired entry of the Drift engine, the entry in focus: its effect, on the state in which the entry has acquired what ACQ
gives it and the engine's cache has taken the pages that it uses (R368, R370, R406). -/
def DriftDoes (i : Instr) (ok : Nat → DriftEnt → DriftList → State → Prop) (eff : Nat → DriftEnt → DriftList → State → State) : Prop :=
  ∀ s e, tfind s.drifts s.focusEnt = some e → e.phase = .fired →
    ok s.focusEnt e (s.dlist e.list) ((s.entAcquire e).driftTouch e) →
    exec i s = .next (eff s.focusEnt e (s.dlist e.list) ((s.entAcquire e).driftTouch e))

/-- A step that answers a next state. -/
def SafeStep (s : State) : Prop := ∃ t, step s = .next t

/-- A run of n safe steps. -/
def SafeRun : Nat → State → Prop
  | 0, _ => True
  | n + 1, s => ∃ t, step s = .next t ∧ SafeRun n t

end Sys2Proof.Machine
end

