-- ==== Sys2Proof/Certificates/Slice0/Obligations.lean ====
section
/-! DEFINITION. The statements for the provers. -/

open Sys2Proof Sys2Proof.Machine

/-! Encodings. -/

/-- Decoding the encoding of a well-formed instruction gives it back, in every slot that takes it, with every operand at
every value (R64, R72 to R79). -/
def Obligations.SlotWordsRoundTrip : Prop :=
  ∀ (sl : Slot) (i : Instr), i.WellFormed → Takes sl i → decodeSlot sl (encode i) = .ok i

/-- The same of the Serac micro-words (R316 to R323), of the Moraine instructions (R336) and commands (R343), and of the Drift
work entries (R368). -/
def Obligations.EngineWordsRoundTrip : Prop :=
  ((∀ i : Instr, i.WellFormed → isMicro i = true → decodeMicro (encode64 i) = .ok i) ∧
  (∀ i : Instr, i.WellFormed → isMoraine i = true → decodeMoraine (encode32 i) = .ok i)) ∧
  ((∀ i : Instr, i.WellFormed → isCommand i = true → decodeCommand (encodeRecord i) = .ok i) ∧
  (∀ i : Instr, i.WellFormed → (driftHdr i).isSome = true → decodeDrift (encodeRecord i) = .ok i))

/-- A word that decodes is the encoding of what it decodes to: reserved bits are refused, and no instruction has two
words in one slot (R72 to R79, R80). -/
def Obligations.WordsReencode : Prop :=
  (∀ (w : W32) (i : Instr), decodeCtl w = .ok i → encode32 i = w) ∧
  (∀ (w : W32) (i : Instr), decodeSca w = .ok i → encode32 i = w) ∧
  (∀ (w : W32) (i : Instr), decodeScb w = .ok i → encode32 i = w) ∧
  (∀ (w : W32) (i : Instr), decodeMov w = .ok i → encode32 i = w) ∧
  (∀ (w : W64) (i : Instr), decodeVea w = .ok i → encode64 i = w) ∧
  (∀ (w : W64) (i : Instr), decodeVeb w = .ok i → encode64 i = w) ∧
  (∀ (w : W64) (i : Instr), decodeMem w = .ok i → encode64 i = w) ∧
  (∀ (w : W64) (i : Instr), decodeEng w = .ok i → encode64 i = w) ∧
  (∀ (w : W64) (i : Instr), decodeMicro w = .ok i → encode64 i = w) ∧
  (∀ (w : W32) (i : Instr), decodeMoraine w = .ok i → encode32 i = w)

/-- Words that the spec writes out decode to the instructions that it writes beside them (R122, R126, R129, R132, R134,
R137, R140, R142, R186, R205, R207, R273, R274, R373, R374 and the bundle after R80). -/
def Obligations.SpecWordsDecode : Prop :=
  decodeCtl 0x07FFFFC0 = .ok (.br (-64)) ∧
  decodeCtl 0x20000000 = .ok .lbrk ∧
  decodeCtl 0x24100400 = .ok (.wait 4 1) ∧
  decodeCtl 0x28100400 = .ok (.post 4 1) ∧
  decodeCtl 0x2C100870 = .ok (.waitp 4 2 7) ∧
  decodeCtl 0x45800000 = .ok (.fence 3) ∧
  decodeCtl 0x4CA2D800 = .ok (.rel 10 11 3) ∧
  decodeCtl 0x38000042 = .ok (.trap 0x42) ∧
  decodeCtl 0x3C000000 = .ok .eret ∧
  decodeCtl 0x40000000 = .ok .halt ∧
  decodeCtl 0x50700300 = .ok (.mfs 7 3) ∧
  decodeSca 0x0C514001 = .ok (.addi 5 5 1) ∧
  decodeSca 0x7C500412 = .ok (.lui 5 0x412) ∧
  decodeVea 0x03FE0100080D0000 = .ok (.fadd ⟨0xFF, 0, 0, 8, 0, 0x08, 0x0D, 0⟩) ∧
  decodeVeb 0x501E012008120000 = .ok (.iadd ⟨0x0F, 0, 0, 9, 0, 0x08, 0x12, 0⟩) ∧
  decodeVea 0x2802008000090000 = .ok (.faddx ⟨0x01, 0, 0, 4, 0, 0x00, 0x09, 0⟩) ∧
  decodeMov 0x0A018006 = .ok (.movp ⟨2, 0, 0x0C, 0, 6⟩) ∧
  decodeMov 0x12000280 = .ok (.movr ⟨2, 0, 0, 5, 0⟩) ∧
  decodeMov 0x20000408 = .ok (.pop ⟨0, 0, 0, 8, 8⟩) ∧
  decodeEng 0x5D82000009480000 = .ok (.launch ⟨3, 0, 0, 1, 0, 0, 9, 0x480000⟩) ∧
  decodeEng 0x6742000003580000 = .ok (.flushh ⟨6, 1, 0, 1, 0, 0, 3, 0x580000⟩) ∧
  decodeEng 0x55A2000002380000 = .ok (.darm ⟨3, 0, 1, 1, 0, 0, 2, 0x380000⟩) ∧
  decodeEng 0x5AC2000003294580 = .ok (.dput ⟨5, 1, 0, 1, 0, 0, 3, 0x294580⟩) ∧
  decodeMicro 0x2000780000000000 = .ok (.sacc 0 0 15 0 0 0) ∧
  decodeLine [0x1A, 0x01, 0x40, 0x51, 0x0C, 0x00, 0x00, 0x0D, 0x08, 0x00, 0x01, 0xFE, 0x03, 0x00, 0x00, 0x12, 0x08, 0x20,
      0x01, 0x1E, 0x50] =
    .bundle [(.sca, .addi 5 5 1), (.vea, .fadd ⟨0xFF, 0, 0, 8, 0, 0x08, 0x0D, 0⟩),
      (.veb, .iadd ⟨0x0F, 0, 0, 9, 0, 0x08, 0x12, 0⟩)] 21

/-- A word whose opcode the slot's map does not assign is refused, and so is an opcode of another slot; a command or a Drift
record of no assigned kind is refused (R72, R79, R316, R336, R343, R368). -/
def Obligations.OtherOpcodesRefused : Prop :=
  (∀ w : W32, (w.toNat / 2 ^ 26 = 0 ∨ 0x15 < w.toNat / 2 ^ 26) → ∃ n, decodeCtl w = .error (.unassigned n)) ∧
  (∀ w : W32, 0x22 ≤ w.toNat / 2 ^ 26 → w.toNat / 2 ^ 26 ≤ 0x2A → ∃ n, decodeSca w = .error (.wrongSlot n)) ∧
  (∀ w : W32, (w.toNat / 2 ^ 26 = 0 ∨ 0x2A < w.toNat / 2 ^ 26) → ∃ n, decodeSca w = .error (.unassigned n)) ∧
  (∀ w : W32, (w.toNat / 2 ^ 26 = 0 ∨ 0x2A < w.toNat / 2 ^ 26) → ∃ n, decodeScb w = .error (.unassigned n)) ∧
  (∀ w : W64, (w.toNat / 2 ^ 57 = 0 ∨ 0x38 < w.toNat / 2 ^ 57) → ∃ n, decodeVea w = .error (.unassigned n)) ∧
  (∀ w : W64, 0x17 ≤ w.toNat / 2 ^ 57 → w.toNat / 2 ^ 57 ≤ 0x24 → ∃ n, decodeVeb w = .error (.wrongSlot n)) ∧
  (∀ w : W64, (w.toNat / 2 ^ 57 = 0 ∨ 0x38 < w.toNat / 2 ^ 57) → ∃ n, decodeVeb w = .error (.unassigned n)) ∧
  (∀ w : W32, (w.toNat / 2 ^ 27 = 0 ∨ 0x0A < w.toNat / 2 ^ 27) → ∃ n, decodeMov w = .error (.unassigned n)) ∧
  (∀ w : W64, (w.toNat / 2 ^ 58 = 0 ∨ 0x09 < w.toNat / 2 ^ 58) → ∃ n, decodeMem w = .error (.unassigned n)) ∧
  (∀ w : W64, (w.toNat / 2 ^ 58 = 0 ∨ 0x19 < w.toNat / 2 ^ 58) → ∃ n, decodeEng w = .error (.unassigned n)) ∧
  (∀ w : W64, (w.toNat / 2 ^ 59 = 0 ∨ 0x0C < w.toNat / 2 ^ 59) → ∃ n, decodeMicro w = .error (.unassigned n)) ∧
  (∀ w : W32, (w.toNat / 2 ^ 27 = 0 ∨ 0x14 < w.toNat / 2 ^ 27) → ∃ n, decodeMoraine w = .error (.unassigned n)) ∧
  (∀ bs : List Byte, bs.length = 32 → ((bs.headD 0).toNat = 0 ∨ 8 < (bs.headD 0).toNat) →
    ∃ n, decodeCommand bs = .error (.unassigned n)) ∧
  (∀ bs : List Byte, bs.length = 64 → ((bs.headD 0).toNat = 0 ∨ 7 < (bs.headD 0).toNat) →
    ∃ e, decodeDrift bs = .error e)

/-- A bundle that fits its line decodes to its slots, whatever follows it: the header names the slots, and their words
follow in header-bit order (R64 to R66). -/
def Obligations.BundlesDecode : Prop :=
  ∀ (l : List (Slot × Instr)) (rest : List Byte),
    l ≠ [] → l.Pairwise (fun p q => p.1.bit < q.1.bit) → (∀ p ∈ l, p.2.WellFormed ∧ Takes p.1 p.2) →
    decodeLine (BitVec.ofNat 8 ((l.map (fun p => 2 ^ p.1.bit)).sum) :: (l.flatMap (fun p => encode p.2)) ++ rest) =
      .bundle l (1 + (l.map (fun p => p.1.bytes)).sum)

/-! Reset and steps. -/

/-- What reset leaves: no launch, image, command, message or context; the scalars, handles, semaphores, vector rows, masks but
k0, function ports, flags and Serac registers of every context 0, INTFMT 0x1010, no result in flight and no slot of a queue;
arrays that nobody owns, with no snapshot; the registers of every Moraine unit, the counters and WALLUS 0; every byte of
memory and of the local stores 0 (R417 for those that it names; the values of the registers whose reset is X, and of the
environment, are the model's choice, log 2 and log 3). -/
def Obligations.ResetState : Prop :=
  (∀ c n, (State.reset.ctxAt c n).tile = none ∧ (State.reset.ctxAt c n).env = none) ∧
  (∀ c n r, (State.reset.ctxAt c n).a.c.sr r = 0 ∧ tget 0 (State.reset.ctxAt c n).a.c.hnd r = 0 ∧
    tget 0 (State.reset.ctxAt c n).a.c.sem r = 0) ∧
  (∀ c n g r, (State.reset.ctxAt c n).a.v.row g r = 0) ∧
  (∀ c n, (State.reset.ctxAt c n).a.v.landing = [] ∧ (State.reset.ctxAt c n).a.v.vflags = 0 ∧
    (State.reset.ctxAt c n).a.c.loops = .none ∧ (State.reset.ctxAt c n).a.c.active = false) ∧
  (∀ c n g k, (State.reset.ctxAt c n).a.v.msk g k = if k = 0 then 0xFFFF else 0) ∧
  (∀ c n g, tget 0 (State.reset.ctxAt c n).a.v.sfA g = 0 ∧ tget 0 (State.reset.ctxAt c n).a.v.sfB g = 0 ∧
    tget 0 (State.reset.ctxAt c n).a.v.sfY g = 0) ∧
  (∀ c n, (State.reset.ctxAt c n).a.v.poison = [] ∧ (State.reset.ctxAt c n).a.v.replay = [] ∧
    (State.reset.ctxAt c n).a.v.ftz = false ∧ (State.reset.ctxAt c n).a.v.intfmt = 0x1010 ∧
    (State.reset.ctxAt c n).a.r.spair = 0 ∧ (State.reset.ctxAt c n).a.r.dirty = 0 ∧ (State.reset.ctxAt c n).a.r.stale = 0 ∧
    (State.reset.ctxAt c n).a.r.sflags = 0) ∧
  (∀ c n k, tget 0 (State.reset.ctxAt c n).a.r.mp k = 0 ∧ (State.reset.ctxAt c n).a.q.slots k = []) ∧
  (∀ c a, ((State.reset.core c).arr a).owner = none ∧ ((State.reset.core c).arr a).snapv = false ∧
    ((State.reset.core c).arr a).run = none ∧ ((State.reset.core c).arr a).queue = []) ∧
  (∀ u r, tget 0 (State.reset.unit u).z r = 0 ∧ tget 0 (State.reset.unit u).q r = 0 ∧ tget 0 (State.reset.unit u).base r = 0 ∧
    tget 0 (State.reset.unit u).bstat r = 0 ∧ (State.reset.unit u).must = 0 ∧ (State.reset.unit u).exec = none) ∧
  (∀ a, State.reset.byte a = 0) ∧ (∀ c a, tget 0 (State.reset.core c).ls a = 0) ∧
  State.reset.wallus = 0 ∧ (∀ n, tget 0 State.reset.ctrs n = 0) ∧
  State.reset.launches = [] ∧ State.reset.images = [] ∧ State.reset.flights = [] ∧ State.reset.packets = [] ∧
  State.reset.drifts = [] ∧ State.reset.nun.retired = [] ∧ State.reset.nun.scrubbed = false

/-- A reset keeps what R417 says survives it: RETIRED_MAP, the fuse counter, the key slots, the firmware slots, and the
event log, to which it may add; every other memory than HBM, which waits for its scrub, then reads 0, and no launch is
left. -/
def Obligations.ResetKeeps : Prop :=
  ∀ (s : State) (cold : Bool), ∃ t, exec (.reset cold) s = .next t ∧
    t.nun.retired = s.nun.retired ∧ t.nun.fuseCnt = s.nun.fuseCnt ∧ t.nun.keys = s.nun.keys ∧ t.nun.keySeq = s.nun.keySeq ∧
    t.nun.fwA = s.nun.fwA ∧ t.nun.fwB = s.nun.fwB ∧
    (s.nun.log.length < 65536 → ∀ e ∈ s.nun.log, e ∈ t.nun.log) ∧
    (∀ a, Config.hbmEnd ≤ a → t.byte a = 0) ∧ t.launches = [] ∧ t.cores = [] ∧ t.nun.scrubbed = false ∧ t.wallus = 0

/-- The machine right after reset has its memory in canonical form. -/
def Obligations.ResetMemoryCanonical : Prop :=
 Memory.wf State.reset.mem

/-- A core's step runs the bundle at the pc of the context chosen: its slots decoded from the bytes there, each by its own
meaning, then what follows a bundle (R39, R64 to R68); with one slot, exec of that slot's instruction. The bundle issues where
no page that its fetch needs or its slots touch is still to be walked, and its test lets it go (R39, R406). -/
def Obligations.StepRunsBundle : Prop :=
  (∀ (s v w t : State) (c n : Nat) (l : List (Slot × Instr)) (a : W64) (len : Nat),
    let x := (w.at' c n).modCx Ctx.replayInputs
    s.choice = (.issue c, v) → c < 512 → (v.poll c).choose c = (some n, w) → x.cx.a.p.first = none →
    x.fetch padLimit x.cx.a.c.pc = .ok (a, .bundle l len) → x.missing [fetchAfter x.cx.a.c.pc, a] = [] →
    x.prepareSlots a len l = .go t →
    step s = runBundle l ((t.spend (t.bundleCost l)).modIss (fun i => { i with need := semNeeds l, checked := true }))) ∧
  (∀ (x : State) (a : W64) (len : Nat) (l : List (Slot × Instr)),
    (let u := (x.openBundle a len).landed
     u.missing (l.flatMap (fun p => u.touches p.2)) = []) →
    x.prepareSlots a len l = (x.openBundle a len).test l) ∧
  (∀ (x : State) (bs : List Byte) (l : List (Slot × Instr)) (len : Nat),
    fetchAfter x.cx.a.c.pc = x.cx.a.c.pc → x.fetchLine x.cx.a.c.pc = .ok bs → decodeLine bs = .bundle l len →
    x.fetch padLimit x.cx.a.c.pc = .ok (x.cx.a.c.pc, .bundle l len)) ∧
  (∀ (sl : Slot) (i : Instr) (x : State),
    runBundle [(sl, i)] x = match exec i x with
      | .next z => .next z.finishBundle
      | .fault f => .fault f
      | .refused f => .refused f)

/-- An engine's step runs exec of the word, command or entry at which it stands: the micro-word of the routine's pc
(R315), the Moraine instruction of the RUN's index or the command of the block (R343 to R345), the fired Drift entry
(R368). -/
def Obligations.StepRunsEngines : Prop :=
  (∀ (s v t : State) (c a : Nat) (i : Instr), s.choice = (.array c a, v) → v.arrayTurn c a = some (some i, t) →
    step s = exec i t) ∧
  (∀ (t : State) (w : Work) (i : Instr), t.work t.focusCore t.focusArr = some w → w.r.lib = none → w.r.pc < 2048 →
    decodeMicro (w.k.microWord w.r.pc) = .ok i → t.microNext = (some i, t)) ∧
  (∀ (s v t : State) (u : Nat) (i : Instr), s.choice = (.unit u, v) → v.unitTurn u = some (some i, t) → step s = exec i t) ∧
  (∀ (t : State) (x : MorExec) (b : Block) (pc : Nat) (lim : Option Nat) (i : Instr),
    (t.unit t.focusUnit).exec = some x → t.morBlock (t.unit t.focusUnit) = some b → x.phase = .running pc lim →
    t.expired lim = false → pc < 96 → decodeMoraine (tget 0 (t.unit t.focusUnit).ib pc) = .ok i → t.morFetch = (some i, t)) ∧
  (∀ (t : State) (x : MorExec) (b : Block) (bs : List Byte) (i : Instr),
    (t.unit t.focusUnit).exec = some x → t.morBlock (t.unit t.focusUnit) = some b → x.phase = .atCmd →
    t.unitRead t.focusUnit b.asid (b.addr + BitVec.ofNat 64 (32 * x.cmd)) 32 = .ok bs → decodeCommand bs = .ok i →
    t.morFetch = (some i, t.unitFill t.focusUnit b.asid (b.addr + BitVec.ofNat 64 (32 * x.cmd)) 32)) ∧
  (∀ (s v : State) (n : Nat) (e : DriftEnt), s.choice = (.drift, v) → v.driftReady = some n → tfind v.drifts n = some e →
    step s = exec e.entry { v with focusEnt := n })

/-- An event that the step carries out is the meaning of its row of the opcode table. The order given from outside is followed,
and without one the oldest caused event comes first; time passes where the order says so (the model's own order, log 5). -/
def Obligations.StepRunsEvents : Prop :=
  ((∀ (s : State) (e : Event) (v : State), s.choice = (.event e, v) → step s = runEvent e { v with queue := v.queue.erase e }) ∧ ∀ s : State,
  (∀ unit, runEvent (.mailboxWake unit) s = exec (.mailboxWake unit) s) ∧
  (∀ unit, runEvent (.trigSatisfied unit) s = exec (.trigSatisfied unit) s) ∧
  (∀ unit, runEvent (.moraineLimitExpiry unit) s = exec (.moraineLimitExpiry unit) s) ∧
  (∀ blk, runEvent (.joinComplete blk) s = exec (.joinComplete blk) s) ∧
  (∀ unit, runEvent (.blockStart unit) s = exec (.blockStart unit) s) ∧
  (∀ blk, runEvent (.msubCompletion blk) s = exec (.msubCompletion blk) s) ∧
  (∀ msg, runEvent (.ringSlotTransfer msg) s = exec (.ringSlotTransfer msg) s) ∧
  (∀ ent, runEvent (.driftEntryCompletion ent) s = exec (.driftEntryCompletion ent) s) ∧
  (∀ ent, runEvent (.driftRetry ent) s = exec (.driftRetry ent) s) ∧
  (∀ lst, runEvent (.darmCompletion lst) s = exec (.darmCompletion lst) s) ∧
  (∀ acc ctr val, runEvent (.driftCounterAccess acc ctr val) s = exec (.driftCounterAccess acc ctr val) s) ∧
  (∀ put, runEvent (.multicastLine put) s = exec (.multicastLine put) s) ∧
  (∀ member grp off line, runEvent (.reduceContribution member grp off line) s = exec (.reduceContribution member grp off line) s) ∧
  (∀ core ctx va, runEvent (.apertureLoad core ctx va) s = exec (.apertureLoad core ctx va) s) ∧
  (∀ acc dpa len data, runEvent (.peerAccess acc dpa len data) s = exec (.peerAccess acc dpa len data) s) ∧
  (∀ peer byReset, runEvent (.peerIsolation peer byReset) s = exec (.peerIsolation peer byReset) s) ∧
  (∀ link, runEvent (.linkFailure link) s = exec (.linkFailure link) s) ∧
  (∀ link near far, runEvent (.linkRetrain link near far) s = exec (.linkRetrain link near far) s) ∧
  runEvent .emptyBundle s = exec .emptyBundle s ∧
  runEvent .resultLanding s = exec .resultLanding s ∧
  runEvent .sfuResultLanding s = exec .sfuResultLanding s ∧
  runEvent .declaredLoadLanding s = exec .declaredLoadLanding s ∧
  (∀ core ctx slot grp, runEvent (.loadDataArrival core ctx slot grp) s = exec (.loadDataArrival core ctx slot grp) s) ∧
  (∀ core ctx, runEvent (.ldsDataReturn core ctx) s = exec (.ldsDataReturn core ctx) s) ∧
  (∀ core ctx cause va, runEvent (.stsErrorResponse core ctx cause va) s = exec (.stsErrorResponse core ctx cause va) s) ∧
  (∀ cause info, runEvent (.trapEntry cause info) s = exec (.trapEntry cause info) s) ∧
  (∀ core, runEvent (.fairnessSwitch core) s = exec (.fairnessSwitch core) s) ∧
  (∀ core, runEvent (.priorityTakeover core) s = exec (.priorityTakeover core) s) ∧
  (∀ core, runEvent (.normalResume core) s = exec (.normalResume core) s) ∧
  (∀ slot, runEvent (.launchRecordCopy slot) s = exec (.launchRecordCopy slot) s) ∧
  (∀ lnch, runEvent (.countBlockRead lnch) s = exec (.countBlockRead lnch) s) ∧
  (∀ lnch, runEvent (.reservationRound lnch) s = exec (.reservationRound lnch) s) ∧
  (∀ lnch core, runEvent (.reserve lnch core) s = exec (.reserve lnch core) s) ∧
  (∀ lnch, runEvent (.commit lnch) s = exec (.commit lnch) s) ∧
  (∀ lnch, runEvent (.release lnch) s = exec (.release lnch) s) ∧
  (∀ lnch, runEvent (.backoffExpiry lnch) s = exec (.backoffExpiry lnch) s) ∧
  (∀ core ctx, runEvent (.tileTaskStart core ctx) s = exec (.tileTaskStart core ctx) s) ∧
  (∀ lnch, runEvent (.launchCompletion lnch) s = exec (.launchCompletion lnch) s) ∧
  (∀ core ent, runEvent (.copyCompletion core ent) s = exec (.copyCompletion core ent) s) ∧
  (∀ core ent, runEvent (.barrierDelivered core ent) s = exec (.barrierDelivered core ent) s) ∧
  (∀ lnch quad, runEvent (.rotqExchange lnch quad) s = exec (.rotqExchange lnch quad) s) ∧
  (∀ lnch quad, runEvent (.rotTimeout lnch quad) s = exec (.rotTimeout lnch quad) s) ∧
  (∀ req, runEvent (.atomApply req) s = exec (.atomApply req) s) ∧
  (∀ req, runEvent (.redApply req) s = exec (.redApply req) s) ∧
  (∀ reqA reqB, runEvent (.routerRedMerge reqA reqB) s = exec (.routerRedMerge reqA reqB) s) ∧
  (∀ req, runEvent (.redHoldExpiry req) s = exec (.redHoldExpiry req) s) ∧
  (∀ req, runEvent (.barrierInit req) s = exec (.barrierInit req) s) ∧
  (∀ req, runEvent (.barrierArrive req) s = exec (.barrierArrive req) s) ∧
  (∀ req, runEvent (.barrierWaitArrival req) s = exec (.barrierWaitArrival req) s) ∧
  (∀ req, runEvent (.btwaitTimeout req) s = exec (.btwaitTimeout req) s) ∧
  (∀ pkt, runEvent (.interestArrival pkt) s = exec (.interestArrival pkt) s) ∧
  (∀ router, runEvent (.interestAdmit router) s = exec (.interestAdmit router) s) ∧
  (∀ router, runEvent (.interestExpiry router) s = exec (.interestExpiry router) s) ∧
  (∀ pkt, runEvent (.announcementArrival pkt) s = exec (.announcementArrival pkt) s) ∧
  (∀ pkt, runEvent (.tileArrival pkt) s = exec (.tileArrival pkt) s) ∧
  (∀ pkt, runEvent (.sealArrival pkt) s = exec (.sealArrival pkt) s) ∧
  (∀ req, runEvent (.flushhCompletion req) s = exec (.flushhCompletion req) s) ∧
  (∀ core arr, runEvent (.routineStart core arr) s = exec (.routineStart core arr) s) ∧
  (∀ core arr, runEvent (.routineSuspend core arr) s = exec (.routineSuspend core arr) s) ∧
  (∀ core arr, runEvent (.routineResume core arr) s = exec (.routineResume core arr) s) ∧
  (∀ core arr, runEvent (.gatherFill core arr) s = exec (.gatherFill core arr) s) ∧
  (∀ core arr, runEvent (.sdrainCompletion core arr) s = exec (.sdrainCompletion core arr) s) ∧
  (∀ req, runEvent (.smloadWrite req) s = exec (.smloadWrite req) s) ∧
  (∀ core arr, runEvent (.seracDataError core arr) s = exec (.seracDataError core arr) s) ∧
  (∀ core ctx, runEvent (.checkpointCommit core ctx) s = exec (.checkpointCommit core ctx) s) ∧
  (∀ core ctx, runEvent (.rollback core ctx) s = exec (.rollback core ctx) s) ∧
  (∀ core ctx, runEvent (.rerunCompare core ctx) s = exec (.rerunCompare core ctx) s) ∧
  (∀ asid va, runEvent (.translationWalk asid va) s = exec (.translationWalk asid va) s) ∧
  runEvent .xinvInvalidate s = exec .xinvInvalidate s ∧
  runEvent .invalidationComplete s = exec .invalidationComplete s ∧
  (∀ core, runEvent (.evict core) s = exec (.evict core) s) ∧
  (∀ core, runEvent (.restore core) s = exec (.restore core) s) ∧
  (∀ core, runEvent (.controlStatusRead core) s = exec (.controlStatusRead core) s) ∧
  (∀ dpa data, runEvent (.hostCxlWrite dpa data) s = exec (.hostCxlWrite dpa data) s) ∧
  (∀ dpa len, runEvent (.hostCxlRead dpa len) s = exec (.hostCxlRead dpa len) s) ∧
  (∀ dpa data, runEvent (.registerWrite dpa data) s = exec (.registerWrite dpa data) s) ∧
  (∀ slot, runEvent (.loadRequest slot) s = exec (.loadRequest slot) s) ∧
  (∀ slot, runEvent (.unloadRequest slot) s = exec (.unloadRequest slot) s) ∧
  runEvent .cancel s = exec .cancel s ∧
  runEvent .retire s = exec .retire s ∧
  runEvent .linkup s = exec .linkup s ∧
  runEvent .reinstate s = exec .reinstate s ∧
  runEvent .powercap s = exec .powercap s ∧
  runEvent .fwupdate s = exec .fwupdate s ∧
  runEvent .fwconfirm s = exec .fwconfirm s ∧
  runEvent .keycmd s = exec .keycmd s ∧
  runEvent .attest s = exec .attest s ∧
  runEvent .idkey s = exec .idkey s ∧
  (∀ cold, runEvent (.reset cold) s = exec (.reset cold) s) ∧
  runEvent .scrubDone s = exec .scrubDone s ∧
  (∀ core, runEvent (.marginStep core) s = exec (.marginStep core) s) ∧
  (∀ mhz, runEvent (.replan mhz) s = exec (.replan mhz) s) ∧
  (∀ watts junction inlet, runEvent (.powerCapStep watts junction inlet) s = exec (.powerCapStep watts junction inlet) s) ∧
  (∀ junction, runEvent (.thermalTrip junction) s = exec (.thermalTrip junction) s) ∧
  (∀ core arr, runEvent (.cap4Off core arr) s = exec (.cap4Off core arr) s)) ∧
  ((∀ (s : State) (a : Act) (r : List Act), s.sched = a :: r → step s = runAct a { s with sched := r }) ∧
  (∀ (s : State) (e : Event) (r : List Event), s.sched = [] → s.queue = e :: r → step s = runEvent e { s with queue := r }) ∧
  (∀ (s : State) (us : Nat) (r : List Act), s.sched = .tick us :: r →
    step s = .next { s with sched := r, wallus := s.wallus + BitVec.ofNat 64 us,
                            aclks := s.aclks + BitVec.ofNat 64 (us * s.nun.effective) }))

/-- Nothing that the opcode table holds ever stops the machine: every instruction, command and event answers a next state
from every state, and a step gives a next state or fails noAgent. That it fails, where the order given from outside names an
agent that the device does not have, or one that has nothing to do, is the model's choice (log 5). -/
def Obligations.NothingStops : Prop :=
  (∀ (i : Instr) (s : State), ∃ t, exec i s = .next t) ∧
  (∀ s : State, (∃ t, step s = .next t) ∨ step s = .fault .noAgent)

/-! Issue, results and their landing. -/

/-- When a bundle issues: no LDS is out and no commit is due, nothing holds it, and no trap is due at it, all tested in
the state in which the results due have landed (R39, R68, R390, R392). That a hold is tested before a trap of the same bundle,
so that a held bundle is found blocked whatever trap is due at it, is the model's reading (log 14). -/
def Obligations.IssueVerdict : Prop :=
  (∀ (s t : State) (l : List (Slot × Instr)), s.test l = .go t ↔
    (t = s.landed ∧ s.landed.cx.lds = none ∧ s.landed.cx.guard.commitDue = false ∧ s.landed.heldBy l = false ∧
      s.landed.needsCommit false l = false ∧ s.landed.trapOf l = none)) ∧
  (∀ (s : State) (l : List (Slot × Instr)) (tr : TrapAt),
    s.landed.cx.lds = none → s.landed.cx.guard.commitDue = false → s.landed.heldBy l = false →
    s.landed.needsCommit false l = false → s.landed.trapOf l = some tr → s.test l = .stop (s.landed.takeTrap tr)) ∧
  (∀ (s : State) (l : List (Slot × Instr)),
    s.landed.cx.lds = none → s.landed.cx.guard.commitDue = false → s.landed.cx.launch.guard = false →
    s.landed.heldBy l = true → s.test l = .stop ((s.placeAcq s.landed l).markBlocked))

/-- The scalar arithmetic instructions issue in every state in which the context waits for nothing: nothing holds them, and
a well-formed one raises no trap (R68, R141, R391). -/
def Obligations.ScalarArithmeticIssues : Prop :=
  ∀ (i : Instr) (s : State), isScalarArith i = true → i.WellFormed → Free s → Ready i s

/-- The scalar arithmetic results: each lands after its latency, wraps modulo 2^64 and sets no flag (R141 to R142, R114;
MULH, MULHU, DIVS, DIVU, CLZ and POPC by functions that statements of their own describe). -/
def Obligations.ScalarArithmetic : Prop :=
  ∀ rd ra rb rc : BitVec 6,
  GivesScalar (.add rd ra rb) rd 1 (fun s => s.sr ra + s.sr rb) ∧
  GivesScalar (.sub rd ra rb) rd 1 (fun s => s.sr ra - s.sr rb) ∧
  (∀ imm, GivesScalar (.addi rd ra imm) rd 1 (fun s => s.sr ra + imm.signExtend 64)) ∧
  GivesScalar (.and rd ra rb) rd 1 (fun s => s.sr ra &&& s.sr rb) ∧
  GivesScalar (.or rd ra rb) rd 1 (fun s => s.sr ra ||| s.sr rb) ∧
  GivesScalar (.xor rd ra rb) rd 1 (fun s => s.sr ra ^^^ s.sr rb) ∧
  (∀ imm, GivesScalar (.andi rd ra imm) rd 1 (fun s => s.sr ra &&& imm.zeroExtend 64)) ∧
  (∀ imm, GivesScalar (.ori rd ra imm) rd 1 (fun s => s.sr ra ||| imm.zeroExtend 64)) ∧
  (∀ imm, GivesScalar (.xori rd ra imm) rd 1 (fun s => s.sr ra ^^^ imm.zeroExtend 64)) ∧
  GivesScalar (.shl rd ra rb) rd 1 (fun s => s.sr ra <<< ((s.sr rb).extractLsb' 0 6).toNat) ∧
  GivesScalar (.shr rd ra rb) rd 1 (fun s => s.sr ra >>> ((s.sr rb).extractLsb' 0 6).toNat) ∧
  GivesScalar (.sra rd ra rb) rd 1 (fun s => (s.sr ra).sshiftRight ((s.sr rb).extractLsb' 0 6).toNat) ∧
  (∀ sh, GivesScalar (.shli rd ra sh) rd 1 (fun s => s.sr ra <<< sh.toNat)) ∧
  (∀ sh, GivesScalar (.shri rd ra sh) rd 1 (fun s => s.sr ra >>> sh.toNat)) ∧
  (∀ sh, GivesScalar (.srai rd ra sh) rd 1 (fun s => (s.sr ra).sshiftRight sh.toNat)) ∧
  GivesScalar (.mul rd ra rb) rd 3 (fun s => s.sr ra * s.sr rb) ∧
  GivesScalar (.mulh rd ra rb) rd 3 (fun s => mulHigh (s.sr ra) (s.sr rb)) ∧
  GivesScalar (.mulhu rd ra rb) rd 3 (fun s => mulHighU (s.sr ra) (s.sr rb)) ∧
  GivesScalar (.divs rd ra rb) rd 12 (fun s => divSigned (s.sr ra) (s.sr rb)) ∧
  GivesScalar (.divu rd ra rb) rd 12 (fun s => divUnsigned (s.sr ra) (s.sr rb)) ∧
  GivesScalar (.min rd ra rb) rd 1 (fun s => if (s.sr ra).slt (s.sr rb) then s.sr ra else s.sr rb) ∧
  GivesScalar (.max rd ra rb) rd 1 (fun s => if (s.sr ra).slt (s.sr rb) then s.sr rb else s.sr ra) ∧
  GivesScalar (.minu rd ra rb) rd 1 (fun s => if (s.sr ra).toNat < (s.sr rb).toNat then s.sr ra else s.sr rb) ∧
  GivesScalar (.maxu rd ra rb) rd 1 (fun s => if (s.sr ra).toNat < (s.sr rb).toNat then s.sr rb else s.sr ra) ∧
  GivesScalar (.slt rd ra rb) rd 1 (fun s => if (s.sr ra).toInt < (s.sr rb).toInt then 1 else 0) ∧
  GivesScalar (.sltu rd ra rb) rd 1 (fun s => if (s.sr ra).toNat < (s.sr rb).toNat then 1 else 0) ∧
  GivesScalar (.seq rd ra rb) rd 1 (fun s => if s.sr ra = s.sr rb then 1 else 0) ∧
  GivesScalar (.sne rd ra rb) rd 1 (fun s => if s.sr ra = s.sr rb then 0 else 1) ∧
  GivesScalar (.selz rd ra rb rc) rd 1 (fun s => if s.sr rc = 0 then s.sr ra else s.sr rb) ∧
  (∀ imm, GivesScalar (.li rd imm) rd 1 (fun _ => imm.signExtend 64)) ∧
  (∀ imm, GivesScalar (.lui rd imm) rd 1 (fun s => s.sr rd * 0x100000 + imm.zeroExtend 64)) ∧
  GivesScalar (.clz rd ra) rd 1 (fun s => BitVec.ofNat 64 (leadZeros (s.sr ra))) ∧
  GivesScalar (.popc rd ra) rd 1 (fun s => BitVec.ofNat 64 (oneBits (s.sr ra)))

/-- Division by zero gives 2^64 − 1 in DIVU and −1 in DIVS, DIVS of −2^63 by −1 gives −2^63, and neither traps: they
complete wherever the context waits for nothing. LI with a constant's top 4 bits and three LUIs of 20 bits each build the
constant, and so the name of R22 (R142). -/
def Obligations.ScalarDivisionCorners : Prop :=
  (
    (∀ (rd ra rb : BitVec 6) (s : State), Free s → s.issued.sr rb = 0 →
      exec (.divu rd ra rb) s = .next (s.issued.landScal rd 12 (BitVec.ofNat 64 (2 ^ 64 - 1)))) ∧
    (∀ (rd ra rb : BitVec 6) (s : State), Free s → s.issued.sr rb = 0 →
      exec (.divs rd ra rb) s = .next (s.issued.landScal rd 12 (BitVec.ofInt 64 (-1)))) ∧
    (∀ (rd ra rb : BitVec 6) (s : State), Free s →
      s.issued.sr ra = BitVec.ofInt 64 (-(2 ^ 63)) → s.issued.sr rb = BitVec.ofInt 64 (-1) →
      exec (.divs rd ra rb) s = .next (s.issued.landScal rd 12 (BitVec.ofInt 64 (-(2 ^ 63))))) ∧
    (∀ (rd : BitVec 6) (imm : BitVec 20), GivesScalar (.li rd imm) rd 1 (fun _ => imm.signExtend 64) ∧
      GivesScalar (.lui rd imm) rd 1 (fun s => s.sr rd * 0x100000 + imm.zeroExtend 64)) ∧
    (∀ top m1 m2 m3 : BitVec 20,
      (((top.signExtend 64 * 0x100000 + m1.zeroExtend 64) * 0x100000 + m2.zeroExtend 64) * 0x100000 + m3.zeroExtend 64 : W64) =
        top.extractLsb' 0 4 ++ m1 ++ m2 ++ m3) ∧
    ((((0 * 0x100000 + 0x412) * 0x100000 + 0x3) * 0x100000 + 0x70009 : W64) = 0x0004120000370009)) ∧
  decodeSca 0x7C500412#32 = .ok (.lui 5 0x412)

/-- The quotients, truncated, of every division that is none of those of R142, the high halves of the 128-bit products, and the
counts: CLZ counts the zeros above the highest one, 64 for 0; POPC counts the ones, none for 0, one more where a 0 bit is
set (R141, R142). -/
def Obligations.ScalarFunctions : Prop :=
  ((∀ a b : W64, b ≠ 0 → (divUnsigned a b).toNat = a.toNat / b.toNat) ∧
  (∀ a b : W64, b ≠ 0 → ¬(a = BitVec.ofInt 64 (-(2 ^ 63)) ∧ b = BitVec.ofInt 64 (-1)) →
    (divSigned a b).toInt = a.toInt.tdiv b.toInt)) ∧
  ((∀ a b : W64, mulHigh a b = (a.signExtend 128 * b.signExtend 128).extractLsb' 64 64) ∧
  (∀ a b : W64, mulHighU a b = (a.zeroExtend 128 * b.zeroExtend 128).extractLsb' 64 64)) ∧
  (leadZeros 0 = 64 ∧
  (∀ a : W64, a ≠ 0 → leadZeros a < 64 ∧ 2 ^ (63 - leadZeros a) ≤ a.toNat ∧ a.toNat < 2 ^ (64 - leadZeros a)) ∧
  oneBits 0 = 0 ∧
  (∀ (a : W64) (k : Nat), k < 64 → a.getLsbD k = false → oneBits (a ||| BitVec.twoPow 64 k) = oneBits a + 1))

/-- A result takes effect when its count reaches 0, and of two that land together the later-issued stays; a register for which
none is due stands, and so does every result not yet due, whose count one bundle lowers by one. s63 reads as 0 and a
result for it is discarded. A row lands in the active lanes alone, and clears the register's poison; a mask lands in its
active lanes, and k0 stays all ones (R71, R113, R114, R152, R154, R155, R156). -/
def Obligations.ResultsLand : Prop :=
  ((∀ (x : Ctx) (r : Nat), r ≠ 63 → x.landAll.a.c.sr r =
    (((x.a.v.landing.filter (fun e => e.count == 0 && e.dest == .scal r)).getLast?).map
      (fun e => (e.value.truncate 64 : W64))).getD (x.a.c.sr r)) ∧
  (∀ (x : Ctx) (h : Nat), tget 0 x.landAll.a.c.hnd h =
    (((x.a.v.landing.filter (fun e => e.count == 0 && e.dest == .hnd h)).getLast?).map
      (fun e => e.value)).getD (tget 0 x.a.c.hnd h)) ∧
  (∀ x : Ctx, x.landAll.a.v.landing = x.a.v.landing.filter (fun e => e.count != 0)) ∧
  (∀ a : Arch, a.count.v.landing = a.v.landing.map (fun e => { e with count := e.count - 1 }) ∧ a.count.c.bcount = a.c.bcount + 1)) ∧
  ((∀ s : State, s.sr 63 = 0) ∧ (∀ (s : State) (lat : Nat) (v : W64), s.landScal 63 lat v = s) ∧
  (∀ (c : CtlSt) (r : Nat) (v : W64), (c.setSr r v).sr r = if r = 63 then 0 else v) ∧
  (∀ (c : CtlSt) (r q : Nat) (v : W64), q ≠ r → (c.setSr r v).sr q = c.sr q)) ∧
  ((∀ (v : VecSt) (g r l : Nat) (act : BitVec 16) (row : BitVec 512), l < 16 →
    lane ((v.landRow g r act row).row g r) l = if act.getLsbD l then lane row l else lane (v.row g r) l) ∧
  (∀ (v : VecSt) (g r g' r' : Nat) (act : BitVec 16) (row : BitVec 512), 64 * g' + r' ≠ 64 * g + r →
    (v.landRow g r act row).row g' r' = v.row g' r') ∧
  (∀ (v : VecSt) (g r : Nat) (act : BitVec 16) (row : BitVec 512), tmem (v.landRow g r act row).poison (64 * g + r) = false) ∧
  (∀ (v : VecSt) (g k l : Nat) (act : BitVec 16) (row : BitVec 512), l < 16 →
    ((v.landMask g k act row).msk g k).getLsbD l =
      if k = 0 then true else if act.getLsbD l then (lane row l).getLsbD 0 else (v.msk g k).getLsbD l))

/-- What a vector instruction computes: in each group of G, the active lanes' results, and nothing in the others; with no
stochastic rounding no generator moves (R152, R169). -/
def Obligations.LanesComputed : Prop :=
  (∀ (core : Nat) (acts : Nat → BitVec 16) (f : Nat → Nat → W32 → LaneRes) (gs : List Nat) (v : VecSt),
    runGroups core acts 0 f gs v = (v, gs.map (fun g => groupLandOf g (acts g)
      ((List.range 16).map (fun l => if (acts g).getLsbD l then f g l 0 else ⟨0, 0, 0⟩))))) ∧
  (∀ (core : Nat) (acts : Nat → BitVec 16) (n : Nat) (f : Nat → Nat → W32 → LaneRes) (gs : List Nat) (v : VecSt),
    { (runGroups core acts n f gs v).1 with frazil := v.frazil } = v) ∧
  (∀ (v : VecSt) (gm : BitVec 8) (k g l : Nat), (v.act gm k g).getLsbD l = (gm.getLsbD g && (v.msk g k).getLsbD l))

/-- An instruction whose only effect is results that land later changes nothing else at its issue: registers, flags,
semaphores, queues, other contexts and cores, and every byte of memory stand (R68, R114, R152, R156). -/
def Obligations.ResultsOnlyFrame : Prop :=
  ∀ (i : Instr) (s t : State), onlyResults i = true → Ready i s → exec i s = .next t → OnlyLands s.issued t

/-- The results of the vector instructions, lane by lane, with their destinations and latencies: single precision, exact pairs,
double words, reductions, dots, conversions, integers and lane moves (R155, R175 to R198); a reduction leaves zero in the
other active lanes (DEDUCED, log 20). -/
def Obligations.VectorResults : Prop :=
  (∀ o : VArgs,
  GivesLanes (.fadd o) o (.vec o.d.toNat) 4 (srSteps o) (fun v g l u => one (fAdd false v.ftz (rmOf o.rm.toNat) u (v.opnd o.a g l) (v.opnd o.b g l))) ∧
  GivesLanes (.fsub o) o (.vec o.d.toNat) 4 (srSteps o) (fun v g l u => one (fAdd true v.ftz (rmOf o.rm.toNat) u (v.opnd o.a g l) (v.opnd o.b g l))) ∧
  GivesLanes (.fmul o) o (.vec o.d.toNat) 4 (srSteps o) (fun v g l u => one (fMul v.ftz (rmOf o.rm.toNat) u (v.opnd o.a g l) (v.opnd o.b g l))) ∧
  GivesLanes (.fma o) o (.vec o.d.toNat) 4 (srSteps o) (fun v g l u => one (fFma false false v.ftz (rmOf o.rm.toNat) u (v.opnd o.a g l) (v.opnd o.b g l) (v.opnd o.c g l))) ∧
  GivesLanes (.fms o) o (.vec o.d.toNat) 4 (srSteps o) (fun v g l u => one (fFma false true v.ftz (rmOf o.rm.toNat) u (v.opnd o.a g l) (v.opnd o.b g l) (v.opnd o.c g l))) ∧
  GivesLanes (.fnma o) o (.vec o.d.toNat) 4 (srSteps o) (fun v g l u => one (fFma true false v.ftz (rmOf o.rm.toNat) u (v.opnd o.a g l) (v.opnd o.b g l) (v.opnd o.c g l))) ∧
  GivesLanes (.fmin o) o (.vec o.d.toNat) 4 0 (fun v g l _ => one (minMax false v.ftz (v.opnd o.a g l) (v.opnd o.b g l))) ∧
  GivesLanes (.fmax o) o (.vec o.d.toNat) 4 0 (fun v g l _ => one (minMax true v.ftz (v.opnd o.a g l) (v.opnd o.b g l))) ∧
  GivesLanes (.fabs o) o (.vec o.d.toNat) 4 0 (fun v g l _ => one (fSign false v.ftz (v.opnd o.a g l))) ∧
  GivesLanes (.fneg o) o (.vec o.d.toNat) 4 0 (fun v g l _ => one (fSign true v.ftz (v.opnd o.a g l))) ∧
  GivesLanes (.fcmp o) o (.mask (o.d.toNat % 8)) 4 0 (fun v g l _ => fCmp v.ftz (o.x.extractLsb' 0 3).toNat (v.opnd o.a g l) (v.opnd o.b g l)) ∧
  GivesLanes (.fsel o) o (.vec o.d.toNat) 4 0 (fun v g l _ => one (fPass v.ftz (if (v.msk g (o.x.extractLsb' 0 3).toNat).getLsbD l then (v.opnd o.a g l) else (v.opnd o.b g l)))) ∧
  GivesLanes (.fclass o) o (.vec o.d.toNat) 4 0 (fun v g l _ => one (fClass v.ftz (v.opnd o.a g l))) ∧
  GivesLanes (.rndi o) o (.vec o.d.toNat) 4 (srSteps o) (fun v g l u => one (rndI v.ftz (rmOf o.rm.toNat) u (v.opnd o.a g l))) ∧
  GivesLanes (.ftoi o) o (.vec o.d.toNat) 4 (srSteps o) (fun v g l u => one (fToI v.ftz (o.x.getLsbD 0) (rmOf o.rm.toNat) u (v.opnd o.a g l))) ∧
  GivesLanes (.itof o) o (.vec o.d.toNat) 4 (srSteps o) (fun v g l u => one (iToF (o.x.getLsbD 0) (rmOf o.rm.toNat) u (v.opnd o.a g l))) ∧
  GivesLanes (.getexp o) o (.vec o.d.toNat) 4 0 (fun v g l _ => one (getExp v.ftz (v.opnd o.a g l))) ∧
  GivesLanes (.getmant o) o (.vec o.d.toNat) 4 0 (fun v g l _ => one (getMant v.ftz (v.opnd o.a g l))) ∧
  GivesLanes (.expins o) o (.vec o.d.toNat) 4 (srSteps o) (fun v g l u => one (expIns v.ftz (o.x.getLsbD 0) (rmOf o.rm.toNat) u (v.opnd o.a g l) (v.opnd o.b g l)))) ∧
  (∀ o : VArgs,
  GivesLanes (.faddx o) o (.pair o.d.toNat) 5 0 (fun v g l _ => fAddX false (v.opnd o.a g l) (v.opnd o.b g l)) ∧
  GivesLanes (.fsubx o) o (.pair o.d.toNat) 5 0 (fun v g l _ => fAddX true (v.opnd o.a g l) (v.opnd o.b g l)) ∧
  GivesLanes (.fmulx o) o (.pair o.d.toNat) 5 0 (fun v g l _ => fMulX (v.opnd o.a g l) (v.opnd o.b g l)) ∧
  GivesLanes (.dwadd o) o (.pair o.d.toNat) 8 0 (fun v g l _ => dwAdd false (v.opnd o.a g l) (v.opndLo o.a g l) (v.opnd o.b g l) (v.opndLo o.b g l)) ∧
  GivesLanes (.dwsub o) o (.pair o.d.toNat) 8 0 (fun v g l _ => dwAdd true (v.opnd o.a g l) (v.opndLo o.a g l) (v.opnd o.b g l) (v.opndLo o.b g l)) ∧
  GivesLanes (.dwmul o) o (.pair o.d.toNat) 8 0 (fun v g l _ => dwMul (v.opnd o.a g l) (v.opndLo o.a g l) (v.opnd o.b g l) (v.opndLo o.b g l)) ∧
  GivesLanes (.dwadds o) o (.pair o.d.toNat) 8 0 (fun v g l _ => dwAddS (v.opnd o.a g l) (v.opndLo o.a g l) (v.opnd o.b g l)) ∧
  GivesLanes (.dwnorm o) o (.pair o.d.toNat) 8 0 (fun v g l _ => dwNorm (v.opnd o.a g l) (v.opndLo o.a g l)) ∧
  GivesLanes (.dwtof o) o (.vec o.d.toNat) 8 0 (fun v g l _ => dwToF (v.opnd o.a g l) (v.opndLo o.a g l)) ∧
  GivesLanes (.rsum o) o (.vec o.d.toNat) 6 0 (fun v g l _ => lane0 l (one (rSum v.ftz (rmOf o.rm.toNat) (activeWords v o g)))) ∧
  GivesLanes (.rsumc o) o (.pair o.d.toNat) 10 0 (fun v g l _ => lane0 l (rSumC (activeWords v o g))) ∧
  GivesLanes (.rmax o) o (.vec o.d.toNat) 6 0 (fun v g l _ => lane0 l (one (rMinMax true v.ftz (activeWords v o g)))) ∧
  GivesLanes (.rmin o) o (.vec o.d.toNat) 6 0 (fun v g l _ => lane0 l (one (rMinMax false v.ftz (activeWords v o g)))) ∧
  GivesLanes (.rsumi o) o (.vec o.d.toNat) 6 0 (fun v g l _ => lane0 l (one (rSumI (activeWords v o g)))) ∧
  GivesLanes (.fdot4 o) o (.vec o.d.toNat) 4 0 (fun v g l _ => one (fDot4 v.ftz (dotFmt (o.x.extractLsb' 0 2).toNat) (dotFmt (o.x.extractLsb' 2 2).toNat) (v.opnd o.a g l) (v.opnd o.b g l) (v.opnd o.c g l) (v.opndLo o.c g l))) ∧
  GivesLanes (.idotb o) o (.vec o.d.toNat) 4 0 (fun v g l _ => plain (iDot true (o.x.getLsbD 0) v.intfmt (v.opnd o.a g l) (v.opnd o.b g l) (v.opnd o.c g l))) ∧
  GivesLanes (.idotn o) o (.vec o.d.toNat) 4 0 (fun v g l _ => plain (iDot false (o.x.getLsbD 0) v.intfmt (v.opnd o.a g l) (v.opnd o.b g l) (v.opnd o.c g l))) ∧
  GivesLanes (.cvtf o) o (.vec o.d.toNat) 4 (srSteps o) (fun v g l u => one (cvtF v.ftz (o.x.getLsbD 3) (cvtFmt (o.x.extractLsb' 0 3).toNat) (o.x.extractLsb' 4 3).toNat (rmOf o.rm.toNat) u (v.opnd o.a g l) (v.opnd o.b g l))) ∧
  GivesLanes (.cvtn o) o (.vec o.d.toNat) 4 (srSteps o) (fun v g l u => one (cvtN v.ftz (o.x.getLsbD 7) (o.x.extractLsb' 0 3).toNat (o.x.extractLsb' 4 3).toNat v.intfmt (rmOf o.rm.toNat) u (v.opnd o.a g l) (v.opnd o.b g l))) ∧
  GivesLanes (.cvtb o) o (.vec o.d.toNat) 4 (2 * srSteps o) (fun v g l u => one (cvtB v.ftz (o.x.getLsbD 3) (rmOf o.rm.toNat) u (v.opnd o.a g l) (v.opnd o.b g l)))) ∧
  (∀ o : VArgs,
  GivesLanes (.iadd o) o (.vec o.d.toNat) 2 0 (fun v g l _ => plain ((v.opnd o.a g l) + (v.opnd o.b g l))) ∧
  GivesLanes (.isub o) o (.vec o.d.toNat) 2 0 (fun v g l _ => plain ((v.opnd o.a g l) - (v.opnd o.b g l))) ∧
  GivesLanes (.imul o) o (.vec o.d.toNat) 2 0 (fun v g l _ => plain ((v.opnd o.a g l) * (v.opnd o.b g l))) ∧
  GivesLanes (.imulh o) o (.vec o.d.toNat) 2 0 (fun v g l _ => plain (iMulH (o.x.getLsbD 0) (v.opnd o.a g l) (v.opnd o.b g l))) ∧
  GivesLanes (.imin o) o (.vec o.d.toNat) 2 0 (fun v g l _ => plain (iMinMax false (o.x.getLsbD 0) (v.opnd o.a g l) (v.opnd o.b g l))) ∧
  GivesLanes (.imax o) o (.vec o.d.toNat) 2 0 (fun v g l _ => plain (iMinMax true (o.x.getLsbD 0) (v.opnd o.a g l) (v.opnd o.b g l))) ∧
  GivesLanes (.iand o) o (.vec o.d.toNat) 2 0 (fun v g l _ => plain ((v.opnd o.a g l) &&& (v.opnd o.b g l))) ∧
  GivesLanes (.ior o) o (.vec o.d.toNat) 2 0 (fun v g l _ => plain ((v.opnd o.a g l) ||| (v.opnd o.b g l))) ∧
  GivesLanes (.ixor o) o (.vec o.d.toNat) 2 0 (fun v g l _ => plain ((v.opnd o.a g l) ^^^ (v.opnd o.b g l))) ∧
  GivesLanes (.ishl o) o (.vec o.d.toNat) 2 0 (fun v g l _ => plain ((v.opnd o.a g l) <<< ((v.opnd o.b g l).toNat % 32))) ∧
  GivesLanes (.ishr o) o (.vec o.d.toNat) 2 0 (fun v g l _ => plain ((v.opnd o.a g l) >>> ((v.opnd o.b g l).toNat % 32))) ∧
  GivesLanes (.isra o) o (.vec o.d.toNat) 2 0 (fun v g l _ => plain ((v.opnd o.a g l).sshiftRight ((v.opnd o.b g l).toNat % 32))) ∧
  GivesLanes (.icmp o) o (.mask (o.d.toNat % 8)) 2 0 (fun v g l _ => bitRes (iCmp (o.x.extractLsb' 0 3).toNat (v.opnd o.a g l) (v.opnd o.b g l)) 0) ∧
  GivesLanes (.iabs o) o (.vec o.d.toNat) 2 0 (fun v g l _ => plain (iAbs (v.opnd o.a g l))) ∧
  GivesLanes (.laneid o) o (.vec o.d.toNat) 2 0 (fun _ g l _ => plain (BitVec.ofNat 32 (if o.x.getLsbD 0 then 16 * g + l else l))) ∧
  GivesLanes (.bcast o) o (.vec o.d.toNat) 2 0 (fun v g _ _ => plain (v.opnd o.a g (o.x.extractLsb' 0 4).toNat)) ∧
  GivesLanes (.perm o) o (.vec o.d.toNat) 3 0 (fun v g l _ => plain (v.opnd o.a g ((v.opnd o.b g l).toNat % 16))))

/-! Control. -/

/-- The transfers: the next bundle's address and its cost in ACLK; BRC compares sC as signed with zero; CALL writes F to s62 and
leaves no loop. After a bundle with a taken transfer issue goes on at its target; without one, at the next bundle, unless
the bundle stands at an active level's LAST. A transfer, and whatever takes effect after its bundle, changes no register
and no byte of memory at issue (R68, R122, R123, R125, R127). -/
def Obligations.Transfers : Prop :=
  ((∀ ofs, Completes (.br ofs) (fun s => s.jump (s.cx.iss.addr + ofs.signExtend 64) true 2)) ∧
  (∀ sc cond ofs, Completes (.brc sc cond ofs) (fun s =>
    if (match cond.toNat with
      | 0 => decide ((s.sr sc).toInt = 0)
      | 1 => decide ((s.sr sc).toInt ≠ 0)
      | 2 => decide ((s.sr sc).toInt < 0)
      | 3 => decide (0 ≤ (s.sr sc).toInt)
      | 4 => decide (0 < (s.sr sc).toInt)
      | _ => decide ((s.sr sc).toInt ≤ 0))
    then s.jump (s.cx.iss.addr + ofs.signExtend 64) true 2 else s)) ∧
  (∀ rs, Completes (.jr rs) (fun s => s.jump (s.sr rs) true 3)) ∧
  (∀ ofs, Completes (.call ofs) (fun s => (s.jump (s.cx.iss.addr + ofs.signExtend 64) false 2).landScal 62 1 s.cx.iss.fall)) ∧
  Completes .ret (fun s => s.jump (s.sr 62) true 3)) ∧
  ((∀ s : State, s.cx.iss.post.find? Post.isControl = none → s.cx.iss.taken = true →
    s.control.cx.a.c.pc = s.cx.iss.next ∧
    s.control.cx.a.c.loops = if s.cx.iss.leaves then s.leaveLoops s.cx.iss.next s.cx.a.c.loops else s.cx.a.c.loops) ∧
  (∀ s : State, s.cx.iss.post.find? Post.isControl = none → s.cx.iss.taken = false →
    (∀ k ∈ s.cx.a.c.loops.order, tget 0 s.cx.a.c.loops.last k ≠ s.cx.iss.addr) →
    s.control.cx.a.c.pc = s.cx.iss.next ∧ s.control.cx.a.c.loops = s.cx.a.c.loops) ∧
  (∀ (s : State) (target : W64) (l : LoopSt),
    (∀ k ∈ l.order, tget 0 l.start k ≤ target ∧ target < s.bundleEnd (tget 0 l.last k)) → s.leaveLoops target l = l)) ∧
  (∀ (s : State) (target : W64) (leaves : Bool) (n : Nat), OnlyFocus s (s.jump target leaves n) ∧
    SameRegs s.cx (s.jump target leaves n).cx ∧ SameMem s (s.jump target leaves n)) ∧
  (∀ (s : State) (p : Post), OnlyFocus s (s.post p) ∧ SameRegs s.cx (s.post p).cx ∧ SameMem s (s.post p))

/-- A level that holds n passes sends issue back to START n − 1 times from its LAST, and then ends with its count 0
(R124, R125). -/
def Obligations.LoopsMakeTheirPasses : Prop :=
  ∀ (l : LoopSt) (k n m : Nat), l.order = [k] → (tget 0 l.lc k).toNat = n → m < n →
    (loopTests (tget 0 l.last k) m l).order = [k] ∧
    (tget 0 (loopTests (tget 0 l.last k) m l).lc k).toNat = n - m ∧
    (LoopSt.test (tget 0 l.last k) [k] (loopTests (tget 0 l.last k) m l)).1 =
      (if m + 1 < n then some (tget 0 l.start k) else none) ∧
    ((loopTests (tget 0 l.last k) n l).order = [] ∧ tget 0 (loopTests (tget 0 l.last k) n l).lc k = 0)

/-- LBRK, YIELD, CKPT, ERET, HALT, FENCE, ACQ, REL, MFS and MTS: what each leaves to follow its bundle, or does at once. LOOP
and LOOPI start a level with their count, its body from the bundle after to LAST, and a count of 0 passes the body over
(R124, R126, R132 to R136, R138 to R140). -/
def Obligations.ControlInstructions : Prop :=
  (Completes .lbrk (fun s => s.post .lbrk) ∧
  Completes .yield (fun s => s.post .yield) ∧
  Completes .ckpt (fun s => s.post (if s.cx.launch.guard then .commit else .ckptPc s.cx.iss.fall)) ∧
  Completes .eret (fun s => (s.post .eret).spend 3) ∧
  Completes .halt (fun s => s.post .halt) ∧
  (∀ scope, Completes (.fence scope) (fun s => s.performLoads.performStores s.ctxAgent scope.toNat)) ∧
  (∀ sa sb scope kind, kind ≠ 2 → Completes (.acq sa sb scope kind) (fun s =>
    s.dropAcq.acquire s.ctxAgent scope.toNat (fun x => s.acqObj (s.sr sa) kind == some x))) ∧
  (∀ sa sb scope, Completes (.acq sa sb scope 2) (fun s =>
    let st := match s.cx.acq with | some w => w.status.getD 0 | none => 0
    let t := if st = 0 then s.acquire s.ctxAgent scope.toNat (fun x => x == .name (s.sr sa)) else s
    t.dropAcq.landScal sb 1 (BitVec.ofNat 64 st))) ∧
  (∀ sa sb scope, Completes (.rel sa sb scope) (fun s =>
    if s.cx.launch.guard then s.holdSend (.rel sa sb scope) none else s.relEffect (s.sr sa) (s.sr sb) scope.toNat)) ∧
  (∀ rd sys, ¬(sys = 0x021 ∨ sys = 0x022) → Completes (.mfs rd sys) (fun s => s.landScal rd 1 (s.sysRead sys.toNat))) ∧
  (∀ rd, GivesUnguarded (.mfs rd 0x021) rd 1 (fun s => s.acycleOf s.focusCore)) ∧
  (∀ rd, GivesUnguarded (.mfs rd 0x022) rd 1 (fun s => s.wallus)) ∧
  (∀ rs sys, Completes (.mts rs sys) (fun s => s.post (.sysWrite sys.toNat (s.sr rs))))) ∧
  ((∀ lvl eo rs, Completes (.loop lvl eo rs) (fun s => s.startLoop lvl eo
    (if (s.sr rs).toInt ≤ 0 then 0 else min (s.sr rs).toNat (2 ^ 32 - 1)))) ∧
  (∀ lvl eo cnt, Completes (.loopi lvl eo cnt) (fun s => s.startLoop lvl eo cnt.toNat)) ∧
  (∀ (s : State) (lvl : BitVec 2) (eo : BitVec 14) (n : Nat), 0 < n → n < 2 ^ 64 →
    let t := s.startLoop lvl eo n
    (tget 0 t.cx.a.c.loops.lc lvl.toNat).toNat = n ∧ tget 0 t.cx.a.c.loops.start lvl.toNat = s.cx.iss.fall ∧
    tget 0 t.cx.a.c.loops.last lvl.toNat = s.cx.iss.addr + eo.zeroExtend 64 ∧
    t.cx.a.c.loops.order = s.cx.a.c.loops.order ++ [lvl.toNat] ∧ OnlyFocus s t ∧ SameMem s t ∧
    t.cx.a.c.scal = s.cx.a.c.scal ∧ t.cx.a.v = s.cx.a.v) ∧
  (∀ (s : State) (lvl : BitVec 2) (eo : BitVec 14),
    s.startLoop lvl eo 0 = s.post (.skip (s.cx.iss.addr + eo.zeroExtend 64))))

/-- WAIT, POST and WAITP (R129): what each takes or adds; the consumers of one bundle are treated together. A bundle
whose need a semaphore does not hold is held, and takes nothing. -/
def Obligations.Semaphores : Prop :=
  (∀ sem val, Completes (.wait sem val) (fun s =>
    ((s.recordUse (.wait sem val)).semSub sem (val.zeroExtend 16)).acquireSem sem)) ∧
  (∀ sem val, Completes (.post sem val) (fun s => s.post (.semAdd sem.toNat val.toNat))) ∧
  (∀ sem val rd, Completes (.waitp sem val rd) (fun s =>
    let t := s.recordUse (.waitp sem val rd)
    if val.toNat + needOf t.cx.iss.need sem.toNat ≤ (tget 0 t.cx.a.c.sem sem.toNat).toNat then
      ((t.semSub sem (val.zeroExtend 16)).acquireSem sem).landScal rd 1 1
    else t.landScal rd 1 0)) ∧
  (∀ (s : State) (sem : BitVec 8) (v : BitVec 16) (n : Nat), tget 0 (s.semSub sem v).cx.a.c.sem n =
    if n = sem.toNat then tget 0 s.cx.a.c.sem n - v else tget 0 s.cx.a.c.sem n) ∧
  (∀ (s : State) (l : List (Slot × Instr)) (sem n : Nat), (sem, n) ∈ semNeeds l →
    (tget 0 s.cx.a.c.sem sem).toNat < needOf (semNeeds l) sem → s.heldBy l = true) ∧
  (∀ (s : State) (sem val : BitVec 8), 0xFFFF < (tget 0 s.cx.a.c.sem sem.toNat).toNat + val.toNat →
    s.semovfOf [(.ctl, .post sem val)] = some sem.toNat)

/-- A signal that would carry a semaphore past 0xFFFF leaves it at 0xFFFF, and none is lost short of that; SEMOVF is then
due, with the lowest index, and is taken before the next bundle, whose address goes to TRAP_PC (R130). -/
def Obligations.SemaphoreSaturates : Prop :=
  (∀ (x : Ctx) (sem inc : Nat), (tget 0 (x.semAdd sem inc).a.c.sem sem).toNat =
    if 0xFFFF < (tget 0 x.a.c.sem sem).toNat + inc then 0xFFFF else (tget 0 x.a.c.sem sem).toNat + inc) ∧
  (∀ (x : Ctx) (sem inc : Nat), (x.semAdd sem inc).a.p.semovf =
    if 0xFFFF < (tget 0 x.a.c.sem sem).toNat + inc then
      some (match x.a.p.semovf with | some j => min j sem | none => sem)
    else x.a.p.semovf) ∧
  (∀ (s : State) (n : Nat), (s.modCx Ctx.replayInputs).cx.a.p.mchk = none → (s.modCx Ctx.replayInputs).cx.a.p.sdata = none →
    (s.modCx Ctx.replayInputs).cx.a.p.semovf = some n →
    ∃ t, s.prepare = .stop t ∧ t.cx.a.c.trapPc = (s.modCx Ctx.replayInputs).nextAddr ∧
      t.cx.a.c.trapInfo = BitVec.ofNat 64 n ∧ t.cx.a.c.trapCause = 3)

/-- TRAP lets the other slots of its bundle execute, and then raises SWTRAP: TRAP_PC is F, TRAP_INFO is CODE (R137). -/
def Obligations.SoftwareTrap : Prop :=
  (
    (∀ (code : BitVec 16) (s : State) (r : List (Slot × Instr)), s.cx.iss.checked = true →
      runSlots ((.ctl, .trap code) :: r) s = runSlots r (s.post (.trap code.toNat))) ∧
    (∀ code, Completes (.trap code) (fun s => s.post (.trap code.toNat))) ∧
    (∀ (s : State) (code : BitVec 16), s.cx.iss.post.find? Post.isControl = some (.trap code.toNat) →
      s.control.cx.a.c.trapPc = s.cx.iss.fall ∧ s.control.cx.a.c.trapInfo = code.zeroExtend 64 ∧
      s.control.cx.a.c.trapCause = 9)) ∧
  decodeCtl 0x38000042#32 = .ok (.trap 0x42)

/-- Trap entry, where a handler is set and none runs: the cause, its address and its information are saved; the landing buffer,
the loop state and RUN_LEFT are held; issue goes on at the vector; no register, flag, bundle count or byte of memory
changes; and a return gives all that was held back and goes on at TRAP_PC. That the handler starts with no loop level and with
RUN_LEFT 0 is the model's reading (log 24). Where the vector is 0 or a handler already
runs, the tile task ends with its results in flight, TRAP_PC, TRAP_CAUSE and TRAP_INFO are written all the same, and its
running launch is to end with FAULT (R31, R138). -/
def Obligations.TrapEntryAndReturn : Prop :=
  (∀ (s : State) (cause : Cause) (info pc : W64),
    (if cause = .replay then s.cx.a.c.replayVec else s.cx.a.c.trapVec) ≠ 0 → s.cx.a.c.active = false →
    let t := s.enterTrap cause info pc
    let c := s.cx.a.c
    t.cx.a.c.trapPc = pc ∧ t.cx.a.c.trapCause.toNat = cause.code ∧ t.cx.a.c.trapInfo = info ∧ t.cx.a.c.active = true ∧
    t.cx.a.c.pc = (if cause = .replay then c.replayVec else c.trapVec) ∧
    t.cx.a.c.held = some { landing := s.cx.a.v.landing, loops := c.loops, runLeft := c.runLeft, pc := pc } ∧
    t.cx.a.c.loops = .none ∧ t.cx.a.c.runLeft = 0 ∧ t.cx.a.v.landing = [] ∧ t.cx.a.c.bcount = c.bcount ∧
    t.cx.a.c.scal = c.scal ∧ t.cx.a.c.hnd = c.hnd ∧ t.cx.a.c.sem = c.sem ∧ t.cx.a.v.vreg = s.cx.a.v.vreg ∧
    t.cx.a.v.mask = s.cx.a.v.mask ∧ t.cx.a.v.vflags = s.cx.a.v.vflags ∧ t.mem = s.mem ∧
    t.leaveTrap.cx.a.v.landing = s.cx.a.v.landing ∧ t.leaveTrap.cx.a.c.loops = c.loops ∧
    t.leaveTrap.cx.a.c.runLeft = c.runLeft ∧ t.leaveTrap.cx.a.c.active = false ∧ t.leaveTrap.cx.a.c.pc = pc) ∧
  (∀ (s : State) (cause : Cause) (info pc : W64),
    ((if cause = .replay then s.cx.a.c.replayVec else s.cx.a.c.trapVec) = 0 ∨ s.cx.a.c.active = true) →
    let t := s.enterTrap cause info pc
    t.cx.tile = none ∧ t.cx.a.v.landing = [] ∧ t.cx.a.c.trapPc = pc ∧ t.cx.a.c.trapCause.toNat = cause.code ∧
    t.cx.a.c.trapInfo = info ∧ t.mem = s.mem ∧
    (∀ (r : Nat) (l : Launch), s.launchRef s.cx.launch.lid = some r → tfind s.launches r = some l → l.phase = .running →
      tfind t.launches r = some { l with phase := .stopping 7 }))

/-- Of several causes at one bundle the first in the order of R392 is taken, and ILL names the lowest slot that is
illegal, or the bundle (R391, R392). -/
def Obligations.TrapOrder : Prop :=
  (∀ (s : State) (l : List (Slot × Instr)) (n : Nat), s.illOf l = some n →
    s.trapOf l = some ⟨.ill, BitVec.ofNat 64 n, none⟩) ∧
  (∀ (s : State) (l : List (Slot × Instr)) (v : W64), s.illOf l = none → s.replayOf l = some v →
    s.trapOf l = some ⟨.replay, v, none⟩) ∧
  (∀ (s : State) (l : List (Slot × Instr)) (n : Nat), s.illOf l = none → s.replayOf l = none → s.sfmtOf l = some n →
    s.trapOf l = some ⟨.sfmt, BitVec.ofNat 64 n, none⟩) ∧
  (∀ (s : State) (l : List (Slot × Instr)) (v : W64), s.illOf l = none → s.replayOf l = none → s.sfmtOf l = none →
    s.wportOf l = some v → s.trapOf l = some ⟨.wport, v, none⟩) ∧
  (∀ (s : State) (l : List (Slot × Instr)) (n : Nat), s.illOf l = none → s.replayOf l = none → s.sfmtOf l = none →
    s.wportOf l = none → s.ckspanOf l = some n → s.trapOf l = some ⟨.ckspan, BitVec.ofNat 64 n, none⟩) ∧
  (∀ (s : State) (sl : Slot) (i : Instr), legal i = false → s.illOf [(sl, i)] = some sl.bit) ∧
  (∀ (s : State) (l : List (Slot × Instr)) (n : Nat), s.illOf l = some n → n ≤ 8 ∧
    (n < 8 → ∃ p ∈ l, p.1.bit = n ∧ s.illSlot l.length p.2 = true))

/-- MTS writes what MFS then reads, where the register is writable; a write to a read-only register changes nothing, the
V of SMEM_ERR and the bits of VFLAGS clear where 1 is written and stand where 0 is, and a loop count holds at most 2^32 − 1 (R8, R118, R140). -/
def Obligations.SystemRegisters : Prop :=
  (∀ (s : State) (w : W64) (n : Nat), n ∈ [0x008, 0x009, 0x00A, 0x00B, 0x00C] →
    (s.applyPost (.sysWrite n w)).sysRead n = w) ∧
  (∀ (s : State) (w : W64) (n : Nat), 0x110 ≤ n → n ≤ 0x117 → (s.applyPost (.sysWrite n w)).sysRead n = w) ∧
  (∀ (s : State) (w : W64) (n : Nat), n ∈ [0x010, 0x011, 0x012] →
    ((s.applyPost (.sysWrite n w)).sysRead n).toNat = min w.toNat (2 ^ 32 - 1)) ∧
  (∀ (s : State) (w : W64), (s.applyPost (.sysWrite 0x081 w)).sysRead 0x081 = if w.getLsbD 0 then 1 else 0) ∧
  (∀ (s : State) (w : W64), (s.applyPost (.sysWrite 0x084 w)).sysRead 0x084 = BitVec.ofNat 64 (w.toNat % 32)) ∧
  (∀ (s : State) (w : W64), (s.applyPost (.sysWrite 0x080 w)).sysRead 0x080 =
    s.sysRead 0x080 &&& ~~~ (w &&& ~~~ s.cx.iss.raised)) ∧
  (∀ (s : State) (w : W64) (k : Nat), k < 63 → ((s.applyPost (.sysWrite 0x018 w)).sysRead 0x018).getLsbD k =
    (s.sysRead 0x018).getLsbD k) ∧
  (∀ (s : State) (w : W64), ((s.applyPost (.sysWrite 0x018 w)).sysRead 0x018).getLsbD 63 =
    ((s.sysRead 0x018).getLsbD 63 && !w.getLsbD 63)) ∧
  (∀ (a : Arch) (raised w : W64) (n : Nat), n ∈ [0x001, 0x002, 0x003, 0x004, 0x005, 0x006, 0x007, 0x00D, 0x00E, 0x013, 0x014,
    0x020, 0x021, 0x022, 0x082, 0x083, 0x085, 0x086, 0x100, 0x101, 0x180, 0x181] → a.sysWrite raised n w = a)

/-! Handles, scalar memory, and the MOV and MEM slots. -/

/-- HSET accepts the values of R145 and no others: a non-canonical BASE is XLATE at it, any other value outside its range
and any reserved field are ILL. HGET then reads the value back, and every other field that shares no bit with it as
before. -/
def Obligations.HandleFieldsReadBack : Prop :=
  (∀ (h : W256) (v : W64), hsetRes h 0 v =
    if v.extractLsb' 56 8 = 0 ∨ v.extractLsb' 56 8 = 0xFF then .ok (putBits h 0 57 v.toNat) else .xlate v) ∧
  (∀ (h : W256) (f : BitVec 5) (v : W64), (∃ h', hsetRes h f v = .ok h') ↔
    (match f.toNat with
      | 0 => v.extractLsb' 56 8 = 0 ∨ v.extractLsb' 56 8 = 0xFF
      | 1 => v.toNat ≤ 3
      | 2 => v.toNat ≤ 9
      | 3 => v.toNat ≤ 0x1FFF
      | 5 | 6 => v.toNat ≤ 0xFFFFFF
      | 7 | 8 | 9 | 10 | 11 => v.toNat ≤ 0xFFFF
      | 12 | 13 | 14 | 15 => v.toNat ≤ 0xFFF
      | 16 => v.toNat ≤ 15
      | 4 | 17 | 18 | 19 | 20 => True
      | _ => False)) ∧
  (∀ (h : W256) (f : BitVec 5) (v : W64), f ≠ 0 → (∀ h', hsetRes h f v ≠ .ok h') → hsetRes h f v = .ill) ∧
  (∀ (h h' : W256) (f : BitVec 5) (v : W64), hsetRes h f v = .ok h' → hgetValue h' f = v) ∧
  (∀ (h h' : W256) (f g : BitVec 5) (v : W64), hsetRes h f v = .ok h' → f.toNat ≤ 16 → g.toNat ≤ 16 → g ≠ f →
    ¬(f = 4 ∧ 5 ≤ g.toNat ∧ g.toNat ≤ 7) → ¬(g = 4 ∧ 5 ≤ f.toNat ∧ f.toNat ≤ 7) → hgetValue h' g = hgetValue h g)

/-- HADV moves BASE by sS steps of a dimension, HTILE by (x, y) tiles and its TILE with it, HNAME its ITER or TILE; an odd
count of half bytes and a reserved format are ILL, a BASE out of the canonical range is XLATE at it, and no other field
changes (R146 to R148). -/
def Obligations.HandleMoves : Prop :=
  let inRange (a : Int) : Prop := -(2 ^ 56) ≤ a ∧ a < 2 ^ 56
  (∀ (h : W256) (v : W64) (k : BitVec 2), k ≠ 0 →
    let a := (hBase h).toInt + v.toInt * hStr h k.toNat * 2 ^ hSsh h
    (inRange a → ∃ h', hadvRes h v k = .ok h' ∧ (hBase h').toInt = a ∧
      ∀ g : BitVec 5, g ≠ 0 → g ≠ 17 → hgetValue h' g = hgetValue h g) ∧
    (¬inRange a → hadvRes h v k = .xlate (BitVec.ofInt 64 a))) ∧
  (∀ (h : W256) (v : W64) (eb : Nat), fmtBits (hFmt h) = some eb →
    let off := v.toInt * hStr h 0 * eb
    let a := (hBase h).toInt + off / 8
    (off % 8 ≠ 0 → hadvRes h v 0 = .ill) ∧
    (off % 8 = 0 → inRange a → ∃ h', hadvRes h v 0 = .ok h' ∧ (hBase h').toInt = a ∧
      ∀ g : BitVec 5, g ≠ 0 → g ≠ 17 → hgetValue h' g = hgetValue h g) ∧
    (off % 8 = 0 → ¬inRange a → hadvRes h v 0 = .xlate (BitVec.ofInt 64 a))) ∧
  (∀ (h : W256) (v w : W64) (f : BitVec 5), 9 < hFmt h → hadvRes h v 0 = .ill ∧ htileRes h v w f = .ill) ∧
  (∀ (h : W256) (x y : W64) (f : BitVec 5) (eb : Nat), fmtBits (hFmt h) = some eb →
    let off := x.toInt * hDim h 0 * hStr h 0 * eb + y.toInt * hDim h 1 * hStr h 1 * 2 ^ hSsh h * 8
    let a := (hBase h).toInt + off / 8
    (off % 8 ≠ 0 → htileRes h x y f = .ill) ∧
    (off % 8 = 0 → inRange a → ∃ h', htileRes h x y f = .ok h' ∧ (hBase h').toInt = a ∧
      ((hgetValue h' 6).toNat : Int) = ((hgetValue h 6).toNat + y.toInt * 2 ^ f.toNat + x.toInt) % 2 ^ 24 ∧
      ∀ g : BitVec 5, g.toNat ≤ 16 → g ≠ 0 → g ≠ 4 → g ≠ 6 → hgetValue h' g = hgetValue h g) ∧
    (off % 8 = 0 → ¬inRange a → htileRes h x y f = .xlate (BitVec.ofInt 64 a))) ∧
  (∀ (h : W256) (v w : W64), ∃ h', hnameRes h v w 0 = .ok h' ∧
    ((hgetValue h' 7).toNat : Int) = ((hgetValue h 7).toNat + v.toInt) % 2 ^ 16 ∧
    ∀ g : BitVec 5, g.toNat ≤ 16 → g ≠ 4 → g ≠ 7 → hgetValue h' g = hgetValue h g) ∧
  (∀ (h : W256) (v w : W64), ∃ h', hnameRes h v w 1 = .ok h' ∧
    ((hgetValue h' 6).toNat : Int) = ((hgetValue h 6).toNat + v.toInt) % 2 ^ 24 ∧
    ∀ g : BitVec 5, g.toNat ≤ 16 → g ≠ 4 → g ≠ 6 → hgetValue h' g = hgetValue h g) ∧
  (∀ (h : W256) (v w : W64), v.toNat < 2 ^ 24 → w.toNat < 2 ^ 16 → ∃ h', hnameRes h v w 2 = .ok h' ∧
    hgetValue h' 6 = v ∧ hgetValue h' 7 = w ∧
    ∀ g : BitVec 5, g.toNat ≤ 16 → g ≠ 4 → g ≠ 6 → g ≠ 7 → hgetValue h' g = hgetValue h g) ∧
  (∀ (h : W256) (v w : W64), (2 ^ 24 ≤ v.toNat ∨ 2 ^ 16 ≤ w.toNat) → hnameRes h v w 2 = .ill)

/-- The handle operations give the handle that statements of their own describe, and HGET the field. LDS blocks the context until
its value returns; STS stores, or a guarded segment holds it; LDF reads and STF writes the launch's share of the local
store at once. A word with an uncorrectable error lands as a free value (log 7), and what R393 or R303 says of it is due
(R143 to R148). -/
def Obligations.HandlesAndScalarMemory : Prop :=
  (∀ (h : BitVec 5) (rs rt : BitVec 6) (fld : BitVec 5),
  GivesHandle (.hset h rs fld) h (fun s => hsetRes (s.hr h) fld (s.sr rs)) ∧
  GivesScalar (.hget h rs fld) rs 1 (fun s => hgetValue (s.hr h) fld) ∧
  (∀ dim, GivesHandle (.hadv h rs dim) h (fun s => hadvRes (s.hr h) (s.sr rs) dim)) ∧
  GivesHandle (.htile h rs rt fld) h (fun s => htileRes (s.hr h) (s.sr rs) (s.sr rt) fld) ∧
  GivesHandle (.hname h rs rt fld) h (fun s => hnameRes (s.hr h) (s.sr rs) (s.sr rt) fld)) ∧
  (∀ (ra : BitVec 6) (sz : BitVec 3) (imm : BitVec 11) (rd : BitVec 6),
  Completes (.lds rd ra sz imm) (fun s =>
    let r := s.loadVirt (s.memAddr ra imm) (szBytes sz)
    ((r.1.recordUse (.lds rd ra sz imm)).modCx (fun x => { x with lds := some {
      dst := rd.toNat, va := s.memAddr ra imm, sz := sz, pos := x.a.v.landing.length,
      result := match r.2 with | .ok bs => .ok (szExtend sz bs) | .error e => .error e } })).enqueue
        (.ldsDataReturn s.focusCore s.focusCtx)) ∧
  Completes (.sts rd ra sz imm) (fun s =>
    if s.cx.launch.guard then
      (s.readUnder (s.memAddr ra imm) (szBytes sz)).hold (.store (s.memAddr ra imm) (bytesOfNat (szBytes sz) (s.sr rd).toNat)) 32
    else s.storeVirt (s.memAddr ra imm) (bytesOfNat (szBytes sz) (s.sr rd).toNat)) ∧
  (∀ s, Ready (.ldf rd ra sz imm) s →
    s.issued.fcore.lsBad s.issued.cx.launch (s.issued.memAddr ra imm).toNat (szBytes sz) = none →
    exec (.ldf rd ra sz imm) s = .next (s.issued.landScal rd 3
      (szExtend sz (s.issued.fcore.lsRead s.issued.cx.launch (s.issued.memAddr ra imm).toNat (szBytes sz))))) ∧
  (∀ s c, Ready (.ldf rd ra sz imm) s →
    s.issued.fcore.lsBad s.issued.cx.launch (s.issued.memAddr ra imm).toNat (szBytes sz) = some c →
    exec (.ldf rd ra sz imm) s =
      .next (((s.issued.landScal rd 3 (Config.freeWord s.issued.free)).nextFree).lsError c)) ∧
  (∀ s, Ready (.stf rd ra sz imm) s → s.issued.cx.launch.guard = false →
    exec (.stf rd ra sz imm) s = .next (s.issued.setFcore (s.issued.fcore.lsWrite s.issued.cx.launch
      (s.issued.memAddr ra imm).toNat (bytesOfNat (szBytes sz) (s.issued.sr rd).toNat)))))

/-- A share of the local store keeps what is written to it: a read of the bytes written gives them, in the order of R2, and
bytes outside the range, of this launch or of one that holds other units, read as before; of the words of one instruction the
last written stays (R33, R143, R212, R234). -/
def Obligations.LocalStore : Prop :=
  (∀ (k : Core) (e : LaunchEnv) (off n v : Nat), e.umap.Nodup → off + n ≤ 16384 * e.umap.length →
    natOfBytes ((k.lsWrite e off (bytesOfNat n v)).lsRead e off n) = v % 2 ^ (8 * n)) ∧
  (∀ (k : Core) (e : LaunchEnv) (off a : Nat) (bs : List Byte), e.umap.Nodup → off + bs.length ≤ 16384 * e.umap.length →
    a < 16384 * e.umap.length → (a < off ∨ off + bs.length ≤ a) →
    (k.lsWrite e off bs).lsRead e a 1 = k.lsRead e a 1) ∧
  (∀ (k : Core) (e f : LaunchEnv) (off a : Nat) (bs : List Byte), off + bs.length ≤ 16384 * e.umap.length →
    a < 16384 * f.umap.length → (∀ u ∈ e.umap, u ∉ f.umap) → (k.lsWrite e off bs).lsRead f a 1 = k.lsRead f a 1) ∧
  (∀ (k : Core) (e : LaunchEnv) (off : Nat) (bs : List Byte), { k.lsWrite e off bs with ls := k.ls, lsUe := k.lsUe } = k) ∧
  (∀ (k : Core) (e : LaunchEnv) (ws : List (Nat × W32)) (off : Nat) (w : W32), e.umap.Nodup → off + 4 ≤ 16384 * e.umap.length →
    natOfBytes ((k.lsWriteWords e (ws ++ [(off, w)])).lsRead e off 4) = w.toNat) ∧
  (∀ (k : Core) (e : LaunchEnv) (ws : List (Nat × W32)) (a : Nat), e.umap.Nodup → a < 16384 * e.umap.length →
    (∀ w ∈ ws, w.1 + 4 ≤ 16384 * e.umap.length ∧ (a < w.1 ∨ w.1 + 4 ≤ a)) →
    (k.lsWriteWords e ws).lsRead e a 1 = k.lsRead e a 1)

/-- What an STS stores and what it leaves alone: with nothing of the context in flight and its address translated to one
range of this device's memory, the bytes at that range become the low bytes of sD, and every other byte of memory, every
register and every other core and context stand; a guarded one stores nothing yet (R143, R144, R300). -/
def Obligations.ScalarStoreFrame : Prop :=
  (∀ (s : State) (va : W64) (bs : List Byte) (d : Nat), s.flights = [] → s.cx.a.unread = false →
    s.xlRange va bs.length .store = .ok [(d, bs.length)] →
    (regionOf d = .hbm ∨ regionOf d = .firn ∨ regionOf d = .window) → s.partBad d bs.length = false →
    let t := s.storeVirt va bs
    readBytes t.mem d bs.length = bs ∧ t.readAs s.ctxAgent d bs.length = .ok bs ∧ (∀ a, (a < d ∨ d + bs.length ≤ a) → t.byte a = s.byte a) ∧ t.cx = s.cx ∧
    (∀ c n, (t.core c).ctx n = (s.core c).ctx n) ∧ (∀ c, (t.core c).ls = (s.core c).ls) ∧ t.queue = s.queue) ∧
  (∀ (s : State) (h : HeldEff) (n : Nat), OnlyFocus s (s.hold h n) ∧ SameRegs s.cx (s.hold h n).cx ∧ SameMem s (s.hold h n)) ∧
  (∀ (s : State) (va : W64) (bs : List Byte) (p : List (Nat × Nat)), s.flights = [] → s.cx.a.unread = false →
    s.xlRange va bs.length .store = .ok p → p.any (fun q => s.partBadAt q.1 q.2) = true →
    Event.stsErrorResponse s.focusCore s.focusCtx 1 va ∈ (s.storeVirt va bs).queue ∧ SameMem s (s.storeVirt va bs)) ∧
  (∀ (s : State) (va : W64) (bs : List Byte) (e : Resp) (p : List (Nat × Nat)), s.flights = [] → s.cx.a.unread = false →
    s.xlRange va bs.length .store = .ok p → p.any (fun q => s.partBadAt q.1 q.2) = false →
    (s.tlbFill s.focusCore s.cx.launch.asid va).writePieces [s.ctxAgent] p bs = .error e →
    Event.stsErrorResponse s.focusCore s.focusCtx e va ∈ (s.storeVirt va bs).queue)

/-- The MOV slot: transport moves, cross-group copies, queue pops, mask moves, scalar exchange and seeding (R201 to R210). -/
def Obligations.MovSlot : Prop :=
  ∀ o : MovArgs,
  let all : Nat → BitVec 8 := fun _ => 0
  let bits (m : BitVec 16) : BitVec 512 := rowOf (fun l => if m.getLsbD l then 1 else 0)
  ((o.x.extractLsb' 0 4).toNat ≤ 1 → Completes (.movp o) (fun s =>
    (groupList o.readGroups).foldl (fun t g => t.post (.port ((o.x.extractLsb' 0 4).toNat == 1) g (s.cx.a.v.row g (opReg o.a)))) s)) ∧
  (1 < (o.x.extractLsb' 0 4).toNat → Completes (.movp o) (fun s =>
    let p := (o.x.extractLsb' 0 4).toNat
    let res (g : Nat) := sfuLanes s.cx.a.v.ftz p (s.cx.a.v.row g (opReg o.a)) (tget 0 s.cx.a.v.sfB g)
    ((groupList o.readGroups).foldl (fun t g => t.post (.port false g (s.cx.a.v.row g (opReg o.a)))) s).landRows .sfy 14
      (groupList o.readGroups) 0xFFFF (fun g => rowOfList ((res g).map (fun r => r.1)))
      (fun g => (res g).foldl (fun f r => f ||| r.2) 0))) ∧
  Completes (.movr o) (fun s => s.landRows (.vec o.d.toNat) 2 (groupList o.readGroups) 0xFFFF (fun g => tget 0 s.cx.a.v.sfY g) all) ∧
  Completes (.xgc o) (fun s => s.landRows (.vec o.d.toNat) 3 (if o.all then List.range 8 else [o.gd.toNat]) 0xFFFF
    (fun _ => if o.x.getLsbD 4 then rowOf (fun _ => lane (s.cx.a.v.row o.gs.toNat (opReg o.a)) (o.x.extractLsb' 0 4).toNat)
      else s.cx.a.v.row o.gs.toNat (opReg o.a)) all) ∧
  (∀ (s : State) (e : QSlot) (r : List QSlot) (v : W64), Ready (.pop o) s →
    s.issued.cx.a.q.slots (o.x.extractLsb' 0 3).toNat = e :: r → e.entry = some v →
    exec (.pop o) s = .next (
      let t := (s.issued.popHead (o.x.extractLsb' 0 3).toNat).landScal o.d 1 v
      if o.x.getLsbD 3 then t else t.landScal (o.d + 1) 1 0)) ∧
  (∀ s : State, Ready (.pop o) s → o.x.getLsbD 3 = false →
    (∀ e ∈ (s.issued.cx.a.q.slots (o.x.extractLsb' 0 3).toNat).head?, e.entry = none) →
    exec (.pop o) s = .next ((s.issued.landScal o.d 1 0).landScal (o.d + 1) 1 1)) ∧
  ((o.x.extractLsb' 0 2).toNat = 0 → Completes (.kmov o) (fun s =>
    s.landRows (.mask (o.d.toNat % 8)) 1 (groupList o.readGroups) 0xFFFF (fun g => bits (s.cx.a.v.msk g (o.a.toNat % 8))) all)) ∧
  ((o.x.extractLsb' 0 2).toNat = 1 → Completes (.kmov o) (fun s =>
    s.landRows (.mask (o.d.toNat % 8)) 1 (groupList o.readGroups) 0xFFFF (fun g => s.cx.a.v.row g (opReg o.a)) all)) ∧
  (1 < (o.x.extractLsb' 0 2).toNat → Completes (.kmov o) (fun s =>
    s.landRows (.vec o.d.toNat) 2 (groupList o.readGroups) 0xFFFF (fun g => bits (s.cx.a.v.msk g (o.a.toNat % 8))) all)) ∧
  Completes (.kand o) (fun s => s.landRows (.mask (o.d.toNat % 8)) 1 (groupList o.readGroups) 0xFFFF
    (fun g => bits (s.cx.a.v.msk g (o.a.toNat % 8) &&&
      (if o.x.getLsbD 3 then ~~~ s.cx.a.v.msk g (o.x.extractLsb' 0 3).toNat else s.cx.a.v.msk g (o.x.extractLsb' 0 3).toNat))) all) ∧
  Completes (.kor o) (fun s => s.landRows (.mask (o.d.toNat % 8)) 1 (groupList o.readGroups) 0xFFFF
    (fun g => bits (s.cx.a.v.msk g (o.a.toNat % 8) |||
      (if o.x.getLsbD 3 then ~~~ s.cx.a.v.msk g (o.x.extractLsb' 0 3).toNat else s.cx.a.v.msk g (o.x.extractLsb' 0 3).toNat))) all) ∧
  Completes (.movs o) (fun s => s.landRows (.vec o.d.toNat) 2 (groupList o.readGroups)
    (if o.x.getLsbD 4 then BitVec.ofNat 16 (2 ^ (o.x.extractLsb' 0 4).toNat) else 0xFFFF)
    (fun _ => rowOf (fun _ => (s.sr (o.a.extractLsb' 0 6)).truncate 32)) all) ∧
  GivesScalar (.movv o) o.d 2 (fun s =>
    let w := lane (s.cx.a.v.row o.gs.toNat (opReg o.a)) (o.x.extractLsb' 0 4).toNat
    if o.x.getLsbD 5 then w.signExtend 64 else w.zeroExtend 64) ∧
  Completes (.srseed o) (fun s =>
    s.post (.seed (o.x.getLsbD 0) (o.x.getLsbD 1) ((s.sr (o.a.extractLsb' 0 6)).truncate 32)))

/-- The MEM slot: local-store rows where no error stands, the stores after their bundle, the declared loads with their
replay slots, atomics and reductions (R211 to R221). That a load takes the lowest free replay slot is the model's choice (log
25). -/
def Obligations.MemSlot : Prop :=
  ∀ o : MemArgs,
  let rows (i : Instr) : Prop := ∀ s : State, Ready i s →
    (∀ p ∈ s.issued.cx.a.v.lanesOf o.g o.k.toNat,
      s.issued.fcore.lsBad s.issued.cx.launch (s.issued.laneOf i p.1 p.2).toNat 4 = none) →
    ∃ t, exec i s = .next t ∧
      ∃ gl : List GroupLand, t = s.issued.land { count := 6, dest := .vec (opReg o.v), value := 0, slot := none, groups := gl } ∧
        gl.map (fun x => x.grp) = groupList o.g ∧
        ∀ x ∈ gl, x.act = s.issued.cx.a.v.act o.g o.k.toNat x.grp ∧ ∀ l, l < 16 → x.act.getLsbD l →
          (lane x.lo l).toNat = natOfBytes (s.issued.fcore.lsRead s.issued.cx.launch (s.issued.laneOf i x.grp l).toNat 4)
  let stores (i : Instr) : Prop := Completes i (fun s =>
    (s.journal i).post (.lsWrites ((s.cx.a.v.lanesOf o.g o.k.toNat).map (fun p =>
      ((s.laneOf i p.1 p.2).toNat, s.cx.a.v.opnd o.v p.1 p.2)))))
  let loads (i : Instr) (remote : Bool) : Prop := ∀ (s : State) (n : Nat), Ready i s →
    n < 32 → tmem s.issued.cx.a.v.replay n = false → (∀ m, m < n → tmem s.issued.cx.a.v.replay m = true) →
    exec i s = .next ((s.issued.recordUse i).issueLoad n {
      hnd := s.issued.hr o.h, idx := s.issued.memIdx o,
      act := (List.range 8).map (fun g => s.issued.cx.a.v.act o.g o.k.toNat g), grps := o.g, dst := opReg o.v,
      lat := o.lat.toNat, remote := remote, cause := 0, pgrp := 0, flying := true } o.g o.lat.toNat)
  rows (.vld o) ∧ rows (.vldx o) ∧ stores (.vst o) ∧ stores (.vstx o) ∧ loads (.ldg o) false ∧ loads (.ldr o) true ∧
  (∀ (s : State) (r : RSlot), Ready (.reld o) s →
    tfind s.issued.cx.a.v.replay ((s.issued.sr o.s).toNat % 32) = some r →
    exec (.reld o) s = .next (if s.issued.reldGroups o = 0 then s.issued else
      (s.issued.recordUse (.reld o)).issueLoad ((s.issued.sr o.s).toNat % 32) r (s.issued.reldGroups o) o.lat.toNat)) ∧
  (∀ s : State, Ready (.vatom o) s → s.issued.cx.launch.guard = false → s.issued.cx.guard.replayLeft = [] →
    exec (.vatom o) s = .next (
      let lanes := s.issued.atomLanes (.vatom o) o
      let n := 8 * groupCount o.g
      let r := s.issued.reserve qMem n
      let f := (r.2.performLoadsAt (lanes.map (fun l => (l.2.1, 4)))).addFlight (.vatom s.issued.origin (o.x.extractLsb' 0 4).toNat lanes ((List.range n).map (fun j => r.1 + j)))
      (lanes.foldl (fun t l => t.tlbFill t.focusCore t.cx.launch.asid l.1) f.2).enqueue (.atomApply f.1))) ∧
  (∀ s : State, Ready (.vred o) s → s.issued.cx.launch.guard = false →
    exec (.vred o) s = .next (
      let lanes := s.issued.atomLanes (.vred o) o
      let t := s.issued.performLoadsAt (lanes.map (fun l => (l.2.1, 4)))
      if lanes = [] then t else
        let f := t.addFlight (.vred s.issued.origin lanes.length [])
        (lanes.zipIdx).foldl (fun t p => (t.tlbFill t.focusCore t.cx.launch.asid p.1.1).sendRed p.1.2.1 4 (o.x.extractLsb' 0 4).toNat
          (p.1.2.2.1.zeroExtend 64) [{ org := t.origin, va := p.1.1, sig := none, vred := some (f.1, p.2) }]) f.2)) ∧
  (∀ s : State, Ready (.vred o) s → s.issued.cx.launch.guard = true →
    exec (.vred o) s = .next (s.issued.holdSend (.vred o) none))

/-! The ENG slot and homes. -/

/-- An ENG command consumes its wait, reserves its result slots in issue order, and is sent, or held in a guarded segment; each
is sent as its own rules say. Reserving adds unfilled slots at a queue's tail with one sequence number, and POP takes the
head, changing nothing else (R129, R237 to R239, R263, R300). -/
def Obligations.EngSlot : Prop :=
  (∀ o : EngArgs,
  let sends (i : Instr) (f : Nat → State → State) : Prop := Completes i (fun s => s.engCmd i o f)
  sends (.copy o) (fun q s => s.sendCopy 1 o q) ∧ sends (.copys o) (fun q s => s.sendCopy 2 o q) ∧
  sends (.rotq o) (fun q s => s.sendRotq o q) ∧ sends (.ask o) (fun q s => s.sendAsk o q) ∧
  sends (.announce o) (fun q s => s.sendAnnounce o q) ∧ sends (.seal o) (fun q s => s.sendSeal o q) ∧
  sends (.atom o) (fun q s => s.sendAtom o q) ∧ sends (.red o) (fun _ s => s.sendRedCmd o) ∧
  sends (.binit o) (fun q s => s.sendBinit o q) ∧ sends (.barr o) (fun q s => s.sendBarr 0x0A o q) ∧
  sends (.barrx o) (fun q s => s.sendBarr 0x0B o q) ∧ sends (.bwait o) (fun q s => s.sendBwait 0x0C o q) ∧
  sends (.btwait o) (fun q s => s.sendBwait 0x0D o q) ∧ sends (.flushh o) (fun _ s => s.sendFlushh o) ∧
  sends (.scall o) (fun q s => (s.pushArr 0x0E (o.pf 22 2) q o).modSer (fun r => { r with dirty := setBit4 r.dirty (o.pf 22 2) true })) ∧
  sends (.sdrain o) (fun q s => (s.pushArr 0x10 (o.pf 22 2) q o).modSer (fun r =>
    { r with dirty := setBit4 r.dirty (o.pf 22 2) false, stale := setBit4 r.stale (o.pf 22 2) false })) ∧
  sends (.smload o) (fun q s => ((s.drainCmd s.origin).addFlight (.smload s.origin o (s.pHnd o 19) q (EngArgs.signal o))).2) ∧
  sends (.sintf o) (fun _ s => (s.modVec (fun v => { v with intPend := v.intPend ++ [(3, BitVec.ofNat 16 (o.pf 0 16))] })).post
    (.semAdd o.ssem.toNat o.sinc.toNat)) ∧
  sends (.msub o) (fun q s => s.sendMsub o q) ∧ sends (.mstat o) (fun q s => s.sendMstat o q) ∧
  sends (.darm o) (fun q s => s.sendDarm o q) ∧ sends (.dput o) (fun q s => s.sendDput o q) ∧
  sends (.launch o) (fun _ s => s.sendLaunch o false) ∧ sends (.launchi o) (fun _ s => s.sendLaunch o true) ∧
  (∀ s, Ready (.scfg o) s → ∃ f : Nat → State → State, exec (.scfg o) s = .next (s.issued.engCmd (.scfg o) o f) ∧
    ∀ (q : Nat) (t : State),
      let old := t.cx.a.r.spair.extractLsb' (6 * o.pf 22 2) 6
      let new : BitVec 6 := BitVec.ofNat 6 (8 * o.pf 19 3 + o.pf 16 3)
      let no := serBits (o.pf 19 3) == 4 && !((t.fcore.arr (o.pf 22 2)).take t.cx.launch.lid (t.focusCtx == 4)).cap4
      (f q t).cx.iss.post = t.cx.iss.post ++ [.semAdd o.ssem.toNat o.sinc.toNat] ∧
      ((f q t).cx.a.r.spair.extractLsb' (6 * o.pf 22 2) 6 = if no then old else new) ∧
      ((f q t).cx.a.r.stale.getLsbD (o.pf 22 2) =
        (t.cx.a.r.stale.getLsbD (o.pf 22 2) || (!no && old != new && t.cx.a.r.dirty.getLsbD (o.pf 22 2))))) ∧
  (∀ (i : Instr) (s : State) (f : Nat → State → State), s.cx.launch.guard = false → s.queueOf i = none →
    s.engCmd i o f = f 0 ((s.newCmd.consumeWait o).beginCmd i o)) ∧
  (∀ (i : Instr) (s : State) (f : Nat → State → State) (q n : Nat), s.cx.launch.guard = false → s.queueOf i = some (q, n) →
    let r := (s.newCmd.consumeWait o).reserve q n
    s.engCmd i o f = f r.1 (r.2.beginCmd i o)) ∧
  (∀ (i : Instr) (s : State) (f : Nat → State → State) (q n : Nat), s.cx.launch.guard = true → heldEng i = true →
    s.queueOf i = some (q, n) →
    let r := ((s.recordUse i).newCmd.consumeWait o).reserve q n
    s.engCmd i o f = r.2.holdSend i (some r.1)) ∧
  (∀ (s : State) (n : Nat), tget 0 (s.consumeWait o).cx.a.c.sem n =
    if n = o.wsem.toNat then tget 0 s.cx.a.c.sem n - o.wthr.zeroExtend 16 else tget 0 s.cx.a.c.sem n)) ∧
  ((∀ (q : QueueSt) (code n : Nat), 0 < n →
    let r := q.reserve code n
    (r.2.slots code).length = (q.slots code).length + n ∧
    (∀ i, i < (q.slots code).length → (r.2.slots code)[i]? = (q.slots code)[i]?) ∧
    (∀ i, i < n → (r.2.slots code)[(q.slots code).length + i]? = some { id := r.1 + i, seq := tget 0 q.seq code, entry := none }) ∧
    tget 0 r.2.seq code = (tget 0 q.seq code + 1) % 65536 ∧
    (∀ other, other ≠ code → r.2.slots other = q.slots other ∧ tget 0 r.2.seq other = tget 0 q.seq other)) ∧
  (∀ (s : State) (code : Nat),
    (s.popHead code).cx.a.q.slots code = (s.cx.a.q.slots code).drop 1 ∧
    (∀ other, other ≠ code → (s.popHead code).cx.a.q.slots other = s.cx.a.q.slots other) ∧
    OnlyFocus s (s.popHead code) ∧ (s.popHead code).cx.a.c = s.cx.a.c ∧ (s.popHead code).cx.a.v = s.cx.a.v ∧
    SameMem s (s.popHead code)))

/-- A copy moves its bytes and ends once its lines are acknowledged; a written line decrements its barrier; the fourth ROTQ of a
rendezvous exchanges, and its limit ends it. A home applies an atomic or a reduction after the earlier ones of its context
that R61 keeps before it: those that share a context with it or with one of them and meet it, where no reduction is kept before
an atomic; where none is left it applies at once. Two held reductions of one word, width and mergeable operation become one.
BINIT, BARR and BARRX, a wait whose phase has come and one that stays, each after the earlier ones of its context to its
barrier, the limit of BTWAIT, and FLUSHH's signal, after which no write that it holds is kept from the host (R58, R61, R221,
R241, R246, R249, R250, R251, R268, R269, R270, R272, R274). -/
def Obligations.HomeEvents : Prop :=
  ((∀ (s : State) (c n : Nat) (e : CopyEnt) (m : Nat × Nat), tfind (s.core c).copies n = some e → e.op ≠ 3 → e.moved = some m →
    exec (.copyCompletion c n) s = .next (s.endCopy c n e)) ∧
  (∀ (s : State) (c n : Nat) (e : CopyEnt), tfind (s.core c).copies n = some e → e.op ≠ 3 → e.moved = none →
    exec (.copyCompletion c n) s = .next (match tfind ((s.moveCopy c n e).core c).copies n with
      | some e' => (s.moveCopy c n e).endCopy c n e'
      | none => s.moveCopy c n e)) ∧
  (∀ (s : State) (c n len : Nat) (r : List Nat) (e : CopyEnt) (dpa : Nat) (b : Barrier),
    tfind (s.core c).copies n = some e → e.delivers = len :: r →
    let s1 := (s.modCopy c n (fun e => { e with delivers := r })).freeCopy c n
    s.xlate (s.core c).tlb (s.envOf (e.origin c)).asid e.barrier .atomic = .ok dpa → s1.barrier dpa = some b →
    exec (.barrierDelivered c n) s = .next ((s1.release (e.origin c).agent (.barrier dpa) e.eng.scope.toNat
      (s1.inWin (e.origin c) e.hd)).putBarrier dpa (b.took len (e.eng.pf (if e.op = 1 then 7 else 1) 1 == 1)))) ∧
  (∀ (s : State) (lnch quad id : Nat) (r : Rot), s.rotOf lnch quad true = some (id, r) →
    let s1 := { s with rots := tdel s.rots id }
    exec (.rotqExchange lnch quad) s = .next (match s1.rotFail r with | none => s1.rotate r | some st => s1.endRot r st)) ∧
  (∀ (s : State) (lnch quad id : Nat) (r : Rot), s.rotOf lnch quad false = some (id, r) → r.since + 1000 ≤ s.wallus.toNat →
    exec (.rotTimeout lnch quad) s = .next ({ s with rots := tdel s.rots id }.endRot r 0x0C))) ∧
  ((∀ (s : State) (n : Nat) (org : Origin) (va : W64) (d w op : Nat) (v c : W64) (q : Nat) (sig : Signal)
      (xs ys : List (Nat × Flight)),
    s.flights = xs ++ (n, .atom org va d w op v c q sig) :: ys →
    (∀ p ∈ xs, p.1 ≠ n ∧ p.2.keptBefore (.atom org va d w op v c q sig) = false) → (∀ p ∈ ys, p.1 ≠ n) →
    (regionOf d = .hbm ∨ regionOf d = .firn ∨ regionOf d = .window) → s.ueIn d w = false →
    exec (.atomApply n) s = .next (
      (((((s.dropFlight n).storeMem [org.ctxAgent, org.agent] d
        (bytesOfNat w (aopNew op (8 * w) (readNat s.mem d w) (v.toNat % 2 ^ (8 * w)) (c.toNat % 2 ^ (8 * w))))).fillRaw
        org.core org.lid qMem q (BitVec.ofNat 64 (readNat s.mem d w))).completes org.agent sig (.slot org.core org.lid qMem q)
        (.doneSlot org.core org.lid qMem q)).applySignal org sig))) ∧
  (∀ (s : State) (n d w op : Nat) (v : W64) (who : List RedWho) (h : Bool) (xs ys : List (Nat × Flight)),
    s.flights = xs ++ (n, .red d w op v who h) :: ys →
    (∀ p ∈ xs, p.1 ≠ n ∧ p.2.keptBefore (.red d w op v who h) = false) → (∀ p ∈ ys, p.1 ≠ n) →
    (regionOf d = .hbm ∨ regionOf d = .firn ∨ regionOf d = .window) → s.ueIn d w = false →
    exec (.redApply n) s = .next (who.foldl
      (fun t x =>
        let u := match x.vred with | some g => t.vredLane g.1 g.2 x.va none | none => t
        match x.sig with | some sig => u.applySignal x.org sig | none => u)
      ((s.dropFlight n).storeMem (who.flatMap RedWho.agents) d
        (bytesOfNat w (aopNew op (8 * w) (readNat s.mem d w) (v.toNat % 2 ^ (8 * w)) 0))))) ∧
  (∀ (s : State) (n : Nat) (f : Flight), tfind s.flights n = some f →
    let done := (s.withEarlier (fun j _ => j == n)).foldl (fun t p => t.performFlight p.1) s
    match f with
    | .atom .. | .vatom .. => exec (.atomApply n) s = .next done
    | .red .. => exec (.redApply n) s = .next done
    | _ => True) ∧
  (∀ (s : State) (n : Nat), (s.flights.map Prod.fst).Nodup →
    let l := s.withEarlier (fun j _ => j == n)
    l.Sublist s.flights ∧ ∀ (xs ys : List (Nat × Flight)) (p : Nat × Flight), s.flights = xs ++ p :: ys →
      (p ∈ l ↔ p.1 = n ∨ ∃ q ∈ l, q ∈ ys ∧ p.2.keptBefore q.2 = true)) ∧
  (∀ g f : Flight, g.keptBefore f = true ↔
    (∃ o ∈ g.owners, o ∈ f.owners) ∧ (∃ p ∈ g.spans, ∃ q ∈ f.spans, meets p.1 p.2 q.1 q.2 = true) ∧
    (g.isRed = true → f.isRed = true)) ∧
  (∀ a n b m : Nat, meets a n b m = true ↔ (a < b + m ∧ b < a + n) ∨ (regionOf a = .window ∧ regionOf b = .window)) ∧
  (∀ (s : State) (a b d w op : Nat) (v v' : W64) (who who' : List RedWho), a ≠ b →
    tfind s.flights a = some (.red d w op v who true) → tfind s.flights b = some (.red d w op v' who' true) →
    (op ≤ 7 ∨ op = 10 ∨ op = 11) → regionOf d ≠ .counters →
    exec (.routerRedMerge a b) s = .next (
      let both : Flight := .red d w op
        (BitVec.ofNat 64 (aopNew op (8 * w) (v.toNat % 2 ^ (8 * w)) (v'.toNat % 2 ^ (8 * w)) 0)) (who ++ who') true
      if s.between (min a b) (max a b) (if b < a then who else who') d w op false = false then
        (s.dropFlight (max a b)).setFlight (min a b) both
      else if s.between (min a b) (max a b) (if a < b then who else who') d w op true = false then
        (s.dropFlight (min a b)).setFlight (max a b) both
      else s)) ∧
  (∀ (s : State) (n d w op : Nat) (v : W64) (who : List RedWho) (h : Bool),
    tfind s.flights n = some (.red d w op v who h) →
    exec (.redHoldExpiry n) s = .next (s.setFlight n (.red d w op v who false)))) ∧
  ((∀ (s : State) (n : Nat) (org : Origin) (a cnt : Nat) (sg : Option (Nat × Nat × Nat × Nat)) (q : Nat) (sig : Signal) (b : Barrier)
      (xs ys : List (Nat × Flight)),
    s.flights = xs ++ (n, .binit org a cnt sg q sig) :: ys →
    (∀ p ∈ xs ++ ys, p.1 ≠ n ∧ (p.1 < n → p.2.toBarrier ≠ some (org.own, a))) → s.barrier a = some b →
    exec (.barrierInit n) s = .next (((s.dropFlight n).putBarrier a (b.init cnt sg)).complete org qMem q 0x09 0 cnt (some sig))) ∧
  (∀ (s : State) (n : Nat) (org : Origin) (a op : Nat) (x : Int) (q : Nat) (sig : Signal) (b : Barrier)
      (xs ys : List (Nat × Flight)),
    s.flights = xs ++ (n, .barr org a op x q sig) :: ys →
    (∀ p ∈ xs ++ ys, p.1 ≠ n ∧ (p.1 < n → p.2.toBarrier ≠ some (org.own, a))) → s.barrier a = some b → b.admits org.core = true →
    let s0 := s.dropFlight n
    exec (.barrierArrive n) s = .next (
      ((s0.release org.ctxAgent (.barrier a) sig.scope (s0.boundTo (s0.envOf org) 1 a)).putBarrier a (b.came x).1).complete org qMem q op 0
      ((if (b.came x).2 then 2 ^ 31 else 0) + b.gen % 2 ^ 31) (some sig))) ∧
  (∀ (s : State) (n : Nat) (org : Origin) (a op : Nat) (ph once : Bool) (q : Nat) (sig : Signal) (b : Barrier)
      (xs ys : List (Nat × Flight)),
    s.flights = xs ++ (n, .bwait org a op ph none once none q sig) :: ys →
    (∀ p ∈ xs ++ ys, p.1 ≠ n ∧ (p.1 < n → p.2.toBarrier ≠ some (org.own, a))) → s.barrier a = some b → b.phase = ph →
    exec (.barrierWaitArrival n) s = .next (s.endWait n org a op b.gen q sig)) ∧
  (∀ (s : State) (n : Nat) (org : Origin) (a op : Nat) (ph : Bool) (q : Nat) (sig : Signal) (b : Barrier)
      (xs ys : List (Nat × Flight)),
    s.flights = xs ++ (n, .bwait org a op ph none false none q sig) :: ys →
    (∀ p ∈ xs ++ ys, p.1 ≠ n ∧ (p.1 < n → p.2.toBarrier ≠ some (org.own, a))) → s.barrier a = some b → b.phase ≠ ph →
    exec (.barrierWaitArrival n) s = .next (s.setFlight n (.bwait org a op ph none false (some (b.gen % 2 ^ 32)) q sig))) ∧
  (∀ (s : State) (n : Nat) (f : Flight) (key : Origin × Nat), tfind s.flights n = some f → f.toBarrier = some key →
    let done := (s.flights.filter (fun p => p.1 ≤ n && p.2.toBarrier == some key)).foldl (fun t p => t.performBarrier p.1) s
    match f with
    | .binit .. => exec (.barrierInit n) s = .next done
    | .barr .. => exec (.barrierArrive n) s = .next done
    | .bwait .. => exec (.barrierWaitArrival n) s = .next done
    | _ => True) ∧
  (∀ (s : State) (n : Nat) (org : Origin) (a op lim : Nat) (ph once : Bool) (g q : Nat) (sig : Signal),
    tfind s.flights n = some (.bwait org a op ph (some lim) once (some g) q sig) → lim < s.wallus.toNat →
    exec (.btwaitTimeout n) s = .next ((s.dropFlight n).complete org qMem q op 0x0E g (some sig))) ∧
  (∀ (s : State) (n : Nat) (org : Origin) (h : W256) (sig : Signal), tfind s.flights n = some (.flush org h sig) →
    (∀ va ∈ pagesOf (hBase h) (hBytes h), ∃ d, s.xlate (s.core org.core).tlb (s.envOf org).asid va .load = .ok d) →
    let t := (s.dropFlight n).flushWin org h
    exec (.flushhCompletion n) s = .next (
      (if sig.rel then t.release org.agent (.sem org.core org.lid sig.sem) 6 (t.inWin org h) else t).applySignal org sig)) ∧
  (∀ (s : State) (org : Origin) (h : W256), ∀ g ∈ (s.flushWin org h).lags,
    g.agent = .host → s.inWin org h (homeTdev g.dev) g.at' = true → ∀ w ∈ g.unseen, w.heldBy org.agent = false))

/-- An atomic at this device's memory returns the old value and leaves the new one there, by its operation on words of 32 or 64
bits, signed or unsigned; nothing else of memory changes, and one whose word holds an uncorrectable error leaves all of it
(R220, R246, R247, R270). -/
def Obligations.AtomicsAtHome : Prop :=
  ((∀ (s t : State) (ags : List Agent) (d w op v c old : Nat), (regionOf d = .hbm ∨ regionOf d = .firn ∨ regionOf d = .window) →
    s.applyWord ags d w op v c = .ok (old, t) →
    old = readNat s.mem d w ∧
    readNat t.mem d w = aopNew op (8 * w) old (v % 2 ^ (8 * w)) (c % 2 ^ (8 * w)) % 2 ^ (8 * w) ∧
    (∀ a, (a < d ∨ d + w ≤ a) → t.byte a = s.byte a) ∧ t.cores = s.cores ∧ t.flights = s.flights) ∧
  (∀ (s : State) (ags : List Agent) (d w op v c : Nat), (regionOf d = .hbm ∨ regionOf d = .firn ∨ regionOf d = .window) → s.ueIn d w = true →
    s.applyWord ags d w op v c = .error 1)) ∧
  ((∀ w a v c : Nat, (w = 32 ∨ w = 64) → a < 2 ^ w → v < 2 ^ w → c < 2 ^ w →
    aopNew 0 w a v c = (a + v) % 2 ^ w ∧
    aopNew 1 w a v c = (if (BitVec.ofNat w v).toInt < (BitVec.ofNat w a).toInt then v else a) ∧
    aopNew 2 w a v c = (if (BitVec.ofNat w a).toInt < (BitVec.ofNat w v).toInt then v else a) ∧
    aopNew 3 w a v c = min a v ∧ aopNew 4 w a v c = max a v ∧
    BitVec.ofNat w (aopNew 5 w a v c) = BitVec.ofNat w a &&& BitVec.ofNat w v ∧
    BitVec.ofNat w (aopNew 6 w a v c) = BitVec.ofNat w a ||| BitVec.ofNat w v ∧
    BitVec.ofNat w (aopNew 7 w a v c) = BitVec.ofNat w a ^^^ BitVec.ofNat w v ∧
    aopNew 8 w a v c = v ∧ aopNew 12 w a v c = (if a = c then v else a)) ∧
  (∀ w op a v v' : Nat, (w = 32 ∨ w = 64) → a < 2 ^ w → v < 2 ^ w → v' < 2 ^ w → op ≤ 7 →
    aopNew op w (aopNew op w a v 0) v' 0 = aopNew op w a (aopNew op w v v' 0) 0))

/-- The barrier object: BINIT starts a count and keeps PHASE and GEN; the arrival that completes a phase whose bytes are all
delivered flips PHASE, steps GEN and starts the next count; an arrival past the count goes to the next phase, and sets OVR
(R250, R251). -/
def Obligations.BarrierPhases : Prop :=
  (∀ (b : Barrier) (n : Nat), n < 2 ^ 21 →
    (b.init n none).expect = n ∧ (b.init n none).arrived = 0 ∧ (b.init n none).nextArr = 0 ∧
    (b.init n none).phase = b.phase ∧ (b.init n none).gen = b.gen) ∧
  (∀ (b : Barrier), b.arrived + 1 < b.expect →
    ((b.arrive 0).1.arrived = b.arrived + 1 ∧ (b.arrive 0).1.phase = b.phase ∧ (b.arrive 0).1.gen = b.gen ∧ (b.arrive 0).2 = false)) ∧
  (∀ (b : Barrier), b.perr = false → b.arrived + 1 = b.expect → b.field 64 40 = 0 → b.nextArr < b.expect →
    ((b.arrive 0).1.arrived = b.nextArr ∧ (b.arrive 0).1.nextArr = 0 ∧ (b.arrive 0).1.phase = !b.phase ∧
      (b.arrive 0).1.gen = (b.gen + 1) % 2 ^ 64 ∧ (b.arrive 0).2 = false)) ∧
  (∀ (b : Barrier), b.expect ≤ b.arrived → b.field 64 40 ≠ 0 →
    (b.arrive 0).2 = true ∧ (b.arrive 0).1.field 62 1 = 1 ∧ (b.arrive 0).1.arrived = b.arrived ∧
      (b.arrive 0).1.nextArr = min (b.nextArr + 1) (2 ^ 21 - 1) ∧ (b.arrive 0).1.phase = b.phase) ∧
  (∀ (b : Barrier) (n : Nat), b.perr = false → b.arrived = b.expect → b.field 64 40 = n → 0 < n → n < 2 ^ 39 → b.nextArr < b.expect →
    ((b.delivered n b.phase).phase = !b.phase ∧ (b.delivered n b.phase).arrived = b.nextArr))

/-- Interests, tiles, announcements and seals on their way reach their router (R253 to R261). -/
def Obligations.NameEvents : Prop :=
  (∀ (s : State) (p r : Nat) (name : W64) (f : Face) (req : Option Nat) (ex hops : Nat),
    tfind s.packets p = some (.interest r name f req ex hops) →
    exec (.interestArrival p) s = .next ({ s with packets := tdel s.packets p }.interestAt r name f req ex hops false)) ∧
  (∀ (s : State) (router r : Nat) (name : W64) (f : Face) (req : Option Nat) (ex hops : Nat) (rest : List Packet),
    (s.router router).wait = .interest r name f req ex hops :: rest →
    let goes : Prop := (s.router router).pit.length < 512 ∨
      (∃ e ∈ (s.router router).pit, e.name = name ∧ (req = none ∨ e.locals.length < 8)) ∨
      (s.homeOf router name = some router ∧
        ((∃ e, (s.die (dieKey router)).record name = some e ∧ e.name = name) ∨ (s.die (dieKey router)).sealedAt name = true))
    (goes → exec (.interestAdmit router) s =
      .next ((s.setRouter router { s.router router with wait := rest }).interestAt r name f req ex hops true)) ∧
    (¬goes → exec (.interestAdmit router) s = .next s)) ∧
  (∀ (s : State) (router : Nat), (∀ e ∈ (s.router router).pit, e.sent = true) → (s.router router).wait = [] →
    let now := s.wallus.toNat
    let left (e : PitEnt) : PitEnt :=
      { e with faces := e.faces.filter (fun f => now ≤ f.2), locals := e.locals.filter (fun q => now ≤ q.2) }
    let pit := ((s.router router).pit.map left).filter (fun e => !(e.faces.isEmpty && e.locals.isEmpty))
    exec (.interestExpiry router) s = .next (
      ((s.router router).pit.flatMap (fun e => (e.locals.filter (fun q => q.2 < now)).map Prod.fst)).foldl
        (fun t id => t.endRequest id (.error 6)) (s.setRouter router { wait := [], pit := pit }))) ∧
  (∀ (s : State) (p r : Nat) (name : W64) (res : Except Nat (List Byte)), tfind s.packets p = some (.tile r name res) →
    exec (.tileArrival p) s = .next ({ s with packets := tdel s.packets p }.serveAll r name res)) ∧
  (∀ (s : State) (p r : Nat) (name : W64) (pg : List (Nat × Nat)) (len fl hops : Nat),
    s.packets = [(p, .announce r name pg len fl hops)] →
    exec (.announcementArrival p) s = .next (({ s with packets := [] } : State).announceAt r name pg len fl hops)) ∧
  (∀ (s : State) (p r home tensor iter fl hops : Nat), s.packets = [(p, .seal r home tensor iter fl hops)] →
    exec (.sealArrival p) s = .next (({ s with packets := [] } : State).sealAt r home tensor iter fl hops))

/-- At its home an interest is answered from the record of its iteration, and of no other; a sealed iteration without a record
fails; no record is held past 8,192 of a die, none older replaces a newer, and a seal only rises (R257, R258, R261). -/
def Obligations.NamesAtHome : Prop :=
  (∀ (s : State) (r : Nat) (name : W64) (f : Face) (req : Option Nat) (ex hops : Nat) (turn : Bool) (e : DirRec),
    (s.die (dieKey r)).record name = some e → e.name = name →
    s.interestHome r name f req ex hops turn = (s.setDie (dieKey r) ((s.die (dieKey r)).touch e)).answer r f req name (s.tileOf e)) ∧
  (∀ (s : State) (r : Nat) (name : W64) (f : Face) (req : Option Nat) (ex hops : Nat) (turn : Bool),
    (∀ e, (s.die (dieKey r)).record name = some e → e.name ≠ name) → (s.die (dieKey r)).sealedAt name = true →
    s.interestHome r name f req ex hops turn = s.answer r f req name (.error 7)) ∧
  (∀ (s : State) (r : Nat) (name : W64) (pg : List (Nat × Nat)) (len fl : Nat), (s.die (dieKey r)).sealedAt name = true →
    (s.announceHome r name pg len fl).1 = 9 ∧ (s.announceHome r name pg len fl).2.2 = s) ∧
  (∀ (s : State) (r : Nat) (name : W64) (pg : List (Nat × Nat)) (len fl : Nat) (e : DirRec),
    (s.die (dieKey r)).sealedAt name = false → (s.die (dieKey r)).record name = some e → nameIter name < nameIter e.name →
    s.announceHome r name pg len fl = (0x0F, nameIter e.name, s)) ∧
  (∀ (s : State) (r : Nat) (name : W64) (pg : List (Nat × Nat)) (len fl : Nat),
    (s.die (dieKey r)).sealedAt name = false → (s.die (dieKey r)).record name = none → 8192 ≤ (s.die (dieKey r)).recs.length →
    s.announceHome r name pg len fl = (0x0A, 0, s)) ∧
  (∀ (s : State) (r tensor iter old : Nat), tfind (s.die (dieKey r)).seals tensor = some old →
    ∃ t, s.sealHome r tensor iter = (false, t) ∧ tfind (t.die (dieKey r)).seals tensor = some (max iter old))

/-! Serac arrays and Moraine units. -/

/-- The micro-words of a routine (R315 to R323): what each checks, does and costs in steps. That a micro-word of several rows
reads and writes them all in one step, its scales at the first, is the model's grain (log 27). -/
def Obligations.MicroWords : Prop :=
  let yes : Work → Bool := fun _ => true
  (∀ (pa ps : BitVec 3) (cnt : BitVec 4) (row : BitVec 7) (rstr : BitVec 16),
    MicroDoes (.sldw pa ps cnt row rstr) (cnt.toNat + 1) false
      (fun w => row.toNat + cnt.toNat < serN w.r.cmd.wf && row.toNat / 16 == (row.toNat + cnt.toNat) / 16)
      (fun w => w.rowsOk (w.mp pa) rstr.toNat 48 16 cnt.toNat && w.rowOk (w.mp ps) (serPer w.r.cmd.wf) 1)
      (fun w => w.with (w.read (w.mp ps) (serPer w.r.cmd.wf) 1) (fun sc =>
        Work.rows (fun k w => w.with (w.read (w.mp pa + BitVec.ofNat 64 (k * rstr.toNat)) 48 16) (w.loadRow (row.toNat + k)))
          (cnt.toNat + 1) 0 (w.loadScales (row.toNat / 16) sc)))) ∧
  (∀ (pa ps : BitVec 3) (cnt : BitVec 4) (row : BitVec 7) (md ga inc : BitVec 1) (rstr : BitVec 16),
    MicroDoes (.sstrm pa ps cnt row md ga inc rstr) (cnt.toNat + 1) false
      (fun w => row.toNat + cnt.toNat < serView w.r.cmd.sf && w.latchOk (ga == 1) cnt.toNat)
      (fun w => w.aOk (ga == 1) pa ps rstr.toNat cnt.toNat)
      (fun w =>
        let t := Work.rows (fun k w => w.with (w.aRow (ga == 1) (w.mp pa + BitVec.ofNat 64 (k * rstr.toNat)) (w.mp ps))
          (fun q => q.2.streamRow q.1 (row.toNat + k) (md == 1))) (cnt.toNat + 1) 0 w
        if inc = 1 && ga != 1 then t.bump pa ((cnt.toNat + 1) * rstr.toNat) else t)) ∧
  (∀ (pa pb ps pt : BitVec 3) (cnt : BitVec 4) (ga inc : BitVec 1) (rstr dstr : BitVec 16),
    MicroDoes (.soutr pa pb ps pt cnt ga inc rstr dstr) (cnt.toNat + 1) false
      (fun w => w.r.cmd.outerOk && w.latchOk (ga == 1) cnt.toNat)
      (fun w => w.aOk (ga == 1) pa ps rstr.toNat cnt.toNat && w.rowsOk (w.mp pb) dstr.toNat 48 16 cnt.toNat &&
        w.rowOk (w.mp pt) (serPer w.r.cmd.sf) 1)
      (fun w =>
        let t := Work.rows (fun k w => w.with (w.aRow (ga == 1) (w.mp pa + BitVec.ofNat 64 (k * rstr.toNat)) (w.mp ps)) (fun q =>
          q.2.with (q.2.aRow false (q.2.mp pb + BitVec.ofNat 64 (k * dstr.toNat)) (q.2.mp pt)) (fun y => y.2.outerRow q.1 y.1)))
          (cnt.toNat + 1) 0 w
        if inc = 1 then
          (if ga == 1 then t else t.bump pa ((cnt.toNat + 1) * rstr.toNat)).bump pb ((cnt.toNat + 1) * dstr.toNat)
        else t)) ∧
  (∀ (sub : BitVec 2) (pa : BitVec 3) (cnt : BitVec 4) (row : BitVec 7) (inc : BitVec 1) (rstr : BitVec 16),
    let g := sub.getLsbD 0
    let load := sub.getLsbD 1
    MicroDoes (.sacc sub pa cnt row inc rstr) (cnt.toNat + 1) false
      (fun w => (if g then row.toNat + cnt.toNat < serN w.r.cmd.sf else row.toNat + cnt.toNat < serView w.r.cmd.sf) &&
        (!g || w.r.cmd.outerOk))
      (fun w => !load || w.rowsOk (w.mp pa) rstr.toNat (4 * serN w.r.cmd.sf) 16 cnt.toNat)
      (fun w =>
        let n := serN w.r.cmd.sf
        let t := Work.rows (fun k w =>
          if load then w.with (w.read (w.mp pa + BitVec.ofNat 64 (k * rstr.toNat)) (4 * n) 16)
            (fun b => w.setRow g (row.toNat + k) (wordsOf n b))
          else w.setRow g (row.toNat + k) (List.replicate n 0)) (cnt.toNat + 1) 0 w
        if inc = 1 then t.bump pa ((cnt.toNat + 1) * rstr.toNat) else t)) ∧
  (∀ (pa : BitVec 3) (cnt : BitVec 4) (row : BitVec 7) (md : BitVec 1) (rstr opx : BitVec 16),
    MicroDoes (.sdrn pa cnt row md rstr opx) (cnt.toNat + 1) false
      (fun w => (drainOf opx).ok w.r.cmd (md == 1) &&
        (if md == 1 then row.toNat + cnt.toNat < serN w.r.cmd.sf else row.toNat + cnt.toNat < serView w.r.cmd.sf))
      (fun w => w.rowsOk (w.mp pa) rstr.toNat ((drainOf opx).rowBytes w.r.cmd) 4 cnt.toNat)
      (fun w => Work.rows (fun k w =>
        w.drainRow (drainOf opx) (md == 1) (row.toNat + k) (w.mp pa + BitVec.ofNat 64 (k * rstr.toNat))) (cnt.toNat + 1) 0 w)) ∧
  (∀ (pa pb ps : BitVec 3) (ni : BitVec 6) (rstr sstr : BitVec 16),
    MicroDoes (.sgath pa pb ps ni rstr sstr) 0 false yes yes (fun w => { w with r := { w.r with gather := some {
      idxAddr := (w.mp pa).toNat, left := ni.toNat + 1, base := w.mp pb, rstr := rstr.toNat, sbase := w.mp ps,
      sstr := sstr.toNat, latch := [] } } })) ∧
  (∀ (lvl : BitVec 2) (cs : BitVec 1) (pc : BitVec 3) (eo : BitVec 11) (count : BitVec 32),
    MicroDoes (.mloop lvl cs pc eo count) 0 false
      (fun w => w.r.pc + eo.toNat ≤ 2047 && w.r.loops.all (fun l => l.lvl != lvl.toNat && w.r.pc + eo.toNat ≤ l.last)) yes
      (fun w =>
        let n := if cs = 1 then min (w.mp pc).toNat (2 ^ 32 - 1) else count.toNat
        if n = 0 then { w with r := { w.r with pc := w.r.pc + eo.toNat } }
        else { w with r := { w.r with
          loops := { lvl := lvl.toNat, start := w.r.pc + 1, last := w.r.pc + eo.toNat, left := n } :: w.r.loops } })) ∧
  (∀ (pd ps : BitVec 3) (us : BitVec 1) (imm : BitVec 32),
    MicroDoes (.madd pd ps us imm) 0 false yes yes (fun w => { w with r := { w.r with
      mp := tput 0 w.r.mp pd.toNat (w.mp pd + (if us = 1 then w.mp ps else 0) + imm.signExtend 64) } })) ∧
  MicroDoes .yp 0 true yes yes id ∧
  (∀ (sem : BitVec 8) (inc : BitVec 4),
    MicroDoes (.msig sem inc) 0 false yes yes (fun w => { w with x := w.x.semAdd sem.toNat inc.toNat })) ∧
  (∀ (sem val : BitVec 8) (s : State) (w : Work), s.work s.focusCore s.focusArr = some w → w.r.lib = none →
    ((tget 0 w.x.a.c.sem sem.toNat).toNat < val.toNat →
      exec (.mwait sem val) s = .next (s.putWork { w with r := { w.r with atYield := true, sinceYield := 0 } })) ∧
    (val.toNat ≤ (tget 0 w.x.a.c.sem sem.toNat).toNat → microLegal (.mwait sem val) = true →
      exec (.mwait sem val) s = .next (s.putWork { w with r := w.r.after 0 false, x := { w.x with a := { w.x.a with c := { w.x.a.c with
        sem := tput 0 w.x.a.c.sem sem.toNat (tget 0 w.x.a.c.sem sem.toNat - val.zeroExtend 16) } } } }))) ∧
  (∀ (s : State) (w : Work), s.work s.focusCore s.focusArr = some w → w.r.lib = none →
    exec .mend s = .next (s.endRoutine s.focusCore s.focusArr 0 (w.r.steps % 2 ^ 24)))

/-- A level of MLOOP sends the routine back from its last word while passes are left, the innermost level first, and ends with
its last pass; yield points stand at YP and 48 steps after the last. In a RUN the inner level is tested first, then the
outer one; a level with passes left goes back to its first instruction, and one with none ends (R296, R322, R339). -/
def Obligations.EngineLoops : Prop :=
  ((∀ (l : MicroLoop) (r : List MicroLoop), 1 < l.left →
    microBack l.last (l :: r) = (some l.start, { l with left := l.left - 1 } :: r)) ∧
  (∀ (l : MicroLoop) (r : List MicroLoop), l.left ≤ 1 → microBack l.last (l :: r) = microBack l.last r) ∧
  (∀ (at' : Nat) (ls : List MicroLoop), (∀ l ∈ ls, l.last ≠ at') → microBack at' ls = (none, ls)) ∧
  (∀ (r : Routine) (n : Nat) (y : Bool), (r.after n y).steps = r.steps + n ∧ (r.after n y).mp = r.mp ∧ (r.after n y).cmd = r.cmd ∧
    ((r.after n y).atYield = true ↔ (y = true ∨ 48 ≤ r.sinceYield + n)))) ∧
  ((∀ (m : MUnit) (l : MorLoop), m.inner = some l → 1 < l.left →
    m.after l.last = (l.start, { m with inner := some { l with left := l.left - 1, done := l.done + 1 } })) ∧
  (∀ (m : MUnit) (l o : MorLoop), m.inner = some l → l.left ≤ 1 → m.outer = some o → o.last = l.last → 1 < o.left →
    m.after l.last = (o.start, { m with inner := none, outer := some { o with left := o.left - 1, done := o.done + 1 } })) ∧
  (∀ (m : MUnit) (l o : MorLoop), m.inner = some l → l.left ≤ 1 → m.outer = some o → o.last = l.last → o.left ≤ 1 →
    m.after l.last = (l.last + 1, { m with inner := none, outer := none })) ∧
  (∀ (m : MUnit) (a : Nat), (∀ l, m.inner = some l → l.last ≠ a) → (∀ l, m.outer = some l → l.last ≠ a) → m.after a = (a + 1, m)))

/-- What arrays do by themselves: start the next SCALL, give way to a priority one and go on after it, read ahead for a gather,
end an SDRAIN, perform an SMLOAD, meet an error in their cells, lose the 4-bit class (R25, R292 to R299, R303, R311 to
R313). What the cells hold after an error (log 7), the address at which a library routine stops (log 9) and the log's entry of
the error (log 25) are the model's choice. -/
def Obligations.ArrayEvents : Prop :=
  (∀ (s : State) (c a start : Nat) (q : ArrCmd) (lib : Option Nat), s.startable c a = some q →
    (s.core c).entry (q.eng.pf 14 8) = some (start, lib) → ¬(serBits q.sf = 4 ∧ ((s.core c).arr a).cap4 = false) →
    ∃ (t : State) (r : Routine), exec (.routineStart c a) s = .next t ∧ ((t.core c).arr a).run = some r ∧
      r.cmd = q ∧ r.pc = start ∧ r.lib = lib ∧ r.mp = q.mp ∧ r.steps = 0 ∧ r.flags = 0 ∧ r.loops = [] ∧
      ((t.core c).arr a).queue = ((s.core c).arr a).queue.filter (fun d => !(d.lid == q.lid && d.qid == q.qid))) ∧
  (∀ (s : State) (c a : Nat) (q : ArrCmd), s.startable c a = some q → (s.core c).entry (q.eng.pf 14 8) = none →
    exec (.routineStart c a) s = .next ((s.setCore c ((s.core c).setArr a { (s.core c).arr a with
      queue := ((s.core c).arr a).queue.filter (fun d => !(d.lid == q.lid && d.qid == q.qid)) })).completeSerac (q.origin c) 0x0E q.qid
        0x21 0 (EngArgs.signal q.eng))) ∧
  (∀ (s : State) (c a : Nat) (r : Routine), ((s.core c).arr a).run = some r → ((s.core c).arr a).susp = none →
    r.atYield = true → r.cmd.shadow = false → ((s.core c).arr a).wantsShadow = true →
    exec (.routineSuspend c a) s = .next (s.setCore c ((s.core c).setArr a { (s.core c).arr a with run := none, susp := some r }))) ∧
  (∀ (s : State) (c a : Nat) (r : Routine), ((s.core c).arr a).run = none → ((s.core c).arr a).susp = some r →
    ((s.core c).arr a).wantsShadow = false →
    exec (.routineResume c a) s = .next (s.setCore c ((s.core c).setArr a { (s.core c).arr a with run := some r, susp := none }))) ∧
  (∀ (s : State) (c a : Nat) (w : Work) (g : Gather) (row : LatchRow), s.work c a = some w → w.r.gather = some g →
    g.left ≠ 0 → g.latch.length < 64 → w.fetchRow (serPer w.r.cmd.sf) g = .ok row →
    exec (.gatherFill c a) s = .next (s.putWork { w with r := { w.r with gather := some { g.next with latch := g.latch ++ [row] } } })) ∧
  (∀ (s : State) (c a : Nat) (q : ArrCmd), ((s.core c).arr a).drained = some q →
    ∃ t : State, exec (.sdrainCompletion c a) s = .next (t.completeSerac (q.origin c) 0x10 q.qid 0 0 (EngArgs.signal q.eng)) ∧
      ((t.core c).arr a).queue = ((s.core c).arr a).queue.filter (fun d => !(d.lid == q.lid && d.qid == q.qid)) ∧
      ((t.core c).arr a).owner = (if q.eng.pf 21 1 = 1 && !q.shadow && ((s.core c).arr a).owner == some q.lid then none
        else ((s.core c).arr a).owner)) ∧
  (∀ (s : State) (n q : Nat) (org : Origin) (o : EngArgs) (h : W256) (sig : Signal),
    tfind s.flights n = some (.smload org o h q sig) → s.loadBehind n org = false →
    exec (.smloadWrite n) s = .next (s.loadMicro n)) ∧
  (∀ (s : State) (c a : Nat) (w : Work),
    let u := s.logUe c 0 4
    let other := !w.r.cmd.shadow
    u.work c a = some w → u.rollsBack c w.n = false →
    exec (.seracDataError c a) s = .next ((({ u with free := u.free + 10753 } : State).putWork { w with
      k := w.k.setArr a ((w.k.arr a).setPlane other (((w.k.arr a).plane other).free (u.free + 5376)))
      p := w.p.free u.free
      x := { w.x with a := { w.x.a with p := { w.x.a.p with mchk := some (w.x.a.p.mchk.getD (BitVec.ofNat 64 (256 * a + 2))) } } } }).endRoutine
        c a 0x22 (if w.r.lib.isSome then (Config.freeWord (u.free + 10752)).toNat % 256 else w.r.pc % 2048))) ∧
  (∀ (s : State) (c a : Nat) (w : Work), (s.logUe c 0 4).work c a = some w → (s.logUe c 0 4).rollsBack c w.n = true →
    exec (.seracDataError c a) s = .next ((s.logUe c 0 4).enqueue (.rollback c w.n))) ∧
  (∀ (s : State) (c a : Nat), ((s.core c).arr a).owner = none → ((s.core c).arr a).pending = 0 → ((s.core c).arr a).cap4 = true →
    exec (.cap4Off c a) s = .next (((s.setCore c ((s.core c).setArr a { (s.core c).arr a with cap4 := false })).log c 0x0009
      [BitVec.ofNat 8 a]).log 0x3FF 0x0015 (bytesOfNat 2 c ++ [BitVec.ofNat 8 a])))

/-- The instructions of a RUN and the commands of a block, where their streams, latches and rows are good (R336 to R340, R343 to
R347). -/
def Obligations.MoraineWords : Prop :=
  (let any : Nat → MUnit → State → Prop := fun _ _ _ => True
  (∀ za zb zc zd : BitVec 5,
    MorLanes (.moraineFadd zd za zb) zd (fun m l => (fAdd false false .rne 0 (lane (m.zr za) l) (lane (m.zr zb) l)).1) ∧
    MorLanes (.moraineFsub zd za zb) zd (fun m l => (fAdd true false .rne 0 (lane (m.zr za) l) (lane (m.zr zb) l)).1) ∧
    MorLanes (.moraineFmul zd za zb) zd (fun m l => (fMul false .rne 0 (lane (m.zr za) l) (lane (m.zr zb) l)).1) ∧
    MorLanes (.moraineFma zd za zb zc) zd (fun m l =>
      (fFma false false false .rne 0 (lane (m.zr za) l) (lane (m.zr zb) l) (lane (m.zr zc) l)).1) ∧
    MorLanes (.moraineFmin zd za zb) zd (fun m l => (minMax false false (lane (m.zr za) l) (lane (m.zr zb) l)).1) ∧
    MorLanes (.moraineFmax zd za zb) zd (fun m l => (minMax true false (lane (m.zr za) l) (lane (m.zr zb) l)).1) ∧
    (∀ c, MorLanes (.moraineFcmp zd za zb c) zd (fun m l =>
      if fcmpHolds c.toNat (num32 (lane (m.zr za) l)) (num32 (lane (m.zr zb) l)) then 0xFFFFFFFF else 0)) ∧
    MorLanes (.moraineFsel zd za zb zc) zd (fun m l =>
      (fPass false (if lane (m.zr zc) l = 0 then lane (m.zr zb) l else lane (m.zr za) l)).1) ∧
    MorLanes (.moraineRcp zd za) zd (fun m l => (sfuResult false 4 (lane (m.zr za) l) 0).1) ∧
    MorLanes (.moraineRsq zd za) zd (fun m l => (sfuResult false 5 (lane (m.zr za) l) 0).1) ∧
    MorLanes (.moraineCvtb zd za) zd (fun m l =>
      BitVec.ofNat 32 ((cvtNum false .bf16 .rne 0 (num32 (lane (m.zr za) l))).1 * 2 ^ 16)) ∧
    (∀ q, MorLanes (.moraineBcast zd q) zd (fun m _ => tget 0 m.q q.toNat))) ∧
  (∀ (q : BitVec 3) (half : BitVec 1) (imm : BitVec 16), MorDoes (.movi q half imm) any (fun pc m s =>
    (m.setQ q.toNat (if half = 1 then imm ++ (m.qr q).extractLsb' 0 16 else (m.qr q).extractLsb' 16 16 ++ imm), pc, s))) ∧
  (∀ (z : BitVec 5) (st : BitVec 3) (bs : List Byte),
    MorDoes (.moraineVld z st 0)
      (fun _ m s => (tget 0 m.cur st.toNat).toNat % 64 = 0 ∧ s.unitRead s.focusUnit (s.morAsid m) (tget 0 m.cur st.toNat) 64 = .ok bs)
      (fun pc m s =>
        let t := s.unitFill s.focusUnit (s.morAsid m) (tget 0 m.cur st.toNat) 64
        (({ m with tlb := (t.unit s.focusUnit).tlb }.setZ z (rowOfBytes bs)).streamed st.toNat, pc, t)) ∧
    (∀ fmt, fmt ≠ 0 → MorDoes (.moraineVld z st fmt)
      (fun _ m s => (tget 0 m.cur st.toNat).toNat % 32 = 0 ∧ s.unitRead s.focusUnit (s.morAsid m) (tget 0 m.cur st.toNat) 32 = .ok bs)
      (fun pc m s =>
        let t := s.unitFill s.focusUnit (s.morAsid m) (tget 0 m.cur st.toNat) 32
        (({ m with tlb := (t.unit s.focusUnit).tlb }.setZ z
          (rowOf (fun l => BitVec.ofNat 32 (natOfBytes ((bs.drop (2 * l)).take 2) * 2 ^ 16)))).streamed st.toNat, pc, t)))) ∧
  (∀ (z : BitVec 5) (st : BitVec 3) (fmt : BitVec 2) (d n : Nat) (r : List (Nat × Nat)),
    MorDoes (.moraineVst z st fmt)
      (fun _ m s => (tget 0 m.cur st.toNat).toNat % morSize fmt = 0 ∧
        s.unitXl s.focusUnit (s.morAsid m) (tget 0 m.cur st.toNat) (morSize fmt) .store true = .ok ((d, n) :: r))
      (fun pc m s =>
        let t := s.unitFill s.focusUnit (s.morAsid m) (tget 0 m.cur st.toNat) (morSize fmt)
        ({ m with tlb := (t.unit s.focusUnit).tlb }.streamed st.toNat, pc, t.storeMem (t.unitWriters s.focusUnit) d (if fmt = 0 then bytesOfRow (m.zr z)
          else (List.range 16).flatMap (fun l => bytesOfNat 2 ((lane (m.zr z) l).toNat / 2 ^ 16)))))) ∧
  (∀ (cs : BitVec 1) (q : BitVec 3) (eo : BitVec 7) (cnt : BitVec 16),
    let n (m : MUnit) : Nat := if cs = 1 then (m.qr q).toNat else cnt.toNat
    MorDoes (.loopa cs q eo cnt) (fun pc m _ => pc < eo.toNat ∧ m.outer = none ∧ m.inner = none) (fun pc m s =>
      if n m = 0 then (m, eo.toNat, s)
      else ({ m with outer := some { start := pc + 1, last := eo.toNat, left := n m, done := 0 } }, pc, s)) ∧
    MorDoes (.loopb cs q eo cnt) (fun pc m _ => pc < eo.toNat ∧ m.inner = none ∧ ∀ l, m.outer = some l → eo.toNat ≤ l.last)
      (fun pc m s =>
        if n m = 0 then (m, eo.toNat, s)
        else ({ m with inner := some { start := pc + 1, last := eo.toNat, left := n m, done := 0 } }, pc, s))) ∧
  (∀ (s : State) (x : MorExec) (pc : Nat) (lim : Option Nat), (s.unit s.focusUnit).exec = some x → x.phase = .running pc lim →
    s.expired lim = false → exec .moraineEnd s = .next (s.morNext s.focusUnit)) ∧
  (∀ (unit : BitVec 8) (slot : BitVec 4) (q : BitVec 3), MorDoes (.mbxs unit slot q) any (fun pc m s =>
    let t := (s.setUnit s.focusUnit m).mailbox unit.toNat slot.toNat (mailWord (m.qr q) s.focusUnit false) (s.morLid m)
    (t.unit s.focusUnit, pc, t))) ∧
  (∀ (q : BitVec 3) (msk : BitVec 16) (i : Nat), MorDoes (.mbxw q msk) (fun _ m s => m.awake (s.morLid m) msk = some i) (fun pc m s =>
    let w := (tget (0, 0) m.mbox i).1
    ((({ m with wake := m.wake &&& ~~~ ((1 : BitVec 16) <<< i) }.setQ q.toNat (w.truncate 32)).setQ (q.toNat + 1)
      (BitVec.ofNat 32 (16 * (w.extractLsb' 32 8).toNat + i))), pc, s)))) ∧
  (let any : Nat → MUnit → MorExec → Block → State → Prop := fun _ _ _ _ _ => True
  (∀ (first count : BitVec 8) (addr : W64) (bs : List Byte),
    CommandDoes (.loadp 0 first count addr) (fun u _ _ b s => s.unitRead u b.asid addr (4 * count.toNat) = .ok bs)
      (fun u m _ b s =>
        let t := s.unitFill u b.asid addr (4 * count.toNat)
        (t.setUnit u { m with tlb := (t.unit u).tlb, ib := (List.range count.toNat).foldl (fun i k =>
          tput 0 i (first.toNat + k) (BitVec.ofNat 32 (natOfBytes ((bs.drop (4 * k)).take 4)))) m.ib }).morNext u) ∧
    (∀ kind, kind ≠ 0 → CommandDoes (.loadp kind first count addr) (fun u _ _ b s => s.unitRead u b.asid addr 160 = .ok bs)
      (fun u m _ b s =>
        let t := s.unitFill u b.asid addr 160
        (t.setUnit u ({ m with tlb := (t.unit u).tlb }.params bs)).morNext u))) ∧
  (∀ (start : BitVec 8) (limit : BitVec 16), CommandDoes (.run start limit) any (fun u m x b s =>
    let rank := (b.units.findIdx? (fun v => v == u)).getD 0
    s.setUnit u { m with
      cur := (List.range 8).foldl (fun t i => tput 0 t i (tget 0 m.base i + BitVec.ofNat 64 rank * (tget 0 m.rstep i).signExtend 64)) []
      accs := [], outer := none, inner := none, exec := some { x with phase := .running start.toNat (s.limitOf limit.toNat) } })) ∧
  (∀ (src dst : W64) (p q : Nat), src.toNat % 1024 = 0 → dst.toNat % 1024 = 0 →
    CommandDoes (.rowsh src dst) (fun u _ _ b s =>
      (∃ r n, s.unitXl u b.asid src 1024 .load true = .ok ((p, n) :: r)) ∧
      (∃ r n, s.unitXl u b.asid dst 1024 .store true = .ok ((q, n) :: r)) ∧ ownChannel u p = true ∧ ownChannel u q = true ∧
      p / 2 ^ 10 % 2 ^ 4 = q / 2 ^ 10 % 2 ^ 4 ∧ p / 2 ^ 14 % 2 ^ 9 = q / 2 ^ 14 % 2 ^ 9 ∧
      (p / 2 ^ 23 % 256 = q / 2 ^ 23 % 256 + 1 ∨ q / 2 ^ 23 % 256 = p / 2 ^ 23 % 256 + 1))
      (fun u _ _ b s =>
        let ue := (List.range 128).foldl (fun t k => tput false t (q / 8 + k) (tget false s.memUe (p / 8 + k))) s.memUe
        let t := ((s.noteAt (s.unitWriters u) q (readBytes s.mem p 1024)).unitFill u b.asid src 1024).unitFill u b.asid dst 1024
        ({ t with mem := writeBytes s.mem q (readBytes s.mem p 1024), memUe := ue } : State).morNext u)) ∧
  (∀ (unit slot : BitVec 8) (v : W64), CommandDoes (.mbx unit slot v) any (fun u _ _ b s =>
    (s.mailbox unit.toNat slot.toNat (mailWord (v.truncate 32) u true) b.org.lid).morNext u)) ∧
  (∀ (scope : BitVec 8) (limit : W32) (obj target : W64) (a : Nat),
    CommandDoes (.trig 0 scope limit obj target) (fun u _ _ b s => s.unitLatch u b.asid obj .load = .ok a) (fun u _ x b s =>
      let t := s.unitFill u b.asid obj 8
      t.setUnit u { t.unit u with exec := some { x with
        phase := .trigWait (.trig 0 scope limit obj target) (t.limitOf limit.toNat) none none } })) ∧
  (∀ (kind scope : BitVec 8) (limit : W32) (obj target : W64), kind ≠ 0 →
    CommandDoes (.trig kind scope limit obj target) any (fun u m x _ s =>
      let f := s.addFlight (.trigName u (s.wallus.toNat + Config.defaultLife))
      (f.2.placeInterest (unitRouter u) obj f.1 (s.wallus.toNat + Config.defaultLife)).setUnit u { m with exec := some { x with
        phase := .trigWait (.trig kind scope limit obj target)
          ((f.2.placeInterest (unitRouter u) obj f.1 (s.wallus.toNat + Config.defaultLife)).limitOf limit.toNat) (some f.1) none } })) ∧
  (∀ scope : BitVec 8, CommandDoes (.fencem scope 0) any (fun u _ _ _ s =>
    ((s.performStores (.unit u) scope.toNat).joinWrites [u] u).morNext u)) ∧
  (∀ (scope : BitVec 8) (latch inc : W64) (a : Nat),
    CommandDoes (.relm scope 0 latch inc)
      (fun u _ _ b s => ((s.performStores (.unit u) scope.toNat).joinWrites [u] u).unitLatch u b.asid latch .atomic = .ok a)
      (fun u _ _ b s =>
        let t := ((s.performStores (.unit u) scope.toNat).joinWrites [u] u).unitFill u b.asid latch 8
        (((t.storeMem (t.unitWriters u) a (bytesOfNat 8 (min (readNat t.mem a 8 + inc.toNat) (2 ^ 64 - 1)))).release (.unit u) (.latch a) scope.toNat
          (fun _ _ => true)).wakeLatch a).morNext u)) ∧
  (∀ (scope : BitVec 8) (len : W32) (name src : W64) (ps : List (Nat × Nat)),
    CommandDoes (.annm scope 0 len name src)
      (fun u _ _ b s => ((s.performStores (.unit u) scope.toNat).joinWrites [u] u).unitXl u b.asid src len.toNat .load false = .ok ps ∧
        ∀ p ∈ ps, annReach u p.1 = true)
      (fun u _ x b s =>
        let t := ((s.performStores (.unit u) scope.toNat).joinWrites [u] u).unitFill u b.asid src len.toNat
        let f := t.addFlight (.annUnit u scope.toNat)
        (f.2.setUnit u { f.2.unit u with exec := some { x with phase := .annWait f.1 none } }).addPacket
          (.announce (unitRouter u) name ps len.toNat f.1 0))) ∧
  (∀ (scope join : BitVec 8) (latch inc name src : W64) (len : W32), join ≠ 0 →
    let joins (i : Instr) : Prop := CommandDoes i any (fun u m x _ s => s.setUnit u { m with exec := some { x with phase := .joined i } })
    joins (.fencem scope join) ∧ joins (.relm scope join latch inc) ∧ joins (.annm scope join len name src)))

/-- What units do by themselves: wake from a mailbox, meet a trigger or a limit, complete a join, start a block, end an MSUB
(R340 to R347). -/
def Obligations.MoraineEvents : Prop :=
  (∀ (s : State) (u pc i : Nat) (lim : Option Nat) (x : MorExec) (q : BitVec 3) (msk : BitVec 16),
    (s.unit u).exec = some x → x.phase = .mbxWait pc lim → decodeMoraine (tget 0 (s.unit u).ib pc) = .ok (.mbxw q msk) →
    moraineLegal (.mbxw q msk) = true → s.expired lim = false → (s.unit u).awake (s.morLid (s.unit u)) msk = some i →
    let m := s.unit u
    let w := (tget (0, 0) m.mbox i).1
    let r := (({ m with wake := m.wake &&& ~~~ ((1 : BitVec 16) <<< i) }.setQ q.toNat (w.truncate 32)).setQ (q.toNat + 1)
      (BitVec.ofNat 32 (16 * (w.extractLsb' 32 8).toNat + i))).after pc
    exec (.mailboxWake u) s = .next (s.setUnit u { r.2 with exec := some { x with phase := .running r.1 lim } })) ∧
  (∀ (s : State) (u : Nat) (x : MorExec) (kind scope : BitVec 8) (limit : W32) (obj target : W64) (lim f st : Option Nat),
    (s.unit u).exec = some x → x.phase = .trigWait (.trig kind scope limit obj target) lim f st → s.trigNow u = .met →
    exec (.trigSatisfied u) s = .next ((s.acquire (.unit u) scope.toNat (fun o =>
      if kind = 0 then (match s.unitLatch u (s.morAsid (s.unit u)) obj .load with | .ok a => o == .latch a | .error _ => false)
      else o == .name obj)).morNext u)) ∧
  (∀ (s : State) (u : Nat) (e : MStop), s.trigNow u = .fails e → exec (.trigSatisfied u) s = .next (s.morStop u e)) ∧
  (∀ (s : State) (u : Nat) (x : MorExec) (pc : Nat) (t : Nat), (s.unit u).exec = some x →
    (x.phase = .running pc (some t) ∨ x.phase = .mbxWait pc (some t)) → t < s.wallus.toNat → exec (.moraineLimitExpiry u) s = .next (s.morStop u (MStop.of 0x0E))) ∧
  (∀ (s v : State) (n u k : Nat) (b : Block) (i : Instr) (r : List (Nat × Nat × Instr)), tfind s.blocks n = some b →
    s.joiners n b = (u, k, i) :: r → (∀ e ∈ b.ends, e.code = 0) → r.length + 1 = b.units.length →
    (r.foldl (fun s j => s.morNext j.1) s).morRelease b.units u b i = .ok v → exec (.joinComplete n) s = .next v) ∧
  (∀ (s : State) (n : Nat) (b : Block), tfind s.blocks n = some b → s.joiners n b ≠ [] → (∃ e ∈ b.ends, e.code ≠ 0) →
    exec (.joinComplete n) s = .next ((s.joiners n b).foldl (fun s j => s.morStop j.1 (MStop.of 0x31)) s)) ∧
  (∀ (s : State) (u n : Nat) (r : List Nat) (b : Block), (s.unit u).exec = none → (s.unit u).queue = n :: r →
    tfind s.blocks n = some b → (s.unit u).lastLid = b.org.lid →
    exec (.blockStart u) s = .next (s.setUnit u { s.unit u with queue := r, exec := some { blk := n, cmd := 0, phase := .atCmd } })) ∧
  (∀ (s : State) (u n : Nat) (r : List Nat) (b : Block), (s.unit u).exec = none → (s.unit u).queue = n :: r →
    tfind s.blocks n = some b → (s.unit u).lastLid ≠ b.org.lid →
    exec (.blockStart u) s = .next (s.setUnit u { MUnit.reset with
      bstat := (s.unit u).bstat, must := (s.unit u).must, tlb := (s.unit u).tlb, lastLid := b.org.lid, queue := r,
      exec := some { blk := n, cmd := 0, phase := .atCmd } })) ∧
  (∀ (s : State) (n : Nat) (b : Block), tfind s.blocks n = some b → b.ends.length = b.units.length →
    exec (.msubCompletion n) s = .next (({ s with blocks := tdel s.blocks n } : State).complete b.org qMor b.qid 0x13
      (match b.report with | none => 0 | some e => e.code)
      (match b.report with | none => 0 | some e => e.unit * 2 ^ 24 + e.cmd * 2 ^ 18 + min e.elem 0x3FFFF) (some b.sig)))

/-! Drift and the panel. -/

/-- What a fired entry of the Drift engine does, where its windows and local addresses are good and its target answers; and
that a target outside its window, or unreachable, ends it with the status of R372 (R369 to R372, R380, R381). -/
def Obligations.DriftEntries : Prop :=
  ∀ (hd : DHdr) (src dst : W64) (len : W32) (rctr : BitVec 16),
  (∀ (a st k : Nat) (bs : List Byte) (q : Option Nat) (t v : State), DriftDoes (.put hd src dst len rctr)
    (fun _ e l s => s.putAt (s.entAgents e) dst len.toNat = .ok (a, t) ∧ t.srcBytes l src 0 len.toNat = (bs, q) ∧
      putLines (fun u off b => u.targetWrite (s.entAgents e) (descTdev dst) (a + off) b) q (driftLines a len.toNat) 0 bs t 0 = (v, st, k))
    (fun n e _ _ => (if st = 0 then v.rctr e (descTdev dst) rctr else v).endEnt n st k)) ∧
  (∀ st : Nat, DriftDoes (.put hd src dst len rctr) (fun _ e _ s => s.putAt (s.entAgents e) dst len.toNat = .error st) (fun n _ _ s => s.endEnt n st 0)) ∧
  (∀ (fop : BitVec 8) (a st k : Nat) (bs : List Byte) (q : Option Nat) (v : State), DriftDoes (.putred hd src dst len rctr fop)
    (fun _ e l s => s.plainWin dst len.toNat = .ok a ∧ s.srcBytes l src 0 len.toNat = (bs, q) ∧
      putLines (fun u off b => u.targetAdds (s.entAgents e) (descTdev dst) (a + off) fop.toNat 1 b) q ((List.range (len.toNat / 4)).map (fun _ => 4))
        0 bs s 0 = (v, st, k))
    (fun n e _ _ => (if st = 0 then v.rctr e (descTdev dst) rctr else v).endEnt n st 0)) ∧
  (∀ (ack : W64) (g : Group), DriftDoes (.putmc hd src dst len rctr ack)
    (fun _ _ _ s => s.usableGroup (descGroup dst) = some g ∧ descOff dst + len.toNat ≤ min g.size (2 ^ 30))
    (fun n e _ s => s.setEnt n { e with phase := .sending, mcOff := 0 })) ∧
  (∀ (ack : W64), DriftDoes (.putmc hd src dst len rctr ack) (fun _ _ _ s => s.usableGroup (descGroup dst) = none)
    (fun n _ _ s => s.endEnt n 0x42 0)) ∧
  (∀ (a : Nat), DriftDoes (.get hd src dst len)
    (fun _ _ _ s => s.plainWin src len.toNat = .ok a ∧ len.toNat ≤ 64 - a % 64 ∧ 0 < len.toNat ∧ plainDpa a len.toNat = true ∧
      (descTdev src = ownTdev → s.ueIn a len.toNat = false))
    (fun n e l s =>
      let r := s.driftPut (s.entAgents e) l.asid dst (s.asSeen .drift (descTdev src) a (readBytes (s.devMem (descTdev src)) a len.toNat)) len.toNat none
      r.1.endEnt n r.2.1 r.2.2)) ∧
  (∀ (inc : W32), DriftDoes (.signal hd dst inc rctr) (fun _ _ _ s => s.reach (descTdev dst) = none)
    (fun n e _ s => (if rctr.getLsbD 15 then s.entCtr e (descTdev dst) (rctr.extractLsb' 0 12).toNat inc else s).endEnt n 0 0)) ∧
  (∀ (inc : W32) (st : Nat), DriftDoes (.signal hd dst inc rctr) (fun _ _ _ s => s.reach (descTdev dst) = some st)
    (fun n _ _ s => s.endEnt n st 0)) ∧
  (∀ (recv : W64) (succ sctr : BitVec 16) (np q : BitVec 8) (sig : W64) (bs : List Byte), 1 < np.toNat →
    DriftDoes (.rsstep hd src recv dst len succ sctr np q 0 sig)
      (fun _ _ l s =>
        let sh := shardOf len.toNat np.toNat (stepShard np.toNat q.toNat 0)
        s.driftBytes l.asid (src + BitVec.ofNat 64 sh.1) sh.2 = (bs, none) ∧ s.reach succ.toNat = none)
      (fun n e _ s =>
        let m : RingMsg := { src := .ent n, dest := succ.toNat, sctr := sctr.toNat, st := 0, data := bs,
                             sig := s.hopSig succ.toNat (sigContributor 0 ownTdev) }
        ({ s with rings := tset s.rings s.nextRing m } : State).setEnt n { e with phase := .sending })) ∧
  (∀ (tsize : W32) (name : W64) (bs : List Byte) (q : Option Nat) (k : Nat) (v : State),
    DriftDoes (.deliver hd src dst len tsize name)
      (fun _ e l s => s.driftBytes l.asid src len.toNat = (bs, q) ∧
        putLines (deliverLine (s.entAgents e) l.asid dst) q (driftLines dst.toNat len.toNat) 0 bs s 0 = (v, 0, k))
      (fun n e l _ => v.deliverTile n e l dst len.toNat tsize.toNat name 0 k))

/-- The ends of Drift entries, retries, lists and ring messages, accesses to counters, and the lines of a put through the
aperture. A message of a ring enters its slot, once that is free, and its counter then rises; that a slot of another device is
known by that counter, since its address is not, is the model's choice (log 28). An entry armed below its threshold waits, and every counter write fires those that it satisfies (R367, R368,
R371, R373 to R375, R377 to R380). -/
def Obligations.DriftEvents : Prop :=
  ((∀ (s : State) (n st k : Nat) (e : DriftEnt), tfind s.drifts n = some e → e.phase = .ended st k →
    exec (.driftEntryCompletion n) s = .next (s.closeEnt n e st k)) ∧
  (∀ (s : State) (n t : Nat) (e : DriftEnt), tfind s.drifts n = some e → e.phase = .retry t → t ≤ s.wallus.toNat →
    exec (.driftRetry n) s = .next (s.setEnt n { e with phase := .fired })) ∧
  (∀ (s : State) (n : Nat) (l : DriftList), tfind s.dlists n = some l → l.left = 0 → l.waiting = none → l.qid2 = none →
    exec (.darmCompletion n) s = .next (({ s with dlists := tdel s.dlists n } : State).complete l.org qDrift l.qid
      (if l.dput then 0x16 else 0x15) l.status l.detail (some l.sig))) ∧
  (∀ (s : State) (n : Nat) (m : RingMsg), tfind s.rings n = some m → s.reach m.dest = none → m.dest ≠ ownTdev →
    let p := s.peer m.dest
    let s0 : State := { s with rings := tdel s.rings n }
    (tmem p.slots m.key = true → exec (.ringSlotTransfer n) s = .next s) ∧
    (tmem p.slots m.key = false → exec (.ringSlotTransfer n) s =
      .next ((s0.setPeer m.dest { p with slots := tset p.slots m.key (m.data, m.sig) }).ringDone m []))) ∧
  (∀ (s : State) (n st : Nat) (m : RingMsg), tfind s.rings n = some m → s.reach m.dest = some st →
    exec (.ringSlotTransfer n) s = .next (({ s with rings := tdel s.rings n } : State).ringEnd m st)) ∧
  (∀ (s : State) (n a : Nat) (m : RingMsg) (asid : BitVec 16) (va : W64), tfind s.rings n = some m → s.reach m.dest = none →
    m.dest = ownTdev → s.ringDest m = some (asid, va) → s.driftXl asid va .store = .ok a → ringHome a = true →
    ((∃ r ∈ s.ringSlots, r.addr = a) → exec (.ringSlotTransfer n) s = .next s) ∧
    ((∀ r ∈ s.ringSlots, r.addr ≠ a) → ∀ (t : State) (k : Nat),
      ({ s with rings := tdel s.rings n } : State).driftPut (s.ringAgents m) asid va m.data m.data.length none = (t, 0, k) →
      exec (.ringSlotTransfer n) s = .next (({ t with ringSlots := t.ringSlots ++ [⟨a, m.sig⟩] } : State).ringDone m
        [(a, m.data.length)]))) ∧
  (∀ (s : State) (m : RingMsg) (ps : List (Nat × Nat)) (k : Nat) (e : DriftEnt), m.src = .ent k → tfind s.drifts k = some e →
    s.ringDone m ps = (s.entCtr e m.dest m.sctr 1).endEnt k 0 0 ∧ ∀ st, s.ringEnd m st = s.endEnt k st 0) ∧
  (∀ (s : State) (m : RingMsg) (ps : List (Nat × Nat)) (d : Nat), m.src = .dev d none →
    s.ringDone m ps = s.bumpCtr m.dest m.sctr 1 ∧ ∀ st, s.ringEnd m st = s) ∧
  (∀ (s : State) (e : DriftEnt) (d c : Nat) (n : W32), ((s.entRel e).1 = false → s.entCtr e d c n = s.bumpCtr d c n) ∧
    s.bumpCtr ownTdev c n = s.setCtr c (tget 0 s.ctrs c + n)) ∧
  (∀ (s : State) (c : Nat) (v : W64), c < 4096 →
    exec (.driftCounterAccess .load c v) s = .next s ∧
    exec (.driftCounterAccess .store c v) s = .next (s.setCtr c (v.truncate 32)) ∧
    exec (.driftCounterAccess .add c v) s = .next (s.setCtr c (tget 0 s.ctrs c + v.truncate 32))) ∧
  (∀ (s : State) (n : Nat) (e : DriftEnt) (hd : DHdr) (src dst ack : W64) (len : W32) (rctr : BitVec 16) (g : Group) (bs : List Byte)
    (q : Option Nat) (naks : List (Nat × Nat)) (t : State),
    tfind s.drifts n = some e → e.phase = .sending → e.entry = .putmc hd src dst len rctr ack → e.mcOff + 64 ≤ len.toNat →
    (descOff dst + e.mcOff) % 64 = 0 → descOff dst + e.mcOff + 64 ≤ min g.size (2 ^ 30) → (s.dlist e.list).src = some (bs, q) → s.usableGroup (descGroup dst) = some g →
    e.mcOff + 64 ≤ bs.length → g.kind = 0 →
    s.multicastTo (s.entAgents e) (descGroup dst) g (descOff dst + e.mcOff) ((bs.drop e.mcOff).take 64) Config.devId.toNat = (naks, t) →
    exec (.multicastLine n) s = .next (t.setEnt n { e with mcOff := e.mcOff + 64, naks := addNaks e.naks naks }))) ∧
  ((∀ (s : State) (lst idx : Nat) (i : Instr) (h : DHdr), driftHdr i = some h →
    ((s.armed lst idx i).phase = .fired ↔ h.thresh.toNat ≤ (tget 0 s.ctrs h.trig.toNat).toNat) ∧
    ((s.armed lst idx i).phase = .armed ↔ (tget 0 s.ctrs h.trig.toNat).toNat < h.thresh.toNat)) ∧
  (∀ (s : State) (c : Nat) (v : W32), c < 4096 → tget 0 (s.setCtr c v).ctrs c = v ∧
    (∀ k, k ≠ c → tget 0 (s.setCtr c v).ctrs k = tget 0 s.ctrs k)) ∧
  (∀ (s : State) (c : Nat) (v : W32) (p : Nat × DriftEnt) (h : DHdr), p ∈ (s.setCtr c v).drifts → driftHdr p.2.entry = some h →
    h.trig.toNat = c → h.thresh.toNat ≤ v.toNat → p.2.phase ≠ .armed))

/-- The panel: contributions of members, loads through the aperture, what peers do here, isolation, and the Floe links (R363 to
R366, R375, R378). -/
def Obligations.PanelEvents : Prop :=
  (∀ (s : State) (m g off : Nat) (bs : List Byte), (s.group g).valid = true → ((s.group g).kind = 1 ∨ (s.group g).kind = 2) →
    m ∈ (s.group g).list → bs.length = 64 → off % 64 = 0 → off + 64 ≤ (s.group g).size →
    exec (.reduceContribution m g off bs) s = .next (s.contribute g (s.group g) off m (rowOfBytes bs) (.other m))) ∧
  (∀ (s : State) (c n d g off : Nat) (l : LdsOut), (s.ctxAt c n).lds = some l →
    s.xlate (s.core c).tlb (s.ctxAt c n).launch.asid l.va .load = .ok d → regionOf d = .aperture g off →
    exec (.apertureLoad c n l.va) s = .next (s.setCtxAt c n { s.ctxAt c n with lds := some { l with
      result := match s.readDpa d (szBytes l.sz) with | .ok bs => .ok (szExtend l.sz bs) | .error e => .error e } })) ∧
  (∀ (s : State) (from' d : Nat) (bs : List Byte), bs ≠ [] → s.cutOff = false → exposed s.regs true d bs.length = true →
    plainDpa d bs.length = true → (bs.length ≤ 8 → s.partBad d bs.length = false) →
    exec (.peerAccess (.store from') d 0 bs) s = .next (s.storeMem [.peer (panelTdev from')] d bs)) ∧
  (∀ (s : State) (acc : PeerAcc) (d n : Nat) (bs : List Byte), exposed s.regs false d n = false → exposed s.regs true d bs.length = false →
    exposed s.regs true d 4 = false → exposed s.regs true d 8 = false → exec (.peerAccess acc d n bs) s = .next s) ∧
  (∀ (s : State) (acc : PeerAcc) (d n : Nat) (bs : List Byte), s.cutOff = true → exec (.peerAccess acc d n bs) s = .next s) ∧
  (∀ (s t : State) (from' d old op : Nat) (wide : Bool) (bs : List Byte),
    let w := if wide then 8 else 4
    s.cutOff = false → exposed s.regs true d w = true → plainDpa d w = true → inCounters d w = false → d % w = 0 → op ≤ 12 →
    (wide = true → op ≤ 8 ∨ op = 12) →
    s.applyWord [.peer (panelTdev from')] d w op (natOfBytes (bs.take w)) (natOfBytes ((bs.drop w).take w)) = .ok (old, t) →
    exec (.peerAccess (.atomic from' op wide none) d 0 bs) s = .next t) ∧
  (∀ (s : State) (p : Nat) (byReset : Bool), ∃ u : State, exec (.peerIsolation p byReset) s = .next u.settleAll ∧
    tget false u.isolated (panelTdev p) = true ∧ u.devDown (panelTdev p) = true ∧ u.mem = s.mem ∧
    ∀ d, d ≠ p → tget false u.isolated (panelTdev d) = tget false s.isolated (panelTdev d)) ∧
  (∀ (s : State) (n : Nat), s.link n = .up → exec (.linkFailure n) s = .next (s.setLink n (.held 0))) ∧
  (∀ (s : State) (n : Nat) (b : Beat), s.link n ≠ .down → exec (.linkRetrain n b b) s = .next (s.setLink n .up)) ∧
  (∀ (s : State) (n : Nat) (a b : Beat), a ≠ b → s.link n = .held 2 →
    ∃ t : State, exec (.linkRetrain n a b) s = .next t ∧ t.link n = .down) ∧
  (∀ (s : State) (n k : Nat) (a b : Beat), a ≠ b → s.link n = .held k → k < 2 →
    ∃ t : State, exec (.linkRetrain n a b) s = .next t ∧ t.link n = .held (k + 1))

/-! Contexts, launches, guards. -/

/-- What contexts and their cores do between bundles. A tile task begins with its coordinates in s0 to s2, the launch's parameter
in s3 and its handle in h0, every other scalar and handle 0, no loop, no result in flight, and the first bundle of its
entry next; the tiles of a core follow in the order of R36 (R36, R37, R40, R41, R65, R114, R138, R144, R156, R202, R215). -/
def Obligations.ContextEvents : Prop :=
  ((∀ (s t : State) (n : Nat), s.prepare = .run n t → exec .emptyBundle s = .next (t.finishRun n)) ∧
  (∀ s : State, exec .resultLanding s = .next (s.modCx (fun x => x.landKind (fun e => e.dest != .sfy && e.slot.isNone))) ∧
    exec .sfuResultLanding s = .next (s.modCx (fun x => x.landKind (fun e => e.dest == .sfy))) ∧
    exec .declaredLoadLanding s = .next (s.modCx (fun x => x.landKind (fun e => e.slot.isSome)))) ∧
  (∀ (s : State) (c n slot g : Nat), ∃ t : State, exec (.loadDataArrival c n slot g) s = .next t ∧
    (t.ctxAt c n).a.v.landing.length = (s.ctxAt c n).a.v.landing.length ∧
    (∀ e ∈ (t.ctxAt c n).a.v.landing, e.slot = some slot → ∀ x ∈ e.groups, x.grp = g → x.late = false) ∧
    (∀ h, (t.ctxAt c n).a.c.held = some h → ∀ e ∈ h.landing, e.slot = some slot → ∀ x ∈ e.groups, x.grp = g → x.late = false) ∧
    { (t.ctxAt c n).a.c with held := none } = { (s.ctxAt c n).a.c with held := none } ∧
    (t.ctxAt c n).a.v.vreg = (s.ctxAt c n).a.v.vreg ∧ t.mem = s.mem) ∧
  (∀ (a : Arch) (slot g : Nat), (a.arrived slot g).v.landing = a.v.landing.map (fun e => if e.slot = some slot then
      { e with groups := e.groups.map (fun x => if x.grp = g then { x with late := false } else x) } else e)) ∧
  (∀ (s : State) (c n : Nat) (l : LdsOut) (v : W64), (s.ctxAt c n).lds = some l → l.result = .ok v →
    (s.ctxAt c n).guard.replayLeft = [] → (s.ctxAt c n).env.any LaunchEnv.guard = false →
    ∃ t : State, exec (.ldsDataReturn c n) s = .next t ∧ (t.ctxAt c n).lds = none ∧
      (t.ctxAt c n).a.v.landing = (s.ctxAt c n).a.v.landing.take l.pos ++
        [{ count := 0, dest := .scal l.dst, groups := [], value := v.zeroExtend 256, slot := none }] ++
        (s.ctxAt c n).a.v.landing.drop l.pos) ∧
  (∀ (s : State) (c n e : Nat) (l : LdsOut), (s.ctxAt c n).lds = some l → l.result = .error e →
    (s.ctxAt c n).env.any LaunchEnv.guard = false →
    ∃ t : State, exec (.ldsDataReturn c n) s = .next t ∧ (t.ctxAt c n).lds = none ∧
      (t.ctxAt c n).a.p.sdata = some (BitVec.ofNat 64 (l.dst * 256 + e)) ∧
      (t.ctxAt c n).a.v.landing = (s.ctxAt c n).a.v.landing) ∧
  (∀ (s : State) (c n e : Nat) (va : W64) (x : LaunchEnv), (s.ctxAt c n).env = some x →
    exec (.stsErrorResponse c n e va) s = .next (s.smemErr { core := c, lid := x.lid, shadow := n == 4, cmd := 0 } e va)) ∧
  (∀ (s : State) (c : Cause) (info : W64), exec (.trapEntry c.code info) s = .next (s.enterTrap c info s.nextAddr)) ∧
  (∀ (s : State) (c n : Nat), s.fairNext c = some n → exec (.fairnessSwitch c) s = .next (s.switchTo c n)) ∧
  (∀ (s : State) (c : Nat), s.takesOver c = true →
    exec (.priorityTakeover c) s = .next (s.setCore c { s.core c with frozen := true, shYield := 0 })) ∧
  (∀ (s : State) (c : Nat), (s.core c).frozen = true → s.takesOver c = false →
    exec (.normalResume c) s = .next (s.setCore c { s.core c with frozen := false }))) ∧
  ((∀ (s : State) (c n : Nat) (e : LaunchEnv) (tx ty tz : Nat), (s.ctxAt c n).env = some e → (s.ctxAt c n).tile = none →
    (s.ctxAt c n).next = some (tx, ty, tz) → (s.ctxAt c n).guard.commitDue = false → s.stopping e.lid = false →
    ∃ t : State, exec (.tileTaskStart c n) s = .next t ∧ (t.ctxAt c n).tile = some (tx, ty, tz) ∧ (t.ctxAt c n).next = none ∧
      (t.ctxAt c n).a.c.sr 0 = BitVec.ofNat 64 tx ∧ (t.ctxAt c n).a.c.sr 1 = BitVec.ofNat 64 ty ∧
      (t.ctxAt c n).a.c.sr 2 = BitVec.ofNat 64 tz ∧ (t.ctxAt c n).a.c.sr 3 = e.param ∧
      (∀ r, 4 ≤ r → (t.ctxAt c n).a.c.sr r = 0) ∧ tget 0 (t.ctxAt c n).a.c.hnd 0 = e.h0 ∧
      (∀ r, r ≠ 0 → tget 0 (t.ctxAt c n).a.c.hnd r = 0) ∧ (t.ctxAt c n).a.c.pc = e.entry ∧ (t.ctxAt c n).a.c.bcount = 0 ∧
      (t.ctxAt c n).a.c.loops = .none ∧ (t.ctxAt c n).a.v.landing = [] ∧ (t.ctxAt c n).a.c.sem = (s.ctxAt c n).a.c.sem) ∧
  (∀ (e : LaunchEnv) (c x y z : Nat), e.firstTile c = some (x, y, z) ↔
    (x = coreX c - e.ox ∧ y = coreY c - e.oy ∧ z = 0 ∧ x < e.gx ∧ y < e.gy ∧ 0 < e.gz)) ∧
  (∀ (e : LaunchEnv) (x y z x' y' z' : Nat), 0 < e.w → 0 < e.h → x < e.gx → y < e.gy → z < e.gz →
    e.tileAfter (x, y, z) = some (x', y', z') →
    x' < e.gx ∧ y' < e.gy ∧ z' < e.gz ∧ x' % e.w = x % e.w ∧ y' % e.h = y % e.h ∧
    (z < z' ∨ z' = z ∧ (y < y' ∨ y' = y ∧ x < x'))))

/-- A launch from its record to its completion, which frees its contexts, its local store and its arrays, writes its record with
its LAUNCH_ID, its code and its tasks, and applies the signal of the LAUNCH that started it (R27 to R34, R43, R273). That the
count block's two words are read in one step is the model's choice (log 29). -/
def Obligations.LaunchEvents : Prop :=
  (∀ (s : State) (n : Nat) (r : List Nat), s.doorbells = (0x008010000000 + 128 * n) :: r → n < 256 →
    (s.byte (0x008010000000 + 128 * n)).getLsbD 0 = true → s.admits = true →
    exec (.launchRecordCopy n) s = .next ((s.storeMem [.launcher 0] (0x008010000000 + 128 * n)
      [s.byte (0x008010000000 + 128 * n) &&& 0xFE]).takeRecord (.slot n)
        (s.asSeen (.launcher 0) ownTdev (0x008010000000 + 128 * n) (readBytes s.mem (0x008010000000 + 128 * n) 128)))) ∧
  (∀ (s : State) (r : Nat) (l : Launch) (x y z : Nat), tfind s.launches r = some l → l.phase = .queued → l.counted = false →
    s.headOf l.die = some r → s.countReady l = true →
    let t := (s.acquireCount l).lunitFill l.die l.asid (BitVec.ofNat 64 (l.field 0x48 8)) 16
    t.countBlock l = some (x, y, z) → 0 < x → x ≤ 2 ^ 24 → 0 < y → y ≤ 2 ^ 24 → 0 < z → z ≤ 2 ^ 24 →
    exec (.countBlockRead r) s = .next (t.setLaunch r { l with gx := x, gy := y, gz := z, counted := true })) ∧
  (∀ (s : State) (r : Nat) (l : Launch) (ox oy : Nat), tfind s.launches r = some l → l.phase = .queued → l.counted = true →
    s.headOf l.die = some r → s.admits = true → s.originOf l.record = some (ox, oy) →
    exec (.reservationRound r) s = .next { s.setLaunch r { l with
      ox := ox, oy := oy, phase := .round s.nextRound (rectCores ox oy (recW l.record) (recH l.record)) false }
        with nextRound := s.nextRound + 1 }) ∧
  (∀ (s : State) (r c num : Nat) (l : Launch) (left : List Nat) (no : Bool), tfind s.launches r = some l →
    l.phase = .round num left no → c ∈ left → s.earlierRound num c = false → tget false s.nun.retired c = false →
    s.ctxFree c l.prio = true → recLsneed l.record ≤ (s.core c).lsFree →
    exec (.reserve r c) s = .next ((s.setLaunch r { l with phase := .round num (left.erase c) no }).setCore c
      { s.core c with grants := (s.core c).grants ++ [(r, recLsneed l.record)] })) ∧
  (∀ (s : State) (r c num : Nat) (l : Launch) (left : List Nat) (no : Bool), tfind s.launches r = some l →
    l.phase = .round num left no → c ∈ left → s.earlierRound num c = false →
    (tget false s.nun.retired c = true ∨ s.ctxFree c l.prio = false ∨ (s.core c).lsFree < recLsneed l.record) →
    exec (.reserve r c) s = .next (s.setLaunch r { l with phase := .round num (left.erase c) true })) ∧
  (∀ (s : State) (r num : Nat) (l : Launch), tfind s.launches r = some l → l.phase = .round num [] false →
    (∀ c ∈ rectCores l.ox l.oy (recW l.record) (recH l.record), tget false s.nun.retired c = false) → l.field 0x78 4 = 0 →
    ∃ t : State, exec (.commit r) s = .next t ∧ tfind t.launches r = some { l with
        lid := s.lidFrom s.launches.length s.nextLid, phase := .running } ∧ t.mem = s.mem ∧
      (∀ c, c ∉ rectCores l.ox l.oy (recW l.record) (recH l.record) → t.core c = s.core c)) ∧
  (∀ (s : State) (r num : Nat) (l : Launch), tfind s.launches r = some l → l.phase = .round num [] true →
    exec (.release r) s = .next (s.refuseRound r l)) ∧
  (∀ (s : State) (r t : Nat) (l : Launch), tfind s.launches r = some l → l.phase = .backoff t → t ≤ s.wallus.toNat →
    exec (.backoffExpiry r) s = .next (s.enqueueLaunch r l)) ∧
  (∀ (s : State) (r code n : Nat) (l : Launch), tfind s.launches r = some l → l.phase = .ended code → l.lid = 0 → l.src = .slot n →
    ∃ t u : State, exec (.launchCompletion r) s = .next t ∧ (t = u ∨ ∃ d, t = u.log 0x3FF 0x0003 d) ∧
      tfind t.launches r = none ∧ t.cores = s.cores ∧
      (let v := { (s.lunitFill l.die l.asid (BitVec.ofNat 64 (l.field 0x68 8)) 16).unqueue r l with launches := tdel s.launches r }
       ∀ a, v.doneAt l = some a → u.mem = writeBytes s.mem a (completionRecord 0 l.refusals code l.tasks))) ∧
  (∀ (s : State) (r code : Nat) (l : Launch), tfind s.launches r = some l → l.lid ≠ 0 → s.launchEnd l = some code →
    let s0 := s.lunitFill l.die l.asid (BitVec.ofNat 64 (l.field 0x68 8)) 16
    let v : State := { s0.unqueue r l with
      launches := tdel s0.launches r, cores := s0.cores.map (fun (p : Nat × Core) => (p.1, p.2.freeLaunch l.lid)) }
    let w := match v.doneAt l with
      | some a => (v.storeMem [.launcher l.die] a (completionRecord l.lid l.refusals code l.tasks)).releaseLaunch l (some a)
      | none => v.releaseLaunch l none
    let u := if v.doneAt l = none ∨ 2 ≤ code then
        w.log 0x3FF 0x0003 (bytesOfNat 8 l.lid ++ [BitVec.ofNat 8 code, if v.doneAt l = none then 1 else 0])
      else w
    exec (.launchCompletion r) s = .next (match l.src with | .cmd o _ _ sig => u.applySignal o sig | .slot _ => u)) ∧
  (∀ (k : Core) (lid : Nat),
    (∀ n e, ((k.freeLaunch lid).ctx n).env = some e → e.lid ≠ lid) ∧ (∀ p ∈ (k.freeLaunch lid).units, p.2 ≠ lid) ∧
    (∀ p ∈ (k.freeLaunch lid).arrays, p.2.owner ≠ some lid) ∧ (∀ p ∈ (k.freeLaunch lid).parking, p.lid ≠ lid) ∧
    (∀ p ∈ k.units, p.2 ≠ lid → p ∈ (k.freeLaunch lid).units) ∧ (k.freeLaunch lid).ls = k.ls) ∧
  (∀ lid refusals code tasks : Nat, lid < 2 ^ 32 → code < 256 → tasks < 2 ^ 64 →
    let b := completionRecord lid refusals code tasks
    b.length = 16 ∧ natOfBytes (b.take 1) = code ∧ natOfBytes ((b.drop 1).take 2) = min refusals 0xFFFF ∧
    natOfBytes ((b.drop 4).take 4) = lid ∧ natOfBytes (b.drop 8) = tasks)

/-- A commit, a rollback and the comparison of the reruns (R300 to R304). -/
def Obligations.GuardEvents : Prop :=
  (∀ (s : State) (c n : Nat), (s.at' c n).commitReady = true → (s.ctxAt c n).guard.rerun = 0 →
    exec (.checkpointCommit c n) s = .next (((s.at' c n).commitNow).at' s.focusCore s.focusCtx)) ∧
  (∀ (s : State) (c n : Nat) (a : Arch), (s.ctxAt c n).env.any LaunchEnv.guard = true → (s.ctxAt c n).guard.point = some a →
    (s.ctxAt c n).guard.rerun = 0 → (s.core c).snapped (s.ctxAt c n).launch.lid = true →
    exec (.rollback c n) s = .next (((s.at' c n).unwind 1).at' s.focusCore s.focusCtx)) ∧
  (∀ (s : State) (c n : Nat) (a : Arch), (s.ctxAt c n).env.any LaunchEnv.guard = true → (s.ctxAt c n).guard.point = some a →
    (s.ctxAt c n).guard.rerun = 0 → (s.core c).snapped (s.ctxAt c n).launch.lid = false →
    exec (.rollback c n) s = .next (s.unguarded c n)) ∧
  (∀ (s : State) (c n : Nat) (a : Arch), (s.ctxAt c n).env.any LaunchEnv.guard = true → (s.ctxAt c n).guard.point = some a →
    (s.ctxAt c n).guard.rerun ≠ 0 → exec (.rollback c n) s = .next (s.unsound c n)) ∧
  (∀ (s : State) (c n : Nat), (s.at' c n).commitReady = true → (s.at' c n).cx.guard.rerun = 1 →
    (s.core c).snapped (s.at' c n).cx.launch.lid = true →
    exec (.rerunCompare c n) s = .next ((((s.at' c n).modCx (fun x => { x with guard := { x.guard with
      firstAclk := (s.at' c n).cx.guard.aclk, firstCrc := (s.at' c n).rerunCrc } })).unwind
        2).at' s.focusCore s.focusCtx)) ∧
  (∀ (s : State) (c n : Nat), (s.at' c n).commitReady = true → (s.at' c n).cx.guard.rerun = 2 →
    (s.at' c n).cx.guard.aclk = (s.at' c n).cx.guard.firstAclk → (s.at' c n).rerunCrc = (s.at' c n).cx.guard.firstCrc →
    ∃ u : State, u = s.logRollback c n false ∧
      exec (.rerunCompare c n) s = .next (((u.at' c n).commitNow).at' u.focusCore u.focusCtx)) ∧
  (∀ (s : State) (c n : Nat), (s.at' c n).commitReady = true → (s.at' c n).cx.guard.rerun = 2 →
    ((s.at' c n).cx.guard.aclk ≠ (s.at' c n).cx.guard.firstAclk ∨ (s.at' c n).rerunCrc ≠ (s.at' c n).cx.guard.firstCrc) →
    exec (.rerunCompare c n) s = .next (s.unsound c n))

/-- A commit gives every held effect its turn, in the order of issue, with the operands that it had at issue; it then leaves the
guard's buffers empty and its recovery point at the context's state. A rollback puts the context's registers and every
journaled chunk of the local store back as they were at that point, and leaves the rest of the local store (R300, R302,
R303). -/
def Obligations.GuardRestores : Prop :=
  (∀ s : State, s.cx.guard.replayLeft = [] →
    let t := s.cx.guard.hold.foldl State.releaseHeld s
    s.commitNow.cx.guard.hold = [] ∧ s.commitNow.cx.guard.journal = [] ∧ s.commitNow.cx.guard.record = [] ∧
    s.commitNow.cx.guard.point = some t.cx.a ∧ s.commitNow.cx.a = t.cx.a ∧ SameMem t s.commitNow) ∧
  (∀ (s : State) (va : W64) (bs : List Byte), s.releaseHeld (.store va bs) = s.storeVirt va bs) ∧
  (∀ (s : State) (num : Nat) (i : Instr) (scal : Tbl W64) (hnd : Tbl W256) (vreg : Tbl (BitVec 512)) (mask : Tbl (BitVec 16))
      (q : Option Nat),
    let c := s.cx.a.c
    let v := s.cx.a.v
    let u := ({ s with cmdNow := num }.modCtl (fun c => { c with scal := scal, hnd := hnd })).modVec
      (fun v => { v with vreg := vreg, mask := mask })
    s.releaseHeld (.send num i scal hnd vreg mask q) = ((u.sendHeld i (q.getD 0)).modCtl
      (fun d => { d with scal := c.scal, hnd := c.hnd })).modVec (fun w => { w with vreg := v.vreg, mask := v.mask })) ∧
  (∀ (s : State) (o : EngArgs) (q : Nat),
    s.sendHeld (.copy o) q = (s.beginCmd (.copy o) o).sendCopy 1 o q ∧ s.sendHeld (.copys o) q = (s.beginCmd (.copys o) o).sendCopy 2 o q ∧
    s.sendHeld (.rotq o) q = (s.beginCmd (.rotq o) o).sendRotq o q ∧ s.sendHeld (.ask o) q = (s.beginCmd (.ask o) o).sendAsk o q ∧
    s.sendHeld (.announce o) q = (s.beginCmd (.announce o) o).sendAnnounce o q ∧
    s.sendHeld (.seal o) q = (s.beginCmd (.seal o) o).sendSeal o q ∧ s.sendHeld (.red o) q = (s.beginCmd (.red o) o).sendRedCmd o ∧
    s.sendHeld (.binit o) q = (s.beginCmd (.binit o) o).sendBinit o q ∧
    s.sendHeld (.barr o) q = (s.beginCmd (.barr o) o).sendBarr 0x0A o q ∧
    s.sendHeld (.barrx o) q = (s.beginCmd (.barrx o) o).sendBarr 0x0B o q ∧
    s.sendHeld (.bwait o) q = (s.beginCmd (.bwait o) o).sendBwait 0x0C o q ∧
    s.sendHeld (.btwait o) q = (s.beginCmd (.btwait o) o).sendBwait 0x0D o q ∧
    s.sendHeld (.flushh o) q = (s.beginCmd (.flushh o) o).sendFlushh o ∧ s.sendHeld (.msub o) q = (s.beginCmd (.msub o) o).sendMsub o q ∧
    s.sendHeld (.mstat o) q = (s.beginCmd (.mstat o) o).sendMstat o q ∧ s.sendHeld (.darm o) q = (s.beginCmd (.darm o) o).sendDarm o q ∧
    s.sendHeld (.dput o) q = (s.beginCmd (.dput o) o).sendDput o q ∧
    s.sendHeld (.launch o) q = (s.beginCmd (.launch o) o).sendLaunch o false ∧
    s.sendHeld (.launchi o) q = (s.beginCmd (.launchi o) o).sendLaunch o true) ∧
  (∀ (s : State) (o : MemArgs) (q : Nat), s.sendHeld (.vred o) q = s.vredEffect o) ∧
  (∀ (s : State) (sa sb : BitVec 6) (scope : BitVec 3) (q : Nat),
    s.sendHeld (.rel sa sb scope) q = s.relEffect (s.sr sa) (s.sr sb) scope.toNat) ∧
  (∀ (s : State) (n : Nat) (a : Arch), s.cx.guard.point = some a →
    (s.unwind n).cx.a = a ∧ (s.unwind n).cx.guard.hold = [] ∧ (s.unwind n).cx.guard.rerun = n ∧ SameMem s (s.unwind n)) ∧
  (∀ (s : State) (n : Nat), s.cx.guard.journal.Pairwise (fun p q => p.1 + p.2.length ≤ q.1) →
    (∀ p ∈ s.cx.guard.journal, readBytes (s.unwind n).fcore.ls p.1 p.2.length = p.2) ∧
    ∀ o, (∀ p ∈ s.cx.guard.journal, o < p.1 ∨ p.1 + p.2.length ≤ o) → tget 0 (s.unwind n).fcore.ls o = tget 0 s.fcore.ls o) ∧
  (∀ (k : Core) (j : Tbl (List Byte)) (o : Nat), (∀ p ∈ j, o < p.1 ∨ p.1 + p.2.length ≤ o) →
    tget 0 (k.unjournal j).ls o = tget 0 k.ls o) ∧
  (∀ (k : Core) (o : Nat) (bs : List Byte), readBytes (k.unjournal [(o, bs)]).ls o bs.length = bs)

/-! Translation, eviction, management, the host. -/

/-- Walks, invalidations, and the control block's commands. The contexts that ask for a page under a walk join it and share its
outcome, and 64 walks of a die are under way at most; a fault is not cached, and a page under invalidation is not installed
(R399 to R401, R406, R407). Which requesters wait for walks, and that a walk fills the cache of every core that asked (log 6 and
log 11), the layout of the variable records that RESTORE reads, and STATUS 7 for an image at a bad address (log 30), are the
model's choice. -/
def Obligations.TranslationAndEvictionEvents : Prop :=
  (∀ (s : State) (asid : Nat) (va : W64) (w : Walk),
    s.walks.find? (fun w => w.asid == BitVec.ofNat 16 asid && w.page == pageNo va && s.walking w) = some w →
    let out := s.walk (BitVec.ofNat 16 asid) w.va
    let t := w.reqs.foldl (fun s q => s.tellWalk { page := w.page, out := out } q) { s with walks := s.walks.erase w }
    (∀ e, out = .ok e → (s.xinvBusy && s.xinvCovers e) = false →
      exec (.translationWalk asid va) s = .next (w.reqs.foldl (fun s q => s.tlbFill q.1 (BitVec.ofNat 16 asid) w.va) t)) ∧
    (∀ e, out = .ok e → (s.xinvBusy && s.xinvCovers e) = true → exec (.translationWalk asid va) s = .next t) ∧
    (∀ f, out = .error f → exec (.translationWalk asid va) s = .next t)) ∧
  (∀ (s : State) (va : W64),
    (∃ w ∈ (s.askWalk va).walks, w.die = coreDie s.focusCore ∧ w.asid = s.cx.launch.asid ∧ w.page = pageNo va ∧
      (s.focusCore, s.cx.launch.lid) ∈ w.reqs) ∧
    ((∃ w ∈ s.walks, w.die = coreDie s.focusCore ∧ w.asid = s.cx.launch.asid ∧ w.page = pageNo va) →
      (s.askWalk va).walks.length = s.walks.length) ∧
    (s.askWalk va).askWalk va = s.askWalk va) ∧
  (∀ (s : State) (w : Walk) (xs ys : List Walk), s.walks = xs ++ w :: ys → w ∉ xs →
    (s.walking w = true ↔ (xs.filter (fun v => v.die == w.die)).length < 64)) ∧
  (∀ s : State, exec .xinvInvalidate s = .next { s with xinvBusy := true }) ∧
  (∀ s : State, s.xinvBusy = true → (∃ w ∈ s.walks, s.xinvCovers (s.walkEnt w) = true) →
    exec .invalidationComplete s = .next s) ∧
  (∀ s : State, s.xinvBusy = true → (∀ w ∈ s.walks, s.xinvCovers (s.walkEnt w) = false) →
    ∃ t : State, exec .invalidationComplete s = .next t ∧ t.xinvBusy = false ∧
    (∀ p ∈ t.cores, ∀ e ∈ p.2.tlb, s.xinvCovers e = false) ∧ (∀ p ∈ t.units, ∀ e ∈ p.2.tlb, s.xinvCovers e = false) ∧
    (∀ e ∈ t.driftTlb, s.xinvCovers e = false) ∧ (∀ p ∈ t.unitTlbs, ∀ e ∈ p.2, s.xinvCovers e = false) ∧ t.mem = s.mem) ∧
  (∀ (s : State) (c : Nat), (s.core c).evCmd = 1 → (s.core c).evCtx < 4 → ((s.core c).ctx (s.core c).evCtx).tile.isSome = true →
    (s.core c).parking.length < 8 → imageAt (s.core c).evImage.toNat = true → s.evictable c (s.core c).evCtx = true →
    exec (.evict c) s = .next (s.evictNow c (s.core c).evCtx (s.core c).evImage.toNat)) ∧
  (∀ (s : State) (c : Nat), (s.core c).evCmd = 1 → ((s.core c).ctx (s.core c).evCtx).tile = none →
    exec (.evict c) s = .next (s.evDone c 3)) ∧
  (∀ (s : State) (c : Nat), (s.core c).evCmd = 2 → imageAt (s.core c).evImage.toNat = false →
    exec (.restore c) s = .next (s.evDone c 7)) ∧
  (∀ (s : State) (c n : Nat) (p : Parking), (s.core c).evCmd = 2 → imageAt (s.core c).evImage.toNat = true →
    (let img := (s.core c).evImage.toNat
     let rd := fun off len => readNat s.mem (img + off) len
     s.ueIn img (40192 + 8 * rd 6 2) = false → rd 0 4 = 0x43564153 → rd 4 2 = 1 → s.runs (rd 8 8) = true → BitVec.ofNat 64 (rd 0x10 8) = coreXY c →
     (s.core c).parking.find? (fun q => q.lid == rd 8 8) = some p → s.ctxFree c false = true →
     [0, 1, 2, 3].find? (fun n => ((s.core c).ctx n).env.isNone) = some n →
     ∃ k : Core, k.parking = (s.core c).parking.filter (fun q => q.lid != p.lid) ∧ k.evStatus = 2 ∧ k.late = (s.core c).late.erase n ++ [n] ∧
       exec (.restore c) s = .next (s.setCore c (k.setCtx n (p.unpark {
         loadImage c p.ctx rd (evictRecords (readBytes s.mem (img + 0x9D00) (8 * rd 6 2))) with
         blocked := false, waited := 0, routines := [], pendCmds := [] }))))) ∧
  (∀ (s : State) (c : Nat), exec (.controlStatusRead c) s = .next (s.setCore c { s.core c with evStatus := 0 }))

/-- The management commands, each where the mailbox holds its opcode and its arguments are good, and that bad arguments end it
with STATUS 4; a command takes its arguments as they stand when OP is written. The host's accesses, loads and unloads, the
scrub, margins and power (R8, R58, R411, R413, R415, R416, R417, R418, R419, R421, R422, R423). RESULT 0 beside STATUS 4 and the
host's writes of HBM by its CXL event (log 31), the number of retrainings of a LINKUP and whether a silent peer answers again
(log 8) are the model's choice. -/
def Obligations.ManagementAndHost : Prop :=
  (∀ s : State,
  let arg (n : Nat) : Nat := (s.nun.args.getD n 0).toNat
  (s.nun.op = 1 → arg 0 = 0 → s.launches.filter (fun p => p.2.lid != 0 && p.2.lid == arg 1) = [] →
    exec .cancel s = .next (s.mgmtDone 3 0)) ∧
  (∀ r l, s.nun.op = 1 → arg 0 = 0 → s.launches.filter (fun p => p.2.lid != 0 && p.2.lid == arg 1) = [(r, l)] →
    exec .cancel s = .next ((s.cancelLaunch r l).mgmtDone 2 1)) ∧
  (s.nun.op = 1 → arg 0 = 1 → arg 1 < 256 →
    let ls := s.launches.filter (fun p => match p.2.src with | .slot n => n == arg 1 | .cmd .. => false)
    exec .cancel s = .next (if ls = [] then s.mgmtDone 3 0
      else (ls.foldl (fun s p => s.cancelLaunch p.1 p.2) s).mgmtDone 2 ls.length)) ∧
  (s.nun.op = 1 → arg 0 = 2 → arg 2 < 65536 →
    let ls := s.launches.filter (fun p => match p.2.src with
      | .slot _ => false | .cmd _ va asid _ => va.toNat == arg 1 && asid.toNat == arg 2)
    exec .cancel s = .next (if ls = [] then s.mgmtDone 3 0
      else (ls.foldl (fun s p => s.cancelLaunch p.1 p.2) s).mgmtDone 2 ls.length)) ∧
  (s.nun.op = 1 → (2 < arg 0 ∨ (arg 0 = 1 ∧ 256 ≤ arg 1) ∨ (arg 0 = 2 ∧ 65536 ≤ arg 2)) → exec .cancel s = .next (s.mgmtDone 4 0)) ∧
  (s.nun.op = 2 → arg 0 < 512 → exec .retire s = .next ((s.retireCore (arg 0) 3).mgmtDone 2 0)) ∧
  (s.nun.op = 2 → 512 ≤ arg 0 → exec .retire s = .next (s.mgmtDone 4 0)) ∧
  (s.nun.op = 3 → arg 0 < 32 →
    exec .linkup s = .next (({ s with free := s.free + 1 } : State).retrainUp (arg 0) (Config.freeChoice s.free % 4))) ∧
  (s.nun.op = 3 → 32 ≤ arg 0 → exec .linkup s = .next (s.mgmtDone 4 0)) ∧
  (s.nun.op = 4 → 64 ≤ arg 0 → exec .reinstate s = .next (s.mgmtDone 4 0)) ∧
  (s.nun.op = 4 → arg 0 < 64 → panelTdev (arg 0) ≠ ownTdev →
    let u := s.rejoin (panelTdev (arg 0))
    ((u.peer (panelTdev (arg 0))).up = false ∨ u.cutOff = true) → exec .reinstate s = .next (u.mgmtDone 3 0)) ∧
  (s.nun.op = 4 → arg 0 < 64 → (panelTdev (arg 0) = ownTdev ∨ ((s.peer (panelTdev (arg 0))).up = true ∧ s.cutOff = false)) →
    exec .reinstate s = .next (({ s with isolated := tput false s.isolated (panelTdev (arg 0)) false } : State).mgmtDone 2 0)) ∧
  (s.nun.op = 5 → 400 ≤ arg 0 → arg 0 ≤ 1600 →
    exec .powercap s = .next (({ s with nun := { s.nun with capWatts := arg 0 } } : State).mgmtDone 2 (arg 0))) ∧
  (s.nun.op = 5 → (arg 0 < 400 ∨ 1600 < arg 0) → exec .powercap s = .next (s.mgmtDone 4 0)) ∧
  (s.nun.op = 6 → hbmObject (arg 0) (arg 1) = true → exec .fwupdate s = .next (
    match s.fwRefusal (readBytes s.mem (arg 0) (arg 1)) with
    | some st => s.mgmtDone 3 st
    | none => ({ s with nun := { (s.nun.setSlot (!s.nun.fwActive) {
        object := readBytes s.mem (arg 0) (arg 1), secver := objField (readBytes s.mem (arg 0) (arg 1)) 0x14 4, valid := true,
        fresh := true }) with fwNext := !s.nun.fwActive } } : State).mgmtDone 2 0)) ∧
  (s.nun.op = 6 → hbmObject (arg 0) (arg 1) = false → exec .fwupdate s = .next (s.mgmtDone 4 0)) ∧
  (s.nun.op = 7 → (s.nun.slot s.nun.fwActive).fresh = false → exec .fwconfirm s = .next (s.mgmtDone 3 0)) ∧
  (s.nun.op = 8 → (hbmObject (arg 0) 2952 = false ∨ arg 1 ≠ 2952) → exec .keycmd s = .next (s.mgmtDone 4 0)) ∧
  (s.nun.op = 10 → hbmObject (arg 0) 152 = false → exec .idkey s = .next (s.mgmtDone 4 0)) ∧
  (s.nun.op = 7 → (s.nun.slot s.nun.fwActive).fresh = true → ∃ t : State, exec .fwconfirm s = .next t ∧
    t.nun.fuseCnt = max s.nun.fuseCnt (s.nun.slot s.nun.fwActive).secver ∧ t.nun.status = 2 ∧ t.mem = s.mem) ∧
  (s.nun.op = 8 → hbmObject (arg 0) 2952 = true → arg 1 = 2952 → ∃ t : State, exec .keycmd s = .next t ∧
    t.nun.status = s.keyStatus (readBytes s.mem (arg 0) 2952) ∧
    (if s.keyStatus (readBytes s.mem (arg 0) 2952) = 2 then
      t.nun.keySeq = BitVec.ofNat 64 (recField (readBytes s.mem (arg 0) 2952) 8 8) ∧
      (∀ k, k ≠ recField (readBytes s.mem (arg 0) 2952) 5 1 → t.nun.key k = s.nun.key k)
    else t = s.mgmtDone (s.keyStatus (readBytes s.mem (arg 0) 2952)) 0)) ∧
  (s.nun.op = 9 → hbmObject (arg 0) 32 = true → hbmObject (arg 1) (0x60 + 56 * s.images.length + 2776) = true →
    0x60 + 56 * s.images.length + 2776 ≤ arg 2 → exec .attest s = .next ((s.publish (arg 1)
      (s.report (readBytes s.mem (arg 0) 32))).mgmtDone 2 (0x60 + 56 * s.images.length + 2776))) ∧
  (s.nun.op = 10 → hbmObject (arg 0) 152 = true →
    exec .idkey s = .next ((s.publish (arg 0) (idEcPub ++ idLmsPub)).mgmtDone 2 152))) ∧
  ((∀ (s : State) (d : Nat) (bs : List Byte), d + bs.length ≤ Config.hbmEnd → bs ≠ [] →
    exec (.hostCxlWrite d bs) s = .next (s.storeMem [.host] d bs)) ∧
  (∀ (s : State) (d : Nat) (bs : List Byte), Config.windowBase ≤ d → d + bs.length ≤ Config.windowEnd →
    ∃ t : State, exec (.hostCxlWrite d bs) s = .next t ∧ t.mem = (s.writeMem d bs).mem ∧ t.doorbells = (s.writeMem d bs).doorbells ∧
      t.queue = s.queue) ∧
  (∀ (s : State) (n : Nat) (b : Byte), n < 272 → (s.writeMem (0x008010000000 + 128 * n) [b]).doorbells =
    if b.getLsbD 0 = false then s.doorbells.erase (0x008010000000 + 128 * n)
    else if (0x008010000000 + 128 * n) ∈ s.doorbells then s.doorbells else s.doorbells ++ [0x008010000000 + 128 * n]) ∧
  (∀ (s : State) (d n : Nat), d + n ≤ Config.hbmEnd → exec (.hostCxlRead d n) s = .next s) ∧
  (∀ (s : State) (d n : Nat), Config.windowBase ≤ d → d + n ≤ Config.windowEnd → exec (.hostCxlRead d n) s =
    .next ((objectsOf d n).foldl (fun t a => t.acquire .host 6 (fun o => o == .latch a)) s)) ∧
  (∀ (s : State) (b : Byte), s.nun.status ≠ 1 → 0 < b.toNat → b.toNat ≤ 10 →
    exec (.registerWrite (Config.mailboxDpa + 32) [b]) s = .next { s with nun := { s.nun with
      op := b.toNat, status := 1, args := (List.range 4).map (fun n => BitVec.ofNat 64 (readNat s.regs (Config.mailboxDpa + 8 * n) 8)) } }) ∧
  (∀ (s : State) (a : Nat) (b : Byte), regionOf a = .regs → exec (.registerWrite a [b]) s = .next (s.regByte a b)) ∧
  (∀ (s : State) (r : Nat × Nat) (a : Nat) (b : Byte), r ∈ plainRegs → r.1 ≤ a → a < r.1 + r.2 → a ≠ Config.xinvDpa + 10 →
    tget 0 (s.regByte a b).regs a = b &&& regMask a) ∧
  (∀ (s t : State) (n : Nat) (l : Loaded), s.asks n false = true → s.slotReserved n = false →
    let a := loadSlot n
    hbmObject (readNat s.mem (a + 8) 8) (readNat s.mem (a + 16) 8) = true →
    s.load (readBytes s.mem (readNat s.mem (a + 8) 8) (readNat s.mem (a + 16) 8)) (BitVec.ofNat 16 (readNat s.mem (a + 4) 2)) = (l, t) →
    exec (.loadRequest n) s = .next (t.loadRecord n l
      (objField (readBytes s.mem (readNat s.mem (a + 8) 8) (readNat s.mem (a + 16) 8)) 0x18 4))) ∧
  (∀ (s : State) (n : Nat) (i : Image), s.asks n true = true → s.slotReserved n = false →
    let asid : BitVec 16 := BitVec.ofNat 16 (readNat s.mem (loadSlot n + 4) 2)
    s.images.find? (fun i => i.asid == asid && i.bases.getD 0 0 == readNat s.mem (loadSlot n + 8) 8) = some i →
    (∀ p ∈ s.launches, p.2.uses i = false) →
    ∃ u : State, u = i.regions.foldl (fun s m => (s.unmapPages asid.toNat m.va (m.size / 65536)).forget asid m) s ∧
      exec (.unloadRequest n) s = .next (({ u with images := u.images.erase i } : State).loadRecord n (failed 0 0) 0)) ∧
  (∀ s : State, s.nun.scrubbed = false → ∃ t : State, exec .scrubDone s = .next t ∧ t.nun.scrubbed = true ∧
    (∀ a, a < Config.hbmEnd → t.byte a = 0) ∧ (∀ a, Config.hbmEnd ≤ a → t.byte a = s.byte a)) ∧
  (∀ (s : State) (c : Nat), s.nun.aclkMhz ≤ 350 → exec (.marginStep c) s = .next (s.retireCore c 2)) ∧
  (∀ (s : State) (c : Nat), 350 < s.nun.aclkMhz → ∃ t : State, exec (.marginStep c) s = .next t ∧
    t.nun.aclkMhz = max 350 (s.nun.aclkMhz - 25) ∧ t.nun.retired = s.nun.retired) ∧
  (∀ (s : State) (f : Nat), ∃ t : State, exec (.replan f) s = .next t ∧
    t.nun.planMhz % 25 = 0 ∧ 350 ≤ t.nun.planMhz ∧ t.nun.planMhz ≤ 700 ∧
    (350 ≤ f → t.nun.planMhz ≤ f) ∧ (f < 700 → f < t.nun.planMhz + 25) ∧ t.mem = s.mem ∧
    (s.nun.gating = 0 → t.nun.aclkMhz = t.nun.planMhz) ∧
    (0 < s.nun.gating → t.nun.aclkMhz = min s.nun.aclkMhz t.nun.planMhz ∧ t.nun.gating = s.nun.gating)) ∧
  (∀ (s : State) (w j : Nat) (b : Bool), s.nun.capWatts < w → 350 < s.nun.aclkMhz →
    ∃ t : State, exec (.powerCapStep w j b) s = .next t ∧ t.nun.aclkMhz = s.nun.aclkMhz - 25 ∧ t.nun.gating = s.nun.gating) ∧
  (∀ (s : State) (w j : Nat), w * 100 ≤ s.nun.capWatts * 95 → j < 105 → s.nun.gating = 0 → s.nun.aclkMhz < s.nun.planMhz →
    ∃ t : State, exec (.powerCapStep w j false) s = .next t ∧ t.nun.aclkMhz = min (s.nun.aclkMhz + 25) s.nun.planMhz) ∧
  (∀ (s : State) (j : Nat), 115 ≤ j → exec (.thermalTrip j) s = .next ((s.log 0x3FF 0x0010 (bytesOfNat 2 j)).rebooted false)) ∧
  (∀ (s : State) (j : Nat), j < 115 → exec (.thermalTrip j) s = .next s))

/-! Whole-machine rules. -/

/-- Every step keeps memory in canonical form. -/
def Obligations.StepKeepsMemory : Prop :=
 ∀ s t : State, Memory.wf s.mem → step s = .next t → Memory.wf t.mem

/-- Memory keeps what is written: a read of the bytes written gives them, every other byte reads as before, and the form stays
canonical (R2, R47). -/
def Obligations.MemoryReadAfterWrite : Prop :=
  (∀ (s : State) (a : Nat) (bs : List Byte), readBytes (s.writeMem a bs).mem a bs.length = bs) ∧
  (∀ (s : State) (a b : Nat) (bs : List Byte), (b < a ∨ a + bs.length ≤ b) → (s.writeMem a bs).byte b = s.byte b) ∧
  (∀ (s : State) (a : Nat) (bs : List Byte), Memory.wf s.mem → Memory.wf (s.writeMem a bs).mem) ∧
  (∀ (s : State) (a n v : Nat), readNat (s.writeMem a (bytesOfNat n v)).mem a n = v % 2 ^ (8 * n)) ∧
  (∀ m m' : List Host.Cell, Memory.wf m → Memory.wf m' → (∀ a, tget 0 m a = tget 0 m' a) → m = m')
end

