-- ==== Sys2Proof/Laws/Issue.lean ====
section
/-! SUPPORT. What a slot instruction can do: the one inversion over its test at issue, and its effect where it is ready. -/

namespace Sys2Proof.Machine

open Sys2Proof

/-- All that a slot instruction can answer: its effect, or the state in which its bundle is held or has trapped. -/
theorem slot_next {i : Instr} {s t : State} {f : State → State} (h : slot i s f = .next t) :
    (s.cx.iss.checked = true ∧ t = f s) ∨
    (s.cx.iss.checked = false ∧ ∃ u, s.test [(slotOf i, i)] = .go u ∧ t = f u) ∨
    (s.cx.iss.checked = false ∧ s.test [(slotOf i, i)] = .stop t) := by
  unfold slot at h
  split at h
  · rename_i hc
    left; exact ⟨hc, by cases h; rfl⟩
  · rename_i hc
    have hc' : s.cx.iss.checked = false := by simpa using hc
    right
    split at h
    · rename_i u hu
      left; exact ⟨hc', u, hu, by cases h; rfl⟩
    · rename_i u hu
      cases h; right; exact ⟨hc', hu⟩

/-- A slot instruction never faults and is never refused. -/
theorem slot_answers (i : Instr) (s : State) (f : State → State) : ∃ t, slot i s f = .next t := by
  unfold slot
  split
  · exact ⟨_, rfl⟩
  · split <;> exact ⟨_, rfl⟩

/-- Where it is ready, a slot instruction has its effect on the state in which it reads its operands. -/
theorem slot_ready {i : Instr} {s : State} {f : State → State} (h : Ready i s) : slot i s f = .next (f s.issued) := by
  unfold slot State.issued
  rcases h with h | h
  · simp [h]
  · split
    · rfl
    · simp only [h]

/-- Within a bundle that has been tested, every instruction is ready. -/
theorem ready_checked {i : Instr} {s : State} (h : s.cx.iss.checked = true) : Ready i s := .inl h

@[simp] theorem issued_checked {s : State} (h : s.cx.iss.checked = true) : s.issued = s := by simp [State.issued, h]

/-- The test of a bundle lets it go only from the state in which the results due have landed. -/
theorem test_go {s t : State} {l : List (Slot × Instr)} (h : s.test l = .go t) : t = s.landed := by
  unfold State.test at h
  simp only at h
  split at h
  · cases h
  · split at h
    · cases h
    · split at h
      · cases h
      · split at h
        · cases h
        · cases h; rfl

end Sys2Proof.Machine
end

