-- ==== Sys2Proof/Laws/State.lean ====
section
/-! SUPPORT. What each update of the state leaves alone, field by field, and what it reads as. -/

namespace Sys2Proof.Machine

open Sys2Proof

@[simp] theorem setCore_focusCore (s : State) (c : Nat) (k : Core) : (s.setCore c k).focusCore = s.focusCore := rfl
@[simp] theorem setCore_focusCtx (s : State) (c : Nat) (k : Core) : (s.setCore c k).focusCtx = s.focusCtx := rfl
@[simp] theorem setCore_focusArr (s : State) (c : Nat) (k : Core) : (s.setCore c k).focusArr = s.focusArr := rfl
@[simp] theorem setCore_focusUnit (s : State) (c : Nat) (k : Core) : (s.setCore c k).focusUnit = s.focusUnit := rfl
@[simp] theorem setCore_focusEnt (s : State) (c : Nat) (k : Core) : (s.setCore c k).focusEnt = s.focusEnt := rfl
@[simp] theorem setCore_mem (s : State) (c : Nat) (k : Core) : (s.setCore c k).mem = s.mem := rfl
@[simp] theorem setCore_memUe (s : State) (c : Nat) (k : Core) : (s.setCore c k).memUe = s.memUe := rfl
@[simp] theorem setCore_lags (s : State) (c : Nat) (k : Core) : (s.setCore c k).lags = s.lags := rfl
@[simp] theorem setCore_cmdNow (s : State) (c : Nat) (k : Core) : (s.setCore c k).cmdNow = s.cmdNow := rfl
@[simp] theorem setCore_cmdNext (s : State) (c : Nat) (k : Core) : (s.setCore c k).cmdNext = s.cmdNext := rfl
@[simp] theorem setCore_walks (s : State) (c : Nat) (k : Core) : (s.setCore c k).walks = s.walks := rfl
@[simp] theorem setCore_doorbells (s : State) (c : Nat) (k : Core) : (s.setCore c k).doorbells = s.doorbells := rfl
@[simp] theorem setCore_planes (s : State) (c : Nat) (k : Core) : (s.setCore c k).planes = s.planes := rfl
@[simp] theorem setCore_torusDown (s : State) (c : Nat) (k : Core) : (s.setCore c k).torusDown = s.torusDown := rfl
@[simp] theorem setCore_regs (s : State) (c : Nat) (k : Core) : (s.setCore c k).regs = s.regs := rfl
@[simp] theorem setCore_ctrs (s : State) (c : Nat) (k : Core) : (s.setCore c k).ctrs = s.ctrs := rfl
@[simp] theorem setCore_groups (s : State) (c : Nat) (k : Core) : (s.setCore c k).groups = s.groups := rfl
@[simp] theorem setCore_wallus (s : State) (c : Nat) (k : Core) : (s.setCore c k).wallus = s.wallus := rfl
@[simp] theorem setCore_aclks (s : State) (c : Nat) (k : Core) : (s.setCore c k).aclks = s.aclks := rfl
@[simp] theorem setCore_flights (s : State) (c : Nat) (k : Core) : (s.setCore c k).flights = s.flights := rfl
@[simp] theorem setCore_packets (s : State) (c : Nat) (k : Core) : (s.setCore c k).packets = s.packets := rfl
@[simp] theorem setCore_routers (s : State) (c : Nat) (k : Core) : (s.setCore c k).routers = s.routers := rfl
@[simp] theorem setCore_dies (s : State) (c : Nat) (k : Core) : (s.setCore c k).dies = s.dies := rfl
@[simp] theorem setCore_rots (s : State) (c : Nat) (k : Core) : (s.setCore c k).rots = s.rots := rfl
@[simp] theorem setCore_units (s : State) (c : Nat) (k : Core) : (s.setCore c k).units = s.units := rfl
@[simp] theorem setCore_blocks (s : State) (c : Nat) (k : Core) : (s.setCore c k).blocks = s.blocks := rfl
@[simp] theorem setCore_drifts (s : State) (c : Nat) (k : Core) : (s.setCore c k).drifts = s.drifts := rfl
@[simp] theorem setCore_dlists (s : State) (c : Nat) (k : Core) : (s.setCore c k).dlists = s.dlists := rfl
@[simp] theorem setCore_rings (s : State) (c : Nat) (k : Core) : (s.setCore c k).rings = s.rings := rfl
@[simp] theorem setCore_ringSlots (s : State) (c : Nat) (k : Core) : (s.setCore c k).ringSlots = s.ringSlots := rfl
@[simp] theorem setCore_peers (s : State) (c : Nat) (k : Core) : (s.setCore c k).peers = s.peers := rfl
@[simp] theorem setCore_isolated (s : State) (c : Nat) (k : Core) : (s.setCore c k).isolated = s.isolated := rfl
@[simp] theorem setCore_links (s : State) (c : Nat) (k : Core) : (s.setCore c k).links = s.links := rfl
@[simp] theorem setCore_redLines (s : State) (c : Nat) (k : Core) : (s.setCore c k).redLines = s.redLines := rfl
@[simp] theorem setCore_launches (s : State) (c : Nat) (k : Core) : (s.setCore c k).launches = s.launches := rfl
@[simp] theorem setCore_lqueues (s : State) (c : Nat) (k : Core) : (s.setCore c k).lqueues = s.lqueues := rfl
@[simp] theorem setCore_nextLid (s : State) (c : Nat) (k : Core) : (s.setCore c k).nextLid = s.nextLid := rfl
@[simp] theorem setCore_nextRound (s : State) (c : Nat) (k : Core) : (s.setCore c k).nextRound = s.nextRound := rfl
@[simp] theorem setCore_images (s : State) (c : Nat) (k : Core) : (s.setCore c k).images = s.images := rfl
@[simp] theorem setCore_driftTlb (s : State) (c : Nat) (k : Core) : (s.setCore c k).driftTlb = s.driftTlb := rfl
@[simp] theorem setCore_unitTlbs (s : State) (c : Nat) (k : Core) : (s.setCore c k).unitTlbs = s.unitTlbs := rfl
@[simp] theorem setCore_xinvBusy (s : State) (c : Nat) (k : Core) : (s.setCore c k).xinvBusy = s.xinvBusy := rfl
@[simp] theorem setCore_nun (s : State) (c : Nat) (k : Core) : (s.setCore c k).nun = s.nun := rfl
@[simp] theorem setCore_queue (s : State) (c : Nat) (k : Core) : (s.setCore c k).queue = s.queue := rfl
@[simp] theorem setCore_sched (s : State) (c : Nat) (k : Core) : (s.setCore c k).sched = s.sched := rfl
@[simp] theorem setCore_free (s : State) (c : Nat) (k : Core) : (s.setCore c k).free = s.free := rfl

@[simp] theorem setCtxAt_focusCore (s : State) (c n : Nat) (x : Ctx) : (s.setCtxAt c n x).focusCore = s.focusCore := rfl
@[simp] theorem setCtxAt_focusCtx (s : State) (c n : Nat) (x : Ctx) : (s.setCtxAt c n x).focusCtx = s.focusCtx := rfl
@[simp] theorem setCtxAt_focusArr (s : State) (c n : Nat) (x : Ctx) : (s.setCtxAt c n x).focusArr = s.focusArr := rfl
@[simp] theorem setCtxAt_focusUnit (s : State) (c n : Nat) (x : Ctx) : (s.setCtxAt c n x).focusUnit = s.focusUnit := rfl
@[simp] theorem setCtxAt_focusEnt (s : State) (c n : Nat) (x : Ctx) : (s.setCtxAt c n x).focusEnt = s.focusEnt := rfl
@[simp] theorem setCtxAt_mem (s : State) (c n : Nat) (x : Ctx) : (s.setCtxAt c n x).mem = s.mem := rfl
@[simp] theorem setCtxAt_memUe (s : State) (c n : Nat) (x : Ctx) : (s.setCtxAt c n x).memUe = s.memUe := rfl
@[simp] theorem setCtxAt_lags (s : State) (c n : Nat) (x : Ctx) : (s.setCtxAt c n x).lags = s.lags := rfl
@[simp] theorem setCtxAt_cmdNow (s : State) (c n : Nat) (x : Ctx) : (s.setCtxAt c n x).cmdNow = s.cmdNow := rfl
@[simp] theorem setCtxAt_cmdNext (s : State) (c n : Nat) (x : Ctx) : (s.setCtxAt c n x).cmdNext = s.cmdNext := rfl
@[simp] theorem setCtxAt_walks (s : State) (c n : Nat) (x : Ctx) : (s.setCtxAt c n x).walks = s.walks := rfl
@[simp] theorem setCtxAt_doorbells (s : State) (c n : Nat) (x : Ctx) : (s.setCtxAt c n x).doorbells = s.doorbells := rfl
@[simp] theorem setCtxAt_planes (s : State) (c n : Nat) (x : Ctx) : (s.setCtxAt c n x).planes = s.planes := rfl
@[simp] theorem setCtxAt_torusDown (s : State) (c n : Nat) (x : Ctx) : (s.setCtxAt c n x).torusDown = s.torusDown := rfl
@[simp] theorem setCtxAt_regs (s : State) (c n : Nat) (x : Ctx) : (s.setCtxAt c n x).regs = s.regs := rfl
@[simp] theorem setCtxAt_ctrs (s : State) (c n : Nat) (x : Ctx) : (s.setCtxAt c n x).ctrs = s.ctrs := rfl
@[simp] theorem setCtxAt_groups (s : State) (c n : Nat) (x : Ctx) : (s.setCtxAt c n x).groups = s.groups := rfl
@[simp] theorem setCtxAt_wallus (s : State) (c n : Nat) (x : Ctx) : (s.setCtxAt c n x).wallus = s.wallus := rfl
@[simp] theorem setCtxAt_aclks (s : State) (c n : Nat) (x : Ctx) : (s.setCtxAt c n x).aclks = s.aclks := rfl
@[simp] theorem setCtxAt_flights (s : State) (c n : Nat) (x : Ctx) : (s.setCtxAt c n x).flights = s.flights := rfl
@[simp] theorem setCtxAt_packets (s : State) (c n : Nat) (x : Ctx) : (s.setCtxAt c n x).packets = s.packets := rfl
@[simp] theorem setCtxAt_routers (s : State) (c n : Nat) (x : Ctx) : (s.setCtxAt c n x).routers = s.routers := rfl
@[simp] theorem setCtxAt_dies (s : State) (c n : Nat) (x : Ctx) : (s.setCtxAt c n x).dies = s.dies := rfl
@[simp] theorem setCtxAt_rots (s : State) (c n : Nat) (x : Ctx) : (s.setCtxAt c n x).rots = s.rots := rfl
@[simp] theorem setCtxAt_units (s : State) (c n : Nat) (x : Ctx) : (s.setCtxAt c n x).units = s.units := rfl
@[simp] theorem setCtxAt_blocks (s : State) (c n : Nat) (x : Ctx) : (s.setCtxAt c n x).blocks = s.blocks := rfl
@[simp] theorem setCtxAt_drifts (s : State) (c n : Nat) (x : Ctx) : (s.setCtxAt c n x).drifts = s.drifts := rfl
@[simp] theorem setCtxAt_dlists (s : State) (c n : Nat) (x : Ctx) : (s.setCtxAt c n x).dlists = s.dlists := rfl
@[simp] theorem setCtxAt_rings (s : State) (c n : Nat) (x : Ctx) : (s.setCtxAt c n x).rings = s.rings := rfl
@[simp] theorem setCtxAt_ringSlots (s : State) (c n : Nat) (x : Ctx) : (s.setCtxAt c n x).ringSlots = s.ringSlots := rfl
@[simp] theorem setCtxAt_peers (s : State) (c n : Nat) (x : Ctx) : (s.setCtxAt c n x).peers = s.peers := rfl
@[simp] theorem setCtxAt_isolated (s : State) (c n : Nat) (x : Ctx) : (s.setCtxAt c n x).isolated = s.isolated := rfl
@[simp] theorem setCtxAt_links (s : State) (c n : Nat) (x : Ctx) : (s.setCtxAt c n x).links = s.links := rfl
@[simp] theorem setCtxAt_redLines (s : State) (c n : Nat) (x : Ctx) : (s.setCtxAt c n x).redLines = s.redLines := rfl
@[simp] theorem setCtxAt_launches (s : State) (c n : Nat) (x : Ctx) : (s.setCtxAt c n x).launches = s.launches := rfl
@[simp] theorem setCtxAt_lqueues (s : State) (c n : Nat) (x : Ctx) : (s.setCtxAt c n x).lqueues = s.lqueues := rfl
@[simp] theorem setCtxAt_nextLid (s : State) (c n : Nat) (x : Ctx) : (s.setCtxAt c n x).nextLid = s.nextLid := rfl
@[simp] theorem setCtxAt_nextRound (s : State) (c n : Nat) (x : Ctx) : (s.setCtxAt c n x).nextRound = s.nextRound := rfl
@[simp] theorem setCtxAt_images (s : State) (c n : Nat) (x : Ctx) : (s.setCtxAt c n x).images = s.images := rfl
@[simp] theorem setCtxAt_driftTlb (s : State) (c n : Nat) (x : Ctx) : (s.setCtxAt c n x).driftTlb = s.driftTlb := rfl
@[simp] theorem setCtxAt_unitTlbs (s : State) (c n : Nat) (x : Ctx) : (s.setCtxAt c n x).unitTlbs = s.unitTlbs := rfl
@[simp] theorem setCtxAt_xinvBusy (s : State) (c n : Nat) (x : Ctx) : (s.setCtxAt c n x).xinvBusy = s.xinvBusy := rfl
@[simp] theorem setCtxAt_nun (s : State) (c n : Nat) (x : Ctx) : (s.setCtxAt c n x).nun = s.nun := rfl
@[simp] theorem setCtxAt_queue (s : State) (c n : Nat) (x : Ctx) : (s.setCtxAt c n x).queue = s.queue := rfl
@[simp] theorem setCtxAt_sched (s : State) (c n : Nat) (x : Ctx) : (s.setCtxAt c n x).sched = s.sched := rfl
@[simp] theorem setCtxAt_free (s : State) (c n : Nat) (x : Ctx) : (s.setCtxAt c n x).free = s.free := rfl

@[simp] theorem setFcore_focusCore (s : State) (k : Core) : (s.setFcore k).focusCore = s.focusCore := rfl
@[simp] theorem setFcore_focusCtx (s : State) (k : Core) : (s.setFcore k).focusCtx = s.focusCtx := rfl
@[simp] theorem setFcore_focusArr (s : State) (k : Core) : (s.setFcore k).focusArr = s.focusArr := rfl
@[simp] theorem setFcore_focusUnit (s : State) (k : Core) : (s.setFcore k).focusUnit = s.focusUnit := rfl
@[simp] theorem setFcore_focusEnt (s : State) (k : Core) : (s.setFcore k).focusEnt = s.focusEnt := rfl
@[simp] theorem setFcore_mem (s : State) (k : Core) : (s.setFcore k).mem = s.mem := rfl
@[simp] theorem setFcore_memUe (s : State) (k : Core) : (s.setFcore k).memUe = s.memUe := rfl
@[simp] theorem setFcore_lags (s : State) (k : Core) : (s.setFcore k).lags = s.lags := rfl
@[simp] theorem setFcore_cmdNow (s : State) (k : Core) : (s.setFcore k).cmdNow = s.cmdNow := rfl
@[simp] theorem setFcore_cmdNext (s : State) (k : Core) : (s.setFcore k).cmdNext = s.cmdNext := rfl
@[simp] theorem setFcore_walks (s : State) (k : Core) : (s.setFcore k).walks = s.walks := rfl
@[simp] theorem setFcore_doorbells (s : State) (k : Core) : (s.setFcore k).doorbells = s.doorbells := rfl
@[simp] theorem setFcore_planes (s : State) (k : Core) : (s.setFcore k).planes = s.planes := rfl
@[simp] theorem setFcore_torusDown (s : State) (k : Core) : (s.setFcore k).torusDown = s.torusDown := rfl
@[simp] theorem setFcore_regs (s : State) (k : Core) : (s.setFcore k).regs = s.regs := rfl
@[simp] theorem setFcore_ctrs (s : State) (k : Core) : (s.setFcore k).ctrs = s.ctrs := rfl
@[simp] theorem setFcore_groups (s : State) (k : Core) : (s.setFcore k).groups = s.groups := rfl
@[simp] theorem setFcore_wallus (s : State) (k : Core) : (s.setFcore k).wallus = s.wallus := rfl
@[simp] theorem setFcore_aclks (s : State) (k : Core) : (s.setFcore k).aclks = s.aclks := rfl
@[simp] theorem setFcore_flights (s : State) (k : Core) : (s.setFcore k).flights = s.flights := rfl
@[simp] theorem setFcore_packets (s : State) (k : Core) : (s.setFcore k).packets = s.packets := rfl
@[simp] theorem setFcore_routers (s : State) (k : Core) : (s.setFcore k).routers = s.routers := rfl
@[simp] theorem setFcore_dies (s : State) (k : Core) : (s.setFcore k).dies = s.dies := rfl
@[simp] theorem setFcore_rots (s : State) (k : Core) : (s.setFcore k).rots = s.rots := rfl
@[simp] theorem setFcore_units (s : State) (k : Core) : (s.setFcore k).units = s.units := rfl
@[simp] theorem setFcore_blocks (s : State) (k : Core) : (s.setFcore k).blocks = s.blocks := rfl
@[simp] theorem setFcore_drifts (s : State) (k : Core) : (s.setFcore k).drifts = s.drifts := rfl
@[simp] theorem setFcore_dlists (s : State) (k : Core) : (s.setFcore k).dlists = s.dlists := rfl
@[simp] theorem setFcore_rings (s : State) (k : Core) : (s.setFcore k).rings = s.rings := rfl
@[simp] theorem setFcore_ringSlots (s : State) (k : Core) : (s.setFcore k).ringSlots = s.ringSlots := rfl
@[simp] theorem setFcore_peers (s : State) (k : Core) : (s.setFcore k).peers = s.peers := rfl
@[simp] theorem setFcore_isolated (s : State) (k : Core) : (s.setFcore k).isolated = s.isolated := rfl
@[simp] theorem setFcore_links (s : State) (k : Core) : (s.setFcore k).links = s.links := rfl
@[simp] theorem setFcore_redLines (s : State) (k : Core) : (s.setFcore k).redLines = s.redLines := rfl
@[simp] theorem setFcore_launches (s : State) (k : Core) : (s.setFcore k).launches = s.launches := rfl
@[simp] theorem setFcore_lqueues (s : State) (k : Core) : (s.setFcore k).lqueues = s.lqueues := rfl
@[simp] theorem setFcore_nextLid (s : State) (k : Core) : (s.setFcore k).nextLid = s.nextLid := rfl
@[simp] theorem setFcore_nextRound (s : State) (k : Core) : (s.setFcore k).nextRound = s.nextRound := rfl
@[simp] theorem setFcore_images (s : State) (k : Core) : (s.setFcore k).images = s.images := rfl
@[simp] theorem setFcore_driftTlb (s : State) (k : Core) : (s.setFcore k).driftTlb = s.driftTlb := rfl
@[simp] theorem setFcore_unitTlbs (s : State) (k : Core) : (s.setFcore k).unitTlbs = s.unitTlbs := rfl
@[simp] theorem setFcore_xinvBusy (s : State) (k : Core) : (s.setFcore k).xinvBusy = s.xinvBusy := rfl
@[simp] theorem setFcore_nun (s : State) (k : Core) : (s.setFcore k).nun = s.nun := rfl
@[simp] theorem setFcore_queue (s : State) (k : Core) : (s.setFcore k).queue = s.queue := rfl
@[simp] theorem setFcore_sched (s : State) (k : Core) : (s.setFcore k).sched = s.sched := rfl
@[simp] theorem setFcore_free (s : State) (k : Core) : (s.setFcore k).free = s.free := rfl

@[simp] theorem setCx_focusCore (s : State) (x : Ctx) : (s.setCx x).focusCore = s.focusCore := rfl
@[simp] theorem setCx_focusCtx (s : State) (x : Ctx) : (s.setCx x).focusCtx = s.focusCtx := rfl
@[simp] theorem setCx_focusArr (s : State) (x : Ctx) : (s.setCx x).focusArr = s.focusArr := rfl
@[simp] theorem setCx_focusUnit (s : State) (x : Ctx) : (s.setCx x).focusUnit = s.focusUnit := rfl
@[simp] theorem setCx_focusEnt (s : State) (x : Ctx) : (s.setCx x).focusEnt = s.focusEnt := rfl
@[simp] theorem setCx_mem (s : State) (x : Ctx) : (s.setCx x).mem = s.mem := rfl
@[simp] theorem setCx_memUe (s : State) (x : Ctx) : (s.setCx x).memUe = s.memUe := rfl
@[simp] theorem setCx_lags (s : State) (x : Ctx) : (s.setCx x).lags = s.lags := rfl
@[simp] theorem setCx_cmdNow (s : State) (x : Ctx) : (s.setCx x).cmdNow = s.cmdNow := rfl
@[simp] theorem setCx_cmdNext (s : State) (x : Ctx) : (s.setCx x).cmdNext = s.cmdNext := rfl
@[simp] theorem setCx_walks (s : State) (x : Ctx) : (s.setCx x).walks = s.walks := rfl
@[simp] theorem setCx_doorbells (s : State) (x : Ctx) : (s.setCx x).doorbells = s.doorbells := rfl
@[simp] theorem setCx_planes (s : State) (x : Ctx) : (s.setCx x).planes = s.planes := rfl
@[simp] theorem setCx_torusDown (s : State) (x : Ctx) : (s.setCx x).torusDown = s.torusDown := rfl
@[simp] theorem setCx_regs (s : State) (x : Ctx) : (s.setCx x).regs = s.regs := rfl
@[simp] theorem setCx_ctrs (s : State) (x : Ctx) : (s.setCx x).ctrs = s.ctrs := rfl
@[simp] theorem setCx_groups (s : State) (x : Ctx) : (s.setCx x).groups = s.groups := rfl
@[simp] theorem setCx_wallus (s : State) (x : Ctx) : (s.setCx x).wallus = s.wallus := rfl
@[simp] theorem setCx_aclks (s : State) (x : Ctx) : (s.setCx x).aclks = s.aclks := rfl
@[simp] theorem setCx_flights (s : State) (x : Ctx) : (s.setCx x).flights = s.flights := rfl
@[simp] theorem setCx_packets (s : State) (x : Ctx) : (s.setCx x).packets = s.packets := rfl
@[simp] theorem setCx_routers (s : State) (x : Ctx) : (s.setCx x).routers = s.routers := rfl
@[simp] theorem setCx_dies (s : State) (x : Ctx) : (s.setCx x).dies = s.dies := rfl
@[simp] theorem setCx_rots (s : State) (x : Ctx) : (s.setCx x).rots = s.rots := rfl
@[simp] theorem setCx_units (s : State) (x : Ctx) : (s.setCx x).units = s.units := rfl
@[simp] theorem setCx_blocks (s : State) (x : Ctx) : (s.setCx x).blocks = s.blocks := rfl
@[simp] theorem setCx_drifts (s : State) (x : Ctx) : (s.setCx x).drifts = s.drifts := rfl
@[simp] theorem setCx_dlists (s : State) (x : Ctx) : (s.setCx x).dlists = s.dlists := rfl
@[simp] theorem setCx_rings (s : State) (x : Ctx) : (s.setCx x).rings = s.rings := rfl
@[simp] theorem setCx_ringSlots (s : State) (x : Ctx) : (s.setCx x).ringSlots = s.ringSlots := rfl
@[simp] theorem setCx_peers (s : State) (x : Ctx) : (s.setCx x).peers = s.peers := rfl
@[simp] theorem setCx_isolated (s : State) (x : Ctx) : (s.setCx x).isolated = s.isolated := rfl
@[simp] theorem setCx_links (s : State) (x : Ctx) : (s.setCx x).links = s.links := rfl
@[simp] theorem setCx_redLines (s : State) (x : Ctx) : (s.setCx x).redLines = s.redLines := rfl
@[simp] theorem setCx_launches (s : State) (x : Ctx) : (s.setCx x).launches = s.launches := rfl
@[simp] theorem setCx_lqueues (s : State) (x : Ctx) : (s.setCx x).lqueues = s.lqueues := rfl
@[simp] theorem setCx_nextLid (s : State) (x : Ctx) : (s.setCx x).nextLid = s.nextLid := rfl
@[simp] theorem setCx_nextRound (s : State) (x : Ctx) : (s.setCx x).nextRound = s.nextRound := rfl
@[simp] theorem setCx_images (s : State) (x : Ctx) : (s.setCx x).images = s.images := rfl
@[simp] theorem setCx_driftTlb (s : State) (x : Ctx) : (s.setCx x).driftTlb = s.driftTlb := rfl
@[simp] theorem setCx_unitTlbs (s : State) (x : Ctx) : (s.setCx x).unitTlbs = s.unitTlbs := rfl
@[simp] theorem setCx_xinvBusy (s : State) (x : Ctx) : (s.setCx x).xinvBusy = s.xinvBusy := rfl
@[simp] theorem setCx_nun (s : State) (x : Ctx) : (s.setCx x).nun = s.nun := rfl
@[simp] theorem setCx_queue (s : State) (x : Ctx) : (s.setCx x).queue = s.queue := rfl
@[simp] theorem setCx_sched (s : State) (x : Ctx) : (s.setCx x).sched = s.sched := rfl
@[simp] theorem setCx_free (s : State) (x : Ctx) : (s.setCx x).free = s.free := rfl

@[simp] theorem modCx_focusCore (s : State) (f : Ctx → Ctx) : (s.modCx f).focusCore = s.focusCore := rfl
@[simp] theorem modCx_focusCtx (s : State) (f : Ctx → Ctx) : (s.modCx f).focusCtx = s.focusCtx := rfl
@[simp] theorem modCx_focusArr (s : State) (f : Ctx → Ctx) : (s.modCx f).focusArr = s.focusArr := rfl
@[simp] theorem modCx_focusUnit (s : State) (f : Ctx → Ctx) : (s.modCx f).focusUnit = s.focusUnit := rfl
@[simp] theorem modCx_focusEnt (s : State) (f : Ctx → Ctx) : (s.modCx f).focusEnt = s.focusEnt := rfl
@[simp] theorem modCx_mem (s : State) (f : Ctx → Ctx) : (s.modCx f).mem = s.mem := rfl
@[simp] theorem modCx_memUe (s : State) (f : Ctx → Ctx) : (s.modCx f).memUe = s.memUe := rfl
@[simp] theorem modCx_lags (s : State) (f : Ctx → Ctx) : (s.modCx f).lags = s.lags := rfl
@[simp] theorem modCx_cmdNow (s : State) (f : Ctx → Ctx) : (s.modCx f).cmdNow = s.cmdNow := rfl
@[simp] theorem modCx_cmdNext (s : State) (f : Ctx → Ctx) : (s.modCx f).cmdNext = s.cmdNext := rfl
@[simp] theorem modCx_walks (s : State) (f : Ctx → Ctx) : (s.modCx f).walks = s.walks := rfl
@[simp] theorem modCx_doorbells (s : State) (f : Ctx → Ctx) : (s.modCx f).doorbells = s.doorbells := rfl
@[simp] theorem modCx_planes (s : State) (f : Ctx → Ctx) : (s.modCx f).planes = s.planes := rfl
@[simp] theorem modCx_torusDown (s : State) (f : Ctx → Ctx) : (s.modCx f).torusDown = s.torusDown := rfl
@[simp] theorem modCx_regs (s : State) (f : Ctx → Ctx) : (s.modCx f).regs = s.regs := rfl
@[simp] theorem modCx_ctrs (s : State) (f : Ctx → Ctx) : (s.modCx f).ctrs = s.ctrs := rfl
@[simp] theorem modCx_groups (s : State) (f : Ctx → Ctx) : (s.modCx f).groups = s.groups := rfl
@[simp] theorem modCx_wallus (s : State) (f : Ctx → Ctx) : (s.modCx f).wallus = s.wallus := rfl
@[simp] theorem modCx_aclks (s : State) (f : Ctx → Ctx) : (s.modCx f).aclks = s.aclks := rfl
@[simp] theorem modCx_flights (s : State) (f : Ctx → Ctx) : (s.modCx f).flights = s.flights := rfl
@[simp] theorem modCx_packets (s : State) (f : Ctx → Ctx) : (s.modCx f).packets = s.packets := rfl
@[simp] theorem modCx_routers (s : State) (f : Ctx → Ctx) : (s.modCx f).routers = s.routers := rfl
@[simp] theorem modCx_dies (s : State) (f : Ctx → Ctx) : (s.modCx f).dies = s.dies := rfl
@[simp] theorem modCx_rots (s : State) (f : Ctx → Ctx) : (s.modCx f).rots = s.rots := rfl
@[simp] theorem modCx_units (s : State) (f : Ctx → Ctx) : (s.modCx f).units = s.units := rfl
@[simp] theorem modCx_blocks (s : State) (f : Ctx → Ctx) : (s.modCx f).blocks = s.blocks := rfl
@[simp] theorem modCx_drifts (s : State) (f : Ctx → Ctx) : (s.modCx f).drifts = s.drifts := rfl
@[simp] theorem modCx_dlists (s : State) (f : Ctx → Ctx) : (s.modCx f).dlists = s.dlists := rfl
@[simp] theorem modCx_rings (s : State) (f : Ctx → Ctx) : (s.modCx f).rings = s.rings := rfl
@[simp] theorem modCx_ringSlots (s : State) (f : Ctx → Ctx) : (s.modCx f).ringSlots = s.ringSlots := rfl
@[simp] theorem modCx_peers (s : State) (f : Ctx → Ctx) : (s.modCx f).peers = s.peers := rfl
@[simp] theorem modCx_isolated (s : State) (f : Ctx → Ctx) : (s.modCx f).isolated = s.isolated := rfl
@[simp] theorem modCx_links (s : State) (f : Ctx → Ctx) : (s.modCx f).links = s.links := rfl
@[simp] theorem modCx_redLines (s : State) (f : Ctx → Ctx) : (s.modCx f).redLines = s.redLines := rfl
@[simp] theorem modCx_launches (s : State) (f : Ctx → Ctx) : (s.modCx f).launches = s.launches := rfl
@[simp] theorem modCx_lqueues (s : State) (f : Ctx → Ctx) : (s.modCx f).lqueues = s.lqueues := rfl
@[simp] theorem modCx_nextLid (s : State) (f : Ctx → Ctx) : (s.modCx f).nextLid = s.nextLid := rfl
@[simp] theorem modCx_nextRound (s : State) (f : Ctx → Ctx) : (s.modCx f).nextRound = s.nextRound := rfl
@[simp] theorem modCx_images (s : State) (f : Ctx → Ctx) : (s.modCx f).images = s.images := rfl
@[simp] theorem modCx_driftTlb (s : State) (f : Ctx → Ctx) : (s.modCx f).driftTlb = s.driftTlb := rfl
@[simp] theorem modCx_unitTlbs (s : State) (f : Ctx → Ctx) : (s.modCx f).unitTlbs = s.unitTlbs := rfl
@[simp] theorem modCx_xinvBusy (s : State) (f : Ctx → Ctx) : (s.modCx f).xinvBusy = s.xinvBusy := rfl
@[simp] theorem modCx_nun (s : State) (f : Ctx → Ctx) : (s.modCx f).nun = s.nun := rfl
@[simp] theorem modCx_queue (s : State) (f : Ctx → Ctx) : (s.modCx f).queue = s.queue := rfl
@[simp] theorem modCx_sched (s : State) (f : Ctx → Ctx) : (s.modCx f).sched = s.sched := rfl
@[simp] theorem modCx_free (s : State) (f : Ctx → Ctx) : (s.modCx f).free = s.free := rfl

@[simp] theorem modCtl_focusCore (s : State) (f : CtlSt → CtlSt) : (s.modCtl f).focusCore = s.focusCore := rfl
@[simp] theorem modCtl_focusCtx (s : State) (f : CtlSt → CtlSt) : (s.modCtl f).focusCtx = s.focusCtx := rfl
@[simp] theorem modCtl_focusArr (s : State) (f : CtlSt → CtlSt) : (s.modCtl f).focusArr = s.focusArr := rfl
@[simp] theorem modCtl_focusUnit (s : State) (f : CtlSt → CtlSt) : (s.modCtl f).focusUnit = s.focusUnit := rfl
@[simp] theorem modCtl_focusEnt (s : State) (f : CtlSt → CtlSt) : (s.modCtl f).focusEnt = s.focusEnt := rfl
@[simp] theorem modCtl_mem (s : State) (f : CtlSt → CtlSt) : (s.modCtl f).mem = s.mem := rfl
@[simp] theorem modCtl_memUe (s : State) (f : CtlSt → CtlSt) : (s.modCtl f).memUe = s.memUe := rfl
@[simp] theorem modCtl_lags (s : State) (f : CtlSt → CtlSt) : (s.modCtl f).lags = s.lags := rfl
@[simp] theorem modCtl_cmdNow (s : State) (f : CtlSt → CtlSt) : (s.modCtl f).cmdNow = s.cmdNow := rfl
@[simp] theorem modCtl_cmdNext (s : State) (f : CtlSt → CtlSt) : (s.modCtl f).cmdNext = s.cmdNext := rfl
@[simp] theorem modCtl_walks (s : State) (f : CtlSt → CtlSt) : (s.modCtl f).walks = s.walks := rfl
@[simp] theorem modCtl_doorbells (s : State) (f : CtlSt → CtlSt) : (s.modCtl f).doorbells = s.doorbells := rfl
@[simp] theorem modCtl_planes (s : State) (f : CtlSt → CtlSt) : (s.modCtl f).planes = s.planes := rfl
@[simp] theorem modCtl_torusDown (s : State) (f : CtlSt → CtlSt) : (s.modCtl f).torusDown = s.torusDown := rfl
@[simp] theorem modCtl_regs (s : State) (f : CtlSt → CtlSt) : (s.modCtl f).regs = s.regs := rfl
@[simp] theorem modCtl_ctrs (s : State) (f : CtlSt → CtlSt) : (s.modCtl f).ctrs = s.ctrs := rfl
@[simp] theorem modCtl_groups (s : State) (f : CtlSt → CtlSt) : (s.modCtl f).groups = s.groups := rfl
@[simp] theorem modCtl_wallus (s : State) (f : CtlSt → CtlSt) : (s.modCtl f).wallus = s.wallus := rfl
@[simp] theorem modCtl_aclks (s : State) (f : CtlSt → CtlSt) : (s.modCtl f).aclks = s.aclks := rfl
@[simp] theorem modCtl_flights (s : State) (f : CtlSt → CtlSt) : (s.modCtl f).flights = s.flights := rfl
@[simp] theorem modCtl_packets (s : State) (f : CtlSt → CtlSt) : (s.modCtl f).packets = s.packets := rfl
@[simp] theorem modCtl_routers (s : State) (f : CtlSt → CtlSt) : (s.modCtl f).routers = s.routers := rfl
@[simp] theorem modCtl_dies (s : State) (f : CtlSt → CtlSt) : (s.modCtl f).dies = s.dies := rfl
@[simp] theorem modCtl_rots (s : State) (f : CtlSt → CtlSt) : (s.modCtl f).rots = s.rots := rfl
@[simp] theorem modCtl_units (s : State) (f : CtlSt → CtlSt) : (s.modCtl f).units = s.units := rfl
@[simp] theorem modCtl_blocks (s : State) (f : CtlSt → CtlSt) : (s.modCtl f).blocks = s.blocks := rfl
@[simp] theorem modCtl_drifts (s : State) (f : CtlSt → CtlSt) : (s.modCtl f).drifts = s.drifts := rfl
@[simp] theorem modCtl_dlists (s : State) (f : CtlSt → CtlSt) : (s.modCtl f).dlists = s.dlists := rfl
@[simp] theorem modCtl_rings (s : State) (f : CtlSt → CtlSt) : (s.modCtl f).rings = s.rings := rfl
@[simp] theorem modCtl_ringSlots (s : State) (f : CtlSt → CtlSt) : (s.modCtl f).ringSlots = s.ringSlots := rfl
@[simp] theorem modCtl_peers (s : State) (f : CtlSt → CtlSt) : (s.modCtl f).peers = s.peers := rfl
@[simp] theorem modCtl_isolated (s : State) (f : CtlSt → CtlSt) : (s.modCtl f).isolated = s.isolated := rfl
@[simp] theorem modCtl_links (s : State) (f : CtlSt → CtlSt) : (s.modCtl f).links = s.links := rfl
@[simp] theorem modCtl_redLines (s : State) (f : CtlSt → CtlSt) : (s.modCtl f).redLines = s.redLines := rfl
@[simp] theorem modCtl_launches (s : State) (f : CtlSt → CtlSt) : (s.modCtl f).launches = s.launches := rfl
@[simp] theorem modCtl_lqueues (s : State) (f : CtlSt → CtlSt) : (s.modCtl f).lqueues = s.lqueues := rfl
@[simp] theorem modCtl_nextLid (s : State) (f : CtlSt → CtlSt) : (s.modCtl f).nextLid = s.nextLid := rfl
@[simp] theorem modCtl_nextRound (s : State) (f : CtlSt → CtlSt) : (s.modCtl f).nextRound = s.nextRound := rfl
@[simp] theorem modCtl_images (s : State) (f : CtlSt → CtlSt) : (s.modCtl f).images = s.images := rfl
@[simp] theorem modCtl_driftTlb (s : State) (f : CtlSt → CtlSt) : (s.modCtl f).driftTlb = s.driftTlb := rfl
@[simp] theorem modCtl_unitTlbs (s : State) (f : CtlSt → CtlSt) : (s.modCtl f).unitTlbs = s.unitTlbs := rfl
@[simp] theorem modCtl_xinvBusy (s : State) (f : CtlSt → CtlSt) : (s.modCtl f).xinvBusy = s.xinvBusy := rfl
@[simp] theorem modCtl_nun (s : State) (f : CtlSt → CtlSt) : (s.modCtl f).nun = s.nun := rfl
@[simp] theorem modCtl_queue (s : State) (f : CtlSt → CtlSt) : (s.modCtl f).queue = s.queue := rfl
@[simp] theorem modCtl_sched (s : State) (f : CtlSt → CtlSt) : (s.modCtl f).sched = s.sched := rfl
@[simp] theorem modCtl_free (s : State) (f : CtlSt → CtlSt) : (s.modCtl f).free = s.free := rfl

@[simp] theorem modVec_focusCore (s : State) (f : VecSt → VecSt) : (s.modVec f).focusCore = s.focusCore := rfl
@[simp] theorem modVec_focusCtx (s : State) (f : VecSt → VecSt) : (s.modVec f).focusCtx = s.focusCtx := rfl
@[simp] theorem modVec_focusArr (s : State) (f : VecSt → VecSt) : (s.modVec f).focusArr = s.focusArr := rfl
@[simp] theorem modVec_focusUnit (s : State) (f : VecSt → VecSt) : (s.modVec f).focusUnit = s.focusUnit := rfl
@[simp] theorem modVec_focusEnt (s : State) (f : VecSt → VecSt) : (s.modVec f).focusEnt = s.focusEnt := rfl
@[simp] theorem modVec_mem (s : State) (f : VecSt → VecSt) : (s.modVec f).mem = s.mem := rfl
@[simp] theorem modVec_memUe (s : State) (f : VecSt → VecSt) : (s.modVec f).memUe = s.memUe := rfl
@[simp] theorem modVec_lags (s : State) (f : VecSt → VecSt) : (s.modVec f).lags = s.lags := rfl
@[simp] theorem modVec_cmdNow (s : State) (f : VecSt → VecSt) : (s.modVec f).cmdNow = s.cmdNow := rfl
@[simp] theorem modVec_cmdNext (s : State) (f : VecSt → VecSt) : (s.modVec f).cmdNext = s.cmdNext := rfl
@[simp] theorem modVec_walks (s : State) (f : VecSt → VecSt) : (s.modVec f).walks = s.walks := rfl
@[simp] theorem modVec_doorbells (s : State) (f : VecSt → VecSt) : (s.modVec f).doorbells = s.doorbells := rfl
@[simp] theorem modVec_planes (s : State) (f : VecSt → VecSt) : (s.modVec f).planes = s.planes := rfl
@[simp] theorem modVec_torusDown (s : State) (f : VecSt → VecSt) : (s.modVec f).torusDown = s.torusDown := rfl
@[simp] theorem modVec_regs (s : State) (f : VecSt → VecSt) : (s.modVec f).regs = s.regs := rfl
@[simp] theorem modVec_ctrs (s : State) (f : VecSt → VecSt) : (s.modVec f).ctrs = s.ctrs := rfl
@[simp] theorem modVec_groups (s : State) (f : VecSt → VecSt) : (s.modVec f).groups = s.groups := rfl
@[simp] theorem modVec_wallus (s : State) (f : VecSt → VecSt) : (s.modVec f).wallus = s.wallus := rfl
@[simp] theorem modVec_aclks (s : State) (f : VecSt → VecSt) : (s.modVec f).aclks = s.aclks := rfl
@[simp] theorem modVec_flights (s : State) (f : VecSt → VecSt) : (s.modVec f).flights = s.flights := rfl
@[simp] theorem modVec_packets (s : State) (f : VecSt → VecSt) : (s.modVec f).packets = s.packets := rfl
@[simp] theorem modVec_routers (s : State) (f : VecSt → VecSt) : (s.modVec f).routers = s.routers := rfl
@[simp] theorem modVec_dies (s : State) (f : VecSt → VecSt) : (s.modVec f).dies = s.dies := rfl
@[simp] theorem modVec_rots (s : State) (f : VecSt → VecSt) : (s.modVec f).rots = s.rots := rfl
@[simp] theorem modVec_units (s : State) (f : VecSt → VecSt) : (s.modVec f).units = s.units := rfl
@[simp] theorem modVec_blocks (s : State) (f : VecSt → VecSt) : (s.modVec f).blocks = s.blocks := rfl
@[simp] theorem modVec_drifts (s : State) (f : VecSt → VecSt) : (s.modVec f).drifts = s.drifts := rfl
@[simp] theorem modVec_dlists (s : State) (f : VecSt → VecSt) : (s.modVec f).dlists = s.dlists := rfl
@[simp] theorem modVec_rings (s : State) (f : VecSt → VecSt) : (s.modVec f).rings = s.rings := rfl
@[simp] theorem modVec_ringSlots (s : State) (f : VecSt → VecSt) : (s.modVec f).ringSlots = s.ringSlots := rfl
@[simp] theorem modVec_peers (s : State) (f : VecSt → VecSt) : (s.modVec f).peers = s.peers := rfl
@[simp] theorem modVec_isolated (s : State) (f : VecSt → VecSt) : (s.modVec f).isolated = s.isolated := rfl
@[simp] theorem modVec_links (s : State) (f : VecSt → VecSt) : (s.modVec f).links = s.links := rfl
@[simp] theorem modVec_redLines (s : State) (f : VecSt → VecSt) : (s.modVec f).redLines = s.redLines := rfl
@[simp] theorem modVec_launches (s : State) (f : VecSt → VecSt) : (s.modVec f).launches = s.launches := rfl
@[simp] theorem modVec_lqueues (s : State) (f : VecSt → VecSt) : (s.modVec f).lqueues = s.lqueues := rfl
@[simp] theorem modVec_nextLid (s : State) (f : VecSt → VecSt) : (s.modVec f).nextLid = s.nextLid := rfl
@[simp] theorem modVec_nextRound (s : State) (f : VecSt → VecSt) : (s.modVec f).nextRound = s.nextRound := rfl
@[simp] theorem modVec_images (s : State) (f : VecSt → VecSt) : (s.modVec f).images = s.images := rfl
@[simp] theorem modVec_driftTlb (s : State) (f : VecSt → VecSt) : (s.modVec f).driftTlb = s.driftTlb := rfl
@[simp] theorem modVec_unitTlbs (s : State) (f : VecSt → VecSt) : (s.modVec f).unitTlbs = s.unitTlbs := rfl
@[simp] theorem modVec_xinvBusy (s : State) (f : VecSt → VecSt) : (s.modVec f).xinvBusy = s.xinvBusy := rfl
@[simp] theorem modVec_nun (s : State) (f : VecSt → VecSt) : (s.modVec f).nun = s.nun := rfl
@[simp] theorem modVec_queue (s : State) (f : VecSt → VecSt) : (s.modVec f).queue = s.queue := rfl
@[simp] theorem modVec_sched (s : State) (f : VecSt → VecSt) : (s.modVec f).sched = s.sched := rfl
@[simp] theorem modVec_free (s : State) (f : VecSt → VecSt) : (s.modVec f).free = s.free := rfl

@[simp] theorem modPend_focusCore (s : State) (f : PendSt → PendSt) : (s.modPend f).focusCore = s.focusCore := rfl
@[simp] theorem modPend_focusCtx (s : State) (f : PendSt → PendSt) : (s.modPend f).focusCtx = s.focusCtx := rfl
@[simp] theorem modPend_focusArr (s : State) (f : PendSt → PendSt) : (s.modPend f).focusArr = s.focusArr := rfl
@[simp] theorem modPend_focusUnit (s : State) (f : PendSt → PendSt) : (s.modPend f).focusUnit = s.focusUnit := rfl
@[simp] theorem modPend_focusEnt (s : State) (f : PendSt → PendSt) : (s.modPend f).focusEnt = s.focusEnt := rfl
@[simp] theorem modPend_mem (s : State) (f : PendSt → PendSt) : (s.modPend f).mem = s.mem := rfl
@[simp] theorem modPend_memUe (s : State) (f : PendSt → PendSt) : (s.modPend f).memUe = s.memUe := rfl
@[simp] theorem modPend_lags (s : State) (f : PendSt → PendSt) : (s.modPend f).lags = s.lags := rfl
@[simp] theorem modPend_cmdNow (s : State) (f : PendSt → PendSt) : (s.modPend f).cmdNow = s.cmdNow := rfl
@[simp] theorem modPend_cmdNext (s : State) (f : PendSt → PendSt) : (s.modPend f).cmdNext = s.cmdNext := rfl
@[simp] theorem modPend_walks (s : State) (f : PendSt → PendSt) : (s.modPend f).walks = s.walks := rfl
@[simp] theorem modPend_doorbells (s : State) (f : PendSt → PendSt) : (s.modPend f).doorbells = s.doorbells := rfl
@[simp] theorem modPend_planes (s : State) (f : PendSt → PendSt) : (s.modPend f).planes = s.planes := rfl
@[simp] theorem modPend_torusDown (s : State) (f : PendSt → PendSt) : (s.modPend f).torusDown = s.torusDown := rfl
@[simp] theorem modPend_regs (s : State) (f : PendSt → PendSt) : (s.modPend f).regs = s.regs := rfl
@[simp] theorem modPend_ctrs (s : State) (f : PendSt → PendSt) : (s.modPend f).ctrs = s.ctrs := rfl
@[simp] theorem modPend_groups (s : State) (f : PendSt → PendSt) : (s.modPend f).groups = s.groups := rfl
@[simp] theorem modPend_wallus (s : State) (f : PendSt → PendSt) : (s.modPend f).wallus = s.wallus := rfl
@[simp] theorem modPend_aclks (s : State) (f : PendSt → PendSt) : (s.modPend f).aclks = s.aclks := rfl
@[simp] theorem modPend_flights (s : State) (f : PendSt → PendSt) : (s.modPend f).flights = s.flights := rfl
@[simp] theorem modPend_packets (s : State) (f : PendSt → PendSt) : (s.modPend f).packets = s.packets := rfl
@[simp] theorem modPend_routers (s : State) (f : PendSt → PendSt) : (s.modPend f).routers = s.routers := rfl
@[simp] theorem modPend_dies (s : State) (f : PendSt → PendSt) : (s.modPend f).dies = s.dies := rfl
@[simp] theorem modPend_rots (s : State) (f : PendSt → PendSt) : (s.modPend f).rots = s.rots := rfl
@[simp] theorem modPend_units (s : State) (f : PendSt → PendSt) : (s.modPend f).units = s.units := rfl
@[simp] theorem modPend_blocks (s : State) (f : PendSt → PendSt) : (s.modPend f).blocks = s.blocks := rfl
@[simp] theorem modPend_drifts (s : State) (f : PendSt → PendSt) : (s.modPend f).drifts = s.drifts := rfl
@[simp] theorem modPend_dlists (s : State) (f : PendSt → PendSt) : (s.modPend f).dlists = s.dlists := rfl
@[simp] theorem modPend_rings (s : State) (f : PendSt → PendSt) : (s.modPend f).rings = s.rings := rfl
@[simp] theorem modPend_ringSlots (s : State) (f : PendSt → PendSt) : (s.modPend f).ringSlots = s.ringSlots := rfl
@[simp] theorem modPend_peers (s : State) (f : PendSt → PendSt) : (s.modPend f).peers = s.peers := rfl
@[simp] theorem modPend_isolated (s : State) (f : PendSt → PendSt) : (s.modPend f).isolated = s.isolated := rfl
@[simp] theorem modPend_links (s : State) (f : PendSt → PendSt) : (s.modPend f).links = s.links := rfl
@[simp] theorem modPend_redLines (s : State) (f : PendSt → PendSt) : (s.modPend f).redLines = s.redLines := rfl
@[simp] theorem modPend_launches (s : State) (f : PendSt → PendSt) : (s.modPend f).launches = s.launches := rfl
@[simp] theorem modPend_lqueues (s : State) (f : PendSt → PendSt) : (s.modPend f).lqueues = s.lqueues := rfl
@[simp] theorem modPend_nextLid (s : State) (f : PendSt → PendSt) : (s.modPend f).nextLid = s.nextLid := rfl
@[simp] theorem modPend_nextRound (s : State) (f : PendSt → PendSt) : (s.modPend f).nextRound = s.nextRound := rfl
@[simp] theorem modPend_images (s : State) (f : PendSt → PendSt) : (s.modPend f).images = s.images := rfl
@[simp] theorem modPend_driftTlb (s : State) (f : PendSt → PendSt) : (s.modPend f).driftTlb = s.driftTlb := rfl
@[simp] theorem modPend_unitTlbs (s : State) (f : PendSt → PendSt) : (s.modPend f).unitTlbs = s.unitTlbs := rfl
@[simp] theorem modPend_xinvBusy (s : State) (f : PendSt → PendSt) : (s.modPend f).xinvBusy = s.xinvBusy := rfl
@[simp] theorem modPend_nun (s : State) (f : PendSt → PendSt) : (s.modPend f).nun = s.nun := rfl
@[simp] theorem modPend_queue (s : State) (f : PendSt → PendSt) : (s.modPend f).queue = s.queue := rfl
@[simp] theorem modPend_sched (s : State) (f : PendSt → PendSt) : (s.modPend f).sched = s.sched := rfl
@[simp] theorem modPend_free (s : State) (f : PendSt → PendSt) : (s.modPend f).free = s.free := rfl

@[simp] theorem modIss_focusCore (s : State) (f : Issue → Issue) : (s.modIss f).focusCore = s.focusCore := rfl
@[simp] theorem modIss_focusCtx (s : State) (f : Issue → Issue) : (s.modIss f).focusCtx = s.focusCtx := rfl
@[simp] theorem modIss_focusArr (s : State) (f : Issue → Issue) : (s.modIss f).focusArr = s.focusArr := rfl
@[simp] theorem modIss_focusUnit (s : State) (f : Issue → Issue) : (s.modIss f).focusUnit = s.focusUnit := rfl
@[simp] theorem modIss_focusEnt (s : State) (f : Issue → Issue) : (s.modIss f).focusEnt = s.focusEnt := rfl
@[simp] theorem modIss_mem (s : State) (f : Issue → Issue) : (s.modIss f).mem = s.mem := rfl
@[simp] theorem modIss_memUe (s : State) (f : Issue → Issue) : (s.modIss f).memUe = s.memUe := rfl
@[simp] theorem modIss_lags (s : State) (f : Issue → Issue) : (s.modIss f).lags = s.lags := rfl
@[simp] theorem modIss_cmdNow (s : State) (f : Issue → Issue) : (s.modIss f).cmdNow = s.cmdNow := rfl
@[simp] theorem modIss_cmdNext (s : State) (f : Issue → Issue) : (s.modIss f).cmdNext = s.cmdNext := rfl
@[simp] theorem modIss_walks (s : State) (f : Issue → Issue) : (s.modIss f).walks = s.walks := rfl
@[simp] theorem modIss_doorbells (s : State) (f : Issue → Issue) : (s.modIss f).doorbells = s.doorbells := rfl
@[simp] theorem modIss_planes (s : State) (f : Issue → Issue) : (s.modIss f).planes = s.planes := rfl
@[simp] theorem modIss_torusDown (s : State) (f : Issue → Issue) : (s.modIss f).torusDown = s.torusDown := rfl
@[simp] theorem modIss_regs (s : State) (f : Issue → Issue) : (s.modIss f).regs = s.regs := rfl
@[simp] theorem modIss_ctrs (s : State) (f : Issue → Issue) : (s.modIss f).ctrs = s.ctrs := rfl
@[simp] theorem modIss_groups (s : State) (f : Issue → Issue) : (s.modIss f).groups = s.groups := rfl
@[simp] theorem modIss_wallus (s : State) (f : Issue → Issue) : (s.modIss f).wallus = s.wallus := rfl
@[simp] theorem modIss_aclks (s : State) (f : Issue → Issue) : (s.modIss f).aclks = s.aclks := rfl
@[simp] theorem modIss_flights (s : State) (f : Issue → Issue) : (s.modIss f).flights = s.flights := rfl
@[simp] theorem modIss_packets (s : State) (f : Issue → Issue) : (s.modIss f).packets = s.packets := rfl
@[simp] theorem modIss_routers (s : State) (f : Issue → Issue) : (s.modIss f).routers = s.routers := rfl
@[simp] theorem modIss_dies (s : State) (f : Issue → Issue) : (s.modIss f).dies = s.dies := rfl
@[simp] theorem modIss_rots (s : State) (f : Issue → Issue) : (s.modIss f).rots = s.rots := rfl
@[simp] theorem modIss_units (s : State) (f : Issue → Issue) : (s.modIss f).units = s.units := rfl
@[simp] theorem modIss_blocks (s : State) (f : Issue → Issue) : (s.modIss f).blocks = s.blocks := rfl
@[simp] theorem modIss_drifts (s : State) (f : Issue → Issue) : (s.modIss f).drifts = s.drifts := rfl
@[simp] theorem modIss_dlists (s : State) (f : Issue → Issue) : (s.modIss f).dlists = s.dlists := rfl
@[simp] theorem modIss_rings (s : State) (f : Issue → Issue) : (s.modIss f).rings = s.rings := rfl
@[simp] theorem modIss_ringSlots (s : State) (f : Issue → Issue) : (s.modIss f).ringSlots = s.ringSlots := rfl
@[simp] theorem modIss_peers (s : State) (f : Issue → Issue) : (s.modIss f).peers = s.peers := rfl
@[simp] theorem modIss_isolated (s : State) (f : Issue → Issue) : (s.modIss f).isolated = s.isolated := rfl
@[simp] theorem modIss_links (s : State) (f : Issue → Issue) : (s.modIss f).links = s.links := rfl
@[simp] theorem modIss_redLines (s : State) (f : Issue → Issue) : (s.modIss f).redLines = s.redLines := rfl
@[simp] theorem modIss_launches (s : State) (f : Issue → Issue) : (s.modIss f).launches = s.launches := rfl
@[simp] theorem modIss_lqueues (s : State) (f : Issue → Issue) : (s.modIss f).lqueues = s.lqueues := rfl
@[simp] theorem modIss_nextLid (s : State) (f : Issue → Issue) : (s.modIss f).nextLid = s.nextLid := rfl
@[simp] theorem modIss_nextRound (s : State) (f : Issue → Issue) : (s.modIss f).nextRound = s.nextRound := rfl
@[simp] theorem modIss_images (s : State) (f : Issue → Issue) : (s.modIss f).images = s.images := rfl
@[simp] theorem modIss_driftTlb (s : State) (f : Issue → Issue) : (s.modIss f).driftTlb = s.driftTlb := rfl
@[simp] theorem modIss_unitTlbs (s : State) (f : Issue → Issue) : (s.modIss f).unitTlbs = s.unitTlbs := rfl
@[simp] theorem modIss_xinvBusy (s : State) (f : Issue → Issue) : (s.modIss f).xinvBusy = s.xinvBusy := rfl
@[simp] theorem modIss_nun (s : State) (f : Issue → Issue) : (s.modIss f).nun = s.nun := rfl
@[simp] theorem modIss_queue (s : State) (f : Issue → Issue) : (s.modIss f).queue = s.queue := rfl
@[simp] theorem modIss_sched (s : State) (f : Issue → Issue) : (s.modIss f).sched = s.sched := rfl
@[simp] theorem modIss_free (s : State) (f : Issue → Issue) : (s.modIss f).free = s.free := rfl

@[simp] theorem post_focusCore (s : State) (p : Post) : (s.post p).focusCore = s.focusCore := rfl
@[simp] theorem post_focusCtx (s : State) (p : Post) : (s.post p).focusCtx = s.focusCtx := rfl
@[simp] theorem post_focusArr (s : State) (p : Post) : (s.post p).focusArr = s.focusArr := rfl
@[simp] theorem post_focusUnit (s : State) (p : Post) : (s.post p).focusUnit = s.focusUnit := rfl
@[simp] theorem post_focusEnt (s : State) (p : Post) : (s.post p).focusEnt = s.focusEnt := rfl
@[simp] theorem post_mem (s : State) (p : Post) : (s.post p).mem = s.mem := rfl
@[simp] theorem post_memUe (s : State) (p : Post) : (s.post p).memUe = s.memUe := rfl
@[simp] theorem post_lags (s : State) (p : Post) : (s.post p).lags = s.lags := rfl
@[simp] theorem post_cmdNow (s : State) (p : Post) : (s.post p).cmdNow = s.cmdNow := rfl
@[simp] theorem post_cmdNext (s : State) (p : Post) : (s.post p).cmdNext = s.cmdNext := rfl
@[simp] theorem post_walks (s : State) (p : Post) : (s.post p).walks = s.walks := rfl
@[simp] theorem post_doorbells (s : State) (p : Post) : (s.post p).doorbells = s.doorbells := rfl
@[simp] theorem post_planes (s : State) (p : Post) : (s.post p).planes = s.planes := rfl
@[simp] theorem post_torusDown (s : State) (p : Post) : (s.post p).torusDown = s.torusDown := rfl
@[simp] theorem post_regs (s : State) (p : Post) : (s.post p).regs = s.regs := rfl
@[simp] theorem post_ctrs (s : State) (p : Post) : (s.post p).ctrs = s.ctrs := rfl
@[simp] theorem post_groups (s : State) (p : Post) : (s.post p).groups = s.groups := rfl
@[simp] theorem post_wallus (s : State) (p : Post) : (s.post p).wallus = s.wallus := rfl
@[simp] theorem post_aclks (s : State) (p : Post) : (s.post p).aclks = s.aclks := rfl
@[simp] theorem post_flights (s : State) (p : Post) : (s.post p).flights = s.flights := rfl
@[simp] theorem post_packets (s : State) (p : Post) : (s.post p).packets = s.packets := rfl
@[simp] theorem post_routers (s : State) (p : Post) : (s.post p).routers = s.routers := rfl
@[simp] theorem post_dies (s : State) (p : Post) : (s.post p).dies = s.dies := rfl
@[simp] theorem post_rots (s : State) (p : Post) : (s.post p).rots = s.rots := rfl
@[simp] theorem post_units (s : State) (p : Post) : (s.post p).units = s.units := rfl
@[simp] theorem post_blocks (s : State) (p : Post) : (s.post p).blocks = s.blocks := rfl
@[simp] theorem post_drifts (s : State) (p : Post) : (s.post p).drifts = s.drifts := rfl
@[simp] theorem post_dlists (s : State) (p : Post) : (s.post p).dlists = s.dlists := rfl
@[simp] theorem post_rings (s : State) (p : Post) : (s.post p).rings = s.rings := rfl
@[simp] theorem post_ringSlots (s : State) (p : Post) : (s.post p).ringSlots = s.ringSlots := rfl
@[simp] theorem post_peers (s : State) (p : Post) : (s.post p).peers = s.peers := rfl
@[simp] theorem post_isolated (s : State) (p : Post) : (s.post p).isolated = s.isolated := rfl
@[simp] theorem post_links (s : State) (p : Post) : (s.post p).links = s.links := rfl
@[simp] theorem post_redLines (s : State) (p : Post) : (s.post p).redLines = s.redLines := rfl
@[simp] theorem post_launches (s : State) (p : Post) : (s.post p).launches = s.launches := rfl
@[simp] theorem post_lqueues (s : State) (p : Post) : (s.post p).lqueues = s.lqueues := rfl
@[simp] theorem post_nextLid (s : State) (p : Post) : (s.post p).nextLid = s.nextLid := rfl
@[simp] theorem post_nextRound (s : State) (p : Post) : (s.post p).nextRound = s.nextRound := rfl
@[simp] theorem post_images (s : State) (p : Post) : (s.post p).images = s.images := rfl
@[simp] theorem post_driftTlb (s : State) (p : Post) : (s.post p).driftTlb = s.driftTlb := rfl
@[simp] theorem post_unitTlbs (s : State) (p : Post) : (s.post p).unitTlbs = s.unitTlbs := rfl
@[simp] theorem post_xinvBusy (s : State) (p : Post) : (s.post p).xinvBusy = s.xinvBusy := rfl
@[simp] theorem post_nun (s : State) (p : Post) : (s.post p).nun = s.nun := rfl
@[simp] theorem post_queue (s : State) (p : Post) : (s.post p).queue = s.queue := rfl
@[simp] theorem post_sched (s : State) (p : Post) : (s.post p).sched = s.sched := rfl
@[simp] theorem post_free (s : State) (p : Post) : (s.post p).free = s.free := rfl

@[simp] theorem spend_focusCore (s : State) (n : Nat) : (s.spend n).focusCore = s.focusCore := rfl
@[simp] theorem spend_focusCtx (s : State) (n : Nat) : (s.spend n).focusCtx = s.focusCtx := rfl
@[simp] theorem spend_focusArr (s : State) (n : Nat) : (s.spend n).focusArr = s.focusArr := rfl
@[simp] theorem spend_focusUnit (s : State) (n : Nat) : (s.spend n).focusUnit = s.focusUnit := rfl
@[simp] theorem spend_focusEnt (s : State) (n : Nat) : (s.spend n).focusEnt = s.focusEnt := rfl
@[simp] theorem spend_mem (s : State) (n : Nat) : (s.spend n).mem = s.mem := rfl
@[simp] theorem spend_memUe (s : State) (n : Nat) : (s.spend n).memUe = s.memUe := rfl
@[simp] theorem spend_lags (s : State) (n : Nat) : (s.spend n).lags = s.lags := rfl
@[simp] theorem spend_cmdNow (s : State) (n : Nat) : (s.spend n).cmdNow = s.cmdNow := rfl
@[simp] theorem spend_cmdNext (s : State) (n : Nat) : (s.spend n).cmdNext = s.cmdNext := rfl
@[simp] theorem spend_walks (s : State) (n : Nat) : (s.spend n).walks = s.walks := rfl
@[simp] theorem spend_doorbells (s : State) (n : Nat) : (s.spend n).doorbells = s.doorbells := rfl
@[simp] theorem spend_planes (s : State) (n : Nat) : (s.spend n).planes = s.planes := rfl
@[simp] theorem spend_torusDown (s : State) (n : Nat) : (s.spend n).torusDown = s.torusDown := rfl
@[simp] theorem spend_regs (s : State) (n : Nat) : (s.spend n).regs = s.regs := rfl
@[simp] theorem spend_ctrs (s : State) (n : Nat) : (s.spend n).ctrs = s.ctrs := rfl
@[simp] theorem spend_groups (s : State) (n : Nat) : (s.spend n).groups = s.groups := rfl
@[simp] theorem spend_wallus (s : State) (n : Nat) : (s.spend n).wallus = s.wallus := rfl
@[simp] theorem spend_aclks (s : State) (n : Nat) : (s.spend n).aclks = s.aclks := rfl
@[simp] theorem spend_flights (s : State) (n : Nat) : (s.spend n).flights = s.flights := rfl
@[simp] theorem spend_packets (s : State) (n : Nat) : (s.spend n).packets = s.packets := rfl
@[simp] theorem spend_routers (s : State) (n : Nat) : (s.spend n).routers = s.routers := rfl
@[simp] theorem spend_dies (s : State) (n : Nat) : (s.spend n).dies = s.dies := rfl
@[simp] theorem spend_rots (s : State) (n : Nat) : (s.spend n).rots = s.rots := rfl
@[simp] theorem spend_units (s : State) (n : Nat) : (s.spend n).units = s.units := rfl
@[simp] theorem spend_blocks (s : State) (n : Nat) : (s.spend n).blocks = s.blocks := rfl
@[simp] theorem spend_drifts (s : State) (n : Nat) : (s.spend n).drifts = s.drifts := rfl
@[simp] theorem spend_dlists (s : State) (n : Nat) : (s.spend n).dlists = s.dlists := rfl
@[simp] theorem spend_rings (s : State) (n : Nat) : (s.spend n).rings = s.rings := rfl
@[simp] theorem spend_ringSlots (s : State) (n : Nat) : (s.spend n).ringSlots = s.ringSlots := rfl
@[simp] theorem spend_peers (s : State) (n : Nat) : (s.spend n).peers = s.peers := rfl
@[simp] theorem spend_isolated (s : State) (n : Nat) : (s.spend n).isolated = s.isolated := rfl
@[simp] theorem spend_links (s : State) (n : Nat) : (s.spend n).links = s.links := rfl
@[simp] theorem spend_redLines (s : State) (n : Nat) : (s.spend n).redLines = s.redLines := rfl
@[simp] theorem spend_launches (s : State) (n : Nat) : (s.spend n).launches = s.launches := rfl
@[simp] theorem spend_lqueues (s : State) (n : Nat) : (s.spend n).lqueues = s.lqueues := rfl
@[simp] theorem spend_nextLid (s : State) (n : Nat) : (s.spend n).nextLid = s.nextLid := rfl
@[simp] theorem spend_nextRound (s : State) (n : Nat) : (s.spend n).nextRound = s.nextRound := rfl
@[simp] theorem spend_images (s : State) (n : Nat) : (s.spend n).images = s.images := rfl
@[simp] theorem spend_driftTlb (s : State) (n : Nat) : (s.spend n).driftTlb = s.driftTlb := rfl
@[simp] theorem spend_unitTlbs (s : State) (n : Nat) : (s.spend n).unitTlbs = s.unitTlbs := rfl
@[simp] theorem spend_xinvBusy (s : State) (n : Nat) : (s.spend n).xinvBusy = s.xinvBusy := rfl
@[simp] theorem spend_nun (s : State) (n : Nat) : (s.spend n).nun = s.nun := rfl
@[simp] theorem spend_queue (s : State) (n : Nat) : (s.spend n).queue = s.queue := rfl
@[simp] theorem spend_sched (s : State) (n : Nat) : (s.spend n).sched = s.sched := rfl
@[simp] theorem spend_free (s : State) (n : Nat) : (s.spend n).free = s.free := rfl

@[simp] theorem land_focusCore (s : State) (e : Landing) : (s.land e).focusCore = s.focusCore := rfl
@[simp] theorem land_focusCtx (s : State) (e : Landing) : (s.land e).focusCtx = s.focusCtx := rfl
@[simp] theorem land_focusArr (s : State) (e : Landing) : (s.land e).focusArr = s.focusArr := rfl
@[simp] theorem land_focusUnit (s : State) (e : Landing) : (s.land e).focusUnit = s.focusUnit := rfl
@[simp] theorem land_focusEnt (s : State) (e : Landing) : (s.land e).focusEnt = s.focusEnt := rfl
@[simp] theorem land_mem (s : State) (e : Landing) : (s.land e).mem = s.mem := rfl
@[simp] theorem land_memUe (s : State) (e : Landing) : (s.land e).memUe = s.memUe := rfl
@[simp] theorem land_lags (s : State) (e : Landing) : (s.land e).lags = s.lags := rfl
@[simp] theorem land_cmdNow (s : State) (e : Landing) : (s.land e).cmdNow = s.cmdNow := rfl
@[simp] theorem land_cmdNext (s : State) (e : Landing) : (s.land e).cmdNext = s.cmdNext := rfl
@[simp] theorem land_walks (s : State) (e : Landing) : (s.land e).walks = s.walks := rfl
@[simp] theorem land_doorbells (s : State) (e : Landing) : (s.land e).doorbells = s.doorbells := rfl
@[simp] theorem land_planes (s : State) (e : Landing) : (s.land e).planes = s.planes := rfl
@[simp] theorem land_torusDown (s : State) (e : Landing) : (s.land e).torusDown = s.torusDown := rfl
@[simp] theorem land_regs (s : State) (e : Landing) : (s.land e).regs = s.regs := rfl
@[simp] theorem land_ctrs (s : State) (e : Landing) : (s.land e).ctrs = s.ctrs := rfl
@[simp] theorem land_groups (s : State) (e : Landing) : (s.land e).groups = s.groups := rfl
@[simp] theorem land_wallus (s : State) (e : Landing) : (s.land e).wallus = s.wallus := rfl
@[simp] theorem land_aclks (s : State) (e : Landing) : (s.land e).aclks = s.aclks := rfl
@[simp] theorem land_flights (s : State) (e : Landing) : (s.land e).flights = s.flights := rfl
@[simp] theorem land_packets (s : State) (e : Landing) : (s.land e).packets = s.packets := rfl
@[simp] theorem land_routers (s : State) (e : Landing) : (s.land e).routers = s.routers := rfl
@[simp] theorem land_dies (s : State) (e : Landing) : (s.land e).dies = s.dies := rfl
@[simp] theorem land_rots (s : State) (e : Landing) : (s.land e).rots = s.rots := rfl
@[simp] theorem land_units (s : State) (e : Landing) : (s.land e).units = s.units := rfl
@[simp] theorem land_blocks (s : State) (e : Landing) : (s.land e).blocks = s.blocks := rfl
@[simp] theorem land_drifts (s : State) (e : Landing) : (s.land e).drifts = s.drifts := rfl
@[simp] theorem land_dlists (s : State) (e : Landing) : (s.land e).dlists = s.dlists := rfl
@[simp] theorem land_rings (s : State) (e : Landing) : (s.land e).rings = s.rings := rfl
@[simp] theorem land_ringSlots (s : State) (e : Landing) : (s.land e).ringSlots = s.ringSlots := rfl
@[simp] theorem land_peers (s : State) (e : Landing) : (s.land e).peers = s.peers := rfl
@[simp] theorem land_isolated (s : State) (e : Landing) : (s.land e).isolated = s.isolated := rfl
@[simp] theorem land_links (s : State) (e : Landing) : (s.land e).links = s.links := rfl
@[simp] theorem land_redLines (s : State) (e : Landing) : (s.land e).redLines = s.redLines := rfl
@[simp] theorem land_launches (s : State) (e : Landing) : (s.land e).launches = s.launches := rfl
@[simp] theorem land_lqueues (s : State) (e : Landing) : (s.land e).lqueues = s.lqueues := rfl
@[simp] theorem land_nextLid (s : State) (e : Landing) : (s.land e).nextLid = s.nextLid := rfl
@[simp] theorem land_nextRound (s : State) (e : Landing) : (s.land e).nextRound = s.nextRound := rfl
@[simp] theorem land_images (s : State) (e : Landing) : (s.land e).images = s.images := rfl
@[simp] theorem land_driftTlb (s : State) (e : Landing) : (s.land e).driftTlb = s.driftTlb := rfl
@[simp] theorem land_unitTlbs (s : State) (e : Landing) : (s.land e).unitTlbs = s.unitTlbs := rfl
@[simp] theorem land_xinvBusy (s : State) (e : Landing) : (s.land e).xinvBusy = s.xinvBusy := rfl
@[simp] theorem land_nun (s : State) (e : Landing) : (s.land e).nun = s.nun := rfl
@[simp] theorem land_queue (s : State) (e : Landing) : (s.land e).queue = s.queue := rfl
@[simp] theorem land_sched (s : State) (e : Landing) : (s.land e).sched = s.sched := rfl
@[simp] theorem land_free (s : State) (e : Landing) : (s.land e).free = s.free := rfl

@[simp] theorem landHnd_focusCore (s : State) (h : BitVec 5) (v : W256) : (s.landHnd h v).focusCore = s.focusCore := rfl
@[simp] theorem landHnd_focusCtx (s : State) (h : BitVec 5) (v : W256) : (s.landHnd h v).focusCtx = s.focusCtx := rfl
@[simp] theorem landHnd_focusArr (s : State) (h : BitVec 5) (v : W256) : (s.landHnd h v).focusArr = s.focusArr := rfl
@[simp] theorem landHnd_focusUnit (s : State) (h : BitVec 5) (v : W256) : (s.landHnd h v).focusUnit = s.focusUnit := rfl
@[simp] theorem landHnd_focusEnt (s : State) (h : BitVec 5) (v : W256) : (s.landHnd h v).focusEnt = s.focusEnt := rfl
@[simp] theorem landHnd_mem (s : State) (h : BitVec 5) (v : W256) : (s.landHnd h v).mem = s.mem := rfl
@[simp] theorem landHnd_memUe (s : State) (h : BitVec 5) (v : W256) : (s.landHnd h v).memUe = s.memUe := rfl
@[simp] theorem landHnd_lags (s : State) (h : BitVec 5) (v : W256) : (s.landHnd h v).lags = s.lags := rfl
@[simp] theorem landHnd_cmdNow (s : State) (h : BitVec 5) (v : W256) : (s.landHnd h v).cmdNow = s.cmdNow := rfl
@[simp] theorem landHnd_cmdNext (s : State) (h : BitVec 5) (v : W256) : (s.landHnd h v).cmdNext = s.cmdNext := rfl
@[simp] theorem landHnd_walks (s : State) (h : BitVec 5) (v : W256) : (s.landHnd h v).walks = s.walks := rfl
@[simp] theorem landHnd_doorbells (s : State) (h : BitVec 5) (v : W256) : (s.landHnd h v).doorbells = s.doorbells := rfl
@[simp] theorem landHnd_planes (s : State) (h : BitVec 5) (v : W256) : (s.landHnd h v).planes = s.planes := rfl
@[simp] theorem landHnd_torusDown (s : State) (h : BitVec 5) (v : W256) : (s.landHnd h v).torusDown = s.torusDown := rfl
@[simp] theorem landHnd_regs (s : State) (h : BitVec 5) (v : W256) : (s.landHnd h v).regs = s.regs := rfl
@[simp] theorem landHnd_ctrs (s : State) (h : BitVec 5) (v : W256) : (s.landHnd h v).ctrs = s.ctrs := rfl
@[simp] theorem landHnd_groups (s : State) (h : BitVec 5) (v : W256) : (s.landHnd h v).groups = s.groups := rfl
@[simp] theorem landHnd_wallus (s : State) (h : BitVec 5) (v : W256) : (s.landHnd h v).wallus = s.wallus := rfl
@[simp] theorem landHnd_aclks (s : State) (h : BitVec 5) (v : W256) : (s.landHnd h v).aclks = s.aclks := rfl
@[simp] theorem landHnd_flights (s : State) (h : BitVec 5) (v : W256) : (s.landHnd h v).flights = s.flights := rfl
@[simp] theorem landHnd_packets (s : State) (h : BitVec 5) (v : W256) : (s.landHnd h v).packets = s.packets := rfl
@[simp] theorem landHnd_routers (s : State) (h : BitVec 5) (v : W256) : (s.landHnd h v).routers = s.routers := rfl
@[simp] theorem landHnd_dies (s : State) (h : BitVec 5) (v : W256) : (s.landHnd h v).dies = s.dies := rfl
@[simp] theorem landHnd_rots (s : State) (h : BitVec 5) (v : W256) : (s.landHnd h v).rots = s.rots := rfl
@[simp] theorem landHnd_units (s : State) (h : BitVec 5) (v : W256) : (s.landHnd h v).units = s.units := rfl
@[simp] theorem landHnd_blocks (s : State) (h : BitVec 5) (v : W256) : (s.landHnd h v).blocks = s.blocks := rfl
@[simp] theorem landHnd_drifts (s : State) (h : BitVec 5) (v : W256) : (s.landHnd h v).drifts = s.drifts := rfl
@[simp] theorem landHnd_dlists (s : State) (h : BitVec 5) (v : W256) : (s.landHnd h v).dlists = s.dlists := rfl
@[simp] theorem landHnd_rings (s : State) (h : BitVec 5) (v : W256) : (s.landHnd h v).rings = s.rings := rfl
@[simp] theorem landHnd_ringSlots (s : State) (h : BitVec 5) (v : W256) : (s.landHnd h v).ringSlots = s.ringSlots := rfl
@[simp] theorem landHnd_peers (s : State) (h : BitVec 5) (v : W256) : (s.landHnd h v).peers = s.peers := rfl
@[simp] theorem landHnd_isolated (s : State) (h : BitVec 5) (v : W256) : (s.landHnd h v).isolated = s.isolated := rfl
@[simp] theorem landHnd_links (s : State) (h : BitVec 5) (v : W256) : (s.landHnd h v).links = s.links := rfl
@[simp] theorem landHnd_redLines (s : State) (h : BitVec 5) (v : W256) : (s.landHnd h v).redLines = s.redLines := rfl
@[simp] theorem landHnd_launches (s : State) (h : BitVec 5) (v : W256) : (s.landHnd h v).launches = s.launches := rfl
@[simp] theorem landHnd_lqueues (s : State) (h : BitVec 5) (v : W256) : (s.landHnd h v).lqueues = s.lqueues := rfl
@[simp] theorem landHnd_nextLid (s : State) (h : BitVec 5) (v : W256) : (s.landHnd h v).nextLid = s.nextLid := rfl
@[simp] theorem landHnd_nextRound (s : State) (h : BitVec 5) (v : W256) : (s.landHnd h v).nextRound = s.nextRound := rfl
@[simp] theorem landHnd_images (s : State) (h : BitVec 5) (v : W256) : (s.landHnd h v).images = s.images := rfl
@[simp] theorem landHnd_driftTlb (s : State) (h : BitVec 5) (v : W256) : (s.landHnd h v).driftTlb = s.driftTlb := rfl
@[simp] theorem landHnd_unitTlbs (s : State) (h : BitVec 5) (v : W256) : (s.landHnd h v).unitTlbs = s.unitTlbs := rfl
@[simp] theorem landHnd_xinvBusy (s : State) (h : BitVec 5) (v : W256) : (s.landHnd h v).xinvBusy = s.xinvBusy := rfl
@[simp] theorem landHnd_nun (s : State) (h : BitVec 5) (v : W256) : (s.landHnd h v).nun = s.nun := rfl
@[simp] theorem landHnd_queue (s : State) (h : BitVec 5) (v : W256) : (s.landHnd h v).queue = s.queue := rfl
@[simp] theorem landHnd_sched (s : State) (h : BitVec 5) (v : W256) : (s.landHnd h v).sched = s.sched := rfl
@[simp] theorem landHnd_free (s : State) (h : BitVec 5) (v : W256) : (s.landHnd h v).free = s.free := rfl

@[simp] theorem landed_focusCore (s : State) : (s.landed).focusCore = s.focusCore := rfl
@[simp] theorem landed_focusCtx (s : State) : (s.landed).focusCtx = s.focusCtx := rfl
@[simp] theorem landed_focusArr (s : State) : (s.landed).focusArr = s.focusArr := rfl
@[simp] theorem landed_focusUnit (s : State) : (s.landed).focusUnit = s.focusUnit := rfl
@[simp] theorem landed_focusEnt (s : State) : (s.landed).focusEnt = s.focusEnt := rfl
@[simp] theorem landed_mem (s : State) : (s.landed).mem = s.mem := rfl
@[simp] theorem landed_memUe (s : State) : (s.landed).memUe = s.memUe := rfl
@[simp] theorem landed_lags (s : State) : (s.landed).lags = s.lags := rfl
@[simp] theorem landed_cmdNow (s : State) : (s.landed).cmdNow = s.cmdNow := rfl
@[simp] theorem landed_cmdNext (s : State) : (s.landed).cmdNext = s.cmdNext := rfl
@[simp] theorem landed_walks (s : State) : (s.landed).walks = s.walks := rfl
@[simp] theorem landed_doorbells (s : State) : (s.landed).doorbells = s.doorbells := rfl
@[simp] theorem landed_planes (s : State) : (s.landed).planes = s.planes := rfl
@[simp] theorem landed_torusDown (s : State) : (s.landed).torusDown = s.torusDown := rfl
@[simp] theorem landed_regs (s : State) : (s.landed).regs = s.regs := rfl
@[simp] theorem landed_ctrs (s : State) : (s.landed).ctrs = s.ctrs := rfl
@[simp] theorem landed_groups (s : State) : (s.landed).groups = s.groups := rfl
@[simp] theorem landed_wallus (s : State) : (s.landed).wallus = s.wallus := rfl
@[simp] theorem landed_aclks (s : State) : (s.landed).aclks = s.aclks := rfl
@[simp] theorem landed_flights (s : State) : (s.landed).flights = s.flights := rfl
@[simp] theorem landed_packets (s : State) : (s.landed).packets = s.packets := rfl
@[simp] theorem landed_routers (s : State) : (s.landed).routers = s.routers := rfl
@[simp] theorem landed_dies (s : State) : (s.landed).dies = s.dies := rfl
@[simp] theorem landed_rots (s : State) : (s.landed).rots = s.rots := rfl
@[simp] theorem landed_units (s : State) : (s.landed).units = s.units := rfl
@[simp] theorem landed_blocks (s : State) : (s.landed).blocks = s.blocks := rfl
@[simp] theorem landed_drifts (s : State) : (s.landed).drifts = s.drifts := rfl
@[simp] theorem landed_dlists (s : State) : (s.landed).dlists = s.dlists := rfl
@[simp] theorem landed_rings (s : State) : (s.landed).rings = s.rings := rfl
@[simp] theorem landed_ringSlots (s : State) : (s.landed).ringSlots = s.ringSlots := rfl
@[simp] theorem landed_peers (s : State) : (s.landed).peers = s.peers := rfl
@[simp] theorem landed_isolated (s : State) : (s.landed).isolated = s.isolated := rfl
@[simp] theorem landed_links (s : State) : (s.landed).links = s.links := rfl
@[simp] theorem landed_redLines (s : State) : (s.landed).redLines = s.redLines := rfl
@[simp] theorem landed_launches (s : State) : (s.landed).launches = s.launches := rfl
@[simp] theorem landed_lqueues (s : State) : (s.landed).lqueues = s.lqueues := rfl
@[simp] theorem landed_nextLid (s : State) : (s.landed).nextLid = s.nextLid := rfl
@[simp] theorem landed_nextRound (s : State) : (s.landed).nextRound = s.nextRound := rfl
@[simp] theorem landed_images (s : State) : (s.landed).images = s.images := rfl
@[simp] theorem landed_driftTlb (s : State) : (s.landed).driftTlb = s.driftTlb := rfl
@[simp] theorem landed_unitTlbs (s : State) : (s.landed).unitTlbs = s.unitTlbs := rfl
@[simp] theorem landed_xinvBusy (s : State) : (s.landed).xinvBusy = s.xinvBusy := rfl
@[simp] theorem landed_nun (s : State) : (s.landed).nun = s.nun := rfl
@[simp] theorem landed_queue (s : State) : (s.landed).queue = s.queue := rfl
@[simp] theorem landed_sched (s : State) : (s.landed).sched = s.sched := rfl
@[simp] theorem landed_free (s : State) : (s.landed).free = s.free := rfl

@[simp] theorem enqueue_cores (s : State) (e : Event) : (s.enqueue e).cores = s.cores := rfl
@[simp] theorem enqueue_focusCore (s : State) (e : Event) : (s.enqueue e).focusCore = s.focusCore := rfl
@[simp] theorem enqueue_focusCtx (s : State) (e : Event) : (s.enqueue e).focusCtx = s.focusCtx := rfl
@[simp] theorem enqueue_focusArr (s : State) (e : Event) : (s.enqueue e).focusArr = s.focusArr := rfl
@[simp] theorem enqueue_focusUnit (s : State) (e : Event) : (s.enqueue e).focusUnit = s.focusUnit := rfl
@[simp] theorem enqueue_focusEnt (s : State) (e : Event) : (s.enqueue e).focusEnt = s.focusEnt := rfl
@[simp] theorem enqueue_mem (s : State) (e : Event) : (s.enqueue e).mem = s.mem := rfl
@[simp] theorem enqueue_memUe (s : State) (e : Event) : (s.enqueue e).memUe = s.memUe := rfl
@[simp] theorem enqueue_lags (s : State) (e : Event) : (s.enqueue e).lags = s.lags := rfl
@[simp] theorem enqueue_cmdNow (s : State) (e : Event) : (s.enqueue e).cmdNow = s.cmdNow := rfl
@[simp] theorem enqueue_cmdNext (s : State) (e : Event) : (s.enqueue e).cmdNext = s.cmdNext := rfl
@[simp] theorem enqueue_walks (s : State) (e : Event) : (s.enqueue e).walks = s.walks := rfl
@[simp] theorem enqueue_doorbells (s : State) (e : Event) : (s.enqueue e).doorbells = s.doorbells := rfl
@[simp] theorem enqueue_planes (s : State) (e : Event) : (s.enqueue e).planes = s.planes := rfl
@[simp] theorem enqueue_torusDown (s : State) (e : Event) : (s.enqueue e).torusDown = s.torusDown := rfl
@[simp] theorem enqueue_regs (s : State) (e : Event) : (s.enqueue e).regs = s.regs := rfl
@[simp] theorem enqueue_ctrs (s : State) (e : Event) : (s.enqueue e).ctrs = s.ctrs := rfl
@[simp] theorem enqueue_groups (s : State) (e : Event) : (s.enqueue e).groups = s.groups := rfl
@[simp] theorem enqueue_wallus (s : State) (e : Event) : (s.enqueue e).wallus = s.wallus := rfl
@[simp] theorem enqueue_aclks (s : State) (e : Event) : (s.enqueue e).aclks = s.aclks := rfl
@[simp] theorem enqueue_flights (s : State) (e : Event) : (s.enqueue e).flights = s.flights := rfl
@[simp] theorem enqueue_packets (s : State) (e : Event) : (s.enqueue e).packets = s.packets := rfl
@[simp] theorem enqueue_routers (s : State) (e : Event) : (s.enqueue e).routers = s.routers := rfl
@[simp] theorem enqueue_dies (s : State) (e : Event) : (s.enqueue e).dies = s.dies := rfl
@[simp] theorem enqueue_rots (s : State) (e : Event) : (s.enqueue e).rots = s.rots := rfl
@[simp] theorem enqueue_units (s : State) (e : Event) : (s.enqueue e).units = s.units := rfl
@[simp] theorem enqueue_blocks (s : State) (e : Event) : (s.enqueue e).blocks = s.blocks := rfl
@[simp] theorem enqueue_drifts (s : State) (e : Event) : (s.enqueue e).drifts = s.drifts := rfl
@[simp] theorem enqueue_dlists (s : State) (e : Event) : (s.enqueue e).dlists = s.dlists := rfl
@[simp] theorem enqueue_rings (s : State) (e : Event) : (s.enqueue e).rings = s.rings := rfl
@[simp] theorem enqueue_ringSlots (s : State) (e : Event) : (s.enqueue e).ringSlots = s.ringSlots := rfl
@[simp] theorem enqueue_peers (s : State) (e : Event) : (s.enqueue e).peers = s.peers := rfl
@[simp] theorem enqueue_isolated (s : State) (e : Event) : (s.enqueue e).isolated = s.isolated := rfl
@[simp] theorem enqueue_links (s : State) (e : Event) : (s.enqueue e).links = s.links := rfl
@[simp] theorem enqueue_redLines (s : State) (e : Event) : (s.enqueue e).redLines = s.redLines := rfl
@[simp] theorem enqueue_launches (s : State) (e : Event) : (s.enqueue e).launches = s.launches := rfl
@[simp] theorem enqueue_lqueues (s : State) (e : Event) : (s.enqueue e).lqueues = s.lqueues := rfl
@[simp] theorem enqueue_nextLid (s : State) (e : Event) : (s.enqueue e).nextLid = s.nextLid := rfl
@[simp] theorem enqueue_nextRound (s : State) (e : Event) : (s.enqueue e).nextRound = s.nextRound := rfl
@[simp] theorem enqueue_images (s : State) (e : Event) : (s.enqueue e).images = s.images := rfl
@[simp] theorem enqueue_driftTlb (s : State) (e : Event) : (s.enqueue e).driftTlb = s.driftTlb := rfl
@[simp] theorem enqueue_unitTlbs (s : State) (e : Event) : (s.enqueue e).unitTlbs = s.unitTlbs := rfl
@[simp] theorem enqueue_xinvBusy (s : State) (e : Event) : (s.enqueue e).xinvBusy = s.xinvBusy := rfl
@[simp] theorem enqueue_nun (s : State) (e : Event) : (s.enqueue e).nun = s.nun := rfl
@[simp] theorem enqueue_sched (s : State) (e : Event) : (s.enqueue e).sched = s.sched := rfl
@[simp] theorem enqueue_free (s : State) (e : Event) : (s.enqueue e).free = s.free := rfl

@[simp] theorem nextFree_cores (s : State) : (s.nextFree).cores = s.cores := rfl
@[simp] theorem nextFree_focusCore (s : State) : (s.nextFree).focusCore = s.focusCore := rfl
@[simp] theorem nextFree_focusCtx (s : State) : (s.nextFree).focusCtx = s.focusCtx := rfl
@[simp] theorem nextFree_focusArr (s : State) : (s.nextFree).focusArr = s.focusArr := rfl
@[simp] theorem nextFree_focusUnit (s : State) : (s.nextFree).focusUnit = s.focusUnit := rfl
@[simp] theorem nextFree_focusEnt (s : State) : (s.nextFree).focusEnt = s.focusEnt := rfl
@[simp] theorem nextFree_mem (s : State) : (s.nextFree).mem = s.mem := rfl
@[simp] theorem nextFree_memUe (s : State) : (s.nextFree).memUe = s.memUe := rfl
@[simp] theorem nextFree_lags (s : State) : (s.nextFree).lags = s.lags := rfl
@[simp] theorem nextFree_cmdNow (s : State) : (s.nextFree).cmdNow = s.cmdNow := rfl
@[simp] theorem nextFree_cmdNext (s : State) : (s.nextFree).cmdNext = s.cmdNext := rfl
@[simp] theorem nextFree_walks (s : State) : (s.nextFree).walks = s.walks := rfl
@[simp] theorem nextFree_doorbells (s : State) : (s.nextFree).doorbells = s.doorbells := rfl
@[simp] theorem nextFree_planes (s : State) : (s.nextFree).planes = s.planes := rfl
@[simp] theorem nextFree_torusDown (s : State) : (s.nextFree).torusDown = s.torusDown := rfl
@[simp] theorem nextFree_regs (s : State) : (s.nextFree).regs = s.regs := rfl
@[simp] theorem nextFree_ctrs (s : State) : (s.nextFree).ctrs = s.ctrs := rfl
@[simp] theorem nextFree_groups (s : State) : (s.nextFree).groups = s.groups := rfl
@[simp] theorem nextFree_wallus (s : State) : (s.nextFree).wallus = s.wallus := rfl
@[simp] theorem nextFree_aclks (s : State) : (s.nextFree).aclks = s.aclks := rfl
@[simp] theorem nextFree_flights (s : State) : (s.nextFree).flights = s.flights := rfl
@[simp] theorem nextFree_packets (s : State) : (s.nextFree).packets = s.packets := rfl
@[simp] theorem nextFree_routers (s : State) : (s.nextFree).routers = s.routers := rfl
@[simp] theorem nextFree_dies (s : State) : (s.nextFree).dies = s.dies := rfl
@[simp] theorem nextFree_rots (s : State) : (s.nextFree).rots = s.rots := rfl
@[simp] theorem nextFree_units (s : State) : (s.nextFree).units = s.units := rfl
@[simp] theorem nextFree_blocks (s : State) : (s.nextFree).blocks = s.blocks := rfl
@[simp] theorem nextFree_drifts (s : State) : (s.nextFree).drifts = s.drifts := rfl
@[simp] theorem nextFree_dlists (s : State) : (s.nextFree).dlists = s.dlists := rfl
@[simp] theorem nextFree_rings (s : State) : (s.nextFree).rings = s.rings := rfl
@[simp] theorem nextFree_ringSlots (s : State) : (s.nextFree).ringSlots = s.ringSlots := rfl
@[simp] theorem nextFree_peers (s : State) : (s.nextFree).peers = s.peers := rfl
@[simp] theorem nextFree_isolated (s : State) : (s.nextFree).isolated = s.isolated := rfl
@[simp] theorem nextFree_links (s : State) : (s.nextFree).links = s.links := rfl
@[simp] theorem nextFree_redLines (s : State) : (s.nextFree).redLines = s.redLines := rfl
@[simp] theorem nextFree_launches (s : State) : (s.nextFree).launches = s.launches := rfl
@[simp] theorem nextFree_lqueues (s : State) : (s.nextFree).lqueues = s.lqueues := rfl
@[simp] theorem nextFree_nextLid (s : State) : (s.nextFree).nextLid = s.nextLid := rfl
@[simp] theorem nextFree_nextRound (s : State) : (s.nextFree).nextRound = s.nextRound := rfl
@[simp] theorem nextFree_images (s : State) : (s.nextFree).images = s.images := rfl
@[simp] theorem nextFree_driftTlb (s : State) : (s.nextFree).driftTlb = s.driftTlb := rfl
@[simp] theorem nextFree_unitTlbs (s : State) : (s.nextFree).unitTlbs = s.unitTlbs := rfl
@[simp] theorem nextFree_xinvBusy (s : State) : (s.nextFree).xinvBusy = s.xinvBusy := rfl
@[simp] theorem nextFree_nun (s : State) : (s.nextFree).nun = s.nun := rfl
@[simp] theorem nextFree_queue (s : State) : (s.nextFree).queue = s.queue := rfl
@[simp] theorem nextFree_sched (s : State) : (s.nextFree).sched = s.sched := rfl

@[simp] theorem dropFlight_cores (s : State) (n : Nat) : (s.dropFlight n).cores = s.cores := rfl
@[simp] theorem dropFlight_focusCore (s : State) (n : Nat) : (s.dropFlight n).focusCore = s.focusCore := rfl
@[simp] theorem dropFlight_focusCtx (s : State) (n : Nat) : (s.dropFlight n).focusCtx = s.focusCtx := rfl
@[simp] theorem dropFlight_focusArr (s : State) (n : Nat) : (s.dropFlight n).focusArr = s.focusArr := rfl
@[simp] theorem dropFlight_focusUnit (s : State) (n : Nat) : (s.dropFlight n).focusUnit = s.focusUnit := rfl
@[simp] theorem dropFlight_focusEnt (s : State) (n : Nat) : (s.dropFlight n).focusEnt = s.focusEnt := rfl
@[simp] theorem dropFlight_mem (s : State) (n : Nat) : (s.dropFlight n).mem = s.mem := rfl
@[simp] theorem dropFlight_memUe (s : State) (n : Nat) : (s.dropFlight n).memUe = s.memUe := rfl
@[simp] theorem dropFlight_lags (s : State) (n : Nat) : (s.dropFlight n).lags = s.lags := rfl
@[simp] theorem dropFlight_cmdNow (s : State) (n : Nat) : (s.dropFlight n).cmdNow = s.cmdNow := rfl
@[simp] theorem dropFlight_cmdNext (s : State) (n : Nat) : (s.dropFlight n).cmdNext = s.cmdNext := rfl
@[simp] theorem dropFlight_walks (s : State) (n : Nat) : (s.dropFlight n).walks = s.walks := rfl
@[simp] theorem dropFlight_doorbells (s : State) (n : Nat) : (s.dropFlight n).doorbells = s.doorbells := rfl
@[simp] theorem dropFlight_planes (s : State) (n : Nat) : (s.dropFlight n).planes = s.planes := rfl
@[simp] theorem dropFlight_torusDown (s : State) (n : Nat) : (s.dropFlight n).torusDown = s.torusDown := rfl
@[simp] theorem dropFlight_regs (s : State) (n : Nat) : (s.dropFlight n).regs = s.regs := rfl
@[simp] theorem dropFlight_ctrs (s : State) (n : Nat) : (s.dropFlight n).ctrs = s.ctrs := rfl
@[simp] theorem dropFlight_groups (s : State) (n : Nat) : (s.dropFlight n).groups = s.groups := rfl
@[simp] theorem dropFlight_wallus (s : State) (n : Nat) : (s.dropFlight n).wallus = s.wallus := rfl
@[simp] theorem dropFlight_aclks (s : State) (n : Nat) : (s.dropFlight n).aclks = s.aclks := rfl
@[simp] theorem dropFlight_packets (s : State) (n : Nat) : (s.dropFlight n).packets = s.packets := rfl
@[simp] theorem dropFlight_routers (s : State) (n : Nat) : (s.dropFlight n).routers = s.routers := rfl
@[simp] theorem dropFlight_dies (s : State) (n : Nat) : (s.dropFlight n).dies = s.dies := rfl
@[simp] theorem dropFlight_rots (s : State) (n : Nat) : (s.dropFlight n).rots = s.rots := rfl
@[simp] theorem dropFlight_units (s : State) (n : Nat) : (s.dropFlight n).units = s.units := rfl
@[simp] theorem dropFlight_blocks (s : State) (n : Nat) : (s.dropFlight n).blocks = s.blocks := rfl
@[simp] theorem dropFlight_drifts (s : State) (n : Nat) : (s.dropFlight n).drifts = s.drifts := rfl
@[simp] theorem dropFlight_dlists (s : State) (n : Nat) : (s.dropFlight n).dlists = s.dlists := rfl
@[simp] theorem dropFlight_rings (s : State) (n : Nat) : (s.dropFlight n).rings = s.rings := rfl
@[simp] theorem dropFlight_ringSlots (s : State) (n : Nat) : (s.dropFlight n).ringSlots = s.ringSlots := rfl
@[simp] theorem dropFlight_peers (s : State) (n : Nat) : (s.dropFlight n).peers = s.peers := rfl
@[simp] theorem dropFlight_isolated (s : State) (n : Nat) : (s.dropFlight n).isolated = s.isolated := rfl
@[simp] theorem dropFlight_links (s : State) (n : Nat) : (s.dropFlight n).links = s.links := rfl
@[simp] theorem dropFlight_redLines (s : State) (n : Nat) : (s.dropFlight n).redLines = s.redLines := rfl
@[simp] theorem dropFlight_launches (s : State) (n : Nat) : (s.dropFlight n).launches = s.launches := rfl
@[simp] theorem dropFlight_lqueues (s : State) (n : Nat) : (s.dropFlight n).lqueues = s.lqueues := rfl
@[simp] theorem dropFlight_nextLid (s : State) (n : Nat) : (s.dropFlight n).nextLid = s.nextLid := rfl
@[simp] theorem dropFlight_nextRound (s : State) (n : Nat) : (s.dropFlight n).nextRound = s.nextRound := rfl
@[simp] theorem dropFlight_images (s : State) (n : Nat) : (s.dropFlight n).images = s.images := rfl
@[simp] theorem dropFlight_driftTlb (s : State) (n : Nat) : (s.dropFlight n).driftTlb = s.driftTlb := rfl
@[simp] theorem dropFlight_unitTlbs (s : State) (n : Nat) : (s.dropFlight n).unitTlbs = s.unitTlbs := rfl
@[simp] theorem dropFlight_xinvBusy (s : State) (n : Nat) : (s.dropFlight n).xinvBusy = s.xinvBusy := rfl
@[simp] theorem dropFlight_nun (s : State) (n : Nat) : (s.dropFlight n).nun = s.nun := rfl
@[simp] theorem dropFlight_queue (s : State) (n : Nat) : (s.dropFlight n).queue = s.queue := rfl
@[simp] theorem dropFlight_sched (s : State) (n : Nat) : (s.dropFlight n).sched = s.sched := rfl
@[simp] theorem dropFlight_free (s : State) (n : Nat) : (s.dropFlight n).free = s.free := rfl

@[simp] theorem setFlight_cores (s : State) (n : Nat) (f : Flight) : (s.setFlight n f).cores = s.cores := rfl
@[simp] theorem setFlight_focusCore (s : State) (n : Nat) (f : Flight) : (s.setFlight n f).focusCore = s.focusCore := rfl
@[simp] theorem setFlight_focusCtx (s : State) (n : Nat) (f : Flight) : (s.setFlight n f).focusCtx = s.focusCtx := rfl
@[simp] theorem setFlight_focusArr (s : State) (n : Nat) (f : Flight) : (s.setFlight n f).focusArr = s.focusArr := rfl
@[simp] theorem setFlight_focusUnit (s : State) (n : Nat) (f : Flight) : (s.setFlight n f).focusUnit = s.focusUnit := rfl
@[simp] theorem setFlight_focusEnt (s : State) (n : Nat) (f : Flight) : (s.setFlight n f).focusEnt = s.focusEnt := rfl
@[simp] theorem setFlight_mem (s : State) (n : Nat) (f : Flight) : (s.setFlight n f).mem = s.mem := rfl
@[simp] theorem setFlight_memUe (s : State) (n : Nat) (f : Flight) : (s.setFlight n f).memUe = s.memUe := rfl
@[simp] theorem setFlight_lags (s : State) (n : Nat) (f : Flight) : (s.setFlight n f).lags = s.lags := rfl
@[simp] theorem setFlight_cmdNow (s : State) (n : Nat) (f : Flight) : (s.setFlight n f).cmdNow = s.cmdNow := rfl
@[simp] theorem setFlight_cmdNext (s : State) (n : Nat) (f : Flight) : (s.setFlight n f).cmdNext = s.cmdNext := rfl
@[simp] theorem setFlight_walks (s : State) (n : Nat) (f : Flight) : (s.setFlight n f).walks = s.walks := rfl
@[simp] theorem setFlight_doorbells (s : State) (n : Nat) (f : Flight) : (s.setFlight n f).doorbells = s.doorbells := rfl
@[simp] theorem setFlight_planes (s : State) (n : Nat) (f : Flight) : (s.setFlight n f).planes = s.planes := rfl
@[simp] theorem setFlight_torusDown (s : State) (n : Nat) (f : Flight) : (s.setFlight n f).torusDown = s.torusDown := rfl
@[simp] theorem setFlight_regs (s : State) (n : Nat) (f : Flight) : (s.setFlight n f).regs = s.regs := rfl
@[simp] theorem setFlight_ctrs (s : State) (n : Nat) (f : Flight) : (s.setFlight n f).ctrs = s.ctrs := rfl
@[simp] theorem setFlight_groups (s : State) (n : Nat) (f : Flight) : (s.setFlight n f).groups = s.groups := rfl
@[simp] theorem setFlight_wallus (s : State) (n : Nat) (f : Flight) : (s.setFlight n f).wallus = s.wallus := rfl
@[simp] theorem setFlight_aclks (s : State) (n : Nat) (f : Flight) : (s.setFlight n f).aclks = s.aclks := rfl
@[simp] theorem setFlight_packets (s : State) (n : Nat) (f : Flight) : (s.setFlight n f).packets = s.packets := rfl
@[simp] theorem setFlight_routers (s : State) (n : Nat) (f : Flight) : (s.setFlight n f).routers = s.routers := rfl
@[simp] theorem setFlight_dies (s : State) (n : Nat) (f : Flight) : (s.setFlight n f).dies = s.dies := rfl
@[simp] theorem setFlight_rots (s : State) (n : Nat) (f : Flight) : (s.setFlight n f).rots = s.rots := rfl
@[simp] theorem setFlight_units (s : State) (n : Nat) (f : Flight) : (s.setFlight n f).units = s.units := rfl
@[simp] theorem setFlight_blocks (s : State) (n : Nat) (f : Flight) : (s.setFlight n f).blocks = s.blocks := rfl
@[simp] theorem setFlight_drifts (s : State) (n : Nat) (f : Flight) : (s.setFlight n f).drifts = s.drifts := rfl
@[simp] theorem setFlight_dlists (s : State) (n : Nat) (f : Flight) : (s.setFlight n f).dlists = s.dlists := rfl
@[simp] theorem setFlight_rings (s : State) (n : Nat) (f : Flight) : (s.setFlight n f).rings = s.rings := rfl
@[simp] theorem setFlight_ringSlots (s : State) (n : Nat) (f : Flight) : (s.setFlight n f).ringSlots = s.ringSlots := rfl
@[simp] theorem setFlight_peers (s : State) (n : Nat) (f : Flight) : (s.setFlight n f).peers = s.peers := rfl
@[simp] theorem setFlight_isolated (s : State) (n : Nat) (f : Flight) : (s.setFlight n f).isolated = s.isolated := rfl
@[simp] theorem setFlight_links (s : State) (n : Nat) (f : Flight) : (s.setFlight n f).links = s.links := rfl
@[simp] theorem setFlight_redLines (s : State) (n : Nat) (f : Flight) : (s.setFlight n f).redLines = s.redLines := rfl
@[simp] theorem setFlight_launches (s : State) (n : Nat) (f : Flight) : (s.setFlight n f).launches = s.launches := rfl
@[simp] theorem setFlight_lqueues (s : State) (n : Nat) (f : Flight) : (s.setFlight n f).lqueues = s.lqueues := rfl
@[simp] theorem setFlight_nextLid (s : State) (n : Nat) (f : Flight) : (s.setFlight n f).nextLid = s.nextLid := rfl
@[simp] theorem setFlight_nextRound (s : State) (n : Nat) (f : Flight) : (s.setFlight n f).nextRound = s.nextRound := rfl
@[simp] theorem setFlight_images (s : State) (n : Nat) (f : Flight) : (s.setFlight n f).images = s.images := rfl
@[simp] theorem setFlight_driftTlb (s : State) (n : Nat) (f : Flight) : (s.setFlight n f).driftTlb = s.driftTlb := rfl
@[simp] theorem setFlight_unitTlbs (s : State) (n : Nat) (f : Flight) : (s.setFlight n f).unitTlbs = s.unitTlbs := rfl
@[simp] theorem setFlight_xinvBusy (s : State) (n : Nat) (f : Flight) : (s.setFlight n f).xinvBusy = s.xinvBusy := rfl
@[simp] theorem setFlight_nun (s : State) (n : Nat) (f : Flight) : (s.setFlight n f).nun = s.nun := rfl
@[simp] theorem setFlight_queue (s : State) (n : Nat) (f : Flight) : (s.setFlight n f).queue = s.queue := rfl
@[simp] theorem setFlight_sched (s : State) (n : Nat) (f : Flight) : (s.setFlight n f).sched = s.sched := rfl
@[simp] theorem setFlight_free (s : State) (n : Nat) (f : Flight) : (s.setFlight n f).free = s.free := rfl

@[simp] theorem log_cores (s : State) (src code : Nat) (d : List Byte) : (s.log src code d).cores = s.cores := rfl
@[simp] theorem log_focusCore (s : State) (src code : Nat) (d : List Byte) : (s.log src code d).focusCore = s.focusCore := rfl
@[simp] theorem log_focusCtx (s : State) (src code : Nat) (d : List Byte) : (s.log src code d).focusCtx = s.focusCtx := rfl
@[simp] theorem log_focusArr (s : State) (src code : Nat) (d : List Byte) : (s.log src code d).focusArr = s.focusArr := rfl
@[simp] theorem log_focusUnit (s : State) (src code : Nat) (d : List Byte) : (s.log src code d).focusUnit = s.focusUnit := rfl
@[simp] theorem log_focusEnt (s : State) (src code : Nat) (d : List Byte) : (s.log src code d).focusEnt = s.focusEnt := rfl
@[simp] theorem log_mem (s : State) (src code : Nat) (d : List Byte) : (s.log src code d).mem = s.mem := rfl
@[simp] theorem log_memUe (s : State) (src code : Nat) (d : List Byte) : (s.log src code d).memUe = s.memUe := rfl
@[simp] theorem log_lags (s : State) (src code : Nat) (d : List Byte) : (s.log src code d).lags = s.lags := rfl
@[simp] theorem log_cmdNow (s : State) (src code : Nat) (d : List Byte) : (s.log src code d).cmdNow = s.cmdNow := rfl
@[simp] theorem log_cmdNext (s : State) (src code : Nat) (d : List Byte) : (s.log src code d).cmdNext = s.cmdNext := rfl
@[simp] theorem log_walks (s : State) (src code : Nat) (d : List Byte) : (s.log src code d).walks = s.walks := rfl
@[simp] theorem log_doorbells (s : State) (src code : Nat) (d : List Byte) : (s.log src code d).doorbells = s.doorbells := rfl
@[simp] theorem log_planes (s : State) (src code : Nat) (d : List Byte) : (s.log src code d).planes = s.planes := rfl
@[simp] theorem log_torusDown (s : State) (src code : Nat) (d : List Byte) : (s.log src code d).torusDown = s.torusDown := rfl
@[simp] theorem log_regs (s : State) (src code : Nat) (d : List Byte) : (s.log src code d).regs = s.regs := rfl
@[simp] theorem log_ctrs (s : State) (src code : Nat) (d : List Byte) : (s.log src code d).ctrs = s.ctrs := rfl
@[simp] theorem log_groups (s : State) (src code : Nat) (d : List Byte) : (s.log src code d).groups = s.groups := rfl
@[simp] theorem log_wallus (s : State) (src code : Nat) (d : List Byte) : (s.log src code d).wallus = s.wallus := rfl
@[simp] theorem log_aclks (s : State) (src code : Nat) (d : List Byte) : (s.log src code d).aclks = s.aclks := rfl
@[simp] theorem log_flights (s : State) (src code : Nat) (d : List Byte) : (s.log src code d).flights = s.flights := rfl
@[simp] theorem log_packets (s : State) (src code : Nat) (d : List Byte) : (s.log src code d).packets = s.packets := rfl
@[simp] theorem log_routers (s : State) (src code : Nat) (d : List Byte) : (s.log src code d).routers = s.routers := rfl
@[simp] theorem log_dies (s : State) (src code : Nat) (d : List Byte) : (s.log src code d).dies = s.dies := rfl
@[simp] theorem log_rots (s : State) (src code : Nat) (d : List Byte) : (s.log src code d).rots = s.rots := rfl
@[simp] theorem log_units (s : State) (src code : Nat) (d : List Byte) : (s.log src code d).units = s.units := rfl
@[simp] theorem log_blocks (s : State) (src code : Nat) (d : List Byte) : (s.log src code d).blocks = s.blocks := rfl
@[simp] theorem log_drifts (s : State) (src code : Nat) (d : List Byte) : (s.log src code d).drifts = s.drifts := rfl
@[simp] theorem log_dlists (s : State) (src code : Nat) (d : List Byte) : (s.log src code d).dlists = s.dlists := rfl
@[simp] theorem log_rings (s : State) (src code : Nat) (d : List Byte) : (s.log src code d).rings = s.rings := rfl
@[simp] theorem log_ringSlots (s : State) (src code : Nat) (d : List Byte) : (s.log src code d).ringSlots = s.ringSlots := rfl
@[simp] theorem log_peers (s : State) (src code : Nat) (d : List Byte) : (s.log src code d).peers = s.peers := rfl
@[simp] theorem log_isolated (s : State) (src code : Nat) (d : List Byte) : (s.log src code d).isolated = s.isolated := rfl
@[simp] theorem log_links (s : State) (src code : Nat) (d : List Byte) : (s.log src code d).links = s.links := rfl
@[simp] theorem log_redLines (s : State) (src code : Nat) (d : List Byte) : (s.log src code d).redLines = s.redLines := rfl
@[simp] theorem log_launches (s : State) (src code : Nat) (d : List Byte) : (s.log src code d).launches = s.launches := rfl
@[simp] theorem log_lqueues (s : State) (src code : Nat) (d : List Byte) : (s.log src code d).lqueues = s.lqueues := rfl
@[simp] theorem log_nextLid (s : State) (src code : Nat) (d : List Byte) : (s.log src code d).nextLid = s.nextLid := rfl
@[simp] theorem log_nextRound (s : State) (src code : Nat) (d : List Byte) : (s.log src code d).nextRound = s.nextRound := rfl
@[simp] theorem log_images (s : State) (src code : Nat) (d : List Byte) : (s.log src code d).images = s.images := rfl
@[simp] theorem log_driftTlb (s : State) (src code : Nat) (d : List Byte) : (s.log src code d).driftTlb = s.driftTlb := rfl
@[simp] theorem log_unitTlbs (s : State) (src code : Nat) (d : List Byte) : (s.log src code d).unitTlbs = s.unitTlbs := rfl
@[simp] theorem log_xinvBusy (s : State) (src code : Nat) (d : List Byte) : (s.log src code d).xinvBusy = s.xinvBusy := rfl
@[simp] theorem log_queue (s : State) (src code : Nat) (d : List Byte) : (s.log src code d).queue = s.queue := rfl
@[simp] theorem log_sched (s : State) (src code : Nat) (d : List Byte) : (s.log src code d).sched = s.sched := rfl
@[simp] theorem log_free (s : State) (src code : Nat) (d : List Byte) : (s.log src code d).free = s.free := rfl

@[simp] theorem writeMem_cores (s : State) (a : Nat) (bs : List Byte) : (s.writeMem a bs).cores = s.cores := rfl
@[simp] theorem writeMem_focusCore (s : State) (a : Nat) (bs : List Byte) : (s.writeMem a bs).focusCore = s.focusCore := rfl
@[simp] theorem writeMem_focusCtx (s : State) (a : Nat) (bs : List Byte) : (s.writeMem a bs).focusCtx = s.focusCtx := rfl
@[simp] theorem writeMem_focusArr (s : State) (a : Nat) (bs : List Byte) : (s.writeMem a bs).focusArr = s.focusArr := rfl
@[simp] theorem writeMem_focusUnit (s : State) (a : Nat) (bs : List Byte) : (s.writeMem a bs).focusUnit = s.focusUnit := rfl
@[simp] theorem writeMem_focusEnt (s : State) (a : Nat) (bs : List Byte) : (s.writeMem a bs).focusEnt = s.focusEnt := rfl
@[simp] theorem writeMem_lags (s : State) (a : Nat) (bs : List Byte) : (s.writeMem a bs).lags = s.lags := rfl
@[simp] theorem writeMem_cmdNow (s : State) (a : Nat) (bs : List Byte) : (s.writeMem a bs).cmdNow = s.cmdNow := rfl
@[simp] theorem writeMem_cmdNext (s : State) (a : Nat) (bs : List Byte) : (s.writeMem a bs).cmdNext = s.cmdNext := rfl
@[simp] theorem writeMem_walks (s : State) (a : Nat) (bs : List Byte) : (s.writeMem a bs).walks = s.walks := rfl
@[simp] theorem writeMem_planes (s : State) (a : Nat) (bs : List Byte) : (s.writeMem a bs).planes = s.planes := rfl
@[simp] theorem writeMem_torusDown (s : State) (a : Nat) (bs : List Byte) : (s.writeMem a bs).torusDown = s.torusDown := rfl
@[simp] theorem writeMem_regs (s : State) (a : Nat) (bs : List Byte) : (s.writeMem a bs).regs = s.regs := rfl
@[simp] theorem writeMem_ctrs (s : State) (a : Nat) (bs : List Byte) : (s.writeMem a bs).ctrs = s.ctrs := rfl
@[simp] theorem writeMem_groups (s : State) (a : Nat) (bs : List Byte) : (s.writeMem a bs).groups = s.groups := rfl
@[simp] theorem writeMem_wallus (s : State) (a : Nat) (bs : List Byte) : (s.writeMem a bs).wallus = s.wallus := rfl
@[simp] theorem writeMem_aclks (s : State) (a : Nat) (bs : List Byte) : (s.writeMem a bs).aclks = s.aclks := rfl
@[simp] theorem writeMem_flights (s : State) (a : Nat) (bs : List Byte) : (s.writeMem a bs).flights = s.flights := rfl
@[simp] theorem writeMem_packets (s : State) (a : Nat) (bs : List Byte) : (s.writeMem a bs).packets = s.packets := rfl
@[simp] theorem writeMem_routers (s : State) (a : Nat) (bs : List Byte) : (s.writeMem a bs).routers = s.routers := rfl
@[simp] theorem writeMem_dies (s : State) (a : Nat) (bs : List Byte) : (s.writeMem a bs).dies = s.dies := rfl
@[simp] theorem writeMem_rots (s : State) (a : Nat) (bs : List Byte) : (s.writeMem a bs).rots = s.rots := rfl
@[simp] theorem writeMem_units (s : State) (a : Nat) (bs : List Byte) : (s.writeMem a bs).units = s.units := rfl
@[simp] theorem writeMem_blocks (s : State) (a : Nat) (bs : List Byte) : (s.writeMem a bs).blocks = s.blocks := rfl
@[simp] theorem writeMem_drifts (s : State) (a : Nat) (bs : List Byte) : (s.writeMem a bs).drifts = s.drifts := rfl
@[simp] theorem writeMem_dlists (s : State) (a : Nat) (bs : List Byte) : (s.writeMem a bs).dlists = s.dlists := rfl
@[simp] theorem writeMem_rings (s : State) (a : Nat) (bs : List Byte) : (s.writeMem a bs).rings = s.rings := rfl
@[simp] theorem writeMem_ringSlots (s : State) (a : Nat) (bs : List Byte) : (s.writeMem a bs).ringSlots = s.ringSlots := rfl
@[simp] theorem writeMem_peers (s : State) (a : Nat) (bs : List Byte) : (s.writeMem a bs).peers = s.peers := rfl
@[simp] theorem writeMem_isolated (s : State) (a : Nat) (bs : List Byte) : (s.writeMem a bs).isolated = s.isolated := rfl
@[simp] theorem writeMem_links (s : State) (a : Nat) (bs : List Byte) : (s.writeMem a bs).links = s.links := rfl
@[simp] theorem writeMem_redLines (s : State) (a : Nat) (bs : List Byte) : (s.writeMem a bs).redLines = s.redLines := rfl
@[simp] theorem writeMem_launches (s : State) (a : Nat) (bs : List Byte) : (s.writeMem a bs).launches = s.launches := rfl
@[simp] theorem writeMem_lqueues (s : State) (a : Nat) (bs : List Byte) : (s.writeMem a bs).lqueues = s.lqueues := rfl
@[simp] theorem writeMem_nextLid (s : State) (a : Nat) (bs : List Byte) : (s.writeMem a bs).nextLid = s.nextLid := rfl
@[simp] theorem writeMem_nextRound (s : State) (a : Nat) (bs : List Byte) : (s.writeMem a bs).nextRound = s.nextRound := rfl
@[simp] theorem writeMem_images (s : State) (a : Nat) (bs : List Byte) : (s.writeMem a bs).images = s.images := rfl
@[simp] theorem writeMem_driftTlb (s : State) (a : Nat) (bs : List Byte) : (s.writeMem a bs).driftTlb = s.driftTlb := rfl
@[simp] theorem writeMem_unitTlbs (s : State) (a : Nat) (bs : List Byte) : (s.writeMem a bs).unitTlbs = s.unitTlbs := rfl
@[simp] theorem writeMem_xinvBusy (s : State) (a : Nat) (bs : List Byte) : (s.writeMem a bs).xinvBusy = s.xinvBusy := rfl
@[simp] theorem writeMem_nun (s : State) (a : Nat) (bs : List Byte) : (s.writeMem a bs).nun = s.nun := rfl
@[simp] theorem writeMem_queue (s : State) (a : Nat) (bs : List Byte) : (s.writeMem a bs).queue = s.queue := rfl
@[simp] theorem writeMem_sched (s : State) (a : Nat) (bs : List Byte) : (s.writeMem a bs).sched = s.sched := rfl
@[simp] theorem writeMem_free (s : State) (a : Nat) (bs : List Byte) : (s.writeMem a bs).free = s.free := rfl

end Sys2Proof.Machine
end

