-- ==== Sys2Proof/Laws/Table.lean ====
section
/-! SUPPORT. Sparse tables: reading after writing, and that every operation keeps the canonical form. -/

namespace Sys2Proof.Machine

open Sys2Proof

/-! Reading after writing. -/

theorem tget_tset_same {α : Type} (d : α) (t : Tbl α) (j : Nat) (v : α) : tget d (tset t j v) j = v := by
  induction t with
  | nil => simp [tset, tget]
  | cons p r ih =>
    obtain ⟨k, w⟩ := p
    unfold tset
    split
    · simp [tget]
    · split
      · simp [tget]
      · rename_i h1 h2; simp [tget, h2, ih]

theorem tget_tset_other {α : Type} (d : α) (t : Tbl α) {i j : Nat} (v : α) (h : i ≠ j) :
    tget d (tset t j v) i = tget d t i := by
  induction t with
  | nil => simp [tset, tget, h]
  | cons p r ih =>
    obtain ⟨k, w⟩ := p
    unfold tset
    split
    · simp [tget, h]
    · split
      · rename_i h1 h2; subst h2; simp [tget, h]
      · simp [tget, ih]

theorem tget_tdel_same {α : Type} (d : α) (t : Tbl α) (j : Nat) : tget d (tdel t j) j = d := by
  induction t with
  | nil => simp [tdel, tget]
  | cons p r ih =>
    obtain ⟨k, w⟩ := p
    simp only [tdel] at ih ⊢
    by_cases hk : k = j
    · subst hk; simpa [List.filter_cons] using ih
    · simp [List.filter_cons, hk, tget, Ne.symm hk, ih]

theorem tget_tdel_other {α : Type} (d : α) (t : Tbl α) {i j : Nat} (h : i ≠ j) : tget d (tdel t j) i = tget d t i := by
  induction t with
  | nil => simp [tdel]
  | cons p r ih =>
    obtain ⟨k, w⟩ := p
    simp only [tdel] at ih ⊢
    by_cases hk : k = j
    · subst hk; simp [List.filter_cons, tget, h, ih]
    · simp [List.filter_cons, hk, tget, ih]

@[simp] theorem tget_tput_same {α : Type} [DecidableEq α] (d : α) (t : Tbl α) (j : Nat) (v : α) :
    tget d (tput d t j v) j = v := by
  unfold tput
  split
  · rename_i h; rw [tget_tdel_same, h]
  · exact tget_tset_same d t j v

theorem tget_tput_other {α : Type} [DecidableEq α] (d : α) (t : Tbl α) {i j : Nat} (v : α) (h : i ≠ j) :
    tget d (tput d t j v) i = tget d t i := by
  unfold tput
  split
  · exact tget_tdel_other d t h
  · exact tget_tset_other d t v h

@[simp] theorem tfind_tset_same {α : Type} (t : Tbl α) (j : Nat) (v : α) : tfind (tset t j v) j = some v := by
  induction t with
  | nil => simp [tset, tfind]
  | cons p r ih =>
    obtain ⟨k, w⟩ := p
    unfold tset
    split
    · simp [tfind]
    · split
      · simp [tfind]
      · rename_i h1 h2; simp [tfind, h2, ih]

/-! The canonical form. -/

/-- Every key is above a bound. -/
def Above {α : Type} (b : Nat) (t : Tbl α) : Prop := ∀ p ∈ t, b < p.1

theorem tsorted_cons {α : Type} (p : Nat × α) (t : Tbl α) : tsorted (p :: t) = true ↔ Above p.1 t ∧ tsorted t = true := by
  induction t generalizing p with
  | nil => simp [tsorted, Above]
  | cons q r ih =>
    simp only [tsorted, Bool.and_eq_true, decide_eq_true_eq]
    rw [ih q]
    constructor
    · rintro ⟨h, ha, hs⟩
      refine ⟨?_, ha, hs⟩
      intro x hx
      rcases List.mem_cons.mp hx with rfl | hx
      · exact h
      · exact Nat.lt_trans h (ha x hx)
    · rintro ⟨h, ha, hs⟩
      exact ⟨h q (List.mem_cons_self ..), ha, hs⟩

theorem above_tset {α : Type} {b : Nat} {t : Tbl α} {j : Nat} {v : α} (h : Above b t) (hj : b < j) : Above b (tset t j v) := by
  induction t with
  | nil => intro p hp; simp [tset] at hp; subst hp; exact hj
  | cons q r ih =>
    obtain ⟨k, w⟩ := q
    have hr : Above b r := fun p hp => h p (List.mem_cons_of_mem _ hp)
    have hk : b < k := h (k, w) (List.mem_cons_self ..)
    unfold tset
    split
    · intro p hp
      rcases List.mem_cons.mp hp with rfl | hp
      · exact hj
      · exact h p hp
    · split
      · intro p hp
        rcases List.mem_cons.mp hp with rfl | hp
        · exact hj
        · exact hr p hp
      · intro p hp
        rcases List.mem_cons.mp hp with rfl | hp
        · exact hk
        · exact ih hr p hp

theorem tsorted_tset {α : Type} {t : Tbl α} (h : tsorted t = true) (j : Nat) (v : α) : tsorted (tset t j v) = true := by
  induction t with
  | nil => simp [tset, tsorted]
  | cons q r ih =>
    obtain ⟨k, w⟩ := q
    have hc := (tsorted_cons (k, w) r).mp h
    unfold tset
    split
    · rename_i hlt
      rw [tsorted_cons]
      refine ⟨?_, h⟩
      intro p hp
      rcases List.mem_cons.mp hp with rfl | hp
      · exact hlt
      · exact Nat.lt_trans hlt (hc.1 p hp)
    · split
      · rename_i hn he
        subst he
        rw [tsorted_cons]; exact hc
      · rename_i hn he
        rw [tsorted_cons]
        exact ⟨above_tset hc.1 (by omega), ih hc.2⟩

theorem tsorted_filter {α : Type} {t : Tbl α} (h : tsorted t = true) (f : Nat × α → Bool) : tsorted (t.filter f) = true := by
  induction t with
  | nil => simp [tsorted]
  | cons q r ih =>
    have hc := (tsorted_cons q r).mp h
    simp only [List.filter]
    split
    · rw [tsorted_cons]
      exact ⟨fun p hp => hc.1 p (List.mem_filter.mp hp).1, ih hc.2⟩
    · exact ih hc.2

theorem mem_tset {α : Type} {t : Tbl α} {j : Nat} {v : α} {p : Nat × α} (h : p ∈ tset t j v) : p = (j, v) ∨ p ∈ t := by
  induction t with
  | nil => simp [tset] at h; exact .inl h
  | cons q r ih =>
    obtain ⟨k, w⟩ := q
    unfold tset at h
    split at h
    · rcases List.mem_cons.mp h with rfl | h
      · exact .inl rfl
      · exact .inr h
    · split at h
      · rcases List.mem_cons.mp h with rfl | h
        · exact .inl rfl
        · exact .inr (List.mem_cons_of_mem _ h)
      · rcases List.mem_cons.mp h with rfl | h
        · exact .inr (List.mem_cons_self ..)
        · rcases ih h with h | h
          · exact .inl h
          · exact .inr (List.mem_cons_of_mem _ h)

/-- A table's canonical form is kept by a selection of its entries. -/
theorem twf_filter {α : Type} [DecidableEq α] {d : α} {t : Tbl α} (h : twf d t = true) (f : Nat × α → Bool) :
    twf d (t.filter f) = true := by
  simp only [twf, Bool.and_eq_true, List.all_eq_true] at h ⊢
  exact ⟨tsorted_filter h.1 f, fun p hp => h.2 p (List.mem_filter.mp hp).1⟩

/-- Writing a value keeps the canonical form. -/
theorem twf_tput {α : Type} [DecidableEq α] {d : α} {t : Tbl α} (h : twf d t = true) (j : Nat) (v : α) :
    twf d (tput d t j v) = true := by
  unfold tput
  split
  · exact twf_filter h _
  · rename_i hv
    simp only [twf, Bool.and_eq_true, List.all_eq_true] at h ⊢
    refine ⟨tsorted_tset h.1 j v, fun p hp => ?_⟩
    rcases mem_tset hp with rfl | hp
    · simpa using hv
    · exact h.2 p hp

/-! Bytes. -/

/-- A byte table keeps its canonical form under writes. -/
theorem twf_writeBytes {t : Tbl Byte} (h : twf 0 t = true) (a : Nat) (bs : List Byte) : twf 0 (writeBytes t a bs) = true := by
  induction bs generalizing t a with
  | nil => exact h
  | cons b r ih => exact ih (twf_tput h a b) (a + 1)

/-- A byte outside a write is unchanged. -/
theorem tget_writeBytes_other (t : Tbl Byte) (a : Nat) (bs : List Byte) {i : Nat} (h : i < a ∨ a + bs.length ≤ i) :
    tget 0 (writeBytes t a bs) i = tget 0 t i := by
  induction bs generalizing t a with
  | nil => rfl
  | cons b r ih =>
    simp only [List.length_cons] at h
    rw [writeBytes, ih _ _ (by omega), tget_tput_other]
    omega

/-- A byte inside a write is the byte written. -/
theorem tget_writeBytes_in (t : Tbl Byte) (a : Nat) (bs : List Byte) {k : Nat} (h : k < bs.length) :
    tget 0 (writeBytes t a bs) (a + k) = bs.getD k 0 := by
  induction bs generalizing t a k with
  | nil => simp at h
  | cons b r ih =>
    cases k with
    | zero => rw [writeBytes, tget_writeBytes_other _ _ _ (by omega)]; simp
    | succ k =>
      simp only [List.length_cons] at h
      have := ih (tput 0 t a b) (a + 1) (k := k) (by omega)
      rw [writeBytes, show a + (k + 1) = a + 1 + k by omega, this]
      simp

@[simp] theorem readBytes_length (t : Tbl Byte) (a n : Nat) : (readBytes t a n).length = n := by
  induction n generalizing a with
  | zero => rfl
  | succ n ih => simp [readBytes, ih]

@[simp] theorem bytesOfNat_length (n v : Nat) : (bytesOfNat n v).length = n := by
  induction n generalizing v with
  | zero => rfl
  | succ n ih => simp [bytesOfNat, ih]

end Sys2Proof.Machine
end

