-- ==== Sys2Proof/Laws/Ops.lean ====
section
/-! SUPPORT. What the shared operations do: cores and contexts read after they are written, and what a step of each kind
of engine can answer. -/

namespace Sys2Proof.Machine

open Sys2Proof

/-! Cores and contexts. -/

@[simp] theorem core_setCore (s : State) (c : Nat) (k : Core) : (s.setCore c k).core c = k := by
  simp [State.core, State.setCore]

theorem core_setCore_other (s : State) {c d : Nat} (k : Core) (h : d ≠ c) : (s.setCore c k).core d = s.core d := by
  unfold State.core State.setCore
  exact tget_tput_other _ _ _ h

@[simp] theorem fcore_setFcore (s : State) (k : Core) : (s.setFcore k).fcore = k := by simp [State.fcore, State.setFcore]

@[simp] theorem ctx_setCtx (k : Core) (n : Nat) (x : Ctx) : (k.setCtx n x).ctx n = x := by simp [Core.ctx, Core.setCtx]

theorem ctx_setCtx_other (k : Core) {n m : Nat} (x : Ctx) (h : m ≠ n) : (k.setCtx n x).ctx m = k.ctx m := by
  unfold Core.ctx Core.setCtx
  exact tget_tput_other _ _ _ h

@[simp] theorem cx_setCx (s : State) (x : Ctx) : (s.setCx x).cx = x := by
  unfold State.cx State.setCx
  rw [fcore_setFcore]
  exact ctx_setCtx _ _ _

@[simp] theorem cx_modCx (s : State) (f : Ctx → Ctx) : (s.modCx f).cx = f s.cx := by simp [State.modCx]

@[simp] theorem cx_modCtl (s : State) (f : CtlSt → CtlSt) :
    (s.modCtl f).cx = { s.cx with a := { s.cx.a with c := f s.cx.a.c } } := by simp [State.modCtl]

@[simp] theorem cx_modVec (s : State) (f : VecSt → VecSt) :
    (s.modVec f).cx = { s.cx with a := { s.cx.a with v := f s.cx.a.v } } := by simp [State.modVec]

@[simp] theorem cx_modIss (s : State) (f : Issue → Issue) : (s.modIss f).cx = { s.cx with iss := f s.cx.iss } := by
  simp [State.modIss]

@[simp] theorem cx_post (s : State) (p : Post) :
    (s.post p).cx = { s.cx with iss := { s.cx.iss with post := s.cx.iss.post ++ [p] } } := by
  simp [State.post]

/-- A result joins the landing buffer. -/
@[simp] theorem cx_land (s : State) (e : Landing) :
    (s.land e).cx = { s.cx with a := { s.cx.a with v := { s.cx.a.v with landing := s.cx.a.v.landing ++ [e] } } } := by
  simp [State.land]

/-- A core written over reads as it was last written. -/
theorem core_setFcore_other (s : State) {d : Nat} (k : Core) (h : d ≠ s.focusCore) : (s.setFcore k).core d = s.core d :=
  core_setCore_other s k h

/-! What a step of each kind of engine can answer. -/

/-- Where no routine of the control program's own runs, a micro-word does nothing; else it stops the routine, or moves it
on (R315). -/
theorem micro_next {i : Instr} {s t : State} {n : Nat} {yp : Bool} {f : Work → Work} (h : micro i s n yp f = .next t) :
    t = s ∨ ∃ w, s.work s.focusCore s.focusArr = some w ∧ w.r.lib.isSome = false ∧
      let w1 := if microLegal i then f w else w.stopped microIll
      (∃ st, w1.stop = some st ∧ t = s.stopRoutine w1 st (w.r.pc % 2048)) ∨
      (w1.stop = none ∧ t = s.putWork { w1 with r := w1.r.after n yp }) := by
  unfold micro at h
  split at h
  · cases h; exact .inl rfl
  · rename_i w hw
    split at h
    · cases h; exact .inl rfl
    · rename_i hl
      right
      refine ⟨w, hw, by simpa using hl, ?_⟩
      dsimp only at h ⊢
      split at h
      · rename_i st hs; cases h; exact .inl ⟨st, hs, rfl⟩
      · rename_i hs; cases h; exact .inr ⟨hs, rfl⟩

/-- A micro-word never faults and is never refused. -/
theorem micro_answers (i : Instr) (s : State) (n : Nat) (yp : Bool) (f : Work → Work) : ∃ t, micro i s n yp f = .next t := by
  unfold micro
  split
  · exact ⟨_, rfl⟩
  · split
    · exact ⟨_, rfl⟩
    · dsimp only; split <;> exact ⟨_, rfl⟩

/-- Where no unit runs, a Moraine instruction does nothing; else its unit stops, or has the instruction's effect and
moves on (R336, R339). -/
theorem morRun_next {i : Instr} {s t : State} {f : Nat → MUnit → State → Except MStop (MUnit × Nat × State)}
    (h : morRun i s f = .next t) :
    t = s ∨ (∃ e, t = s.morStop s.focusUnit e) ∨
    ∃ x pc limit m pc1 u, (s.unit s.focusUnit).exec = some x ∧ x.phase = .running pc limit ∧
      f pc (s.unit s.focusUnit) s = .ok (m, pc1, u) ∧
      t = u.setUnit s.focusUnit { (m.after pc1).2 with exec := some { x with phase := .running (m.after pc1).1 limit } } := by
  unfold morRun at h
  dsimp only at h
  split at h
  · rename_i x hx
    split at h
    · rename_i pc limit hp
      split at h
      · cases h; exact .inr (.inl ⟨_, rfl⟩)
      · split at h
        · cases h; exact .inr (.inl ⟨_, rfl⟩)
        · split at h
          · cases h; exact .inr (.inl ⟨_, rfl⟩)
          · split at h
            · cases h; exact .inr (.inl ⟨_, rfl⟩)
            · rename_i m pc1 u hu
              cases h
              exact .inr (.inr ⟨x, pc, limit, m, pc1, u, hx, hp, hu, rfl⟩)
    · cases h; exact .inl rfl
  · cases h; exact .inl rfl

/-- A Moraine instruction never faults and is never refused. -/
theorem morRun_answers (i : Instr) (s : State) (f : Nat → MUnit → State → Except MStop (MUnit × Nat × State)) :
    ∃ t, morRun i s f = .next t := by
  unfold morRun
  dsimp only
  (repeat' split) <;> exact ⟨_, rfl⟩

/-- Where no unit stands at a command, a command does nothing; else its unit stops, or has the command's effect (R343). -/
theorem morCmd_next {i : Instr} {s t : State} {f : Nat → MUnit → Block → State → Except MStop State}
    (h : morCmd i s f = .next t) :
    t = s ∨ (∃ e, t = s.morStop s.focusUnit e) ∨
    ∃ b, s.morBlock (s.unit s.focusUnit) = some b ∧ f s.focusUnit (s.unit s.focusUnit) b s = .ok t := by
  unfold morCmd at h
  dsimp only at h
  split at h
  · rename_i x b hx hb
    split at h
    · split at h
      · cases h; exact .inr (.inl ⟨_, rfl⟩)
      · split at h
        · cases h; exact .inr (.inl ⟨_, rfl⟩)
        · rename_i u hu; cases h; exact .inr (.inr ⟨b, hb, hu⟩)
    · cases h; exact .inl rfl
  · cases h; exact .inl rfl

/-- A Moraine command never faults and is never refused. -/
theorem morCmd_answers (i : Instr) (s : State) (f : Nat → MUnit → Block → State → Except MStop State) :
    ∃ t, morCmd i s f = .next t := by
  unfold morCmd
  dsimp only
  (repeat' split) <;> exact ⟨_, rfl⟩

/-- Where the entry in focus has not fired, a Drift entry does nothing; else it has its effect, once its list's engine has
touched what it reads (R368). -/
theorem drift_next {s t : State} {f : Nat → DriftEnt → DriftList → State → State} (h : drift s f = .next t) :
    t = s ∨ ∃ e, tfind s.drifts s.focusEnt = some e ∧ e.phase = .fired ∧
      t = f s.focusEnt e (s.dlist e.list) ((s.entAcquire e).driftTouch e) := by
  unfold drift at h
  split at h
  · rename_i e he
    split at h
    · rename_i hp; cases h; exact .inr ⟨e, he, hp, rfl⟩
    · cases h; exact .inl rfl
  · cases h; exact .inl rfl

/-- A Drift entry never faults and is never refused. -/
theorem drift_answers (s : State) (f : Nat → DriftEnt → DriftList → State → State) : ∃ t, drift s f = .next t := by
  unfold drift
  (repeat' split) <;> exact ⟨_, rfl⟩

/-- A management command has its effect where the mailbox holds it, and otherwise does nothing (R421). -/
theorem mgmt_next {op : Nat} {s t : State} {f : State → State} (h : mgmt op s f = .next t) :
    (s.nun.op = op ∧ t = f s) ∨ (s.nun.op ≠ op ∧ t = s) := by
  unfold mgmt at h
  split at h
  · rename_i ho; cases h; exact .inl ⟨ho, rfl⟩
  · rename_i ho; cases h; exact .inr ⟨ho, rfl⟩

/-- A management command never faults and is never refused. -/
theorem mgmt_answers (op : Nat) (s : State) (f : State → State) : ∃ t, mgmt op s f = .next t := by
  unfold mgmt
  split <;> exact ⟨_, rfl⟩

/-! Traps. -/

/-- Taking a trap of translation records what was accessed, and is otherwise the entry of any trap (R394). -/
theorem takeTrap_cases (s : State) (t : TrapAt) :
    (∃ acc f, t.x = some (acc, f) ∧ s.takeTrap t = s.enterXlate acc f t.info s.cx.iss.addr) ∨
    (t.x = none ∧ s.takeTrap t = s.enterTrap t.cause t.info s.cx.iss.addr) := by
  unfold State.takeTrap
  split
  · rename_i acc f h; exact .inl ⟨acc, f, h, rfl⟩
  · rename_i h; exact .inr ⟨h, rfl⟩

/-! System registers, one by one, without the table of numbers. -/

theorem sysRead_trapVec (s : State) : s.sysRead 0x008 = s.cx.a.c.trapVec := rfl
theorem sysRead_trapPc (s : State) : s.sysRead 0x009 = s.cx.a.c.trapPc := rfl
theorem sysRead_trapCause (s : State) : s.sysRead 0x00A = s.cx.a.c.trapCause := rfl
theorem sysRead_trapInfo (s : State) : s.sysRead 0x00B = s.cx.a.c.trapInfo := rfl
theorem sysRead_replayVec (s : State) : s.sysRead 0x00C = s.cx.a.c.replayVec := rfl
theorem sysRead_ckptPc (s : State) : s.sysRead 0x00E = s.cx.a.c.ckptPc := rfl
theorem sysRead_smemErr (s : State) : s.sysRead 0x018 = s.cx.a.c.smemErr := rfl
theorem sysRead_bcount (s : State) : s.sysRead 0x020 = s.cx.a.c.bcount := rfl
theorem sysRead_wallus (s : State) : s.sysRead 0x022 = s.wallus := rfl
theorem sysRead_vflags (s : State) : s.sysRead 0x080 = s.cx.a.v.vflags := rfl
theorem sysRead_xlateInfo (s : State) : s.sysRead 0x180 = s.cx.a.c.xlateInfo := rfl

end Sys2Proof.Machine
end

