-- ==== Sys2Proof/Laws/Frame.lean ====
section
/-! SUPPORT. What an operation on the context in focus leaves alone. -/

namespace Sys2Proof.Machine

open Sys2Proof

/-- Changing the context in focus changes nothing else. -/
theorem onlyFocus_setCx (s : State) (x : Ctx) : OnlyFocus s (s.setCx x) := by
  refine ⟨rfl, fun c hc => ?_, ?_, fun n hn => ?_⟩
  · exact core_setFcore_other s _ hc
  · unfold State.setCx
    rw [fcore_setFcore]
    rfl
  · unfold State.setCx
    rw [fcore_setFcore]
    exact ctx_setCtx_other _ _ hn

theorem onlyFocus_modCx (s : State) (f : Ctx → Ctx) : OnlyFocus s (s.modCx f) := onlyFocus_setCx s _

theorem onlyFocus_land (s : State) (e : Landing) : OnlyFocus s (s.land e) := onlyFocus_modCx s _

theorem onlyFocus_post (s : State) (p : Post) : OnlyFocus s (s.post p) := onlyFocus_modCx s _

theorem onlyFocus_modCtl (s : State) (f : CtlSt → CtlSt) : OnlyFocus s (s.modCtl f) := onlyFocus_modCx s _

theorem onlyFocus_modVec (s : State) (f : VecSt → VecSt) : OnlyFocus s (s.modVec f) := onlyFocus_modCx s _

theorem onlyFocus_modIss (s : State) (f : Issue → Issue) : OnlyFocus s (s.modIss f) := onlyFocus_modCx s _

/-- A step of focus-only operations is one. -/
theorem OnlyFocus_trans {s t u : State} (h : OnlyFocus s t) (g : OnlyFocus t u) : OnlyFocus s u := by
  obtain ⟨h1, h2, h3, h4⟩ := h
  obtain ⟨g1, g2, g3, g4⟩ := g
  have hf : t.focusCore = s.focusCore := by rw [← h1]
  have hx : t.focusCtx = s.focusCtx := by rw [← h1]
  refine ⟨?_, fun c hc => ?_, ?_, fun n hn => ?_⟩
  · rw [← h1, ← g1]
  · rw [g2 c (by rw [hf]; exact hc), h2 c hc]
  · rw [← h3, ← g3]
  · rw [g4 n (by rw [hx]; exact hn), h4 n hn]

/-- Changing the context in focus changes no byte of memory. -/
theorem sameMem_modCx (s : State) (f : Ctx → Ctx) : SameMem s (s.modCx f) := fun _ => rfl

/-- What is posted to follow the bundle, and what has landed later, are none of a context's registers. -/
theorem sameRegs_post (s : State) (p : Post) : SameRegs s.cx (s.post p).cx := by
  rw [cx_post]
  exact ⟨rfl, rfl, rfl, rfl, rfl, rfl, rfl, rfl, rfl, rfl, rfl, rfl, rfl, rfl, rfl, rfl, rfl, rfl⟩

theorem sameRegs_land (s : State) (e : Landing) : SameRegs s.cx (s.land e).cx := by
  rw [cx_land]
  exact ⟨rfl, rfl, rfl, rfl, rfl, rfl, rfl, rfl, rfl, rfl, rfl, rfl, rfl, rfl, rfl, rfl, rfl, rfl⟩

/-- A result that joins the landing buffer changes nothing else. -/
theorem onlyLands_land (s : State) (e : Landing) : OnlyLands s (s.land e) := by
  refine ⟨onlyFocus_land s e, sameRegs_land s e, fun _ => rfl, ?_, [e], ?_⟩ <;> rw [cx_land]

end Sys2Proof.Machine
end

