-- ==== Sys2Proof/Laws/Memory.lean ====
section
/-! SUPPORT. Every operation of the state keeps memory in canonical form: those that touch no memory, by an equation; the
others, by an implication; then the meanings by what they are built of. -/

namespace Sys2Proof.Machine

open Sys2Proof

/-- The canonical form, under a name that simp does not open. -/
def MemOk (m : Tbl Byte) : Prop := Memory.wf m

theorem memOk_iff (m : Tbl Byte) : MemOk m ↔ Memory.wf m := Iff.rfl

theorem foldl_mem {α : Type} (f : State → α → State) (h : ∀ s a, (f s a).mem = s.mem) (l : List α) (s : State) :
    (l.foldl f s).mem = s.mem := by
  induction l generalizing s with
  | nil => rfl
  | cons a r ih => rw [List.foldl_cons, ih, h]

theorem foldl_wf {α : Type} (f : State → α → State) (h : ∀ s a, MemOk s.mem → MemOk (f s a).mem) (l : List α)
    (s : State) (hs : MemOk s.mem) : MemOk (l.foldl f s).mem := by
  induction l generalizing s with
  | nil => exact hs
  | cons a r ih => exact ih _ (h _ _ hs)

@[simp] theorem wf_writeBytes {t : Tbl Byte} (h : MemOk t) (a : Nat) (bs : List Byte) : MemOk (writeBytes t a bs) :=
  twf_writeBytes h a bs
@[simp] theorem wf_tput {t : Tbl Byte} (h : MemOk t) (a : Nat) (b : Byte) : MemOk (tput 0 t a b) := twf_tput h a b
@[simp] theorem wf_filter {t : Tbl Byte} (h : MemOk t) (f : Nat × Byte → Bool) : MemOk (t.filter f) := twf_filter h f

theorem foldl_pair_wf {α β : Type} (f : β × State → α → β × State) (h : ∀ r a, MemOk r.2.mem → MemOk (f r a).2.mem) (l : List α)
    (b : β) {s : State} (hs : MemOk s.mem) : MemOk (l.foldl f (b, s)).2.mem := by
  suffices ∀ r : β × State, MemOk r.2.mem → MemOk (l.foldl f r).2.mem from this _ hs
  induction l with
  | nil => intro r hr; exact hr
  | cons a l ih => intro r hr; exact ih _ (h _ _ hr)

/-! Ops.lean. -/

@[simp] theorem addFlight_mem (s : State) (f : Flight) : (s.addFlight f).2.mem = s.mem := by
  simp [State.addFlight]

@[simp] theorem addPacket_mem (s : State) (p : Packet) : (s.addPacket p).mem = s.mem := by
  rfl

@[simp] theorem placeInterest_mem (s : State) (router : Nat) (name : W64) (flight expiry : Nat) :
    (s.placeInterest router name flight expiry).mem = s.mem := by
  rfl

@[simp] theorem writeMem_wf (s : State) (a : Nat) (bs : List Byte) (h : MemOk s.mem) : MemOk (s.writeMem a bs).mem := by
  simp [State.writeMem, h]

@[simp] theorem setPeer_mem (s : State) (tdev : Nat) (p : Peer) : (s.setPeer tdev p).mem = s.mem := by
  rfl

@[simp] theorem writeDev_wf (s : State) (tdev a : Nat) (bs : List Byte) (h : MemOk s.mem) :
    MemOk (s.writeDev tdev a bs).mem := by
  unfold State.writeDev
  dsimp only
  (repeat' split) <;> simp [h]

@[simp] theorem setCtr_mem (s : State) (c : Nat) (v : W32) : (s.setCtr c v).mem = s.mem := by
  rfl

@[simp] theorem setDevCtr_mem (s : State) (tdev c : Nat) (v : W32) : (s.setDevCtr tdev c v).mem = s.mem := by
  unfold State.setDevCtr
  (repeat' split) <;> simp

theorem writeDpa_wf {s t : State} {a : Nat} {bs : List Byte} (h : MemOk s.mem) (e : s.writeDpa a bs = .ok t) : MemOk t.mem := by
  unfold State.writeDpa at e
  dsimp only at e
  (repeat' split at e) <;> (try cases e) <;> simp [h]

/-! What agents see changes no memory. -/

@[simp] theorem reachLags_mem (s : State) (w : Lag → Bool) (p : Lag → Unseen → Bool) : (s.reachLags w p).mem = s.mem := by
  unfold State.reachLags
  (repeat' split) <;> rfl

@[simp] theorem noteBytes_mem (s : State) (ags : List Agent) (dev : Nat) (ws : List (Nat × Byte)) : (s.noteBytes ags dev ws).mem = s.mem := by
  unfold State.noteBytes
  split
  · rfl
  · dsimp only
    exact reachLags_mem _ _ _

@[simp] theorem noteAt_mem (s : State) (ags : List Agent) (a : Nat) (bs : List Byte) : (s.noteAt ags a bs).mem = s.mem := by
  unfold State.noteAt
  (repeat' split) <;> simp

@[simp] theorem share_mem (s : State) (ags : List Agent) (p : Lag → Unseen → Bool) : (s.share ags p).mem = s.mem := by
  unfold State.share
  split <;> rfl

@[simp] theorem markDone_mem (s : State) (ag : Agent) (o : SyncObj) : (s.markDone ag o).mem = s.mem := by
  unfold State.markDone
  split <;> rfl

@[simp] theorem observe_mem (s : State) (ag : Agent) (o : SyncObj) : (s.observe ag o).mem = s.mem := by
  simp [State.observe]

@[simp] theorem release_mem (s : State) (ag : Agent) (o : SyncObj) (scope : Nat) (c : Nat → Nat → Bool) :
    (s.release ag o scope c).mem = s.mem := by
  unfold State.release
  (repeat' split) <;> rfl

@[simp] theorem acquire_mem (s : State) (ag : Agent) (scope : Nat) (o : SyncObj → Bool) : (s.acquire ag scope o).mem = s.mem := by
  unfold State.acquire
  dsimp only
  (repeat' split) <;> simp

@[simp] theorem passOn_mem (s : State) (ag : Agent) (scope : Option Nat) (o : SyncObj → Bool) (out : List SyncObj) :
    (s.passOn ag scope o out).mem = s.mem := by
  unfold State.passOn
  (repeat' split) <;> rfl

@[simp] theorem performStores_mem (s : State) (ag : Agent) (scope : Nat) : (s.performStores ag scope).mem = s.mem := by
  simp [State.performStores]

@[simp] theorem beginOver_mem (s : State) (o : Origin) (g : EngArgs) (ag : Agent) (c d : Nat → Nat → Bool) :
    (s.beginOver o g ag c d).mem = s.mem := by
  unfold State.beginOver
  dsimp only
  (repeat' split) <;> simp

@[simp] theorem publish_wf (s : State) (a : Nat) (bs : List Byte) (h : MemOk s.mem) : MemOk (s.publish a bs).mem := by
  unfold State.publish
  exact writeMem_wf _ _ _ h

@[simp] theorem storeMem_wf (s : State) (ags : List Agent) (a : Nat) (bs : List Byte) (h : MemOk s.mem) :
    MemOk (s.storeMem ags a bs).mem := by
  unfold State.storeMem
  exact writeMem_wf _ _ _ (by simp [h])

@[simp] theorem storeDev_wf (s : State) (ags : List Agent) (dev a : Nat) (bs : List Byte) (h : MemOk s.mem) :
    MemOk (s.storeDev ags dev a bs).mem := by
  unfold State.storeDev
  exact writeDev_wf _ _ _ _ (by simp [h])

theorem writeAs_wf {s t : State} {ags : List Agent} {a : Nat} {bs : List Byte} (h : MemOk s.mem) (e : s.writeAs ags a bs = .ok t) :
    MemOk t.mem := by
  unfold State.writeAs at e
  split at e
  · cases e
  · exact writeDpa_wf (by simp [h]) e

@[simp] theorem tlbFill_mem (s : State) (c : Nat) (asid : BitVec 16) (va : W64) : (s.tlbFill c asid va).mem = s.mem := by
  unfold State.tlbFill
  (repeat' split) <;> simp

theorem writePieces_wf {ags : List Agent} {ps : List (Nat × Nat)} : ∀ {s t : State} {bs : List Byte}, MemOk s.mem →
    s.writePieces ags ps bs = .ok t → MemOk t.mem := by
  induction ps with
  | nil => intro s t bs h e; cases e; exact h
  | cons p r ih =>
    intro s t bs h e
    unfold State.writePieces at e
    split at e
    · cases e
    · rename_i u hu
      exact ih (writeAs_wf h hu) e

@[simp] theorem signal_mem (s : State) (c lid sem inc : Nat) : (s.signal c lid sem inc).mem = s.mem := by
  unfold State.signal
  dsimp only
  (repeat' split) <;> simp

@[simp] theorem completes_mem (s : State) (ag : Agent) (g : Signal) (rel done : SyncObj) :
    (s.completes ag g rel done).mem = s.mem := by
  unfold State.completes
  split <;> simp

@[simp] theorem applySignal_mem (s : State) (o : Origin) (g : Signal) : (s.applySignal o g).mem = s.mem := by
  simp [State.applySignal]

@[simp] theorem fillRaw_mem (s : State) (c lid code id : Nat) (v : W64) : (s.fillRaw c lid code id v).mem = s.mem := by
  unfold State.fillRaw
  dsimp only
  (repeat' split) <;> simp

@[simp] theorem fillStatus_mem (s : State) (o : Origin) (code id op status detail : Nat) :
    (s.fillStatus o code id op status detail).mem = s.mem := by
  simp [State.fillStatus]

@[simp] theorem smemErr_mem (s : State) (o : Origin) (cause : Nat) (va : W64) : (s.smemErr o cause va).mem = s.mem := by
  unfold State.smemErr
  dsimp only
  (repeat' split) <;> simp

@[simp] theorem stopLaunch_mem (s : State) (lid code : Nat) : (s.stopLaunch lid code).mem = s.mem := by
  unfold State.stopLaunch
  (repeat' split) <;> simp

@[simp] theorem enterTrap_mem (s : State) (cause : Cause) (info pc : W64) : (s.enterTrap cause info pc).mem = s.mem := by
  unfold State.enterTrap
  dsimp only
  (repeat' split) <;> simp

@[simp] theorem enterXlate_mem (s : State) (acc : Acc) (f : XFault) (info pc : W64) :
    (s.enterXlate acc f info pc).mem = s.mem := by
  simp [State.enterXlate]

@[simp] theorem leaveTrap_mem (s : State) : s.leaveTrap.mem = s.mem := by
  rfl

/-! Operands.lean. -/

@[simp] theorem landScal_mem (s : State) (r : BitVec 6) (lat : Nat) (v : W64) : (s.landScal r lat v).mem = s.mem := by
  unfold State.landScal
  (repeat' split) <;> simp

@[simp] theorem landLanes_mem (s : State) (dest : LandDest) (lat : Nat) (gm : BitVec 8) (k : Nat) (steps : Nat) (f : VecSt → Nat → Nat → W32 → LaneRes) :
    (s.landLanes dest lat gm k steps f).mem = s.mem := by
  rfl

/-! Issue.lean. -/

@[simp] theorem dropAcq_mem (s : State) : s.dropAcq.mem = s.mem := by
  unfold State.dropAcq
  (repeat' split) <;> first | rfl | simp

@[simp] theorem placeAcq_mem (s t : State) (l : List (Slot × Instr)) : (s.placeAcq t l).mem = s.mem := by
  unfold State.placeAcq
  dsimp only
  (repeat' split) <;> first | rfl | simp

@[simp] theorem dueCommit_mem (s : State) (pc : W64) : (s.dueCommit pc).mem = s.mem := by
  rfl

@[simp] theorem takeTrap_mem (s : State) (t : TrapAt) : (s.takeTrap t).mem = s.mem := by
  unfold State.takeTrap
  (repeat' split) <;> simp

@[simp] theorem markBlocked_mem (s : State) : s.markBlocked.mem = s.mem := by
  rfl

/-! Move.lean. -/

@[simp] theorem landRows_mem (s : State) (dest : LandDest) (lat : Nat) (gs : List Nat) (act : BitVec 16) (row : Nat → BitVec 512) (fl : Nat → BitVec 8) :
    (s.landRows dest lat gs act row fl).mem = s.mem := by
  rfl

@[simp] theorem popHead_mem (s : State) (code : Nat) : (s.popHead code).mem = s.mem := by
  rfl

/-! Home.lean. -/

theorem applyWord_wf {s t : State} {ags : List Agent} {dpa width aop v c old : Nat} (h : MemOk s.mem)
    (e : s.applyWord ags dpa width aop v c = .ok (old, t)) : MemOk t.mem := by
  unfold State.applyWord at e
  dsimp only at e
  (repeat' split at e) <;> (try cases e) <;> simp [h]

/-- Whether or not an answer is lost, the state is what the access left. -/
theorem heard_wf {s : State} {ags : List Agent} (lost : Bool) (dpa width aop v c : Nat) (h : MemOk s.mem) :
    MemOk (heard lost s (s.applyWord ags dpa width aop v c)).2.mem := by
  generalize he : s.applyWord ags dpa width aop v c = r
  cases r with
  | ok p => exact applyWord_wf h he
  | error e => exact h

theorem applyLanes_wf {lost : Nat → Bool} {ags : List Agent} {aop : Nat} {l : List (W64 × Nat × W32 × Nat × Nat)} :
    ∀ {s : State} {t : Tbl Nat} {bad : Option (W64 × Nat)}, MemOk s.mem → MemOk (s.applyLanes lost ags aop l t bad).2.2.mem := by
  induction l with
  | nil => intro s t bad h; exact h
  | cons p r ih =>
    intro s t bad h
    obtain ⟨va, dpa, v, entry, half⟩ := p
    have hh := heard_wf (ags := ags) (lost dpa) dpa 4 aop v.toNat 0 h
    unfold State.applyLanes
    split
    · rename_i e; rw [e] at hh; exact ih hh
    · rename_i e; rw [e] at hh; exact ih hh

@[simp] theorem vredLane_mem (s : State) (id place : Nat) (va : W64) (err : Option Nat) : (s.vredLane id place va err).mem = s.mem := by
  unfold State.vredLane
  dsimp only
  (repeat' split) <;> simp

theorem performLost_wf (s : State) (lost : Nat → Bool) (id : Nat) (h : MemOk s.mem) : MemOk (s.performLost lost id).mem := by
  unfold State.performLost
  have h0 : MemOk (s.dropFlight id).mem := h
  split
  · rename_i org va dpa width aop v c qid sig hf
    dsimp only
    rw [applySignal_mem, completes_mem]
    have hh := heard_wf (ags := [org.ctxAgent, org.agent]) (lost dpa) dpa width aop v.toNat c.toNat h0
    split
    · rename_i e; rw [e] at hh; simpa using hh
    · rename_i e; rw [e] at hh; simpa using hh
  · rename_i org aop lanes qids _
    have h1 := applyLanes_wf (lost := lost) (ags := [org.ctxAgent]) (aop := aop) (l := lanes) (t := []) (bad := none) h0
    dsimp only
    split <;> simp [foldl_mem, h1]
  · rename_i dpa width aop v who held hf
    dsimp only
    rw [foldl_mem]
    · have hh := heard_wf (ags := who.flatMap RedWho.agents) (lost dpa) dpa width aop v.toNat 0 h0
      split
      · rename_i e; rw [e] at hh; exact hh
      · rename_i e; rw [e] at hh; exact hh
    · intro s a; (repeat' split) <;> simp
  · exact h

@[simp] theorem performFlight_wf (s : State) (id : Nat) (h : MemOk s.mem) : MemOk (s.performFlight id).mem := performLost_wf s _ id h

@[simp] theorem readLoads_mem (s : State) (p : Nat → RSlot → GroupLand → Bool) : (s.readLoads p).mem = s.mem := rfl

@[simp] theorem performLoads_mem (s : State) : s.performLoads.mem = s.mem := by
  unfold State.performLoads
  (repeat' split) <;> simp

@[simp] theorem performLoadsAt_mem (s : State) (l : List (Nat × Nat)) : (s.performLoadsAt l).mem = s.mem := by
  unfold State.performLoadsAt
  (repeat' split) <;> simp

@[simp] theorem drain_wf (s : State) (p : Nat → Flight → Bool) (h : MemOk s.mem) : MemOk (s.drain p).mem :=
  foldl_wf _ (fun _ _ h => performFlight_wf _ _ h) _ _ h

@[simp] theorem drainAt_wf (s : State) (o : Origin) (pieces : List (Nat × Nat)) (h : MemOk s.mem) :
    MemOk (s.drainAt o pieces).mem := by
  unfold State.drainAt
  dsimp only
  (repeat' split) <;> simp [h]

@[simp] theorem drainScope_wf (s : State) (scope : Nat) (h : MemOk s.mem) : MemOk (s.drainScope scope).mem := by
  unfold State.drainScope
  dsimp only
  (repeat' split) <;> simp [h]

@[simp] theorem drainCmd_wf (s : State) (o : Origin) (h : MemOk s.mem) : MemOk (s.drainCmd o).mem := by
  unfold State.drainCmd
  dsimp only
  (repeat' split) <;> simp [h]

@[simp] theorem performOrdered_wf (s : State) (id : Nat) (h : MemOk s.mem) : MemOk (s.performOrdered id).mem := by
  simp [State.performOrdered, h]

@[simp] theorem sendRed_mem (s : State) (dpa width aop : Nat) (v : W64) (who : List RedWho) :
    (s.sendRed dpa width aop v who).mem = s.mem := by
  rfl

@[simp] theorem consumeWait_mem (s : State) (o : EngArgs) : (s.consumeWait o).mem = s.mem := by
  unfold State.consumeWait
  dsimp only
  (repeat' split) <;> simp

@[simp] theorem reserve_mem (s : State) (code n : Nat) : (s.reserve code n).2.mem = s.mem := by
  simp [State.reserve]

/-! ScalarMem.lean. -/

@[simp] theorem hold_mem (s : State) (h : HeldEff) (cost : Nat) : (s.hold h cost).mem = s.mem := by
  rfl

@[simp] theorem recordUse_mem (s : State) (i : Instr) : (s.recordUse i).mem = s.mem := by
  unfold State.recordUse
  (repeat' split) <;> simp

@[simp] theorem journal_wf (s : State) (i : Instr) (h : MemOk s.mem) : MemOk (s.journal i).mem := by
  unfold State.journal
  (repeat' split) <;> first | simp [h]; done | (rw [foldl_mem] <;> (repeat' (first | intro _ | split)) <;> simp [h])

@[simp] theorem markSent_mem (s : State) : s.markSent.mem = s.mem := by
  unfold State.markSent
  (repeat' split) <;> simp

@[simp] theorem loadVirt_wf (s : State) (va : W64) (n : Nat) (h : MemOk s.mem) : MemOk (s.loadVirt va n).1.mem := by
  unfold State.loadVirt
  split <;> simp [h]

@[simp] theorem storeVirt_wf (s : State) (va : W64) (bs : List Byte) (h : MemOk s.mem) : MemOk (s.storeVirt va bs).mem := by
  unfold State.storeVirt
  split
  · exact h
  · dsimp only
    split
    · simp [h]
    · split
      · rename_i e; exact writePieces_wf (by simp [h]) e
      · simp [h]

@[simp] theorem dueMchk_mem (s : State) (info : W64) : (s.dueMchk info).mem = s.mem := by
  rfl

@[simp] theorem logUe_mem (s : State) (core ofs : Nat) (src : BitVec 8) : (s.logUe core ofs src).mem = s.mem := by
  rfl

@[simp] theorem lsError_mem (s : State) (ofs : Nat) : (s.lsError ofs).mem = s.mem := by
  unfold State.lsError
  dsimp only
  (repeat' split) <;> simp

@[simp] theorem landHandle_mem (s : State) (i : Instr) (h : BitVec 5) : (s.landHandle i h).mem = s.mem := by
  unfold State.landHandle
  (repeat' split) <;> simp

/-! VecMem.lean. -/

@[simp] theorem lsLoad_mem (s : State) (i : Instr) (o : MemArgs) : (s.lsLoad i o).mem = s.mem := by
  unfold State.lsLoad
  dsimp only
  (repeat' split) <;> simp

@[simp] theorem lsStore_wf (s : State) (i : Instr) (o : MemArgs) (h : MemOk s.mem) : MemOk (s.lsStore i o).mem := by
  unfold State.lsStore
  (repeat' split) <;> first | simp [h]; done | (rw [foldl_mem] <;> (repeat' (first | intro _ | split)) <;> simp [h])

theorem foldl_tlbFill_mem (l : List W64) (s : State) :
    (l.foldl (fun s a => s.tlbFill s.focusCore s.cx.launch.asid a) s).mem = s.mem :=
  foldl_mem _ (fun s a => tlbFill_mem s s.focusCore s.cx.launch.asid a) l s

theorem foldl_enqueue_mem {α : Type} (f : State → α → Event) (l : List α) (s : State) :
    (l.foldl (fun s a => s.enqueue (f s a)) s).mem = s.mem :=
  foldl_mem (fun s a => s.enqueue (f s a)) (fun _ _ => rfl) l s

@[simp] theorem issueLoad_wf (s : State) (n : Nat) (r : RSlot) (gs : BitVec 8) (lat : Nat) (h : MemOk s.mem) :
    MemOk (s.issueLoad n r gs lat).mem := by
  unfold State.issueLoad
  simp only [foldl_enqueue_mem (fun s g => Event.loadDataArrival s.focusCore s.focusCtx n g), land_mem, modVec_mem, foldl_tlbFill_mem]
  exact drainAt_wf _ _ _ h

@[simp] theorem newLoad_wf (s : State) (remote : Bool) (o : MemArgs) (h : MemOk s.mem) : MemOk (s.newLoad remote o).mem := by
  unfold State.newLoad
  dsimp only
  (repeat' split) <;> simp [h]

@[simp] theorem holdSend_mem (s : State) (i : Instr) (qid : Option Nat) : (s.holdSend i qid).mem = s.mem := by
  rfl

@[simp] theorem vredEffect_mem (s : State) (o : MemArgs) : (s.vredEffect o).mem = s.mem := by
  unfold State.vredEffect
  dsimp only
  split
  · simp
  · rw [foldl_mem _ (fun _ _ => by simp)]; simp

/-! Control.lean. -/

@[simp] theorem jump_mem (s : State) (target : W64) (leaves : Bool) (cost : Nat) :
    (s.jump target leaves cost).mem = s.mem := by
  rfl

@[simp] theorem startLoop_mem (s : State) (lvl : BitVec 2) (eo : BitVec 14) (n : Nat) :
    (s.startLoop lvl eo n).mem = s.mem := by
  unfold State.startLoop
  (repeat' split) <;> simp

@[simp] theorem semSub_mem (s : State) (sem : BitVec 8) (n : BitVec 16) : (s.semSub sem n).mem = s.mem := by
  rfl

@[simp] theorem endAcq_mem (s : State) (id : Nat) (o : Origin) (st : Nat) : (s.endAcq id o st).mem = s.mem := by
  unfold State.endAcq
  dsimp only
  (repeat' split) <;> simp

@[simp] theorem wakeLatch_mem (s : State) (dpa : Nat) : (s.wakeLatch dpa).mem = s.mem := by
  unfold State.wakeLatch
  refine foldl_mem _ (fun s p => ?_) _ _
  (repeat' split) <;> simp

@[simp] theorem doRel_wf (s : State) (o : Origin) (addr : W64) (dpa : Nat) (inc : W64) (scope : Nat) (h : MemOk s.mem) :
    MemOk (s.doRel o addr dpa inc scope).mem := by
  unfold State.doRel
  (repeat' split) <;> simp [h]

@[simp] theorem settleRels_wf (s : State) (o : Origin) (h : MemOk s.mem) : MemOk (s.settleRels o).mem := by
  unfold State.settleRels
  refine foldl_wf _ (fun t p ht => ?_) _ _ h
  split
  · split
    · exact doRel_wf _ _ _ _ _ _ ht
    · exact ht
  · exact ht

@[simp] theorem relEffect_wf (s : State) (addr inc : W64) (scope : Nat) (h : MemOk s.mem) : MemOk (s.relEffect addr inc scope).mem := by
  unfold State.relEffect
  dsimp only
  (repeat' split) <;> simp [h]

/-! Bundle.lean. -/

@[simp] theorem openBundle_mem (s : State) (a : W64) (len : Nat) : (s.openBundle a len).mem = s.mem := by
  rfl

@[simp] theorem applyPost_mem (s : State) (p : Post) : (s.applyPost p).mem = s.mem := by
  cases p <;> first | rfl | exact dueCommit_mem _ _

@[simp] theorem goTo_mem (s : State) (pc : W64) (l : LoopSt) : (s.goTo pc l).mem = s.mem := by
  rfl

@[simp] theorem goTested_mem (s : State) (at' next : W64) (l : LoopSt) : (s.goTested at' next l).mem = s.mem := by
  rfl

@[simp] theorem countHalt_mem (s : State) (lid : Nat) : (s.countHalt lid).mem = s.mem := by
  rfl

@[simp] theorem haltTask_mem (s : State) : s.haltTask.mem = s.mem := by
  rfl

@[simp] theorem control_mem (s : State) : s.control.mem = s.mem := by
  unfold State.control
  dsimp only
  (repeat' split) <;> simp

@[simp] theorem passTime_mem (s : State) (n aclk : Nat) : (s.passTime n aclk).mem = s.mem := by
  rfl

@[simp] theorem finish_mem (s : State) : s.finish.mem = s.mem := by
  unfold State.finish
  simp [foldl_mem State.applyPost applyPost_mem]

@[simp] theorem finishRun_mem (s : State) (n : Nat) : (s.finishRun n).mem = s.mem := by
  unfold State.finishRun
  dsimp only
  (repeat' split) <;> simp

@[simp] theorem at'_mem (s : State) (c n : Nat) : (s.at' c n).mem = s.mem := by
  rfl

@[simp] theorem endStopped_mem (s : State) : s.endStopped.mem = s.mem := by
  unfold State.endStopped
  (repeat' split) <;> simp

theorem test_wf {s t : State} {l : List (Slot × Instr)} (h : MemOk s.mem) (e : s.test l = .stop t) : MemOk t.mem := by
  unfold State.test at e
  dsimp only at e
  (repeat' split at e) <;> cases e <;> simp [h]

@[simp] theorem askWalk_mem (s : State) (va : W64) : (s.askWalk va).mem = s.mem := by
  unfold State.askWalk
  dsimp only
  split <;> rfl

@[simp] theorem holdWalks_mem (s : State) (vas : List W64) : (s.holdWalks vas).mem = s.mem := by
  unfold State.holdWalks
  rw [markBlocked_mem]
  exact foldl_mem State.askWalk askWalk_mem _ _

theorem prepareSlots_stop_wf {s t : State} {a : W64} {len : Nat} {l : List (Slot × Instr)} (h : MemOk s.mem)
    (e : s.prepareSlots a len l = .stop t) : MemOk t.mem := by
  unfold State.prepareSlots at e
  dsimp only at e
  split at e
  · exact test_wf (by simpa using h) e
  · cases e; simpa using h

theorem prepare_stop_wf {s t : State} (h : MemOk s.mem) (e : s.prepare = .stop t) : MemOk t.mem := by
  have h1 : MemOk (s.modCx Ctx.replayInputs).mem := h
  unfold State.prepare at e
  generalize s.modCx Ctx.replayInputs = u at e h1
  cases hp : u.cx.a.p.first with
  | some p => simp only [hp, Prep.stop.injEq] at e; subst e; simp [h1]
  | none =>
    simp only [hp] at e
    generalize u.fetch padLimit u.cx.a.c.pc = f at e
    split at e
    · simp only [Prep.stop.injEq] at e; subst e; simpa using h1
    · split at e
      · simp only [Prep.stop.injEq] at e; subst e; simp [h1]
      · simp only [Prep.stop.injEq] at e; subst e; simp [h1]
      · simp only [Prep.stop.injEq] at e; subst e; exact h1
      · split at e <;> simp only [Prep.stop.injEq, reduceCtorEq] at e
        subst e; simp [h1]
      · split at e <;> simp only [Prep.stop.injEq, reduceCtorEq] at e
        rename_i ht
        subst e; exact prepareSlots_stop_wf h1 ht

@[simp] theorem pollOne_wf (s : State) (h : MemOk s.mem) : MemOk s.pollOne.mem := by
  have h1 : MemOk s.endStopped.mem := by simp [h]
  unfold State.pollOne
  dsimp only
  split
  · exact h1
  · split
    · exact h1
    · split
      · exact h1
      · split
        · rename_i e; exact prepare_stop_wf h1 e
        · exact h1

@[simp] theorem poll_wf (s : State) (c : Nat) (h : MemOk s.mem) : MemOk (s.poll c).mem := by
  unfold State.poll
  (repeat' split) <;> first | simp [h]; done | (refine foldl_wf _ (fun _ _ hh => ?_) _ _ ?_ <;> (repeat' split) <;> simp [*])

@[simp] theorem takeover_mem (s : State) (c : Nat) : (s.takeover c).mem = s.mem := by
  unfold State.takeover
  (repeat' split) <;> simp

@[simp] theorem resume_mem (s : State) (c : Nat) : (s.resume c).mem = s.mem := by
  unfold State.resume
  (repeat' split) <;> simp

@[simp] theorem switchTo_mem (s : State) (c n : Nat) : (s.switchTo c n).mem = s.mem := by
  rfl

@[simp] theorem fairness_mem (s : State) (c : Nat) : (s.fairness c).mem = s.mem := by
  unfold State.fairness
  (repeat' split) <;> simp

@[simp] theorem choose_mem (s : State) (c : Nat) : (s.choose c).2.mem = s.mem := by
  unfold State.choose
  dsimp only
  (repeat' split) <;> simp

@[simp] theorem yielded_mem (s : State) (c n : Nat) : (s.yielded c n).mem = s.mem := by
  unfold State.yielded
  (repeat' split) <;> simp

@[simp] theorem finishBundle_wf (s : State) (h : MemOk s.mem) : MemOk s.finishBundle.mem := by
  unfold State.finishBundle
  dsimp only
  (repeat' split) <;> simp [h]

/-! Panel.lean. -/

@[simp] theorem lineNaks_mem (s : State) (o : Origin) (va : W64) (naks : List (Nat × Nat)) :
    (s.lineNaks o va naks).mem = s.mem := by
  unfold State.lineNaks
  (repeat' split) <;> simp

@[simp] theorem modCopy_mem (s : State) (c n : Nat) (f : CopyEnt → CopyEnt) : (s.modCopy c n f).mem = s.mem := by
  unfold State.modCopy
  dsimp only
  (repeat' split) <;> simp

@[simp] theorem setRedLine_mem (s : State) (l : RedLine) : (s.setRedLine l).mem = s.mem := by
  rfl

@[simp] theorem ackLine_mem (s : State) (g off : Nat) (w : LineWriter) (neg : List (Nat × Nat)) (sig : W64) (dead : Option Nat) :
    (s.ackLine g off w neg sig dead).mem = s.mem := by
  unfold State.ackLine
  dsimp only
  (repeat' split) <;> simp

@[simp] theorem settleLine_wf (g : Nat) (e : Group) (off n : Nat) : ∀ s : State, MemOk s.mem → MemOk (s.settleLine g e off n).mem := by
  induction n with
  | zero => intro s h; exact h
  | succ n ih =>
    intro s h
    unfold State.settleLine
    dsimp only
    split
    · exact h
    · split
      · apply ih; simp [h]
      · split
        · apply ih
          rw [ackLine_mem]
          refine foldl_pair_wf _ ?_ _ _ h
          intro r d hr
          (repeat' split) <;> simp [hr]
        · exact h

@[simp] theorem contribute_wf (s : State) (g : Nat) (e : Group) (off member : Nat) (row : BitVec 512) (w : LineWriter)
    (h : MemOk s.mem) : MemOk (s.contribute g e off member row w).mem := by
  unfold State.contribute
  exact settleLine_wf _ _ _ _ _ h

theorem multicastTo_wf (s : State) (ags : List Agent) (g : Nat) (e : Group) (off : Nat) (bs : List Byte) (writer : Nat)
    (h : MemOk s.mem) : MemOk (s.multicastTo ags g e off bs writer).2.mem := by
  unfold State.multicastTo
  refine foldl_pair_wf _ ?_ _ _ h
  intro r d hr
  dsimp only
  (repeat' split) <;> simp [hr]

theorem writeLine_wf (s : State) (ags : List Agent) (a : Nat) (bs : List Byte) (h : MemOk s.mem) : MemOk (s.writeLine ags a bs).2.mem := by
  unfold State.writeLine
  split
  · exact h
  · split
    · exact multicastTo_wf _ _ _ _ _ _ _ h
    · exact h

@[simp] theorem ownLine_wf (s : State) (g off : Nat) (bs : List Byte) (w : LineWriter) (h : MemOk s.mem) :
    MemOk (s.ownLine g off bs w).mem := by
  simp [State.ownLine, h]

@[simp] theorem settleAll_wf (s : State) (h : MemOk s.mem) : MemOk s.settleAll.mem :=
  foldl_wf _ (fun _ _ h => settleLine_wf _ _ _ _ _ h) _ _ h

@[simp] theorem bumpCtr_mem (s : State) (tdev c : Nat) (n : W32) : (s.bumpCtr tdev c n).mem = s.mem := by
  unfold State.bumpCtr
  (repeat' split) <;> simp

@[simp] theorem setLink_mem (s : State) (n : Nat) (l : LinkState) : (s.setLink n l).mem = s.mem := by
  rfl

/-! Window.lean. -/

@[simp] theorem beginCmd_mem (s : State) (i : Instr) (o : EngArgs) : (s.beginCmd i o).mem = s.mem := by
  simp [State.beginCmd]

@[simp] theorem complete_mem (s : State) (org : Origin) (code qid op status detail : Nat) (sig : Option Signal) :
    (s.complete org code qid op status detail sig).mem = s.mem := by
  unfold State.complete
  (repeat' split) <;> simp

/-! Copy.lean. -/

@[simp] theorem endWait_mem (s : State) (id : Nat) (org : Origin) (dpa op gen qid : Nat) (sig : Signal) :
    (s.endWait id org dpa op gen qid sig).mem = s.mem := by
  simp [State.endWait]

@[simp] theorem testPhase_mem (s : State) (dpa : Nat) (b : Barrier) : (s.testPhase dpa b).mem = s.mem := by
  unfold State.testPhase
  refine foldl_mem _ (fun s p => ?_) _ _
  (repeat' split) <;> simp

@[simp] theorem testWaits_mem (s : State) (dpa : Nat) (b : Barrier) : (s.testWaits dpa b).mem = s.mem := by
  unfold State.testWaits
  exact foldl_mem _ (fun _ _ => testPhase_mem _ _ _) _ _

@[simp] theorem putBarrier_wf (s : State) (dpa : Nat) (b : Barrier) (h : MemOk s.mem) : MemOk (s.putBarrier dpa b).mem := by
  simp [State.putBarrier, h]

@[simp] theorem addCopy_mem (s : State) (c : CopyEnt) : (s.addCopy c).mem = s.mem := by
  rfl

@[simp] theorem sendCopy_wf (s : State) (op : Nat) (o : EngArgs) (qid : Nat) (h : MemOk s.mem) :
    MemOk (s.sendCopy op o qid).mem := by
  unfold State.sendCopy
  dsimp only
  (repeat' split) <;> simp [h]

theorem writeRaw_wf {l : List (Nat × List Byte)} : ∀ {s t : State}, MemOk s.mem → s.writeRaw l = .ok t → MemOk t.mem := by
  induction l with
  | nil => intro s t h e; cases e; exact h
  | cons p r ih =>
    intro s t h e
    obtain ⟨a, bs⟩ := p
    unfold State.writeRaw at e
    split at e
    · cases e
    · rename_i he; exact ih (writeDpa_wf h he) e

theorem writeTogether_wf {s t : State} {ags : List Agent} {l : List (Nat × List Byte)} (h : MemOk s.mem)
    (e : s.writeTogether ags l = .ok t) : MemOk t.mem := by
  unfold State.writeTogether at e
  dsimp only at e
  split at e
  · cases e
  · refine writeRaw_wf ?_ e
    split <;> simp [h]

theorem writeSpans_wf {s t : State} {o : Origin} {base : W64} {l : List (Nat × List Byte)} (h : MemOk s.mem)
    (e : s.writeSpans o base l = .ok t) : MemOk t.mem := by
  unfold State.writeSpans at e
  split at e
  · cases e
  · split at e
    · cases e
    · rename_i he; cases e; exact writeTogether_wf h he

theorem writeOne_wf {s t : State} {o : Origin} {w : Win} {spans : List (Nat × List Byte)} {ack : Option (Nat × Nat)} (h : MemOk s.mem)
    (e : s.writeOne o w spans = .ok (t, ack)) : MemOk t.mem := by
  unfold State.writeOne at e
  dsimp only at e
  split at e
  · split at e <;> cases e
    exact h
  · split at e
    · cases e; exact h
    · split at e
      · split at e <;> cases e
        rename_i he; exact writeSpans_wf h he
      · split at e
        · cases e
        · split at e
          · cases e
          · rename_i he; cases e
            rw [lineNaks_mem]
            exact (congrArg (fun x => MemOk x.2.mem) he).mp (writeLine_wf _ _ _ _ h)
          · rename_i he; cases e
            exact (congrArg (fun x => MemOk x.2.mem) he).mp (writeLine_wf _ _ _ _ h)

theorem writeLines_wf (o : Origin) (w : Win) (cs : List (Tbl (Except Nat Byte))) : ∀ r : LinesOut,
    MemOk r.st.mem → MemOk (writeLines o w cs r).st.mem := by
  induction cs with
  | nil => intro r h; exact h
  | cons c cs ih =>
    intro r h
    unfold writeLines
    split
    · exact h
    · split
      · exact h
      · rename_i he; exact ih _ (writeOne_wf h he)

@[simp] theorem intoWin_wf (s : State) (o : Origin) (hd : W256) (cells : List (Except Nat Byte)) (h : MemOk s.mem) :
    MemOk (s.intoWin o hd cells).st.mem := writeLines_wf _ _ _ _ h

@[simp] theorem moveCopy_wf (s : State) (c n : Nat) (e : CopyEnt) (h : MemOk s.mem) : MemOk (s.moveCopy c n e).mem := by
  unfold State.moveCopy
  refine foldl_wf _ (fun _ _ h => ownLine_wf _ _ _ _ _ h) _ _ ?_
  rw [foldl_mem (fun s _ => s.enqueue (.barrierDelivered c n)) (fun _ _ => rfl), modCopy_mem]
  exact intoWin_wf _ _ _ _ h

@[simp] theorem freeCopy_mem (s : State) (c n : Nat) : (s.freeCopy c n).mem = s.mem := by
  unfold State.freeCopy
  dsimp only
  (repeat' split) <;> simp

@[simp] theorem remoteSignal_mem (s : State) (o : Origin) (e : CopyEnt) : (s.remoteSignal o e).mem = s.mem := by
  simp [State.remoteSignal]

@[simp] theorem loseCopy_wf (s : State) (c n k : Nat) (h : MemOk s.mem) : MemOk (s.loseCopy c n k).mem := by
  unfold State.loseCopy
  split
  · exact h
  · split
    · exact h
    · rw [modCopy_mem]; exact moveCopy_wf _ _ _ _ h

@[simp] theorem endCopy_mem (s : State) (c n : Nat) (e : CopyEnt) : (s.endCopy c n e).mem = s.mem := by
  unfold State.endCopy
  (repeat' split) <;> simp

@[simp] theorem sendRotq_wf (s : State) (o : EngArgs) (qid : Nat) (h : MemOk s.mem) : MemOk (s.sendRotq o qid).mem := by
  unfold State.sendRotq
  dsimp only
  (repeat' split) <;> simp [h]

@[simp] theorem endRotq_mem (s : State) (c n : Nat) (e : CopyEnt) (st detail : Nat) :
    (s.endRotq c n e st detail).mem = s.mem := by
  simp [State.endRotq]

@[simp] theorem endRot_wf (s : State) (r : Rot) (st : Nat) (h : MemOk s.mem) : MemOk (s.endRot r st).mem := by
  unfold State.endRot
  (repeat' split) <;> first | simp [h]; done | (rw [foldl_mem] <;> (repeat' (first | intro _ | split)) <;> simp [h])

@[simp] theorem rotate_wf (s : State) (r : Rot) (h : MemOk s.mem) : MemOk (s.rotate r).mem := by
  unfold State.rotate
  refine foldl_wf _ ?_ _ _ h
  intro t c ht
  split
  · rw [endRotq_mem]; exact intoWin_wf _ _ _ _ ht
  · exact ht

/-! Barrier.lean. -/

@[simp] theorem sendAtom_wf (s : State) (o : EngArgs) (qid : Nat) (h : MemOk s.mem) : MemOk (s.sendAtom o qid).mem := by
  unfold State.sendAtom
  dsimp only
  (repeat' split) <;> simp [h]

@[simp] theorem sendRedCmd_mem (s : State) (o : EngArgs) : (s.sendRedCmd o).mem = s.mem := by
  unfold State.sendRedCmd
  dsimp only
  (repeat' split) <;> simp

@[simp] theorem sendBinit_wf (s : State) (o : EngArgs) (qid : Nat) (h : MemOk s.mem) : MemOk (s.sendBinit o qid).mem := by
  unfold State.sendBinit
  dsimp only
  (repeat' split) <;> simp [h]

@[simp] theorem sendBarr_wf (s : State) (op : Nat) (o : EngArgs) (qid : Nat) (h : MemOk s.mem) :
    MemOk (s.sendBarr op o qid).mem := by
  unfold State.sendBarr
  dsimp only
  (repeat' split) <;> simp [h]

@[simp] theorem sendBwait_wf (s : State) (op : Nat) (o : EngArgs) (qid : Nat) (h : MemOk s.mem) :
    MemOk (s.sendBwait op o qid).mem := by
  unfold State.sendBwait
  dsimp only
  (repeat' split) <;> simp [h]

@[simp] theorem performBarrier_wf (s : State) (id : Nat) (h : MemOk s.mem) : MemOk (s.performBarrier id).mem := by
  have h0 : MemOk (s.dropFlight id).mem := h
  unfold State.performBarrier
  split
  · dsimp only; split <;> simp [h, putBarrier_wf _ _ _ h0]
  · dsimp only
    split
    · simp [h, putBarrier_wf _ _ _ h0]
    · split <;> simp [h, putBarrier_wf _ _ _ h0]
  · split
    · simp [h, putBarrier_wf _ _ _ h0]
    · dsimp only
      (repeat' split) <;> first | exact h | (simp [h, putBarrier_wf _ _ _ h0]; done)
  · exact h

@[simp] theorem performBarriers_wf (s : State) (id : Nat) (h : MemOk s.mem) : MemOk (s.performBarriers id).mem := by
  unfold State.performBarriers
  split
  · exact h
  · exact foldl_wf _ (fun _ _ h => performBarrier_wf _ _ h) _ _ h

@[simp] theorem sendFlushh_wf (s : State) (o : EngArgs) (h : MemOk s.mem) : MemOk (s.sendFlushh o).mem := by
  simp [State.sendFlushh, h]

/-! Names.lean. -/

@[simp] theorem setRouter_mem (s : State) (r : Nat) (x : Router) : (s.setRouter r x).mem = s.mem := by
  rfl

@[simp] theorem setDie_mem (s : State) (d : Nat) (x : DieNames) : (s.setDie d x).mem = s.mem := by
  rfl

@[simp] theorem trigEnds_mem (s : State) (u id st : Nat) : (s.trigEnds u id st).mem = s.mem := by
  unfold State.trigEnds
  dsimp only
  (repeat' split) <;> simp

@[simp] theorem endRequest_wf (s : State) (id : Nat) (res : Except Nat (List Byte)) (h : MemOk s.mem) :
    MemOk (s.endRequest id res).mem := by
  have h0 : MemOk (s.dropFlight id).mem := h
  unfold State.endRequest
  split
  · dsimp only
    split
    · simp [h]
    · split
      · simp [h]
      · rw [complete_mem]
        split
        · rw [passOn_mem]
          exact foldl_wf _ (fun _ _ h => ownLine_wf _ _ _ _ _ h) _ _ (intoWin_wf _ _ _ _ h0)
        · exact foldl_wf _ (fun _ _ h => ownLine_wf _ _ _ _ _ h) _ _ (intoWin_wf _ _ _ _ h0)
  · simp [h]
  · simp [h]
  · exact h

@[simp] theorem sendTile_mem (s : State) (r : Nat) (f : Face) (name : W64) (res : Except Nat (List Byte)) :
    (s.sendTile r f name res).mem = s.mem := by
  unfold State.sendTile
  (repeat' split) <;> simp

@[simp] theorem answer_wf (s : State) (r : Nat) (f : Face) (req : Option Nat) (name : W64) (res : Except Nat (List Byte)) (h : MemOk s.mem) :
    MemOk (s.answer r f req name res).mem := by
  unfold State.answer
  (repeat' split) <;> simp [h]

theorem foldl_sendTile_mem (r : Nat) (name : W64) (res : Except Nat (List Byte)) (l : List (Face × Nat)) (s : State) :
    (l.foldl (fun s f => s.sendTile r f.1 name res) s).mem = s.mem :=
  foldl_mem (fun s f => s.sendTile r f.1 name res) (fun _ _ => by simp) l s

@[simp] theorem serveAll_wf (s : State) (r : Nat) (name : W64) (res : Except Nat (List Byte)) (h : MemOk s.mem) :
    MemOk (s.serveAll r name res).mem := by
  unfold State.serveAll
  refine foldl_wf _ ?_ _ _ h
  intro t e ht
  refine foldl_wf _ (fun _ _ h => endRequest_wf _ _ _ h) _ _ ?_
  rw [foldl_sendTile_mem]; exact ht

@[simp] theorem forward_wf (s : State) (r : Nat) (name : W64) (expiry hops : Nat) (h : MemOk s.mem) :
    MemOk (s.forward r name expiry hops).mem := by
  unfold State.forward
  dsimp only
  (repeat' split) <;> simp [h]

@[simp] theorem joinPit_wf (s : State) (r : Nat) (name : W64) (f : Face) (req : Option Nat) (expiry hops : Nat) (turn : Bool)
    (h : MemOk s.mem) : MemOk (s.joinPit r name f req expiry hops turn).mem := by
  unfold State.joinPit
  dsimp only
  (repeat' split) <;> simp [h]

@[simp] theorem interestHome_wf (s : State) (r : Nat) (name : W64) (f : Face) (req : Option Nat) (expiry hops : Nat) (turn : Bool)
    (h : MemOk s.mem) : MemOk (s.interestHome r name f req expiry hops turn).mem := by
  unfold State.interestHome
  dsimp only
  (repeat' split) <;> simp [h]

@[simp] theorem interestAt_wf (s : State) (r : Nat) (name : W64) (f : Face) (req : Option Nat) (expiry hops : Nat) (turn : Bool)
    (h : MemOk s.mem) : MemOk (s.interestAt r name f req expiry hops turn).mem := by
  unfold State.interestAt
  (repeat' split) <;> simp [h]

@[simp] theorem annDone_wf (s : State) (id st detail : Nat) (h : MemOk s.mem) : MemOk (s.annDone id st detail).mem := by
  unfold State.annDone
  dsimp only
  (repeat' split) <;> simp [h]

@[simp] theorem enterRec_mem (s : State) (key : Nat) (name : W64) (pages : List (Nat × Nat)) (len : Nat) :
    (s.enterRec key name pages len).mem = s.mem := by
  rfl

@[simp] theorem releaseTile_mem (s : State) (flight : Nat) (name : W64) (pages : List (Nat × Nat)) :
    (s.releaseTile flight name pages).mem = s.mem := by
  unfold State.releaseTile
  dsimp only
  (repeat' split) <;> simp

theorem announceHome_wf (s : State) (r : Nat) (name : W64) (pages : List (Nat × Nat)) (len flight : Nat) (h : MemOk s.mem) :
    MemOk (s.announceHome r name pages len flight).2.2.mem := by
  unfold State.announceHome
  dsimp only
  (repeat' split) <;> simp [h]

@[simp] theorem announceAt_wf (s : State) (r : Nat) (name : W64) (pages : List (Nat × Nat)) (len flight hops : Nat)
    (h : MemOk s.mem) : MemOk (s.announceAt r name pages len flight hops).mem := by
  unfold State.announceAt
  dsimp only
  (repeat' split) <;> first | (simp [h]; done) | (simp [announceHome_wf, h]; done)

@[simp] theorem sealDone_mem (s : State) (id st : Nat) : (s.sealDone id st).mem = s.mem := by
  unfold State.sealDone
  dsimp only
  (repeat' split) <;> simp

theorem sealHome_wf (s : State) (r tensor iter : Nat) (h : MemOk s.mem) : MemOk (s.sealHome r tensor iter).2.mem := by
  unfold State.sealHome
  dsimp only
  split
  · exact h
  · refine foldl_wf _ (fun t q ht => ?_) _ _ (foldl_wf _ (fun _ _ h => serveAll_wf _ _ _ _ h) _ _ h)
    split <;> simp [ht]

@[simp] theorem sealAt_wf (s : State) (r home tensor iter flight hops : Nat) (h : MemOk s.mem) :
    MemOk (s.sealAt r home tensor iter flight hops).mem := by
  unfold State.sealAt
  dsimp only
  (repeat' split) <;> first | (simp [h]; done) | (simp [sealHome_wf, h]; done)

@[simp] theorem arrive_wf (s : State) (id : Nat) (h : MemOk s.mem) : MemOk (s.arrive id).mem := by
  unfold State.arrive
  (repeat' split) <;> simp [h]

@[simp] theorem arriveOrdered_wf (s : State) (id : Nat) (h : MemOk s.mem) : MemOk (s.arriveOrdered id).mem := by
  unfold State.arriveOrdered
  (repeat' split) <;> first | simp [h]; done | (refine foldl_wf _ (fun _ _ hh => ?_) _ _ ?_ <;> (repeat' split) <;> simp [*])

@[simp] theorem sendAsk_wf (s : State) (o : EngArgs) (qid : Nat) (h : MemOk s.mem) : MemOk (s.sendAsk o qid).mem := by
  unfold State.sendAsk
  dsimp only
  (repeat' split) <;> simp [h]

@[simp] theorem sendAnnounce_wf (s : State) (o : EngArgs) (qid : Nat) (h : MemOk s.mem) :
    MemOk (s.sendAnnounce o qid).mem := by
  unfold State.sendAnnounce
  dsimp only
  (repeat' split) <;> simp [h]

@[simp] theorem sendSeal_wf (s : State) (o : EngArgs) (qid : Nat) (h : MemOk s.mem) : MemOk (s.sendSeal o qid).mem := by
  unfold State.sendSeal
  dsimp only
  (repeat' split) <;> simp [h, foldl_mem]

/-! Serac.lean. -/

@[simp] theorem putWork_mem (s : State) (w : Work) : (s.putWork w).mem = s.mem := by
  rfl

@[simp] theorem completeSerac_mem (s : State) (o : Origin) (op qid status detail : Nat) (sig : Signal) :
    (s.completeSerac o op qid status detail sig).mem = s.mem := by
  unfold State.completeSerac
  (repeat' split) <;> simp

@[simp] theorem endRoutine_mem (s : State) (core arr status low : Nat) : (s.endRoutine core arr status low).mem = s.mem := by
  unfold State.endRoutine
  dsimp only
  (repeat' split) <;> simp

@[simp] theorem stopRoutine_mem (s : State) (w : Work) (st : SStop) (low : Nat) : (s.stopRoutine w st low).mem = s.mem := by
  unfold State.stopRoutine
  dsimp only
  (repeat' split) <;> simp

/-! Micro.lean. -/

@[simp] theorem microNext_mem (s : State) : s.microNext.2.mem = s.mem := by
  unfold State.microNext
  (repeat' split) <;> simp

@[simp] theorem libStep_mem (s : State) : s.libStep.mem = s.mem := by
  unfold State.libStep
  dsimp only
  (repeat' split) <;> simp

@[simp] theorem pushArr_mem (s : State) (op arr qid : Nat) (o : EngArgs) : (s.pushArr op arr qid o).mem = s.mem := by
  rfl

@[simp] theorem loadMicro_mem (s : State) (id : Nat) : (s.loadMicro id).mem = s.mem := by
  unfold State.loadMicro
  dsimp only
  (repeat' split) <;> simp

/-! Moraine.lean. -/

@[simp] theorem setUnit_mem (s : State) (u : Nat) (m : MUnit) : (s.setUnit u m).mem = s.mem := by
  rfl

@[simp] theorem unitFill_mem (s : State) (u : Nat) (asid : BitVec 16) (va : W64) (n : Nat) : (s.unitFill u asid va n).mem = s.mem := by
  unfold State.unitFill
  exact foldl_mem _ (fun s a => setUnit_mem s _ _) _ _

@[simp] theorem joinWrites_mem (s : State) (us : List Nat) (u : Nat) : (s.joinWrites us u).mem = s.mem := by
  unfold State.joinWrites
  split <;> rfl

@[simp] theorem summary_wf (s : State) (u : Nat) (h : MemOk s.mem) : MemOk (s.summary u).mem := by
  unfold State.summary
  dsimp only
  (repeat' split) <;> first | exact h | exact applyWord_wf h ‹_›

@[simp] theorem sticky_wf (s : State) (u : Nat) (e : MStop) (h : MemOk s.mem) : MemOk (s.sticky u e).mem := by
  unfold State.sticky
  dsimp only
  (repeat' split) <;> simp [h]

@[simp] theorem endBlock_mem (s : State) (u code elem : Nat) : (s.endBlock u code elem).mem = s.mem := by
  unfold State.endBlock
  dsimp only
  (repeat' split) <;> simp

@[simp] theorem morStop_wf (s : State) (u : Nat) (e : MStop) (h : MemOk s.mem) : MemOk (s.morStop u e).mem := by
  unfold State.morStop
  dsimp only
  (repeat' split) <;> simp [h]

@[simp] theorem morNext_mem (s : State) (u : Nat) : (s.morNext u).mem = s.mem := by
  unfold State.morNext
  dsimp only
  (repeat' split) <;> simp

@[simp] theorem mailbox_mem (s : State) (dst slot : Nat) (v : W64) (lid : Nat) : (s.mailbox dst slot v lid).mem = s.mem := by
  rfl

@[simp] theorem latchAdd_wf (s : State) (u a inc scope : Nat) (h : MemOk s.mem) : MemOk (s.latchAdd u a inc scope).mem := by
  simp [State.latchAdd, h]

theorem morRelease_wf {s t : State} {us : List Nat} {u : Nat} {b : Block} {i : Instr} (h : MemOk s.mem)
    (e : s.morRelease us u b i = .ok t) : MemOk t.mem := by
  have h0 : MemOk ((us.foldl (fun s v => s.performStores (.unit v) (morScope i)) s).joinWrites us u).mem := by
    rw [joinWrites_mem, foldl_mem _ (fun _ _ => performStores_mem _ _ _)]; exact h
  unfold State.morRelease at e
  dsimp only at e
  generalize (us.foldl (fun s v => s.performStores (.unit v) (morScope i)) s).joinWrites us u = s0 at e h0
  split at e
  · split at e <;> cases e
    simp [h0]
  · split at e
    · cases e
    · split at e
      · cases e
      · split at e <;> cases e
        · exact h
        · simp [h0]
  · cases e; simp [h0]

@[simp] theorem morFetch_wf (s : State) (h : MemOk s.mem) : MemOk s.morFetch.2.mem := by
  unfold State.morFetch
  dsimp only
  (repeat' split) <;> simp [h]

@[simp] theorem sendMsub_wf (s : State) (o : EngArgs) (qid : Nat) (h : MemOk s.mem) : MemOk (s.sendMsub o qid).mem := by
  unfold State.sendMsub
  dsimp only
  (repeat' split) <;> simp [h, foldl_mem]

@[simp] theorem sendMstat_mem (s : State) (o : EngArgs) (qid : Nat) : (s.sendMstat o qid).mem = s.mem := by
  simp [State.sendMstat]

/-! Drift.lean. -/

@[simp] theorem driftFill_mem (s : State) (asid : BitVec 16) (va : W64) (n : Nat) : (s.driftFill asid va n).mem = s.mem := by
  unfold State.driftFill
  (repeat' split) <;> simp [foldl_mem]

theorem driftWrite_wf {s t : State} {ags : List Agent} {asid : BitVec 16} {va : W64} {bs : List Byte} (h : MemOk s.mem)
    (e : s.driftWrite ags asid va bs = .ok t) : MemOk t.mem := by
  unfold State.driftWrite at e
  split at e
  · cases e
  · split at e <;> cases e
    exact writeAs_wf h ‹_›

theorem claimRow_wf {s u : State} {ags : List Agent} {t a : Nat} {w : RecvWin} (h : MemOk s.mem) (e : s.claimRow ags t w = .ok (a, u)) : MemOk u.mem := by
  unfold State.claimRow at e
  dsimp only at e
  (repeat' split at e) <;> cases e
  simp [h]

theorem putAt_wf {s u : State} {ags : List Agent} {d : W64} {n a : Nat} (h : MemOk s.mem) (e : s.putAt ags d n = .ok (a, u)) : MemOk u.mem := by
  unfold State.putAt at e
  dsimp only at e
  (repeat' split at e) <;> first | exact claimRow_wf h e | (cases e; exact h) | cases e

theorem targetWrite_wf {s u : State} {ags : List Agent} {t a : Nat} {bs : List Byte} (h : MemOk s.mem) (e : s.targetWrite ags t a bs = .ok u) :
    MemOk u.mem := by
  unfold State.targetWrite at e
  (repeat' split at e) <;> cases e
  simp [h]

@[simp] theorem entCtr_mem (s : State) (e : DriftEnt) (t c : Nat) (n : W32) : (s.entCtr e t c n).mem = s.mem := by
  unfold State.entCtr
  dsimp only
  split <;> simp

@[simp] theorem rctr_mem (s : State) (e : DriftEnt) (t : Nat) (r : BitVec 16) : (s.rctr e t r).mem = s.mem := by
  unfold State.rctr
  (repeat' split) <;> simp

@[simp] theorem setEnt_mem (s : State) (n : Nat) (e : DriftEnt) : (s.setEnt n e).mem = s.mem := by
  rfl

@[simp] theorem entAcquire_mem (s : State) (e : DriftEnt) : (s.entAcquire e).mem = s.mem := by
  unfold State.entAcquire
  (repeat' split) <;> simp

@[simp] theorem endEnt_mem (s : State) (n : Nat) (st lines : Nat) : (s.endEnt n st lines).mem = s.mem := by
  unfold State.endEnt
  (repeat' split) <;> simp

@[simp] theorem driftTouch_wf (s : State) (e : DriftEnt) (h : MemOk s.mem) : MemOk (s.driftTouch e).mem := by
  unfold State.driftTouch
  (repeat' split) <;> first | simp [h]; done | (rw [foldl_mem] <;> (repeat' (first | intro _ | split)) <;> simp [h])

theorem targetAdd_wf {s u : State} {ags : List Agent} {t a fop v : Nat} (h : MemOk s.mem) (e : s.targetAdd ags t a fop v = .ok u) : MemOk u.mem := by
  unfold State.targetAdd at e
  (repeat' split at e) <;> first | (cases e; done) | (cases e; exact storeDev_wf _ _ _ _ _ h)

theorem targetAdds_wf {ags : List Agent} {t fop n : Nat} : ∀ {s u : State} {a : Nat} {bs : List Byte}, MemOk s.mem → s.targetAdds ags t a fop n bs = .ok u →
    MemOk u.mem := by
  induction n with
  | zero => intro s u a bs h e; cases e; exact h
  | succ n ih =>
    intro s u a bs h e
    unfold State.targetAdds at e
    split at e
    · cases e; exact h
    · split at e
      · cases e
      · rename_i he; exact ih (targetAdd_wf h he) e

@[simp] theorem deliverTile_wf (s : State) (n : Nat) (e : DriftEnt) (l : DriftList) (dst : W64) (len tsize : Nat) (name : W64) (j lines : Nat) (h : MemOk s.mem) :
    MemOk (s.deliverTile n e l dst len tsize name j lines).mem := by
  unfold State.deliverTile
  dsimp only
  (repeat' split) <;> simp [h]

theorem deliverLine_wf {ags : List Agent} {asid : BitVec 16} {dst : W64} {s u : State} {off : Nat} {bs : List Byte} (h : MemOk s.mem)
    (e : deliverLine ags asid dst s off bs = .ok u) : MemOk u.mem := by
  unfold deliverLine at e
  (repeat' split at e) <;> cases e
  simp [h]

@[simp] theorem mcEnd_wf (s : State) (n : Nat) (e : DriftEnt) (h : MemOk s.mem) : MemOk (s.mcEnd n e).mem := by
  unfold State.mcEnd
  split
  · rename_i r _ _
    have hr : ∀ (l : List Nat) (t : State), (l.foldl (fun s d => s.rctr e (panelTdev d) r) t).mem = t.mem := fun l t =>
      foldl_mem (fun s d => s.rctr e (panelTdev d) r) (fun _ _ => rctr_mem _ _ _ _) l t
    dsimp only
    (repeat' split) <;> simp [h, hr]
  · exact h

@[simp] theorem addEnt_mem (s : State) (e : DriftEnt) : (s.addEnt e).mem = s.mem := by
  rfl

@[simp] theorem failList_mem (s : State) (lst : Nat) (l : DriftList) (idx st : Nat) :
    (s.failList lst l idx st).mem = s.mem := by
  rfl

@[simp] theorem armList_mem (s0 : State) (lst : Nat) (l : DriftList) (va : W64) :
    (State.armList s0 lst l va).mem = s0.mem := by
  unfold State.armList
  dsimp only
  (repeat' split) <;> simp [foldl_mem]

@[simp] theorem armWaiting_wf (s : State) (h : MemOk s.mem) : MemOk s.armWaiting.mem := by
  unfold State.armWaiting
  suffices ∀ (l : List (Nat × DriftList)) (r : State × Bool), MemOk r.1.mem → MemOk (l.foldl (fun r p => match p.2.waiting with
      | some va => if r.2 && r.1.fits p.2.n then (r.1.armList p.1 p.2 va, true) else (r.1, false)
      | none => r) r).1.mem from this _ _ h
  intro l
  induction l with
  | nil => intro r hr; exact hr
  | cons a l ih =>
    intro r hr
    refine ih _ ?_
    dsimp only
    split
    · split
      · simp [hr]
      · exact hr
    · exact hr

@[simp] theorem ctrInc_mem (s : State) (e : DriftEnt) (c : BitVec 16) : (s.ctrInc e c).mem = s.mem := by
  simp [State.ctrInc]

@[simp] theorem closeEnt_wf (s : State) (n : Nat) (e : DriftEnt) (st lines : Nat) (h : MemOk s.mem) :
    MemOk (s.closeEnt n e st lines).mem := by
  unfold State.closeEnt
  dsimp only
  (repeat' split) <;> simp [h]

@[simp] theorem addList_mem (s : State) (l : DriftList) : (s.addList l).2.mem = s.mem := rfl

@[simp] theorem sendDarm_wf (s : State) (o : EngArgs) (qid : Nat) (h : MemOk s.mem) : MemOk (s.sendDarm o qid).mem := by
  unfold State.sendDarm
  dsimp only
  (repeat' split)
  · simp [h]
  · simp [h]
  · simp [h]
  · refine armWaiting_wf _ ?_
    simp [h]

@[simp] theorem sendDput_wf (s : State) (o : EngArgs) (qid : Nat) (h : MemOk s.mem) : MemOk (s.sendDput o qid).mem := by
  unfold State.sendDput
  dsimp only
  (repeat' split) <;> simp [h]

/-! Launch.lean. -/

@[simp] theorem lunitFill_mem (s : State) (die : Nat) (asid : BitVec 16) (va : W64) (n : Nat) :
    (s.lunitFill die asid va n).mem = s.mem := by
  unfold State.lunitFill
  (repeat' split) <;> simp [foldl_mem]

@[simp] theorem setLaunch_mem (s : State) (r : Nat) (l : Launch) : (s.setLaunch r l).mem = s.mem := by
  rfl

@[simp] theorem enqueueLaunch_mem (s : State) (r : Nat) (l : Launch) : (s.enqueueLaunch r l).mem = s.mem := by
  rfl

@[simp] theorem unqueue_mem (s : State) (r : Nat) (l : Launch) : (s.unqueue r l).mem = s.mem := by
  rfl

@[simp] theorem endLaunch_mem (s : State) (r : Nat) (l : Launch) (code : Nat) : (s.endLaunch r l code).mem = s.mem := by
  rfl

@[simp] theorem takeRecord_mem (s0 : State) (src : LaunchSrc) (rec' : List Byte) :
    (State.takeRecord s0 src rec').mem = s0.mem := by
  unfold State.takeRecord
  dsimp only
  (repeat' split) <;> simp

@[simp] theorem sendLaunch_wf (s : State) (o : EngArgs) (indirect : Bool) (h : MemOk s.mem) :
    MemOk (s.sendLaunch o indirect).mem := by
  simp [State.sendLaunch, h]

@[simp] theorem dropGrants_mem (s : State) (r : Nat) : (s.dropGrants r).mem = s.mem := by
  rfl

@[simp] theorem refuseRound_mem (s : State) (r : Nat) (l : Launch) : (s.refuseRound r l).mem = s.mem := by
  unfold State.refuseRound
  dsimp only
  (repeat' split) <;> simp

/-! Evict.lean. -/

@[simp] theorem setReg64_mem (s : State) (a v : Nat) : (s.setReg64 a v).mem = s.mem := by
  rfl

@[simp] theorem evDone_mem (s : State) (core st : Nat) : (s.evDone core st).mem = s.mem := by
  rfl

@[simp] theorem evictNow_wf (s : State) (core n img : Nat) (h : MemOk s.mem) : MemOk (s.evictNow core n img).mem :=
  writeMem_wf _ _ _ h

/-! Manage.lean. -/

@[simp] theorem retireCore_mem (s : State) (c reason : Nat) : (s.retireCore c reason).mem = s.mem := by
  rfl

@[simp] theorem cancelLaunch_mem (s : State) (r : Nat) (l : Launch) : (s.cancelLaunch r l).mem = s.mem := by
  unfold State.cancelLaunch
  (repeat' split) <;> simp

@[simp] theorem mgmtDone_mem (s : State) (st result : Nat) : (s.mgmtDone st result).mem = s.mem := by
  rfl

@[simp] theorem retrainUp_wf (s : State) (link held : Nat) (h : MemOk s.mem) : MemOk (s.retrainUp link held).mem := by
  unfold State.retrainUp
  (repeat' split) <;> first | simp [h]; done | (refine foldl_wf _ (fun _ _ hh => ?_) _ _ ?_ <;> (repeat' split) <;> simp [*])

@[simp] theorem ctlByte_mem (s : State) (core off : Nat) (b : Byte) : (s.ctlByte core off b).mem = s.mem := by
  unfold State.ctlByte
  dsimp only
  (repeat' split) <;> simp

@[simp] theorem mboxOp_mem (s : State) (b : Byte) : (s.mboxOp b).mem = s.mem := by
  unfold State.mboxOp
  (repeat' split) <;> simp

@[simp] theorem regByte_mem (s : State) (a : Nat) (b : Byte) : (s.regByte a b).mem = s.mem := by
  unfold State.regByte
  (repeat' split) <;> simp

@[simp] theorem bootLog_mem (s : State) : s.bootLog.mem = s.mem := by
  unfold State.bootLog
  (repeat' split) <;> simp

@[simp] theorem rebooted_wf (s : State) (cold : Bool) (h : MemOk s.mem) : MemOk (s.rebooted cold).mem := by
  unfold State.rebooted
  dsimp only
  (repeat' split) <;> simp [h]

@[simp] theorem aclkLog_mem (s : State) (reason : Nat) (gates : Bool) : (s.aclkLog reason gates).mem = s.mem := by
  rfl

@[simp] theorem modNun_mem (s : State) (f : Nunatak → Nunatak) : (s.modNun f).mem = s.mem := by
  rfl

/-! Load.lean. -/

theorem newTable_wf {s t : State} {own : List (Nat × Nat)} {size n : Nat} (h : MemOk s.mem) (e : s.newTable own size = some (n, t)) :
    MemOk t.mem := by
  unfold State.newTable at e
  simp only [Option.map_eq_some_iff] at e
  obtain ⟨_, _, e⟩ := e
  cases e
  exact publish_wf _ _ _ h

theorem mapFrom_wf {own : List (Nat × Nat)} {va leaf : Nat} {ls : List (Nat × Nat × Nat)} : ∀ {s u : State} {t : Nat}, MemOk s.mem →
    s.mapFrom own va leaf ls t = some u → MemOk u.mem := by
  induction ls with
  | nil =>
    intro s u t h e
    unfold State.mapFrom at e
    dsimp only at e
    split at e <;> cases e
    exact publish_wf _ _ _ h
  | cons l ls ih =>
    intro s u t h e
    obtain ⟨shift, bits, size⟩ := l
    unfold State.mapFrom at e
    dsimp only at e
    split at e
    · split at e
      · cases e
      · exact ih h e
    · split at e
      · cases e
      · rename_i hn; exact ih (publish_wf _ _ _ (newTable_wf h hn)) e

theorem rootOf_wf {s t : State} {own : List (Nat × Nat)} {asid n : Nat} (h : MemOk s.mem) (e : s.rootOf own asid = some (n, t)) :
    MemOk t.mem := by
  unfold State.rootOf at e
  split at e
  · cases e; exact h
  · simp only [Option.map_eq_some_iff] at e
    obtain ⟨⟨m, u⟩, hn, e⟩ := e
    cases e
    simpa using newTable_wf h hn

theorem mapPages_wf {own : List (Nat × Nat)} {asid perm n : Nat} : ∀ {s u : State} {va dpa : Nat}, MemOk s.mem →
    s.mapPages own asid va dpa perm n = some u → MemOk u.mem := by
  induction n with
  | zero => intro s u va dpa h e; cases e; exact h
  | succ n ih =>
    intro s u va dpa h e
    unfold State.mapPages at e
    split at e
    · cases e
    · rename_i hr
      split at e
      · cases e
      · rename_i hm; exact ih (mapFrom_wf (rootOf_wf h hr) hm) e

theorem place_wf {asid : Nat} {ws : List Want} : ∀ {s u : State} {ms ns : List Mapped}, MemOk s.mem →
    s.place asid ws ms = some (ns, u) → MemOk u.mem := by
  induction ws with
  | nil => intro s u ms ns h e; cases e; exact h
  | cons w ws ih =>
    intro s u ms ns h e
    unfold State.place at e
    dsimp only at e
    split at e
    · split at e
      · cases e
      · rename_i hm; exact ih (mapPages_wf (s := { s with free := s.free + 1 }) h hm) e
    · cases e

@[simp] theorem writeImage_wf (s : State) (o : List Byte) (ws : List Want) (ms : List Mapped) (vals : List (Reloc × Nat))
    (h : MemOk s.mem) : MemOk (s.writeImage o ws ms vals).mem := by
  unfold State.writeImage
  refine foldl_wf _ ?_ _ _ (foldl_wf _ ?_ _ _ h)
  · intro t q ht
    split
    · exact publish_wf _ _ _ ht
    · exact ht
  · intro t p ht
    exact foldl_wf _ (fun _ _ h => publish_wf _ _ _ h) _ _ (publish_wf _ _ _ ht)

theorem load_wf (s : State) (o : List Byte) (asid : BitVec 16) (h : MemOk s.mem) : MemOk (s.load o asid).2.mem := by
  unfold State.load
  split
  · exact h
  · split
    · exact h
    · dsimp only
      split
      · exact h
      · rename_i hp
        split
        · exact h
        · exact writeImage_wf _ _ _ _ _ (place_wf h hp)

@[simp] theorem loadRecord_wf (s : State) (slot : Nat) (l : Loaded) (imgver : Nat) (h : MemOk s.mem) :
    MemOk (s.loadRecord slot l imgver).mem :=
  publish_wf _ _ _ (publish_wf _ _ _ h)

@[simp] theorem forget_mem (s : State) (asid : BitVec 16) (m : Mapped) : (s.forget asid m).mem = s.mem := rfl

/-! Guard.lean. -/

@[simp] theorem sendHeld_wf (s : State) (i : Instr) (q : Nat) (h : MemOk s.mem) : MemOk (s.sendHeld i q).mem := by
  unfold State.sendHeld
  (repeat' split) <;> simp [h]

@[simp] theorem releaseHeld_wf (s : State) (e : HeldEff) (h : MemOk s.mem) : MemOk (s.releaseHeld e).mem := by
  unfold State.releaseHeld
  split
  · exact storeVirt_wf _ _ _ h
  · unfold State.withOperands
    simp only [modVec_mem, modCtl_mem]
    exact sendHeld_wf _ _ _ h

@[simp] theorem commitNow_wf (s : State) (h : MemOk s.mem) : MemOk s.commitNow.mem := by
  unfold State.commitNow
  dsimp only
  simp only [modCx_mem, setFcore_mem]
  exact foldl_wf _ (fun _ _ h => releaseHeld_wf _ _ h) _ _ h

@[simp] theorem dropLoads'_mem (s : State) (o : Origin) (n : Nat) : (s.dropLoads' o n).mem = s.mem := rfl

@[simp] theorem unwind_mem (s : State) (n : Nat) : (s.unwind n).mem = s.mem := by
  unfold State.unwind
  dsimp only
  (repeat' split) <;> simp

@[simp] theorem logRollback_mem (s : State) (core ctx : Nat) (bad : Bool) : (s.logRollback core ctx bad).mem = s.mem := by
  rfl

@[simp] theorem unsound_mem (s : State) (core ctx : Nat) : (s.unsound core ctx).mem = s.mem := by
  rfl

/-! Outside.lean. -/

@[simp] theorem keepBytes_mem (s : State) (ag : Agent) (dev at' n : Nat) : (s.keepBytes ag dev at' n).mem = s.mem := rfl

@[simp] theorem seeWrite_mem (s : State) (ag : Agent) (dev unit : Nat) : (s.seeWrite ag dev unit).mem = s.mem := by
  unfold State.seeWrite
  (repeat' split) <;> simp

@[simp] theorem unitCorrected_wf (s : State) (u dpa : Nat) (h : MemOk s.mem) : MemOk (s.unitCorrected u dpa).mem := by
  unfold State.unitCorrected
  dsimp only
  split <;> simp [h]

@[simp] theorem corrected_wf (s : State) (c : Cell) (h : MemOk s.mem) : MemOk (s.corrected c).mem := by
  unfold State.corrected
  dsimp only
  (repeat' split) <;> simp [h]

@[simp] theorem ownError_mem (s : State) (src grp : Nat) : (s.ownError src grp).mem = s.mem := by
  unfold State.ownError
  dsimp only
  (repeat' split) <;> simp

@[simp] theorem decay_mem (s : State) (c : Cell) : (s.decay c).mem = s.mem := by
  unfold State.decay
  dsimp only
  (repeat' split) <;> first | rfl | simp [State.onCtx]

@[simp] theorem setPlane_mem (s : State) (p by' : Nat) : (s.setPlane p by').mem = s.mem := by
  unfold State.setPlane
  split <;> rfl

@[simp] theorem setTorus_mem (s : State) (panel st : Nat) : (s.setTorus panel st).mem = s.mem := rfl

@[simp] theorem forgetName_mem (s : State) (die tensor : Nat) (tile : Option Nat) : (s.forgetName die tensor tile).mem = s.mem := by
  unfold State.forgetName
  split <;> rfl

@[simp] theorem setIsolated_mem (s : State) (tdev : Nat) (on : Bool) : (s.setIsolated tdev on).mem = s.mem := by
  unfold State.setIsolated
  split <;> rfl

@[simp] theorem peerRegs_mem (s : State) (tdev dpa : Nat) (data : List Byte) : (s.peerRegs tdev dpa data).mem = s.mem := by
  unfold State.peerRegs
  dsimp only
  (repeat' split) <;> rfl

theorem putLines_wf {wr : State → Nat → List Byte → Except Nat State}
    (hw : ∀ s off bs u, MemOk s.mem → wr s off bs = .ok u → MemOk u.mem) {st : Option Nat} {ns : List Nat} :
    ∀ {off : Nat} {bs : List Byte} {s : State} {k : Nat}, MemOk s.mem → MemOk (putLines wr st ns off bs s k).1.mem := by
  induction ns with
  | nil => intro off bs s k h; exact h
  | cons n r ih =>
    intro off bs s k h
    unfold putLines
    split
    · exact h
    · split
      · exact h
      · rename_i he; exact ih (hw _ _ _ _ h he)

@[simp] theorem peerPut_wf (s : State) (tdev win off : Nat) (data : List Byte) (rctr : BitVec 16) (rel : Option Nat) (h : MemOk s.mem) :
    MemOk (s.peerPut tdev win off data rctr rel).mem := by
  unfold State.peerPut
  dsimp only
  split
  · exact h
  · split
    · exact h
    · rename_i a s1 he
      have h1 := putAt_wf h he
      have h2 := putLines_wf (wr := fun s o b => s.targetWrite [.peer tdev] ownTdev (a + o) b) (st := none)
        (ns := driftLines a data.length) (off := 0) (bs := data) (k := 0) (fun _ _ _ _ hu e => targetWrite_wf hu e) h1
      split
      · exact h2
      · rw [bumpCtr_mem]
        split
        · rw [release_mem]; exact h2
        · exact h2

@[simp] theorem peerLine_wf (s : State) (dev grp off : Nat) (line : List Byte) (h : MemOk s.mem) :
    MemOk (s.peerLine dev grp off line).mem := by
  unfold State.peerLine
  dsimp only
  split
  · exact multicastTo_wf _ _ _ _ _ _ _ h
  · exact h

@[simp] theorem ringFrom_mem (s : State) (tdev ctr st : Nat) (data : List Byte) (sig : W64) (rel : Option Nat) :
    (s.ringFrom tdev ctr st data sig rel).mem = s.mem := by
  unfold State.ringFrom
  dsimp only
  split <;> rfl

@[simp] theorem ringTaken_mem (s : State) (tdev key : Nat) : (s.ringTaken tdev key).mem = s.mem := rfl

/-! Order.lean. -/

@[simp] theorem giveWalks_mem (s : State) (i : Instr) : (s.giveWalks i).mem = s.mem := rfl

@[simp] theorem takeEvent_mem (s : State) (e : Event) : (s.takeEvent e).mem = s.mem := by
  rfl

@[simp] theorem pass_mem (s : State) (us : Nat) : (s.pass us).mem = s.mem := by
  rfl

@[simp] theorem placeCode_wf (s : State) (bs : List Byte) (h : MemOk s.mem) : MemOk (s.placeCode bs).mem :=
  writeMem_wf _ _ _ h

@[simp] theorem placeMicro_mem (s : State) (w : Nat) : (s.placeMicro w).mem = s.mem := by
  rfl

@[simp] theorem placeUnit_mem (s : State) (p : MorPhase) (ib : Option W32) : (s.placeUnit p ib).mem = s.mem := by
  rfl

@[simp] theorem placeDrift_mem (s : State) (i : Instr) : (s.placeDrift i).mem = s.mem := by
  rfl

@[simp] theorem placeInstr_wf (s : State) (i : Option Instr) (n w : Nat) (h : MemOk s.mem) :
    MemOk (s.placeInstr i n w).mem := by
  unfold State.placeInstr
  dsimp only
  (repeat' split) <;> simp [h]

/-! The shared operations of the meanings. -/

theorem slot_wf {i : Instr} {s t : State} {f : State → State} (h : MemOk s.mem) (hf : ∀ u, MemOk u.mem → MemOk (f u).mem)
    (e : slot i s f = .next t) : MemOk t.mem := by
  rcases slot_next e with ⟨_, rfl⟩ | ⟨_, u, hu, rfl⟩ | ⟨_, hu⟩
  · exact hf _ h
  · rw [test_go hu]; exact hf _ (by simpa using h)
  · exact test_wf h hu

theorem vector_wf {i : Instr} {s t : State} {n : Nat} {f : VecSt → Nat → Nat → W32 → LaneRes} (h : MemOk s.mem)
    (e : vector i s n f = .next t) : MemOk t.mem := by
  refine slot_wf h ?_ e
  intro u hu
  split
  · rw [landLanes_mem]; exact hu
  · exact hu

theorem micro_wf {i : Instr} {s t : State} {n : Nat} {yp : Bool} {f : Work → Work} (h : MemOk s.mem)
    (e : micro i s n yp f = .next t) : MemOk t.mem := by
  rcases micro_next e with rfl | ⟨w, _, _, ⟨st, _, rfl⟩ | ⟨_, rfl⟩⟩
  · exact h
  · simpa using h
  · simpa using h

theorem morRun_wf {i : Instr} {s t : State} {f : Nat → MUnit → State → Except MStop (MUnit × Nat × State)} (h : MemOk s.mem)
    (hf : ∀ pc m m' pc' u, f pc m s = .ok (m', pc', u) → MemOk u.mem) (e : morRun i s f = .next t) : MemOk t.mem := by
  rcases morRun_next e with rfl | ⟨_, rfl⟩ | ⟨x, pc, limit, m, pc1, u, _, _, hu, rfl⟩
  · exact h
  · simp [h]
  · simpa using hf _ _ _ _ _ hu

theorem morLanes_wf {i : Instr} {zd : BitVec 5} {s t : State} {f : MUnit → Nat → W32} (h : MemOk s.mem)
    (e : morLanes i zd s f = .next t) : MemOk t.mem := by
  refine morRun_wf h ?_ e
  intro pc m m' pc' u hu
  cases hu
  exact h

theorem morCmd_wf {i : Instr} {s t : State} {f : Nat → MUnit → Block → State → Except MStop State} (h : MemOk s.mem)
    (hf : ∀ u m b v, f u m b s = .ok v → MemOk v.mem) (e : morCmd i s f = .next t) : MemOk t.mem := by
  rcases morCmd_next e with rfl | ⟨_, rfl⟩ | ⟨b, _, hu⟩
  · exact h
  · simp [h]
  · exact hf _ _ _ _ hu

theorem morSync_wf {i : Instr} {join : BitVec 8} {s t : State} (h : MemOk s.mem) (e : morSync i join s = .next t) :
    MemOk t.mem := by
  refine morCmd_wf h ?_ e
  intro u m b v hv
  split at hv
  · exact morRelease_wf h hv
  · split at hv <;> cases hv <;> exact h

theorem drift_wf {s t : State} {f : Nat → DriftEnt → DriftList → State → State} (h : MemOk s.mem)
    (hf : ∀ n e l u, MemOk u.mem → MemOk (f n e l u).mem) (e : drift s f = .next t) : MemOk t.mem := by
  rcases drift_next e with rfl | ⟨x, _, _, rfl⟩
  · exact h
  · exact hf _ _ _ _ (by simp [h])

theorem mgmt_wf {op : Nat} {s t : State} {f : State → State} (h : MemOk s.mem) (hf : ∀ u, MemOk u.mem → MemOk (f u).mem)
    (e : mgmt op s f = .next t) : MemOk t.mem := by
  rcases mgmt_next e with ⟨_, rfl⟩ | ⟨_, rfl⟩
  · exact hf _ h
  · exact h

/-- Memory right after reset is in canonical form. -/
theorem reset_memOk : MemOk State.reset.mem := by
  unfold MemOk Memory.wf
  decide

@[simp] theorem newCmd_mem (s : State) : s.newCmd.mem = s.mem := rfl

/-- An ENG command keeps memory where what it sends does. -/
theorem engCmd_wf (s : State) (i : Instr) (o : EngArgs) (send : Nat → State → State) (h : MemOk s.mem)
    (hs : ∀ id u, MemOk u.mem → MemOk (send id u).mem) : MemOk (s.engCmd i o send).mem := by
  unfold State.engCmd
  dsimp only
  split <;> (split <;> first | (simp [h]; done) | exact hs _ _ (by simp [h]))

end Sys2Proof.Machine
end

