-- ==== Sys2Proof/Tests/Slice0.lean ====
section
/-! SUPPORT. Tests: words written out from the spec's encodings, terms that each check refuses, worked cases of the spec, and
for every statement with hypotheses a state and operands that meet them. -/

namespace Sys2Proof.Tests

open Sys2Proof Sys2Proof.Machine

set_option Elab.async false

/-- CTL words (R73, R79): the word of each, its fields written out in the places that the spec gives them. -/
theorem test_words_ctl :
    decodeCtl 0x06345678 = .ok (.br 0x2345678) ∧
    decodeCtl 0x091BABCD = .ok (.brc 17 5 0x1ABCD) ∧
    decodeCtl 0x0E100000 = .ok (.jr 33) ∧
    decodeCtl 0x13FFFFF8 = .ok (.call 0x3FFFFF8) ∧
    decodeCtl 0x14000000 = .ok .ret ∧
    decodeCtl 0x1AA95650 = .ok (.loop 2 0x2A55 37) ∧
    decodeCtl 0x1DA957C1 = .ok (.loopi 1 0x2A55 0x3C1) ∧
    decodeCtl 0x20000000 = .ok .lbrk ∧
    decodeCtl 0x2669AC00 = .ok (.wait 0x9A 0x6B) ∧
    decodeCtl 0x2A69AC00 = .ok (.post 0x9A 0x6B) ∧
    decodeCtl 0x2E69AE90 = .ok (.waitp 0x9A 0x6B 41) ∧
    decodeCtl 0x30000000 = .ok .yield ∧
    decodeCtl 0x34000000 = .ok .ckpt ∧
    decodeCtl 0x3C000000 = .ok .eret ∧
    decodeCtl 0x40000000 = .ok .halt ∧
    decodeCtl 0x3800BEEF = .ok (.trap 0xBEEF) ∧
    decodeCtl 0x47000000 = .ok (.fence 6) ∧
    decodeCtl 0x4A276C00 = .ok (.acq 34 29 5 2) ∧
    decodeCtl 0x4E276800 = .ok (.rel 34 29 5) ∧
    decodeCtl 0x52211300 = .ok (.mfs 34 0x113) ∧
    decodeCtl 0x55D00800 = .ok (.mts 29 0x08) := by
  refine ⟨?_, ?_, ?_, ?_, ?_, ?_, ?_, ?_, ?_, ?_, ?_, ?_, ?_, ?_, ?_, ?_, ?_, ?_, ?_, ?_, ?_⟩ <;> decide

/-- Scalar words of SCA and SCB, the first seventeen (R74, R79): the word of each, its fields written out in the places that the spec gives them. -/
theorem test_words_sca :
    decodeScb 0x04B5AF00 = .ok (.add 11 22 47) ∧
    decodeSca 0x0926F200 = .ok (.sub 18 27 50) ∧
    decodeScb 0x0D982A59 = .ok (.addi 25 32 10841) ∧
    decodeSca 0x12097800 = .ok (.and 32 37 56) ∧
    decodeScb 0x167ABB00 = .ok (.or 39 42 59) ∧
    decodeSca 0x1AEBFE00 = .ok (.xor 46 47 62) ∧
    decodeScb 0x1F5D2A55 = .ok (.andi 53 52 10837) ∧
    decodeSca 0x23CE6A54 = .ok (.ori 60 57 10836) ∧
    decodeScb 0x243FAA53 = .ok (.xori 3 62 10835) ∧
    decodeSca 0x28A0CA00 = .ok (.shl 10 3 10) ∧
    decodeScb 0x2D120D00 = .ok (.shr 17 8 13) ∧
    decodeSca 0x31835000 = .ok (.sra 24 13 16) ∧
    decodeScb 0x35F48021 = .ok (.shli 31 18 33) ∧
    decodeSca 0x3A65C020 = .ok (.shri 38 23 32) ∧
    decodeScb 0x3ED7001F = .ok (.srai 45 28 31) ∧
    decodeSca 0x43485C00 = .ok (.mul 52 33 28) ∧
    decodeScb 0x47B99F00 = .ok (.mulh 59 38 31) := by
  refine ⟨?_, ?_, ?_, ?_, ?_, ?_, ?_, ?_, ?_, ?_, ?_, ?_, ?_, ?_, ?_, ?_, ?_⟩ <;> decide

/-- The others (R74, R79): the word of each, its fields written out in the places that the spec gives them. -/
theorem test_words_sca2 :
    decodeSca 0x482AE200 = .ok (.mulhu 2 43 34) ∧
    decodeScb 0x4C9C2500 = .ok (.divs 9 48 37) ∧
    decodeSca 0x510D6800 = .ok (.divu 16 53 40) ∧
    decodeScb 0x557EAB00 = .ok (.min 23 58 43) ∧
    decodeSca 0x59EFEE00 = .ok (.max 30 63 46) ∧
    decodeScb 0x5E513100 = .ok (.minu 37 4 49) ∧
    decodeSca 0x62C27400 = .ok (.maxu 44 9 52) ∧
    decodeScb 0x6733B700 = .ok (.slt 51 14 55) ∧
    decodeSca 0x6BA4FA00 = .ok (.sltu 58 19 58) ∧
    decodeScb 0x6C163D00 = .ok (.seq 1 24 61) ∧
    decodeSca 0x70874000 = .ok (.sne 8 29 0) ∧
    decodeScb 0x74F883D8 = .ok (.selz 15 34 3 54) ∧
    decodeSca 0x796C3A5D = .ok (.li 22 0xC3A5D) ∧
    decodeScb 0x7DDC3A5E = .ok (.lui 29 0xC3A5E) ∧
    decodeSca 0x824C4000 = .ok (.clz 36 49) ∧
    decodeScb 0x86BD8000 = .ok (.popc 43 54) := by
  refine ⟨?_, ?_, ?_, ?_, ?_, ?_, ?_, ?_, ?_, ?_, ?_, ?_, ?_, ?_, ?_, ?_⟩ <;> decide

/-- Scalar words of SCB (R74, R79): the word of each, its fields written out in the places that the spec gives them. -/
theorem test_words_scb :
    decodeScb 0x88DCB5A3 = .ok (.lds 13 50 6 0x5A3) ∧
    decodeScb 0x8CDC9DA3 = .ok (.sts 13 50 3 0x5A3) ∧
    decodeScb 0x90DCADA3 = .ok (.ldf 13 50 5 0x5A3) ∧
    decodeScb 0x94DC95A3 = .ok (.stf 13 50 2 0x5A3) ∧
    decodeScb 0x9AB90140 = .ok (.hset 21 50 20) ∧
    decodeScb 0x9EB90110 = .ok (.hget 21 50 17) ∧
    decodeScb 0xA2B90030 = .ok (.hadv 21 50 3) ∧
    decodeScb 0xA6B95770 = .ok (.htile 21 50 43 23) ∧
    decodeScb 0xAAB95620 = .ok (.hname 21 50 43 2) := by
  refine ⟨?_, ?_, ?_, ?_, ?_, ?_, ?_, ?_, ?_⟩ <;> decide

/-- Vector words 0x01 to 0x13 (R75, R79): the word of each, its fields written out in the places that the spec gives them. -/
theorem test_words_vec0 :
    decodeVea 0x02B8CD809E350000 = .ok (.fadd ⟨0x5C, 3, 1, 44, 0, 0x9E, 0x35, 0x0⟩) ∧
    decodeVeb 0x04BE1620A5400000 = .ok (.fsub ⟨0x5F, 0, 2, 49, 0, 0xA5, 0x40, 0x0⟩) ∧
    decodeVea 0x06C55EC0AC4B0000 = .ok (.fmul ⟨0x62, 5, 3, 54, 0, 0xAC, 0x4B, 0x0⟩) ∧
    decodeVeb 0x08CAA760B356ED00 = .ok (.fma ⟨0x65, 2, 4, 59, 0, 0xB3, 0x56, 0xED⟩) ∧
    decodeVea 0x0AD1C800BA61FA00 = .ok (.fms ⟨0x68, 7, 1, 0, 0, 0xBA, 0x61, 0xFA⟩) ∧
    decodeVeb 0x0CD710A0C16C0700 = .ok (.fnma ⟨0x6B, 4, 2, 5, 0, 0xC1, 0x6C, 0x7⟩) ∧
    decodeVea 0x0EDC4140C8770000 = .ok (.fmin ⟨0x6E, 1, 0, 10, 0, 0xC8, 0x77, 0x0⟩) ∧
    decodeVeb 0x10E381E0CF820000 = .ok (.fmax ⟨0x71, 6, 0, 15, 0, 0xCF, 0x82, 0x0⟩) ∧
    decodeVea 0x12E8C280D6000000 = .ok (.fabs ⟨0x74, 3, 0, 20, 0, 0xD6, 0x0, 0x0⟩) ∧
    decodeVeb 0x14EE0320DD000000 = .ok (.fneg ⟨0x77, 0, 0, 25, 0, 0xDD, 0x0, 0x0⟩) ∧
    decodeVea 0x16F540C0E4A30006 = .ok (.fcmp ⟨0x7A, 5, 0, 6, 6, 0xE4, 0xA3, 0x0⟩) ∧
    decodeVeb 0x18FA8460EBAE0005 = .ok (.fsel ⟨0x7D, 2, 0, 35, 5, 0xEB, 0xAE, 0x0⟩) ∧
    decodeVea 0x1B01C500F2000000 = .ok (.fclass ⟨0x80, 7, 0, 40, 0, 0xF2, 0x0, 0x0⟩) ∧
    decodeVeb 0x1D0715A0F9000000 = .ok (.rndi ⟨0x83, 4, 2, 45, 0, 0xF9, 0x0, 0x0⟩) ∧
    decodeVea 0x1F0C5E4000000001 = .ok (.ftoi ⟨0x86, 1, 3, 50, 1, 0x0, 0x0, 0x0⟩) ∧
    decodeVeb 0x2113A6E007000001 = .ok (.itof ⟨0x89, 6, 4, 55, 1, 0x7, 0x0, 0x0⟩) ∧
    decodeVea 0x2318C7800E000000 = .ok (.getexp ⟨0x8C, 3, 0, 60, 0, 0xE, 0x0, 0x0⟩) ∧
    decodeVeb 0x251E002015000000 = .ok (.getmant ⟨0x8F, 0, 0, 1, 0, 0x15, 0x0, 0x0⟩) ∧
    decodeVea 0x272558C01CFB0001 = .ok (.expins ⟨0x92, 5, 3, 6, 1, 0x1C, 0xFB, 0x0⟩) := by
  refine ⟨?_, ?_, ?_, ?_, ?_, ?_, ?_, ?_, ?_, ?_, ?_, ?_, ?_, ?_, ?_, ?_, ?_, ?_, ?_⟩ <;> decide

/-- Vector words 0x14 to 0x26 (R75, R79): the word of each, its fields written out in the places that the spec gives them. -/
theorem test_words_vec1 :
    decodeVeb 0x292A814023060000 = .ok (.faddx ⟨0x95, 2, 0, 10, 0, 0x23, 0x6, 0x0⟩) ∧
    decodeVea 0x2B31C2002A110000 = .ok (.fsubx ⟨0x98, 7, 0, 16, 0, 0x2A, 0x11, 0x0⟩) ∧
    decodeVeb 0x2D370280311C0000 = .ok (.fmulx ⟨0x9B, 4, 0, 20, 0, 0x31, 0x1C, 0x0⟩) ∧
    decodeVea 0x2F3C434038220000 = .ok (.dwadd ⟨0x9E, 1, 0, 26, 0, 0x38, 0x22, 0x0⟩) ∧
    decodeVea 0x314383C03A320000 = .ok (.dwsub ⟨0xA1, 6, 0, 30, 0, 0x3A, 0x32, 0x0⟩) ∧
    decodeVea 0x3348C48042380000 = .ok (.dwmul ⟨0xA4, 3, 0, 36, 0, 0x42, 0x38, 0x0⟩) ∧
    decodeVea 0x354E050048480000 = .ok (.dwadds ⟨0xA7, 0, 0, 40, 0, 0x48, 0x48, 0x0⟩) ∧
    decodeVea 0x375545C050000000 = .ok (.dwnorm ⟨0xAA, 5, 0, 46, 0, 0x50, 0x0, 0x0⟩) ∧
    decodeVea 0x395A86605A000000 = .ok (.dwtof ⟨0xAD, 2, 0, 51, 0, 0x5A, 0x0, 0x0⟩) ∧
    decodeVea 0x3B61D70062000000 = .ok (.rsum ⟨0xB0, 7, 2, 56, 0, 0x62, 0x0, 0x0⟩) ∧
    decodeVea 0x3D67078069000000 = .ok (.rsumc ⟨0xB3, 4, 0, 60, 0, 0x69, 0x0, 0x0⟩) ∧
    decodeVea 0x3F6C404070000000 = .ok (.rmax ⟨0xB6, 1, 0, 2, 0, 0x70, 0x0, 0x0⟩) ∧
    decodeVea 0x417380E077000000 = .ok (.rmin ⟨0xB9, 6, 0, 7, 0, 0x77, 0x0, 0x0⟩) ∧
    decodeVea 0x4378C1807E000000 = .ok (.rsumi ⟨0xBC, 3, 0, 12, 0, 0x7E, 0x0, 0x0⟩) ∧
    decodeVea 0x457E022085A07206 = .ok (.fdot4 ⟨0xBF, 0, 0, 17, 6, 0x85, 0xA0, 0x72⟩) ∧
    decodeVea 0x478542C08CAB8001 = .ok (.idotb ⟨0xC2, 5, 0, 22, 1, 0x8C, 0xAB, 0x80⟩) ∧
    decodeVea 0x498A836093B68D01 = .ok (.idotn ⟨0xC5, 2, 0, 27, 1, 0x93, 0xB6, 0x8D⟩) ∧
    decodeVea 0x4B91CC009AC10029 = .ok (.cvtf ⟨0xC8, 7, 1, 32, 41, 0x9A, 0xC1, 0x0⟩) ∧
    decodeVeb 0x4D9714A0A1CC00B2 = .ok (.cvtn ⟨0xCB, 4, 2, 37, 178, 0xA1, 0xCC, 0x0⟩) := by
  refine ⟨?_, ?_, ?_, ?_, ?_, ?_, ?_, ?_, ?_, ?_, ?_, ?_, ?_, ?_, ?_, ?_, ?_, ?_, ?_⟩ <;> decide

/-- Vector words 0x27 to 0x38 (R75, R79): the word of each, its fields written out in the places that the spec gives them. -/
theorem test_words_vec2 :
    decodeVea 0x4F9C5D40A8D70008 = .ok (.cvtb ⟨0xCE, 1, 3, 42, 8, 0xA8, 0xD7, 0x0⟩) ∧
    decodeVeb 0x51A385E0AFE20000 = .ok (.iadd ⟨0xD1, 6, 0, 47, 0, 0xAF, 0xE2, 0x0⟩) ∧
    decodeVea 0x53A8C680B6ED0000 = .ok (.isub ⟨0xD4, 3, 0, 52, 0, 0xB6, 0xED, 0x0⟩) ∧
    decodeVeb 0x55AE0720BDF80000 = .ok (.imul ⟨0xD7, 0, 0, 57, 0, 0xBD, 0xF8, 0x0⟩) ∧
    decodeVea 0x57B547C0C4030001 = .ok (.imulh ⟨0xDA, 5, 0, 62, 1, 0xC4, 0x3, 0x0⟩) ∧
    decodeVeb 0x59BA8060CB0E0001 = .ok (.imin ⟨0xDD, 2, 0, 3, 1, 0xCB, 0xE, 0x0⟩) ∧
    decodeVea 0x5BC1C100D2190001 = .ok (.imax ⟨0xE0, 7, 0, 8, 1, 0xD2, 0x19, 0x0⟩) ∧
    decodeVeb 0x5DC701A0D9240000 = .ok (.iand ⟨0xE3, 4, 0, 13, 0, 0xD9, 0x24, 0x0⟩) ∧
    decodeVea 0x5FCC4240E02F0000 = .ok (.ior ⟨0xE6, 1, 0, 18, 0, 0xE0, 0x2F, 0x0⟩) ∧
    decodeVeb 0x61D382E0E73A0000 = .ok (.ixor ⟨0xE9, 6, 0, 23, 0, 0xE7, 0x3A, 0x0⟩) ∧
    decodeVea 0x63D8C380EE450000 = .ok (.ishl ⟨0xEC, 3, 0, 28, 0, 0xEE, 0x45, 0x0⟩) ∧
    decodeVeb 0x65DE0420F5500000 = .ok (.ishr ⟨0xEF, 0, 0, 33, 0, 0xF5, 0x50, 0x0⟩) ∧
    decodeVea 0x67E544C0FC5B0000 = .ok (.isra ⟨0xF2, 5, 0, 38, 0, 0xFC, 0x5B, 0x0⟩) ∧
    decodeVeb 0x69EA806003660005 = .ok (.icmp ⟨0xF5, 2, 0, 3, 5, 0x3, 0x66, 0x0⟩) ∧
    decodeVea 0x6BF1C6000A000000 = .ok (.iabs ⟨0xF8, 7, 0, 48, 0, 0xA, 0x0, 0x0⟩) ∧
    decodeVeb 0x6DF706A000000001 = .ok (.laneid ⟨0xFB, 4, 0, 53, 1, 0x0, 0x0, 0x0⟩) ∧
    decodeVea 0x6FFC47401800000D = .ok (.bcast ⟨0xFE, 1, 0, 58, 13, 0x18, 0x0, 0x0⟩) ∧
    decodeVeb 0x700587E01F920000 = .ok (.perm ⟨0x2, 6, 0, 63, 0, 0x1F, 0x92, 0x0⟩) := by
  refine ⟨?_, ?_, ?_, ?_, ?_, ?_, ?_, ?_, ?_, ?_, ?_, ?_, ?_, ?_, ?_, ?_, ?_, ?_⟩ <;> decide

/-- MOV words (R76, R79, R204): the word of each, its fields written out in the places that the spec gives them. -/
theorem test_words_mov :
    decodeMov 0x0D16E007 = .ok (.movp ⟨5, 0, 0xB7, 0, 0x7⟩) ∧
    decodeMov 0x15001580 = .ok (.movr ⟨5, 0, 0x0, 43, 0x0⟩) ∧
    decodeMov 0x1D56F59D = .ok (.xgc ⟨5, 2, 0xB7, 43, 0x1D⟩) ∧
    decodeMov 0x20001505 = .ok (.pop ⟨0, 0, 0x0, 42, 0x5⟩) ∧
    decodeMov 0x2D16E281 = .ok (.kmov ⟨5, 0, 0xB7, 5, 0x1⟩) ∧
    decodeMov 0x3500C18F = .ok (.kand ⟨5, 0, 0x6, 3, 0xF⟩) ∧
    decodeMov 0x3800C1CA = .ok (.kor ⟨0, 0, 0x6, 3, 0x4A⟩) ∧
    decodeMov 0x4505759E = .ok (.movs ⟨5, 0, 0x2B, 43, 0x1E⟩) ∧
    decodeMov 0x4D16F5AC = .ok (.movv ⟨5, 0, 0xB7, 43, 0x2C⟩) ∧
    decodeMov 0x50056003 = .ok (.srseed ⟨0, 0, 0x2B, 0, 0x3⟩) := by
  refine ⟨?_, ?_, ?_, ?_, ?_, ?_, ?_, ?_, ?_, ?_⟩ <;> decide

/-- MEM words (R77, R79, R211): the word of each, its fields written out in the places that the spec gives them. -/
theorem test_words_mem :
    decodeMem 0x06DACEC0D4002A6B = .ok (.vld ⟨0xB6, 5, 19, 44, 0xD4, 0x0, 0x2A6B⟩) ∧
    decodeMem 0x0ADF52B0D7002A6A = .ok (.vst ⟨0xB7, 6, 20, 43, 0xD7, 0x0, 0x2A6A⟩) ∧
    decodeMem 0x0EE3D6A0D4003546 = .ok (.vldx ⟨0xB8, 7, 21, 42, 0xD4, 0x0, 0x3546⟩) ∧
    decodeMem 0x12E45A90D7003546 = .ok (.vstx ⟨0xB9, 0, 22, 41, 0xD7, 0x0, 0x3546⟩) ∧
    decodeMem 0x16E8DE80D4B16A67 = .ok (.ldg ⟨0xBA, 1, 23, 40, 0xD4, 0x2C5, 0x2A67⟩) ∧
    decodeMem 0x1AED6270D4B16A66 = .ok (.ldr ⟨0xBB, 2, 24, 39, 0xD4, 0x2C5, 0x2A66⟩) ∧
    decodeMem 0x1EF0026000B14000 = .ok (.reld ⟨0xBC, 0, 0, 38, 0x0, 0x2C5, 0x0⟩) ∧
    decodeMem 0x22966A50D700357B = .ok (.vatom ⟨0xA5, 4, 26, 37, 0xD7, 0x0, 0x357B⟩) ∧
    decodeMem 0x26FAEE40D700357B = .ok (.vred ⟨0xBE, 5, 27, 36, 0xD7, 0x0, 0x357B⟩) := by
  refine ⟨?_, ?_, ?_, ?_, ?_, ?_, ?_, ?_, ?_⟩ <;> decide

/-- ENG words 0x01 to 0x0D (R78, R79): the word of each, its fields written out in the places that the spec gives them. -/
theorem test_words_eng0 :
    decodeEng 0x0447228EE25AD280 = .ok (.copy ⟨0, 1, 0, 3, 0x91, 0x47, 0xE2, 0x5AD280⟩) ∧
    decodeEng 0x08F52494E75A5A5A = .ok (.copys ⟨1, 1, 1, 10, 0x92, 0x4A, 0xE7, 0x5A5A5A⟩) ∧
    decodeEng 0x0D43269AECB54000 = .ok (.rotq ⟨2, 1, 0, 1, 0x93, 0x4D, 0xEC, 0xB54000⟩) ∧
    decodeEng 0x11D128A0F1AD2D00 = .ok (.ask ⟨3, 1, 0, 8, 0x94, 0x50, 0xF1, 0xAD2D00⟩) ∧
    decodeEng 0x165F2AA6F6A80000 = .ok (.announce ⟨4, 1, 0, 15, 0x95, 0x53, 0xF6, 0xA80000⟩) ∧
    decodeEng 0x1A8D2CACFBB40000 = .ok (.seal ⟨5, 0, 0, 6, 0x96, 0x56, 0xFB, 0xB40000⟩) ∧
    decodeEng 0x1F5B2EB200B75AF0 = .ok (.atom ⟨6, 1, 0, 13, 0x97, 0x59, 0x0, 0xB75AF0⟩) ∧
    decodeEng 0x206930B805B7502C = .ok (.red ⟨0, 1, 1, 4, 0x98, 0x5C, 0x5, 0xB7502C⟩) ∧
    decodeEng 0x249732BE0AB75825 = .ok (.binit ⟨1, 0, 0, 11, 0x99, 0x5F, 0xA, 0xB75825⟩) ∧
    decodeEng 0x290534C40FB40000 = .ok (.barr ⟨2, 0, 0, 2, 0x9A, 0x62, 0xF, 0xB40000⟩) ∧
    decodeEng 0x2D9336CA142D5000 = .ok (.barrx ⟨3, 0, 0, 9, 0x9B, 0x65, 0x14, 0x2D5000⟩) ∧
    decodeEng 0x320138D019B60000 = .ok (.bwait ⟨4, 0, 0, 0, 0x9C, 0x68, 0x19, 0xB60000⟩) ∧
    decodeEng 0x368F3AD61EB6B6A0 = .ok (.btwait ⟨5, 0, 0, 7, 0x9D, 0x6B, 0x1E, 0xB6B6A0⟩) := by
  refine ⟨?_, ?_, ?_, ?_, ?_, ?_, ?_, ?_, ?_, ?_, ?_, ?_, ?_⟩ <;> decide

/-- ENG words 0x0E to 0x19 (R78, R79): the word of each, its fields written out in the places that the spec gives them. -/
theorem test_words_eng1 :
    decodeEng 0x3B7D3CDC23B54000 = .ok (.scall ⟨6, 1, 1, 14, 0x9E, 0x6E, 0x23, 0xB54000⟩) ∧
    decodeEng 0x3C0B3EE228880000 = .ok (.scfg ⟨0, 0, 0, 5, 0x9F, 0x71, 0x28, 0x880000⟩) ∧
    decodeEng 0x40D940E82DA00000 = .ok (.sdrain ⟨1, 1, 0, 12, 0xA0, 0x74, 0x2D, 0xA00000⟩) ∧
    decodeEng 0x452742EE32A96A80 = .ok (.smload ⟨2, 0, 1, 3, 0xA1, 0x77, 0x32, 0xA96A80⟩) ∧
    decodeEng 0x499544F4370010B6 = .ok (.sintf ⟨3, 0, 0, 10, 0xA2, 0x7A, 0x37, 0x10B6⟩) ∧
    decodeEng 0x4E4346FA3CB4A000 = .ok (.msub ⟨4, 1, 0, 1, 0xA3, 0x7D, 0x3C, 0xB4A000⟩) ∧
    decodeEng 0x5291490041259400 = .ok (.mstat ⟨5, 0, 0, 8, 0xA4, 0x80, 0x41, 0x259400⟩) ∧
    decodeEng 0x573F4B0646A80000 = .ok (.darm ⟨6, 0, 1, 15, 0xA5, 0x83, 0x46, 0xA80000⟩) ∧
    decodeEng 0x586D4D0C4BAD2D00 = .ok (.dput ⟨0, 1, 1, 6, 0xA6, 0x86, 0x4B, 0xAD2D00⟩) ∧
    decodeEng 0x5CDB4F1250A80000 = .ok (.launch ⟨1, 1, 0, 13, 0xA7, 0x89, 0x50, 0xA80000⟩) ∧
    decodeEng 0x6169511855980000 = .ok (.launchi ⟨2, 1, 1, 4, 0xA8, 0x8C, 0x55, 0x980000⟩) ∧
    decodeEng 0x6757531E5A580000 = .ok (.flushh ⟨6, 1, 0, 11, 0xA9, 0x8F, 0x5A, 0x580000⟩) := by
  refine ⟨?_, ?_, ?_, ?_, ?_, ?_, ?_, ?_, ?_, ?_, ?_, ?_⟩ <;> decide

/-- Serac micro-words (R316 to R323): the word of each, its fields written out in the places that the spec gives them. -/
theorem test_words_micro :
    decodeMicro 0x0E145DA0C3D20000 = .ok (.sldw 6 5 11 0x5A 0xC3D2) ∧
    decodeMicro 0x16145DAAC3D20000 = .ok (.sstrm 6 5 11 0x5A 1 0 1 0xC3D2) ∧
    decodeMicro 0x1E765802C3D21BAD = .ok (.soutr 6 3 5 4 11 0 1 0xC3D2 0x1BAD) ∧
    decodeMicro 0x26005DA2C3D20003 = .ok (.sacc 3 6 11 0x5A 1 0xC3D2) ∧
    decodeMicro 0x2E005DA8C3D2937F = .ok (.sdrn 6 11 0x5A 1 0xC3D2 0x937F) ∧
    decodeMicro 0x36745A00C3D21BAD = .ok (.sgath 6 3 5 0x2D 0xC3D2 0x1BAD) ∧
    decodeMicro 0x3DA005A389ABCDEF = .ok (.mloop 2 1 5 0x5A3 0x89ABCDEF) ∧
    decodeMicro 0x4670000089ABCDEF = .ok (.madd 6 3 1 0x89ABCDEF) ∧
    decodeMicro 0x4800000000000000 = .ok .yp ∧
    decodeMicro 0x6000000000000000 = .ok .mend ∧
    decodeMicro 0x54D6800000000000 = .ok (.msig 0x9A 13) ∧
    decodeMicro 0x5CD3580000000000 = .ok (.mwait 0x9A 0x6B) := by
  refine ⟨?_, ?_, ?_, ?_, ?_, ?_, ?_, ?_, ?_, ?_, ?_, ?_⟩ <;> decide

/-- Moraine instructions (R336): the word of each, its fields written out in the places that the spec gives them. -/
theorem test_words_mor :
    decodeMoraine 0x0DAA0000 = .ok (.moraineVld 22 5 1) ∧
    decodeMoraine 0x15F00000 = .ok (.moraineVst 23 6 0) ∧
    decodeMoraine 0x1DE49000 = .ok (.moraineFadd 23 18 9) ∧
    decodeMoraine 0x25E49000 = .ok (.moraineFsub 23 18 9) ∧
    decodeMoraine 0x2DE49000 = .ok (.moraineFmul 23 18 9) ∧
    decodeMoraine 0x3DE49000 = .ok (.moraineFmin 23 18 9) ∧
    decodeMoraine 0x45E49000 = .ok (.moraineFmax 23 18 9) ∧
    decodeMoraine 0x35E49A00 = .ok (.moraineFma 23 18 9 20) ∧
    decodeMoraine 0x55E49A00 = .ok (.moraineFsel 23 18 9 20) ∧
    decodeMoraine 0x4DE49006 = .ok (.moraineFcmp 23 18 9 6) ∧
    decodeMoraine 0x5DE40000 = .ok (.moraineRcp 23 18) ∧
    decodeMoraine 0x65E40000 = .ok (.moraineRsq 23 18) ∧
    decodeMoraine 0x6DE40000 = .ok (.moraineCvtb 23 18) ∧
    decodeMoraine 0x7580C3D2 = .ok (.movi 5 1 0xC3D2) ∧
    decodeMoraine 0x7DF00000 = .ok (.moraineBcast 23 6) ∧
    decodeMoraine 0x86DA0000 = .ok (.loopa 1 5 0x5A 0) ∧
    decodeMoraine 0x885FC3D2 = .ok (.loopb 0 0 0x5F 0xC3D2) ∧
    decodeMoraine 0x90000000 = .ok .moraineEnd ∧
    decodeMoraine 0x9D2DE000 = .ok (.mbxs 0xA5 11 6) ∧
    decodeMoraine 0xA600C3D2 = .ok (.mbxw 6 0xC3D2) := by
  refine ⟨?_, ?_, ?_, ?_, ?_, ?_, ?_, ?_, ?_, ?_, ?_, ?_, ?_, ?_, ?_, ?_, ?_, ?_, ?_, ?_⟩ <;> decide

/-- Moraine commands (R343): the word of each, its fields written out in the places that the spec gives them. -/
theorem test_words_cmd :
    decodeCommand [0x01, 0x00, 0x51, 0x0F, 0x00, 0x00, 0x00, 0x00, 0xE4, 0xCD, 0xAB, 0x89, 0x67, 0x45, 0x23, 0x01, 0x00, 0x00, 0x00, 0x00, 0x00, 0x00, 0x00, 0x00, 0x00, 0x00, 0x00, 0x00, 0x00, 0x00, 0x00, 0x00] =
      .ok (.loadp 0 0x51 0xF 0x123456789ABCDE4) ∧
    decodeCommand [0x02, 0x5F, 0xD2, 0xC3, 0x00, 0x00, 0x00, 0x00, 0x00, 0x00, 0x00, 0x00, 0x00, 0x00, 0x00, 0x00, 0x00, 0x00, 0x00, 0x00, 0x00, 0x00, 0x00, 0x00, 0x00, 0x00, 0x00, 0x00, 0x00, 0x00, 0x00, 0x00] =
      .ok (.run 0x5F 0xC3D2) ∧
    decodeCommand [0x03, 0x00, 0x00, 0x00, 0x00, 0x00, 0x00, 0x00, 0xE4, 0xCD, 0xAB, 0x89, 0x67, 0x45, 0x23, 0x01, 0x10, 0x32, 0x54, 0x76, 0x98, 0xBA, 0xDC, 0xFE, 0x00, 0x00, 0x00, 0x00, 0x00, 0x00, 0x00, 0x00] =
      .ok (.rowsh 0x123456789ABCDE4 0xFEDCBA9876543210) ∧
    decodeCommand [0x04, 0xA5, 0x0B, 0x00, 0x00, 0x00, 0x00, 0x00, 0xEF, 0xCD, 0xAB, 0x89, 0x00, 0x00, 0x00, 0x00, 0x00, 0x00, 0x00, 0x00, 0x00, 0x00, 0x00, 0x00, 0x00, 0x00, 0x00, 0x00, 0x00, 0x00, 0x00, 0x00] =
      .ok (.mbx 0xA5 11 0x89ABCDEF) ∧
    decodeCommand [0x05, 0x00, 0x06, 0x00, 0xEF, 0xCD, 0xAB, 0x89, 0xE4, 0xCD, 0xAB, 0x89, 0x67, 0x45, 0x23, 0x01, 0x10, 0x32, 0x54, 0x76, 0x98, 0xBA, 0xDC, 0xFE, 0x00, 0x00, 0x00, 0x00, 0x00, 0x00, 0x00, 0x00] =
      .ok (.trig 0 6 0x89ABCDEF 0x123456789ABCDE4 0xFEDCBA9876543210) ∧
    decodeCommand [0x06, 0x05, 0x01, 0x00, 0x00, 0x00, 0x00, 0x00, 0x00, 0x00, 0x00, 0x00, 0x00, 0x00, 0x00, 0x00, 0x00, 0x00, 0x00, 0x00, 0x00, 0x00, 0x00, 0x00, 0x00, 0x00, 0x00, 0x00, 0x00, 0x00, 0x00, 0x00] =
      .ok (.fencem 5 1) ∧
    decodeCommand [0x07, 0x05, 0x01, 0x00, 0x00, 0x00, 0x00, 0x00, 0xE4, 0xCD, 0xAB, 0x89, 0x67, 0x45, 0x23, 0x01, 0x10, 0x32, 0x54, 0x76, 0x98, 0xBA, 0xDC, 0xFE, 0x00, 0x00, 0x00, 0x00, 0x00, 0x00, 0x00, 0x00] =
      .ok (.relm 5 1 0x123456789ABCDE4 0xFEDCBA9876543210) ∧
    decodeCommand [0x08, 0x05, 0x01, 0x00, 0xEF, 0xCD, 0x00, 0x00, 0xE4, 0xCD, 0xAB, 0x89, 0x67, 0x45, 0x23, 0x01, 0x10, 0x32, 0x54, 0x76, 0x98, 0xBA, 0xDC, 0xFE, 0x00, 0x00, 0x00, 0x00, 0x00, 0x00, 0x00, 0x00] =
      .ok (.annm 5 1 0xCDEF 0x123456789ABCDE4 0xFEDCBA9876543210) := by
  refine ⟨?_, ?_, ?_, ?_, ?_, ?_, ?_, ?_⟩ <;> decide

/-- Drift entries (R368 to R381): the word of each, its fields written out in the places that the spec gives them. -/
theorem test_words_drift :
    decodeDrift [0x01, 0x1D, 0x9D, 0x00, 0xBC, 0x0A, 0x00, 0x00, 0xEF, 0xCD, 0xAB, 0x89, 0x23, 0x81, 0x56, 0x84, 0xE4, 0xCD, 0xAB, 0x89, 0x67, 0x45, 0x23, 0x01, 0x10, 0x32, 0x54, 0x76, 0x98, 0xD0, 0xBC, 0x3A, 0xEF, 0xCD, 0xAB, 0x00, 0xEF, 0x8D, 0x00, 0x00, 0x00, 0x00, 0x00, 0x00, 0x00, 0x00, 0x00, 0x00, 0x00, 0x00, 0x00, 0x00, 0x00, 0x00, 0x00, 0x00, 0x00, 0x00, 0x00, 0x00, 0x00, 0x00, 0x00, 0x00] =
      .ok (.put ⟨1, 1, 5, 9, 13, 0xABC, 0x89ABCDEF, 0x8123, 0x8456⟩ 0x123456789ABCDE4 0x3ABCD09876543210 0xABCDEF 0x8DEF) ∧
    decodeDrift [0x02, 0x1D, 0x9D, 0x00, 0xBC, 0x0A, 0x00, 0x00, 0xEF, 0xCD, 0xAB, 0x89, 0x23, 0x81, 0x56, 0x84, 0xE4, 0xCD, 0xAB, 0x89, 0x67, 0x45, 0x23, 0x01, 0x10, 0x32, 0x54, 0x76, 0x98, 0xD0, 0xBC, 0x3A, 0xEC, 0xCD, 0xAB, 0x00, 0xEF, 0x8D, 0x01, 0x00, 0x00, 0x00, 0x00, 0x00, 0x00, 0x00, 0x00, 0x00, 0x00, 0x00, 0x00, 0x00, 0x00, 0x00, 0x00, 0x00, 0x00, 0x00, 0x00, 0x00, 0x00, 0x00, 0x00, 0x00] =
      .ok (.putred ⟨1, 1, 5, 9, 13, 0xABC, 0x89ABCDEF, 0x8123, 0x8456⟩ 0x123456789ABCDE4 0x3ABCD09876543210 0xABCDEC 0x8DEF 1) ∧
    decodeDrift [0x03, 0x1D, 0x9D, 0x00, 0xBC, 0x0A, 0x00, 0x00, 0xEF, 0xCD, 0xAB, 0x89, 0x23, 0x81, 0x56, 0x84, 0xE4, 0xCD, 0xAB, 0x89, 0x67, 0x45, 0x23, 0x01, 0x10, 0x32, 0x54, 0x76, 0x98, 0x00, 0xBC, 0x82, 0xEF, 0xCD, 0xAB, 0x00, 0xEF, 0x8D, 0x00, 0x00, 0x00, 0x32, 0x54, 0x76, 0x98, 0xBA, 0xDC, 0xFE, 0x00, 0x00, 0x00, 0x00, 0x00, 0x00, 0x00, 0x00, 0x00, 0x00, 0x00, 0x00, 0x00, 0x00, 0x00, 0x00] =
      .ok (.putmc ⟨1, 1, 5, 9, 13, 0xABC, 0x89ABCDEF, 0x8123, 0x8456⟩ 0x123456789ABCDE4 0x82BC009876543210 0xABCDEF 0x8DEF 0xFEDCBA9876543200) ∧
    decodeDrift [0x04, 0x1D, 0x9D, 0x00, 0xBC, 0x0A, 0x00, 0x00, 0xEF, 0xCD, 0xAB, 0x89, 0x23, 0x81, 0x56, 0x84, 0x10, 0x32, 0x54, 0x76, 0x98, 0xD0, 0xBC, 0x3A, 0xE4, 0xCD, 0xAB, 0x89, 0x67, 0x45, 0x23, 0x01, 0xEF, 0xCD, 0xAB, 0x00, 0x00, 0x00, 0x00, 0x00, 0x00, 0x00, 0x00, 0x00, 0x00, 0x00, 0x00, 0x00, 0x00, 0x00, 0x00, 0x00, 0x00, 0x00, 0x00, 0x00, 0x00, 0x00, 0x00, 0x00, 0x00, 0x00, 0x00, 0x00] =
      .ok (.get ⟨1, 1, 5, 9, 13, 0xABC, 0x89ABCDEF, 0x8123, 0x8456⟩ 0x3ABCD09876543210 0x123456789ABCDE4 0xABCDEF) ∧
    decodeDrift [0x05, 0x1D, 0x9D, 0x00, 0xBC, 0x0A, 0x00, 0x00, 0xEF, 0xCD, 0xAB, 0x89, 0x23, 0x81, 0x56, 0x84, 0x00, 0x00, 0x00, 0x00, 0x00, 0x00, 0x00, 0x00, 0x00, 0x00, 0x00, 0x00, 0x00, 0x00, 0xBC, 0x3A, 0xEF, 0xCD, 0xAB, 0x89, 0xEF, 0x8D, 0x00, 0x00, 0x00, 0x00, 0x00, 0x00, 0x00, 0x00, 0x00, 0x00, 0x00, 0x00, 0x00, 0x00, 0x00, 0x00, 0x00, 0x00, 0x00, 0x00, 0x00, 0x00, 0x00, 0x00, 0x00, 0x00] =
      .ok (.signal ⟨1, 1, 5, 9, 13, 0xABC, 0x89ABCDEF, 0x8123, 0x8456⟩ 0x3ABC000000000000 0x89ABCDEF 0x8DEF) ∧
    decodeDrift [0x06, 0x1D, 0x9D, 0x00, 0xBC, 0x0A, 0x00, 0x00, 0xEF, 0xCD, 0xAB, 0x89, 0x23, 0x81, 0x56, 0x84, 0xE4, 0xCD, 0xAB, 0x89, 0x67, 0x45, 0x23, 0x01, 0x10, 0x32, 0x54, 0x76, 0x98, 0xBA, 0xDC, 0xFE, 0xEC, 0xCD, 0xAB, 0x89, 0x67, 0x45, 0x23, 0x01, 0xC0, 0xCD, 0xAB, 0x02, 0xBC, 0x3A, 0xEF, 0x0D, 0x0D, 0x0C, 0x0B, 0x00, 0x00, 0x00, 0x00, 0x00, 0x10, 0x32, 0x54, 0x76, 0x98, 0xBA, 0xDC, 0xFE] =
      .ok (.rsstep ⟨1, 1, 5, 9, 13, 0xABC, 0x89ABCDEF, 0x8123, 0x8456⟩ 0x123456789ABCDE4 0xFEDCBA9876543210 0x123456789ABCDEC 0x2ABCDC0 0x3ABC 0xDEF 13 12 11 0xFEDCBA9876543210) ∧
    decodeDrift [0x07, 0x1D, 0x9D, 0x00, 0xBC, 0x0A, 0x00, 0x00, 0xEF, 0xCD, 0xAB, 0x89, 0x23, 0x81, 0x56, 0x84, 0xE4, 0xCD, 0xAB, 0x89, 0x67, 0x45, 0x23, 0x01, 0x10, 0x32, 0x54, 0x76, 0x98, 0xBA, 0xDC, 0xFE, 0xC1, 0xCD, 0xAB, 0x02, 0xC0, 0xAB, 0x00, 0x00, 0xE5, 0xCD, 0xAB, 0x89, 0x67, 0x45, 0x23, 0x01, 0x00, 0x00, 0x00, 0x00, 0x00, 0x00, 0x00, 0x00, 0x00, 0x00, 0x00, 0x00, 0x00, 0x00, 0x00, 0x00] =
      .ok (.deliver ⟨1, 1, 5, 9, 13, 0xABC, 0x89ABCDEF, 0x8123, 0x8456⟩ 0x123456789ABCDE4 0xFEDCBA9876543210 0x2ABCDC1 0xABC0 0x123456789ABCDE5) := by
  refine ⟨?_, ?_, ?_, ?_, ?_, ?_, ?_⟩ <;> decide

/-- An instruction that breaks each of the ctl checks is not well-formed (R54, R73, R118). -/
theorem test_illFormed_ctl : ∀ i ∈ ([
    .brc 0 6 0,
    .loop 3 8 0,
    .loopi 3 8 1,
    .fence 7,
    .acq 0 0 7 0,
    .acq 0 0 0 3,
    .rel 0 0 7,
    .mfs 0 0xFFF,
    .mts 0 0x0FF] : List Instr), ¬ i.WellFormed := by
  decide

/-- An instruction that breaks each of the scalar checks is not well-formed (R74, R145 to R148). -/
theorem test_illFormed_scalar : ∀ i ∈ ([
    .lds 0 0 7 0,
    .ldf 0 0 7 0,
    .sts 0 0 4 0,
    .stf 0 0 6 0,
    .hset 0 0 21,
    .hget 0 0 31,
    .htile 0 0 0 24,
    .hname 0 0 0 3,
    .hname 0 0 1 0] : List Instr), ¬ i.WellFormed := by
  decide

/-- An instruction that breaks each of the vector checks is not well-formed (R69, R153, R171, R199). -/
theorem test_illFormed_vector : ∀ i ∈ ([
    .fadd ⟨0, 0, 0, 0, 0, 0, 0, 0⟩,
    .fadd ⟨1, 0, 5, 0, 0, 0, 0, 0⟩,
    .fmin ⟨1, 0, 1, 0, 0, 0, 0, 0⟩,
    .rsum ⟨1, 0, 4, 0, 0, 0, 0, 0⟩,
    .fadd ⟨1, 0, 0, 0, 1, 0, 0, 0⟩,
    .fadd ⟨1, 0, 0, 0, 0, 0, 0, 4⟩,
    .fabs ⟨1, 0, 0, 0, 0, 0, 1, 0⟩,
    .laneid ⟨1, 0, 0, 0, 0, 1, 0, 0⟩,
    .faddx ⟨1, 0, 0, 1, 0, 0, 0, 0⟩,
    .dwadd ⟨1, 0, 0, 0, 0, 4, 0, 0⟩,
    .dwadd ⟨1, 0, 0, 0, 0, 0, 1, 0⟩,
    .fdot4 ⟨1, 0, 0, 0, 0, 0, 0, 1⟩,
    .fcmp ⟨1, 0, 0, 8, 0, 0, 0, 0⟩,
    .fcmp ⟨1, 0, 0, 0, 8, 0, 0, 0⟩,
    .cvtf ⟨1, 0, 0, 0, 4, 0, 0, 0⟩,
    .cvtf ⟨1, 0, 0, 0, 32, 0, 0, 0⟩,
    .cvtn ⟨1, 0, 0, 0, 32, 0, 0, 0⟩,
    .fdot4 ⟨1, 0, 0, 0, 3, 0, 0, 0⟩,
    .fdot4 ⟨1, 0, 0, 0, 12, 0, 0, 0⟩] : List Instr), ¬ i.WellFormed := by
  decide

/-- An instruction that breaks each of the mov checks is not well-formed (R204, R222). -/
theorem test_illFormed_mov : ∀ i ∈ ([
    .movp ⟨0, 0, 0, 0, 8⟩,
    .movp ⟨0, 0, 0, 1, 0⟩,
    .movp ⟨0, 1, 0, 0, 0⟩,
    .movp ⟨1, 0, 0, 0, 64⟩,
    .movr ⟨0, 0, 1, 0, 0⟩,
    .movr ⟨0, 0, 0, 0, 1⟩,
    .xgc ⟨0, 1, 0, 0, 64⟩,
    .xgc ⟨0, 0, 0, 0, 32⟩,
    .pop ⟨0, 0, 0, 0, 6⟩,
    .pop ⟨0, 0, 0, 1, 0⟩,
    .pop ⟨1, 0, 0, 0, 0⟩,
    .pop ⟨0, 0, 1, 0, 0⟩,
    .kmov ⟨0, 0, 0, 0, 3⟩,
    .kmov ⟨0, 0, 8, 0, 0⟩,
    .kmov ⟨0, 0, 0, 8, 1⟩,
    .kmov ⟨0, 0, 8, 0, 2⟩,
    .kand ⟨0, 0, 8, 0, 0⟩,
    .kor ⟨0, 0, 0, 8, 0⟩,
    .kor ⟨0, 0, 0, 0, 16⟩,
    .movs ⟨0, 0, 64, 0, 0⟩,
    .movs ⟨0, 0, 0, 0, 32⟩,
    .movv ⟨0, 0, 0, 0, 64⟩,
    .movv ⟨0, 1, 0, 0, 0⟩,
    .srseed ⟨0, 0, 0, 0, 0⟩,
    .srseed ⟨0, 0, 0, 0, 4⟩,
    .srseed ⟨0, 0, 0, 1, 1⟩] : List Instr), ¬ i.WellFormed := by
  decide

/-- An instruction that breaks each of the mem checks is not well-formed (R77, R211, R221, R222). -/
theorem test_illFormed_mem : ∀ i ∈ ([
    .vld ⟨0, 0, 0, 0, 0, 0, 0⟩,
    .vld ⟨1, 0, 0, 0, 0, 1, 0⟩,
    .vld ⟨1, 0, 0, 0, 1, 0, 0⟩,
    .vst ⟨0, 0, 0, 0, 0, 0, 0⟩,
    .vst ⟨1, 0, 0, 0, 0, 1, 0⟩,
    .vldx ⟨1, 0, 0, 0, 0, 0, 7⟩,
    .vldx ⟨1, 0, 0, 0, 0, 0, 8⟩,
    .vldx ⟨1, 0, 0, 0, 2, 0, 0⟩,
    .vstx ⟨1, 0, 0, 0, 0, 0, 7⟩,
    .ldg ⟨1, 0, 0, 0, 0, 0, 0⟩,
    .ldr ⟨1, 0, 0, 0, 0, 0, 0⟩,
    .ldg ⟨1, 0, 0, 0, 1, 1, 0⟩,
    .reld ⟨1, 0, 0, 0, 0, 0, 0⟩,
    .reld ⟨1, 0, 1, 0, 0, 1, 0⟩,
    .reld ⟨1, 1, 0, 0, 0, 1, 0⟩,
    .reld ⟨1, 0, 0, 0, 4, 1, 0⟩,
    .reld ⟨1, 0, 0, 0, 0, 1, 1⟩,
    .vatom ⟨31, 0, 0, 0, 0, 0, 0⟩,
    .vatom ⟨1, 0, 0, 0, 0, 0, 12⟩,
    .vatom ⟨1, 0, 0, 0, 0, 1, 0⟩,
    .vred ⟨1, 0, 0, 0, 0, 0, 8⟩,
    .vred ⟨1, 0, 0, 0, 0, 0, 12⟩,
    .vred ⟨0, 0, 0, 0, 0, 0, 0⟩] : List Instr), ¬ i.WellFormed := by
  decide

/-- An instruction that breaks each of the eng checks is not well-formed (R54, R263, R270, R271, R274, R310, R313, R314, R352, R373). -/
theorem test_illFormed_eng : ∀ i ∈ ([
    .copy ⟨7, 0, 0, 0, 0, 0, 0, 0⟩,
    .ask ⟨0, 0, 1, 0, 0, 0, 0, 0⟩,
    .sdrain ⟨0, 0, 1, 0, 0, 0, 0, 0⟩,
    .seal ⟨0, 1, 0, 0, 0, 0, 0, 0⟩,
    .binit ⟨0, 1, 0, 0, 0, 0, 0, 0⟩,
    .bwait ⟨0, 0, 1, 0, 0, 0, 0, 0⟩,
    .mstat ⟨0, 1, 0, 0, 0, 0, 0, 0⟩,
    .darm ⟨0, 1, 0, 0, 0, 0, 0, 0⟩,
    .smload ⟨0, 1, 0, 0, 0, 0, 0, 0⟩,
    .copy ⟨0, 0, 0, 0, 0, 0, 0, 1⟩,
    .rotq ⟨0, 0, 0, 0, 0, 0, 0, 1⟩,
    .dput ⟨0, 0, 0, 0, 0, 0, 0, 64⟩,
    .atom ⟨0, 0, 0, 0, 0, 0, 0, 1⟩,
    .atom ⟨0, 0, 0, 0, 0, 0, 0, 0x34⟩,
    .atom ⟨0, 0, 0, 0, 0, 0, 0, 0x26⟩,
    .atom ⟨0, 0, 0, 0, 0, 0, 0, 0x40⟩,
    .red ⟨0, 0, 0, 0, 0, 0, 0, 0x20⟩,
    .red ⟨0, 0, 0, 0, 0, 0, 0, 0x30⟩,
    .red ⟨0, 0, 0, 0, 0, 0, 0, 0x26⟩,
    .binit ⟨0, 0, 0, 0, 0, 0, 0, 1⟩,
    .binit ⟨0, 0, 0, 0, 0, 0, 0, 0x806⟩,
    .binit ⟨0, 0, 0, 0, 0, 0, 0, 0x828⟩,
    .scfg ⟨0, 0, 0, 0, 0, 0, 0, 0x20000⟩,
    .scfg ⟨0, 0, 0, 0, 0, 0, 0, 0x100000⟩,
    .smload ⟨0, 0, 0, 0, 0, 0, 0, 0x48000⟩,
    .sintf ⟨0, 0, 0, 0, 0, 0, 0, 0x0001⟩,
    .sintf ⟨0, 0, 0, 0, 0, 0, 0, 0x0900⟩,
    .sintf ⟨0, 0, 0, 0, 0, 0, 0, 0x0040⟩,
    .mstat ⟨0, 0, 0, 0, 0, 0, 0, 0x9800⟩,
    .flushh ⟨0, 0, 0, 0, 0, 0, 0, 0⟩] : List Instr), ¬ i.WellFormed := by
  decide

/-- An instruction that breaks each of the micro checks is not well-formed (R316 to R323). -/
theorem test_illFormed_micro : ∀ i ∈ ([
    .sstrm 1 0 0 0 0 1 0 0,
    .soutr 0 0 1 0 0 1 0 0 0,
    .sacc 0 1 0 0 0 0,
    .sacc 1 0 0 0 1 0,
    .sacc 0 0 0 0 0 1,
    .sdrn 0 0 0 0 0 0xC000,
    .sdrn 0 0 0 0 0 0x1400,
    .mloop 3 0 0 1 0,
    .mloop 0 0 0 0 0,
    .msig 0 0] : List Instr), ¬ i.WellFormed := by
  decide

/-- An instruction that breaks each of the moraine checks is not well-formed (R336). -/
theorem test_illFormed_moraine : ∀ i ∈ ([
    .moraineVld 24 0 0,
    .moraineVst 0 0 2,
    .moraineFadd 24 0 0,
    .moraineFma 0 0 0 24,
    .moraineFsel 0 24 0 0,
    .moraineFcmp 0 0 31 0,
    .moraineRcp 0 24,
    .moraineBcast 24 0,
    .loopa 0 0 96 1,
    .loopa 0 1 1 1,
    .loopb 1 0 1 1,
    .mbxw 1 0] : List Instr), ¬ i.WellFormed := by
  decide

/-- An instruction that breaks each of the command checks is not well-formed (R343). -/
theorem test_illFormed_command : ∀ i ∈ ([
    .loadp 2 0 1 0,
    .loadp 0 96 1 0,
    .loadp 0 0 0 0,
    .loadp 0 90 7 0,
    .loadp 0 0 1 2,
    .loadp 1 0 1 0,
    .loadp 1 0 0 16,
    .run 96 0,
    .mbx 0 16 0,
    .mbx 0 0 0x100000000,
    .trig 2 0 0 0 0,
    .trig 0 7 0 0 0,
    .trig 1 0 0 0 1,
    .fencem 7 0,
    .fencem 0 2,
    .relm 0 2 0 0,
    .annm 0 0 0 0 0,
    .annm 0 0 65537 0 0] : List Instr), ¬ i.WellFormed := by
  decide

/-- An instruction that breaks each of the drift checks is not well-formed (R368 to R370, R372, R380, R381). -/
theorem test_illFormed_drift : ∀ i ∈ ([
    .put ⟨0, 0, 7, 0, 0, 0, 0, 0, 0⟩ 0 0 1 0,
    .put ⟨0, 0, 0, 11, 0, 0, 0, 0, 0⟩ 0 0 1 0,
    .put ⟨0, 0, 0, 0, 0, 0, 0, 0x1000, 0⟩ 0 0 1 0,
    .put ⟨0, 0, 0, 0, 0, 0, 0, 0, 0x4000⟩ 0 0 1 0,
    .put ⟨0, 0, 0, 0, 0, 0, 0, 0, 0⟩ 0 0 0 0,
    .put ⟨0, 0, 0, 0, 0, 0, 0, 0, 0⟩ 0 0 0x1000001 0,
    .put ⟨0, 0, 0, 0, 0, 0, 0, 0, 0⟩ 0 0x8000000000000000 1 0,
    .put ⟨0, 0, 0, 0, 0, 0, 0, 0, 0⟩ 0 0x4000000000000000 1 0,
    .put ⟨0, 0, 0, 0, 0, 0, 0, 0, 0⟩ 0 0x10000000000 1 0,
    .put ⟨0, 0, 0, 0, 0, 0, 0, 0, 0⟩ 0 0 1 0x1000,
    .putred ⟨0, 0, 0, 0, 0, 0, 0, 0, 0⟩ 0 0 2 0 0,
    .putred ⟨0, 0, 0, 0, 0, 0, 0, 0, 0⟩ 0 0 4 0 2,
    .putmc ⟨0, 0, 0, 0, 0, 0, 0, 0, 0⟩ 0 0 1 0 0,
    .putmc ⟨0, 0, 0, 0, 0, 0, 0, 0, 0⟩ 0 0x8000100000000000 1 0 0,
    .putmc ⟨0, 0, 0, 0, 0, 0, 0, 0, 0⟩ 0 0x8000000000000000 1 0 16,
    .get ⟨0, 0, 0, 0, 0, 0, 0, 0, 0⟩ 0x8000000000000000 0 1,
    .signal ⟨0, 0, 0, 0, 0, 0, 0, 0, 0⟩ 0 1 0,
    .signal ⟨0, 0, 0, 0, 0, 0, 0, 0, 0⟩ 1 1 0x8000,
    .rsstep ⟨0, 0, 0, 0, 0, 0, 0, 0, 0⟩ 0 0 0 32 0 0 1 0 0 0,
    .rsstep ⟨0, 0, 0, 0, 0, 0, 0, 0, 0⟩ 0 0 0 64 0x4000 0 1 0 0 0,
    .rsstep ⟨0, 0, 0, 0, 0, 0, 0, 0, 0⟩ 0 0 0 64 0 0x1000 1 0 0 0,
    .rsstep ⟨0, 0, 0, 0, 0, 0, 0, 0, 0⟩ 0 0 0 64 0 0 17 0 0 0,
    .rsstep ⟨0, 0, 0, 0, 0, 0, 0, 0, 0⟩ 0 0 0 64 0 0 2 2 0 0,
    .rsstep ⟨0, 0, 0, 0, 0, 0, 0, 0, 0⟩ 0 0 0 64 0 0 2 0 2 0,
    .rsstep ⟨0, 0, 0, 0, 0, 0, 0, 0, 0⟩ 0 0 0 64 0 0 1 0 0 4,
    .deliver ⟨0, 0, 0, 0, 0, 0, 0, 0, 0⟩ 0 0 0 64 0,
    .deliver ⟨0, 0, 0, 0, 0, 0, 0, 0, 0⟩ 0 0 1 63 0,
    .deliver ⟨0, 0, 0, 0, 0, 0, 0, 0, 0⟩ 0 0 1 65600 0] : List Instr), ¬ i.WellFormed := by
  decide

/-- Reserved bits, reserved values, unassigned opcodes and opcodes of another slot are refused, each by its name, and so is a
word of zeros (R72, R79). -/
theorem test_refusals :
    decodeCtl 0 = .error (.unassigned 0) ∧ decodeCtl 0x58000000 = .error (.unassigned 0x16) ∧
    decodeCtl 0x0C000001 = .error .reservedBit ∧ decodeCtl 0x080C0000 = .error .reservedValue ∧
    decodeSca 0x88000000 = .error (.wrongSlot 0x22) ∧ decodeSca 0xA8000000 = .error (.wrongSlot 0x2A) ∧
    decodeSca 0xAC000000 = .error (.unassigned 0x2B) ∧ decodeScb 0 = .error (.unassigned 0) ∧
    decodeScb 0xAC000000 = .error (.unassigned 0x2B) ∧ decodeScb 0x34000040 = .error .reservedBit ∧
    decodeVea 0x7200000000000000 = .error (.unassigned 0x39) ∧ decodeVea 0x0200000000000000 = .error .reservedValue ∧
    decodeVeb 0x2E00000000000000 = .error (.wrongSlot 0x17) ∧ decodeVeb 0x3C02000000000000 = .error (.wrongSlot 0x1E) ∧
    decodeVeb 0x4800000000000000 = .error (.wrongSlot 0x24) ∧ decodeMov 0x58000000 = .error (.unassigned 0x0B) ∧
    decodeMem 0x2800000000000000 = .error (.unassigned 0x0A) ∧ decodeMem 0x0404000100000000 = .error .reservedBit ∧
    decodeEng 0x6800000000000000 = .error (.unassigned 0x1A) ∧ decodeEng 0x0400000100000000 = .error .reservedBit ∧
    decodeMicro 0x6800000000000000 = .error (.unassigned 0x0D) ∧ decodeMicro 0x6000000000000001 = .error .reservedBit ∧
    decodeMoraine 0xA8000000 = .error (.unassigned 0x15) ∧ decodeMoraine 0x90000001 = .error .reservedBit ∧
    decodeCommand [] = .error .short ∧ decodeCommand (List.replicate 32 0) = .error (.unassigned 0) ∧
    decodeCommand (9 :: List.replicate 31 0) = .error (.unassigned 9) ∧
    decodeCommand ([3, 1] ++ List.replicate 30 0) = .error .reservedBit ∧
    decodeDrift (List.replicate 64 0) = .error (.unassigned 0) ∧ decodeDrift ([1, 32] ++ List.replicate 62 0) = .error .reservedBit ∧
    decodeDrift ([1, 0, 0, 1] ++ List.replicate 60 0) = .error .reservedBit := by
  refine ⟨?_, ?_, ?_, ?_, ?_, ?_, ?_, ?_, ?_, ?_, ?_, ?_, ?_, ?_, ?_, ?_, ?_, ?_, ?_, ?_, ?_, ?_, ?_, ?_, ?_, ?_, ?_, ?_, ?_, ?_, ?_⟩ <;> decide

/-! Worked cases of the spec. -/

/-- R33: a 4 × 2 launch on a mesh in which core (2, 1) is retired goes to (4, 0). -/
theorem test_origin_skips_retired :
    ({ State.reset with nun := { Nunatak.new with retired := [(16 * 2 + 1, true)] } } : State).originOf
      ((((List.replicate 128 0).set 0x18 4).set 0x1A 2).zipIdx.map (fun p => if 0x1C ≤ p.2 ∧ p.2 < 0x20 then 0xFF else p.1)) = some (4, 0) := by
  decide +kernel

/-- R36: the tiles of core (1, 1), of core (1, 0) and of core (3, 1) for W = 4, H = 2 and a grid of (6, 3, 2). -/
theorem test_tile_order :
    let e : LaunchEnv := { noLaunch with w := 4, h := 2, gx := 6, gy := 3, gz := 2 }
    e.firstTile 17 = some (1, 1, 0) ∧ e.tileAfter (1, 1, 0) = some (5, 1, 0) ∧ e.tileAfter (5, 1, 0) = some (1, 1, 1) ∧
    e.tileAfter (1, 1, 1) = some (5, 1, 1) ∧ e.tileAfter (5, 1, 1) = none ∧
    e.firstTile 16 = some (1, 0, 0) ∧ e.tileAfter (5, 0, 0) = some (1, 2, 0) ∧
    e.firstTile 49 = some (3, 1, 0) ∧ e.tileAfter (3, 1, 0) = some (3, 1, 1) := by decide

/-- R47: byte 0x100 of Firn on peer 37. -/
theorem test_remote_address : regionOf 0x658000000100 = .remote 37 0x008000000100 := by decide

/-- R161, R162: codes and their exact values. -/
theorem test_formats :
    decodeNum .fp32 1 = .fin false 1 (-149) ∧ roundNum .fp32 .rne (decodeNum .bf16 0xC0A0) none 0 = (0xC0A00000, 0) ∧
    decodeNum .bf16 1 = .fin false 1 (-133) ∧ roundNum .fp32 .rne (decodeNum .e4m3 0x7E) none 0 = (0x43E00000, 0) ∧
    roundNum .fp32 .rne (decodeNum .e4m3 0xBC) none 0 = (0xBFC00000, 0) ∧ roundNum .fp32 .rne (decodeNum .e5m2 0x7B) none 0 = (0x47600000, 0) ∧
    decodeNum .e5m2 0xFC = .inf true ∧ roundNum .fp32 .rne (decodeNum .e2m1 7) none 0 = (0x40C00000, 0) ∧
    roundNum .fp32 .rne (decodeNum .e2m1 0xA) none 0 = (0xBF800000, 0) := by decide +kernel

/-- R163: the byte 0xB6 of INTFMT, and the same with SUB 0. -/
theorem test_int_decode :
    (intDecode true 0xB6 0xF0 = -16 ∧ intDecode true 0xB6 0x25 = 31 ∧ intDecode true 0xB6 0xE0 = -31 ∧ intDecode true 0xB6 0x81 = -31) ∧
    (intDecode true 0x96 0xF0 = -16 ∧ intDecode true 0x96 0x25 = 0 ∧ intDecode true 0x96 0xE0 = 0 ∧ intDecode true 0x96 0x81 = 0) := by
  decide

/-- R169: three conversions of 1 + 2^-8 to BF16 from a generator that holds 1. -/
theorem test_stochastic_rounding :
    frazilNext 1 = 0x00042021 ∧ frazilNext 0x00042021 = 0x04080601 ∧ frazilNext 0x04080601 = 0x9DCCA8C5 ∧
    cvtF false false .bf16 0 .sr 0x00042021 0x3F808000 0 = (0x3F80, fNX) ∧
    cvtF false false .bf16 0 .sr 0x04080601 0x3F808000 0 = (0x3F80, fNX) ∧
    cvtF false false .bf16 0 .sr 0x9DCCA8C5 0x3F808000 0 = (0x3F81, fNX) := by decide +kernel

/-- R203: rcp of 2^-149, expf of ±0, log2m of 1, rsqrt of −0. -/
theorem test_sfu :
    sfuResult false 4 1 0 = (0x7F800000, fOF ||| fNX) ∧ sfuResult false 6 0x80000000 0 = (0x3F800000, 0) ∧
    sfuResult false 7 0x3F800000 0 = (0, 0) ∧ sfuResult false 5 0x80000000 0 = (0xFF800000, fDZ) := by decide +kernel

/-- R287: two steps of one from 2^24, one step of two. -/
theorem test_serac_step :
    let one : SElem := (decodeNum .e4m3 0x38, some 0)
    let none' : SElem := (decodeNum .e4m3 0, some 0)
    (floatStep false [(one, one), (none', one)] 0x4B800000).1 = 0x4B800000 ∧
    (floatStep false [(one, one), (one, one)] 0x4B800000).1 = 0x4B800001 := by decide +kernel

/-- R405: the walk of ASID 7 at 0x00AB_C123_4567; a fetch there lacks its permission. -/
theorem test_walk :
    let s : State := { State.reset with
      regs := writeNat [] 0x008100500070 8 0x40000001
      mem := writeNat (writeNat (writeNat [] 0x40000008 8 0x40200001) 0x40200578 8 0x40201001) 0x40201048 8 0x0A00000F }
    s.xlate [] 7 0x00ABC1234567 .load = .ok 0x0A034567 ∧ s.xlate [] 7 0x00ABC1234567 .store = .ok 0x0A034567 ∧
    s.xlate [] 7 0x00ABC1234567 .fetch = .error ⟨3, 2⟩ := by decide +kernel

/-! Witnesses: states and operands that meet the hypotheses of the statements. -/

/-- Every slot takes a well-formed instruction: SCA beside SCB, VEB beside VEA. -/
theorem wit_SlotWordsRoundTrip :
    (Instr.halt.WellFormed ∧ Takes .ctl .halt) ∧ (Instr.WellFormed (.add 63 62 1) ∧ Takes .sca (.add 63 62 1)) ∧
    (Instr.WellFormed (.popc 63 62) ∧ Takes .sca (.popc 63 62)) ∧
    (Instr.WellFormed (.lds 63 62 6 0x7FF) ∧ Takes .scb (.lds 63 62 6 0x7FF)) ∧
    (Instr.WellFormed (.dwadd ⟨0xFF, 7, 0, 62, 0, 0xFA, 2, 0⟩) ∧ Takes .vea (.dwadd ⟨0xFF, 7, 0, 62, 0, 0xFA, 2, 0⟩)) ∧
    (Instr.WellFormed (.fadd ⟨1, 0, 4, 63, 0, 255, 255, 0⟩) ∧ Takes .veb (.fadd ⟨1, 0, 4, 63, 0, 255, 255, 0⟩)) ∧
    (Instr.WellFormed (.movr ⟨0, 0, 0, 0, 64⟩) ∧ Takes .mov (.movr ⟨0, 0, 0, 0, 64⟩)) ∧
    (Instr.WellFormed (.ldg ⟨1, 0, 31, 63, 252, 1023, 0x3FFF⟩) ∧ Takes .mem (.ldg ⟨1, 0, 31, 63, 252, 1023, 0x3FFF⟩)) ∧
    (Instr.WellFormed (.flushh ⟨6, 1, 1, 15, 255, 255, 255, 0xF80000⟩) ∧ Takes .eng (.flushh ⟨6, 1, 1, 15, 255, 255, 255, 0xF80000⟩)) := by
  refine ⟨⟨by decide, by decide, .inl rfl⟩, ⟨by decide, by decide, .inr (.inl ⟨rfl, rfl, by decide⟩)⟩,
    ⟨by decide, by decide, .inr (.inl ⟨rfl, rfl, by decide⟩)⟩, ⟨by decide, by decide, .inl rfl⟩,
    ⟨by decide, by decide, .inl rfl⟩, ⟨by decide, by decide, .inr (.inr ⟨rfl, _, _, rfl, rfl⟩)⟩,
    ⟨by decide, by decide, .inl rfl⟩, ⟨by decide, by decide, .inl rfl⟩, ⟨by decide, by decide, .inl rfl⟩⟩

/-- Well-formed words of the engines, at the bounds of their fields. -/
theorem wit_EngineWordsRoundTrip :
    (Instr.WellFormed (.mloop 2 1 7 2047 0xFFFFFFFF) ∧ isMicro (.mloop 2 1 7 2047 0xFFFFFFFF) = true) ∧
    (Instr.WellFormed (.moraineFma 23 0 23 23) ∧ isMoraine (.moraineFma 23 0 23 23) = true) ∧
    (Instr.WellFormed (.loadp 0 95 1 0xFFFFFFFFFFFFFFFC) ∧ isCommand (.loadp 0 95 1 0xFFFFFFFFFFFFFFFC) = true) ∧
    (Instr.WellFormed (.put ⟨1, 1, 6, 10, 15, 4095, 0, 0x8FFF, 0⟩ 0 0 0x1000000 0x8FFF) ∧
      (driftHdr (.put ⟨1, 1, 6, 10, 15, 4095, 0, 0x8FFF, 0⟩ 0 0 0x1000000 0x8FFF)).isSome = true) := by
  decide

/-- Words that decode, and words of each refused range at its bounds. -/
theorem wit_WordsReencode_OtherOpcodesRefused :
    decodeMoraine 0x90000000 = .ok .moraineEnd ∧ decodeMicro 0x6000000000000000 = .ok .mend ∧ decodeEng 0x4000000000A00000 = .ok
      (.sdrain ⟨0, 0, 0, 0, 0, 0, 0, 0xA00000⟩) ∧
    (0x15 < (0x5BFFFFFF : W32).toNat / 2 ^ 26 ∧ 0x15 < (0xFFFFFFFF : W32).toNat / 2 ^ 26 ∧ (0x03FFFFFF : W32).toNat / 2 ^ 26 = 0) ∧
    (0x22 ≤ (0x88000000 : W32).toNat / 2 ^ 26 ∧ (0xABFFFFFF : W32).toNat / 2 ^ 26 ≤ 0x2A) ∧
    0x2A < (0xAC000000 : W32).toNat / 2 ^ 26 ∧ 0x38 < (0x7200000000000000 : W64).toNat / 2 ^ 57 ∧
    (0x17 ≤ (0x2E00000000000000 : W64).toNat / 2 ^ 57 ∧ (0x49FFFFFFFFFFFFFF : W64).toNat / 2 ^ 57 ≤ 0x24) ∧
    0x0A < (0x58000000 : W32).toNat / 2 ^ 27 ∧ 0x09 < (0x2800000000000000 : W64).toNat / 2 ^ 58 ∧
    0x19 < (0x6800000000000000 : W64).toNat / 2 ^ 58 ∧ 0x0C < (0x6800000000000000 : W64).toNat / 2 ^ 59 ∧
    0x14 < (0xA8000000 : W32).toNat / 2 ^ 27 ∧
    ((9 :: List.replicate 31 (0 : Byte)).length = 32 ∧ 8 < ((9 :: List.replicate 31 (0 : Byte)).headD 0).toNat ∧
      ((List.replicate 32 (0 : Byte)).headD 0).toNat = 0) ∧
    ((8 :: List.replicate 63 (0 : Byte)).length = 64 ∧ 7 < ((8 :: List.replicate 63 (0 : Byte)).headD 0).toNat ∧
      ((List.replicate 64 (0 : Byte)).headD 0).toNat = 0) := by
  refine ⟨?_, ?_, ?_, ?_, ?_, ?_, ?_, ?_, ?_, ?_, ?_, ?_, ?_, ?_, ?_⟩ <;> decide

/-- A bundle of two slots that can be written out. -/
theorem wit_BundlesDecode :
    ([(.sca, .li 5 1), (.vea, .fabs ⟨1, 0, 0, 0, 0, 0, 0, 0⟩)] : List (Slot × Instr)) ≠ [] ∧
    ([(.sca, .li 5 1), (.vea, .fabs ⟨1, 0, 0, 0, 0, 0, 0, 0⟩)] : List (Slot × Instr)).Pairwise (fun p q => p.1.bit < q.1.bit) ∧
    ∀ p ∈ ([(.sca, .li 5 1), (.vea, .fabs ⟨1, 0, 0, 0, 0, 0, 0, 0⟩)] : List (Slot × Instr)), p.2.WellFormed ∧ Takes p.1 p.2 := by
  refine ⟨by decide, by decide, fun p hp => ?_⟩
  simp only [List.mem_cons, List.not_mem_nil, or_false] at hp
  rcases hp with rfl | rfl
  · exact ⟨by decide, by decide, .inr (.inl ⟨rfl, rfl, by decide⟩)⟩
  · exact ⟨by decide, by decide, .inl rfl⟩

/-- A reset state that finds its first log entry, and an address above HBM. -/
theorem wit_ResetKeeps :
    State.reset.nun.log.length < 65536 ∧ (⟨1, 0, 0x3FF, 1, List.replicate 12 0⟩ : LogEnt) ∈ State.reset.nun.log ∧
    Config.hbmEnd ≤ 0x008000000000 := by decide

/-- A HALT, placed where the next step fetches it; what the step chooses; the context as it stands at its bundle. -/
def atHalt : State := State.reset.placeInstr (some .halt) 4 0x40000000
def chosen : State := ((atHalt.choice.2.poll 0).choose 0).2
def atBundle : State := (chosen.at' 0 0).modCx Ctx.replayInputs

/-- The bundle at the pc is fetched, decoded and passes its tests; alone in its line, at no pad. -/
theorem wit_StepRunsBundle :
    atHalt.choice = (.issue 0, atHalt.choice.2) ∧ (atHalt.choice.2.poll 0).choose 0 = (some 0, chosen) ∧
    atBundle.cx.a.p.first = none ∧ atBundle.fetch padLimit atBundle.cx.a.c.pc = .ok (0x10000, .bundle [(.ctl, .halt)] 5) ∧
    atBundle.missing [fetchAfter atBundle.cx.a.c.pc, 0x10000] = [] ∧
    (∃ t, atBundle.prepareSlots 0x10000 5 [(.ctl, .halt)] = .go t) ∧
    (let u := (atBundle.openBundle 0x10000 5).landed
     u.missing (([(.ctl, .halt)] : List (Slot × Instr)).flatMap (fun p => u.touches p.2)) = []) ∧
    fetchAfter atBundle.cx.a.c.pc = atBundle.cx.a.c.pc ∧
    atBundle.fetchLine atBundle.cx.a.c.pc = .ok (readBytes atBundle.mem 0x10000 64) ∧
    decodeLine (readBytes atBundle.mem 0x10000 64) = .bundle [(.ctl, .halt)] 5 := by
  have h : (match atBundle.prepareSlots 0x10000 5 [(.ctl, .halt)] with | .go _ => true | _ => false) = true := by decide +kernel
  refine ⟨?_, ?_, ?_, ?_, ?_, ?_, ?_, ?_, ?_, ?_⟩
  case refine_6 =>
    revert h
    generalize atBundle.prepareSlots 0x10000 5 [(.ctl, .halt)] = v
    cases v <;> simp
  all_goals decide +kernel

/-- Engines that stand at a micro-word, a Moraine instruction, a command and a fired entry. -/
def atMend : State := State.reset.placeMicro 0x6000000000000000
def atEnd : State := State.reset.placeUnit (.running 0 none) (some 0x90000000)
def atRun : State := State.reset.withFetchWord 256 2
def putEntry : Instr := .put ⟨0, 0, 0, 0, 0, 0, 0, 0, 0⟩ 0x10000 0 64 0
def atPut : State := State.reset.placeDrift putEntry

theorem wit_StepRunsEngines :
    (atMend.choice = (.array 0 0, atMend.choice.2) ∧ (atMend.choice.2.arrayTurn 0 0).map Prod.fst = some (some .mend)) ∧
    (∃ w, atMend.work atMend.focusCore atMend.focusArr = some w ∧ w.r.lib = none ∧ w.r.pc < 2048 ∧
      decodeMicro (w.k.microWord w.r.pc) = .ok .mend) ∧
    (atEnd.choice = (.unit 0, atEnd.choice.2) ∧ (atEnd.choice.2.unitTurn 0).map Prod.fst = some (some .moraineEnd)) ∧
    (∃ x b, (atEnd.unit atEnd.focusUnit).exec = some x ∧ atEnd.morBlock (atEnd.unit atEnd.focusUnit) = some b ∧
      x.phase = .running 0 none ∧ atEnd.expired none = false ∧
      decodeMoraine (tget 0 (atEnd.unit atEnd.focusUnit).ib 0) = .ok .moraineEnd) ∧
    (∃ x b, (atRun.unit atRun.focusUnit).exec = some x ∧ atRun.morBlock (atRun.unit atRun.focusUnit) = some b ∧ x.phase = .atCmd ∧
      atRun.unitRead atRun.focusUnit b.asid (b.addr + BitVec.ofNat 64 (32 * x.cmd)) 32 = .ok (bytesOfNat 32 2) ∧
      decodeCommand (bytesOfNat 32 2) = .ok (.run 0 0)) ∧
    (atPut.choice = (.drift, atPut.choice.2) ∧ atPut.choice.2.driftReady = some 0 ∧
      (tfind atPut.choice.2.drifts 0).map DriftEnt.entry = some putEntry) := by
  refine ⟨⟨?_, ?_⟩, ⟨_, rfl, ?_, ?_, ?_⟩, ⟨?_, ?_⟩, ⟨_, _, rfl, rfl, ?_, ?_, ?_⟩, ⟨_, _, rfl, rfl, ?_, ?_, ?_⟩, ⟨?_, ?_, ?_⟩⟩ <;>
    decide +kernel

/-- An order from outside, and a caused event without one. -/
theorem wit_StepRunsEvents :
    ({ State.reset with sched := [.event .scrubDone] } : State).choice = (.event .scrubDone, State.reset) ∧
    ({ State.reset with sched := [.tick 1, .drift] } : State).sched = .tick 1 :: [.drift] ∧
    (({ State.reset with queue := [.scrubDone] } : State).sched = [] ∧
      ({ State.reset with queue := [.scrubDone] } : State).queue = .scrubDone :: []) := by
  refine ⟨?_, ?_, ?_, ?_⟩ <;> decide +kernel

/-- A context that runs, in a bundle not yet tested and in one that has been; one of a guarded launch; one with scalars. -/
def running : State := State.reset.placeCode []
def ready : State := running.modIss (fun i => { i with checked := true })
def guarded : State := running.modCx (fun x => { x with env := some { placeEnv with guard := true } })
def scalars (s : State) (l : Tbl W64) : State := s.modCtl (fun c => { c with scal := l })

/-- A bundle that issues; one that is illegal; one whose WAIT holds it. -/
theorem wit_IssueVerdict :
    running.test [(.scb, .add 1 2 3)] = .go running.landed ∧
    (running.landed.cx.lds = none ∧ running.landed.cx.guard.commitDue = false ∧ running.landed.heldBy [(.ctl, .fence 7)] = false ∧
      running.landed.needsCommit false [(.ctl, .fence 7)] = false ∧
      running.landed.trapOf [(.ctl, .fence 7)] = some ⟨.ill, 0, none⟩) ∧
    (running.landed.cx.launch.guard = false ∧ running.landed.heldBy [(.ctl, .wait 4 1)] = true) := by
  refine ⟨?_, ⟨?_, ?_, ?_, ?_, ?_⟩, ?_, ?_⟩ <;> decide +kernel

theorem wit_ScalarArithmeticIssues :
    isScalarArith (.lui 5 0x412) = true ∧ Instr.WellFormed (.lui 5 0x412) ∧ Free running := by
  refine ⟨rfl, by decide, ?_, ?_, ?_, ?_⟩ <;> decide +kernel

/-- Every instruction is ready in a bundle that has been tested, and an ADD in one that has not. -/
theorem wit_Ready : (∀ i, Ready i ready) ∧ Ready (.add 1 2 3) running ∧ (Ready (.ldf 1 2 3 0) ready ∧ ready.issued.cx.launch.guard = false) := by
  refine ⟨fun _ => .inl (by decide +kernel), .inr (by decide +kernel), .inl (by decide +kernel), by decide +kernel⟩

theorem wit_ScalarDivisionCorners :
    (Free running ∧ running.issued.sr 2 = 0) ∧
    (let s := scalars ready [(1, BitVec.ofInt 64 (-(2 ^ 63))), (2, BitVec.ofInt 64 (-1))]
     Free s ∧ s.issued.sr 1 = BitVec.ofInt 64 (-(2 ^ 63)) ∧ s.issued.sr 2 = BitVec.ofInt 64 (-1)) := by
  refine ⟨⟨⟨?_, ?_, ?_, ?_⟩, ?_⟩, ⟨?_, ?_, ?_, ?_⟩, ?_, ?_⟩ <;> decide +kernel

theorem wit_ScalarFunctions :
    ((2 : W64) ≠ 0 ∧ ¬((7 : W64) = BitVec.ofInt 64 (-(2 ^ 63)) ∧ (2 : W64) = BitVec.ofInt 64 (-1))) ∧ (1 : W64) ≠ 0 ∧
    ((63 : Nat) < 64 ∧ (0 : W64).getLsbD 63 = false) := by decide

theorem wit_ResultsLand : (62 : Nat) ≠ 63 ∧ (15 : Nat) < 16 ∧ 64 * 0 + 63 ≠ 64 * 1 + 0 := by decide

/-- An instruction of each kind whose only effect is results, run where it is ready. -/
theorem wit_ResultsOnlyFrame :
    (onlyResults (.add 1 2 3) = true ∧ onlyResults (.fadd ⟨1, 0, 0, 1, 0, 8, 13, 0⟩) = true ∧ onlyResults (.hset 1 2 0) = true ∧
      onlyResults (.movs ⟨0, 0, 1, 1, 64⟩) = true) ∧
    ∃ t, exec (.fadd ⟨1, 0, 0, 1, 0, 8, 13, 0⟩) ready = .next t :=
  ⟨by decide, _, rfl⟩

/-- A bundle with a taken transfer, and one without; one that ends at a level's LAST; a target within the body. -/
theorem wit_Transfers :
    (let s := running.modIss (fun i => { i with taken := true })
     s.cx.iss.post.find? Post.isControl = none ∧ s.cx.iss.taken = true) ∧
    (running.cx.iss.post.find? Post.isControl = none ∧ running.cx.iss.taken = false ∧
      ∀ k ∈ running.cx.a.c.loops.order, tget 0 running.cx.a.c.loops.last k ≠ running.cx.iss.addr) ∧
    (let l : LoopSt := { lc := [(0, 2)], start := [(0, 0x10000)], last := [(0, 0x10000)], order := [0] }
     ∀ k ∈ l.order, tget 0 l.start k ≤ 0x10004 ∧ (0x10004 : W64) < atBundle.bundleEnd (tget 0 l.last k)) := by
  refine ⟨⟨?_, ?_⟩, ⟨?_, ?_, ?_⟩, ?_⟩ <;> decide +kernel

theorem wit_LoopsMakeTheirPasses :
    (let l : LoopSt := { lc := [(2, 1)], start := [], last := [], order := [2] }
     l.order = [2] ∧ (tget 0 l.lc 2).toNat = 1 ∧ 0 < 1) ∧
    (let l : LoopSt := { lc := [(0, 0xFFFFFFFF)], start := [(0, 4)], last := [(0, 9)], order := [0] }
     l.order = [0] ∧ (tget 0 l.lc 0).toNat = 2 ^ 32 - 1 ∧ 2 ^ 32 - 2 < 2 ^ 32 - 1) := by decide

theorem wit_ControlInstructions :
    (1 : BitVec 2) ≠ 2 ∧ ¬((0x020 : BitVec 12) = 0x021 ∨ (0x020 : BitVec 12) = 0x022) ∧ (0 < 1 ∧ 1 < 2 ^ 64) ∧ (0 < 2 ^ 64 - 1) := by
  decide

theorem wit_Semaphores :
    ((4, 255) ∈ semNeeds [(.ctl, .wait 4 255)] ∧ (tget 0 running.cx.a.c.sem 4).toNat < needOf (semNeeds [(.ctl, .wait 4 255)]) 4) ∧
    (let s := running.modCtl (fun c => { c with sem := [(4, 0xFFFF)] })
     0xFFFF < (tget 0 s.cx.a.c.sem (4 : BitVec 8).toNat).toNat + (1 : BitVec 8).toNat) := by
  refine ⟨⟨?_, ?_⟩, ?_⟩ <;> decide +kernel

theorem wit_SemaphoreSaturates :
    let s := running.modPend (fun p => { p with semovf := some 7 })
    (s.modCx Ctx.replayInputs).cx.a.p.mchk = none ∧ (s.modCx Ctx.replayInputs).cx.a.p.sdata = none ∧
      (s.modCx Ctx.replayInputs).cx.a.p.semovf = some 7 := by
  refine ⟨?_, ?_, ?_⟩ <;> decide +kernel

theorem wit_SoftwareTrap :
    ready.cx.iss.checked = true ∧ (ready.post (.trap 0x42)).cx.iss.post.find? Post.isControl = some (.trap (0x42 : BitVec 16).toNat) := by
  refine ⟨?_, ?_⟩ <;> decide +kernel

/-- A launch that runs, behind the context. -/
def aLaunch : Launch :=
  { src := .slot 0, record := [], phase := .running, lid := 1, die := 0, prio := false, refusals := 0, x := 0, gx := 1, gy := 1, gz := 1,
    counted := true, ox := 0, oy := 0, tasks := 0, regions := [] }

theorem wit_TrapEntryAndReturn :
    (let s := running.modCtl (fun c => { c with trapVec := 0x10080, replayVec := 0x10100 })
     (∀ cause : Cause, (if cause = .replay then s.cx.a.c.replayVec else s.cx.a.c.trapVec) ≠ 0) ∧ s.cx.a.c.active = false) ∧
    (let s := { running with launches := [(0, aLaunch)] }
     (if Cause.ill = .replay then s.cx.a.c.replayVec else s.cx.a.c.trapVec) = 0 ∧
     s.launchRef s.cx.launch.lid = some 0 ∧ tfind s.launches 0 = some aLaunch ∧ aLaunch.phase = .running) ∧
    ((running.modCtl (fun c => { c with trapVec := 0x10080, active := true })).cx.a.c.active = true) := by
  refine ⟨⟨?_, ?_⟩, ⟨?_, ?_, ?_, ?_⟩, ?_⟩
  · intro cause; cases cause <;> decide +kernel
  all_goals decide +kernel

/-- A bundle for each cause that the order names. -/
theorem wit_TrapOrder :
    (running.illOf [(.ctl, .fence 7)] = some 0 ∧ running.illOf [(.ctl, .halt), (.eng, .copy ⟨7, 0, 0, 0, 0, 0, 0, 0⟩)] = some 7) ∧
    (running.illOf [(.sca, .li 1 1), (.scb, .li 2 1)] = none) ∧
    (let s := running.modVec (fun v => { v with poison := [(0, 31)] })
     let l : List (Slot × Instr) := [(.vea, .fabs ⟨1, 0, 0, 1, 0, 0, 0, 0⟩)]
     s.illOf l = none ∧ s.replayOf l = some 31) ∧
    (let s := running.modSer (fun r => { r with stale := 8 })
     let l : List (Slot × Instr) := [(.eng, .scall ⟨0, 0, 0, 0, 0, 0, 0, 0xC00000⟩)]
     s.illOf l = none ∧ s.replayOf l = none ∧ s.sfmtOf l = some 3) ∧
    (let g : GroupLand := { grp := 7, act := 0, lo := 0, hi := 0, flags := 0, arr := .ok, late := false }
     let s := running.modVec (fun v => { v with landing := List.replicate 3 { count := 2, dest := .vec 0, groups := [g], value := 0, slot := none } })
     let l : List (Slot × Instr) := [(.vea, .iadd ⟨0x80, 0, 0, 1, 0, 0, 1, 0⟩)]
     s.illOf l = none ∧ s.replayOf l = none ∧ s.sfmtOf l = none ∧ s.wportOf l = some 0x700) ∧
    (let s := guarded.modCx (fun x => { x with guard := { x.guard with holdUsed := 16384 } })
     let l : List (Slot × Instr) := [(.scb, .sts 1 2 3 0)]
     s.illOf l = none ∧ s.replayOf l = none ∧ s.sfmtOf l = none ∧ s.wportOf l = none ∧ s.ckspanOf l = some 1) := by
  refine ⟨⟨?_, ?_⟩, ?_, ⟨?_, ?_⟩, ⟨?_, ?_, ?_⟩, ⟨?_, ?_, ?_, ?_⟩, ⟨?_, ?_, ?_, ?_, ?_⟩⟩ <;> decide +kernel

theorem wit_SystemRegisters :
    0x00C ∈ [0x008, 0x009, 0x00A, 0x00B, 0x00C] ∧ (0x110 ≤ 0x117 ∧ 0x117 ≤ 0x117) ∧ 0x012 ∈ [0x010, 0x011, 0x012] ∧ 62 < 63 ∧
    0x181 ∈ [0x001, 0x002, 0x003, 0x004, 0x005, 0x006, 0x007, 0x00D, 0x00E, 0x013, 0x014, 0x020, 0x021, 0x022, 0x082, 0x083, 0x085,
      0x086, 0x100, 0x101, 0x180, 0x181] := by decide

/-- Handles: a 4-bit and a 16-bit format with strides at their greatest; one with a reserved format. -/
def hNib : W256 := putBits (putBits 0 59 4 1) 208 12 1
def hHalf : W256 := putBits (putBits (putBits (putBits 0 59 4 5) 208 12 0xFFF) 220 12 0xFFF) 204 4 15
def hBad : W256 := putBits 0 59 4 10

theorem wit_HandleFieldsReadBack :
    ((21 : BitVec 5) ≠ 0 ∧ ∀ h', hsetRes 0 21 5 ≠ .ok h') ∧ ((3 : BitVec 5) ≠ 0 ∧ ∀ h', hsetRes 0 3 0x2000 ≠ .ok h') ∧
    (∃ h', hsetRes 0 3 0x1FFF = .ok h') ∧ (∃ h', hsetRes 0 0 0xFF00000000000000 = .ok h') ∧
    ((16 : BitVec 5).toNat ≤ 16 ∧ (0 : BitVec 5) ≠ 16 ∧ ¬((16 : BitVec 5) = 4 ∧ 5 ≤ (0 : BitVec 5).toNat ∧ (0 : BitVec 5).toNat ≤ 7) ∧
      ¬((0 : BitVec 5) = 4 ∧ 5 ≤ (16 : BitVec 5).toNat ∧ (16 : BitVec 5).toNat ≤ 7)) := by
  have bad (f : BitVec 5) (v : W64) (h : hsetRes 0 f v = .ill) (h' : W256) : hsetRes 0 f v ≠ .ok h' := by rw [h]; nofun
  exact ⟨⟨by decide, bad 21 5 (by decide)⟩, ⟨by decide, bad 3 0x2000 (by decide)⟩, ⟨_, rfl⟩, ⟨_, rfl⟩, by decide⟩

theorem wit_HandleMoves :
    ((3 : BitVec 2) ≠ 0 ∧ (0 : W64).toInt + 1 * hStr hHalf 1 * 2 ^ hSsh hHalf < 2 ^ 56 ∧
      (2 : Int) ^ 56 ≤ (hBase hHalf).toInt + (BitVec.ofNat 64 (2 ^ 30)).toInt * hStr hHalf 1 * 2 ^ hSsh hHalf) ∧
    (fmtBits (hFmt hNib) = some 4 ∧ (1 : W64).toInt * hStr hNib 0 * 4 % 8 ≠ 0 ∧ (2 : W64).toInt * hStr hNib 0 * 4 % 8 = 0) ∧
    (fmtBits (hFmt hHalf) = some 16 ∧ (2 : Int) ^ 56 ≤ (BitVec.ofNat 64 (2 ^ 50)).toInt * hStr hHalf 0 * 16 / 8) ∧
    (9 < hFmt hBad) ∧ ((0xFFFFFF : W64).toNat < 2 ^ 24 ∧ (0xFFFF : W64).toNat < 2 ^ 16) ∧ 2 ^ 24 ≤ (0x1000000 : W64).toNat ∧
    2 ^ 16 ≤ (0x10000 : W64).toNat ∧ (4 : BitVec 5).toNat ≤ 16 := by
  decide

/-- A load of the local store that meets no error, and one that does; a store of a launch that is not guarded. -/
theorem wit_HandlesAndScalarMemory :
    (Ready (.ldf 1 63 3 0x7F8) ready ∧
      ready.issued.fcore.lsBad ready.issued.cx.launch (ready.issued.memAddr 63 0x3F8).toNat 8 = none) ∧
    (let s := ready.setFcore { ready.fcore with lsUe := [(0, true)] }
     Ready (.ldf 1 63 3 0) s ∧ s.issued.fcore.lsBad s.issued.cx.launch (s.issued.memAddr 63 0).toNat 8 = some 0) ∧
    (Ready (.stf 1 63 3 0) ready ∧ ready.issued.cx.launch.guard = false) := by
  refine ⟨⟨.inl (by decide +kernel), by decide +kernel⟩, ⟨.inl (by decide +kernel), by decide +kernel⟩, .inl (by decide +kernel),
    by decide +kernel⟩

/-- A handle operation that is good, in a bundle that has been tested. -/
theorem wit_GivesHandle :
    Ready (.hset 1 63 0) ready ∧ hsetRes (ready.issued.hr 1) 0 (ready.issued.sr 63) = .ok 0 := by
  refine ⟨.inl (by decide +kernel), by decide +kernel⟩

theorem wit_LocalStore :
    (placeEnv.umap.Nodup ∧ 65528 + 8 ≤ 16384 * placeEnv.umap.length ∧ 65527 < 16384 * placeEnv.umap.length ∧ 65527 < 65528) ∧
    (∀ u ∈ placeEnv.umap, u ∉ ({ placeEnv with umap := [4, 5] } : LaunchEnv).umap) := by
  decide

theorem own_partBadAt (s : State) (a n : Nat) (h : regionOf a = .hbm) : s.partBadAt a n = s.partBad a n := by
  have : homeTdev ownTdev = ownTdev := by unfold homeTdev; split <;> rfl
  simp [State.partBadAt, placeOf, h, this]
/-- A store within one page of HBM, one into a granule with an error, and one through the aperture to a group that is not
there. -/
theorem wit_ScalarStoreFrame :
    (running.flights = [] ∧ running.cx.a.unread = false ∧
      running.xlRange 0x1FFF8 ([1, 2, 3, 4, 5, 6, 7, 8] : List Byte).length .store =
        .ok [(0x1FFF8, ([1, 2, 3, 4, 5, 6, 7, 8] : List Byte).length)] ∧ regionOf 0x1FFF8 = .hbm ∧ running.partBad 0x1FFF8 8 = false) ∧
    (let s : State := { running with memUe := [(0x3FF8, true)] }
     s.flights = [] ∧ s.cx.a.unread = false ∧ s.xlRange 0x1FFF8 8 .store = .ok [(0x1FFF8, 8)] ∧
     ([(0x1FFF8, 8)] : List (Nat × Nat)).any (fun q => s.partBadAt q.1 q.2) = true) ∧
    (let s := running.setFcore { running.fcore with tlb := [{ placeTlb with dpa := 0x800000000000 }] }
     s.flights = [] ∧ s.cx.a.unread = false ∧ s.xlRange 0x10000 ([1] : List Byte).length .store = .ok [(0x800000000000, 1)] ∧
     ([(0x800000000000, 1)] : List (Nat × Nat)).any (fun q => s.partBadAt q.1 q.2) = false ∧
     (match (s.tlbFill s.focusCore s.cx.launch.asid 0x10000).writePieces [s.ctxAgent] [(0x800000000000, 1)] [1] with
       | .error e => e == 3 | .ok _ => false) = true) := by
  refine ⟨⟨?_, ?_, ?_, ?_, ?_⟩, ⟨?_, ?_, ?_, ?_⟩, ⟨?_, ?_, ?_, ?_, ?_⟩⟩
  case refine_9 =>
    simp only [List.any_cons, List.any_nil, Bool.or_false]
    rw [own_partBadAt _ _ _ (by decide)]
    decide +kernel
  all_goals decide +kernel

/-- A queue with a filled head, one with an unfilled head, one with none. -/
theorem wit_MovSlot :
    (let s := ready.modCx (fun x => { x with a := { x.a with q := { x.a.q with q := [(5, [{ id := 0, seq := 0, entry := some 7 }])] } } })
     Ready (.pop ⟨0, 0, 0, 62, 5⟩) s ∧
     s.issued.cx.a.q.slots ((5 : BitVec 7).extractLsb' 0 3).toNat = [{ id := 0, seq := 0, entry := some 7 }]) ∧
    (Ready (.pop ⟨0, 0, 0, 62, 0⟩) ready ∧ (0 : BitVec 7).getLsbD 3 = false ∧
     ∀ e ∈ (ready.issued.cx.a.q.slots ((0 : BitVec 7).extractLsb' 0 3).toNat).head?, e.entry = none) ∧
    ((((1 : BitVec 7).extractLsb' 0 4).toNat ≤ 1 ∧ 1 < ((2 : BitVec 7).extractLsb' 0 4).toNat ∧
      ((0x40 : BitVec 7).extractLsb' 0 2).toNat = 0 ∧ ((1 : BitVec 7).extractLsb' 0 2).toNat = 1 ∧ 1 < ((2 : BitVec 7).extractLsb' 0 2).toNat)) := by
  refine ⟨⟨.inl (by decide +kernel), by decide +kernel⟩, ⟨.inl (by decide +kernel), by decide +kernel, by decide +kernel⟩, by decide⟩

/-- Lanes without errors, replay slots with the first ones taken, and a slot that a RELD names. -/
theorem wit_MemSlot :
    (Ready (.vld ⟨1, 0, 0, 63, 0, 0, 0⟩) ready ∧ ∀ p ∈ ready.issued.cx.a.v.lanesOf 1 (0 : BitVec 3).toNat,
      ready.issued.fcore.lsBad ready.issued.cx.launch (ready.issued.laneOf (.vld ⟨1, 0, 0, 63, 0, 0, 0⟩) p.1 p.2).toNat 4 = none) ∧
    (let r : RSlot := { hnd := 0, idx := 0, act := [], grps := 1, dst := 0, lat := 1, remote := false, cause := 2, pgrp := 1, flying := false }
     let s := ready.modVec (fun v => { v with replay := [(0, r), (1, r)] })
     Ready (.ldg ⟨1, 0, 0, 63, 0, 1, 0⟩) s ∧ 2 < 32 ∧ tmem s.issued.cx.a.v.replay 2 = false ∧
       (∀ m, m < 2 → tmem s.issued.cx.a.v.replay m = true) ∧
     Ready (.reld ⟨1, 0, 0, 63, 0, 1, 0⟩) s ∧ tfind s.issued.cx.a.v.replay ((s.issued.sr 63).toNat % 32) = some r) ∧
    (Ready (.vatom ⟨1, 0, 0, 63, 0, 0, 0⟩) ready ∧ ready.issued.cx.launch.guard = false ∧ ready.issued.cx.guard.replayLeft = []) ∧
    (let s := guarded.modIss (fun i => { i with checked := true })
     Ready (.vred ⟨1, 0, 0, 63, 0, 0, 0⟩) s ∧ s.issued.cx.launch.guard = true) := by
  refine ⟨⟨.inl ?_, ?_⟩, ⟨.inl ?_, ?_, ?_, ?_, .inl ?_, ?_⟩, ⟨.inl ?_, ?_, ?_⟩, .inl ?_, ?_⟩ <;> decide +kernel

theorem wit_EngSlot :
    Ready (.scfg ⟨0, 0, 0, 0, 0, 0, 0, 0⟩) ready ∧
    (ready.cx.launch.guard = false ∧ ready.queueOf (.red ⟨0, 0, 0, 0, 0, 0, 0, 0⟩) = none) ∧
    (ready.queueOf (.ask ⟨0, 0, 0, 0, 0, 0, 0, 0⟩) = some (qName, 1)) ∧ (0 : Nat) < 1 ∧ (1 : Nat) ≠ 0 ∧
    (guarded.cx.launch.guard = true ∧ heldEng (.ask ⟨0, 0, 0, 0, 0, 0, 0, 0⟩) = true ∧
      guarded.queueOf (.ask ⟨0, 0, 0, 0, 0, 0, 0, 0⟩) = some (qName, 1)) := by
  refine ⟨.inl ?_, ⟨?_, ?_⟩, ?_, ?_, ?_, ?_, ?_, ?_⟩ <;> decide +kernel

/-- A context's origin, a command without operands, a copy, a rendezvous of four, barriers. -/
def org1 : Origin := { core := 0, lid := 1, shadow := false, cmd := 3 }
/-- The same of another launch. -/
def org2 : Origin := { org1 with lid := 2 }
def eng0 : EngArgs := { scope := 0, rel := 0, acq := 0, sinc := 0, wsem := 0, wthr := 0, ssem := 0, p := 0 }
def aCopy : CopyEnt :=
  { num := 3, op := 1, eng := eng0, lid := 1, shadow := false, hs := 0, hd := 0, barrier := 0x10000, st := 0, qid := 0, moved := none, acks := [],
    delivers := [64], ended := false }
def withCopy (e : CopyEnt) : State := running.setFcore { running.fcore with copies := [(0, e)] }
def aRot : Rot := { lid := 1, quad := 0, since := 0, joined := [(0, 0), (1, 0), (16, 0), (17, 0)] }
def hPage : W256 := putBits (putBits (putBits (putBits (putBits (putBits 0 0 57 0x10000) 128 16 4) 144 16 1) 160 16 1) 176 16 1) 208 12 1

theorem wit_HomeEvents_copies :
    (tfind ((withCopy { aCopy with moved := some (0, 0) }).core 0).copies 0 = some { aCopy with moved := some (0, 0) } ∧ aCopy.op ≠ 3) ∧
    (tfind ((withCopy aCopy).core 0).copies 0 = some aCopy ∧ aCopy.moved = none ∧
      ∃ e', tfind (((withCopy aCopy).moveCopy 0 0 aCopy).core 0).copies 0 = some e') ∧
    (aCopy.delivers = 64 :: [] ∧ (withCopy aCopy).xlate ((withCopy aCopy).core 0).tlb
        ((withCopy aCopy).envOf (aCopy.origin 0)).asid aCopy.barrier .atomic = .ok 0x10000 ∧
      (((withCopy aCopy).modCopy 0 0 (fun e => { e with delivers := [] })).freeCopy 0 0).barrier 0x10000 = some 0) ∧
    (({ running with rots := [(0, aRot)] } : State).rotOf 1 0 true = some (0, aRot)) ∧
    (({ running with rots := [(0, { aRot with joined := [(0, 0)] })], wallus := 1000 } : State).rotOf 1 0 false =
        some (0, { aRot with joined := [(0, 0)] }) ∧ 0 + 1000 ≤ (1000 : W64).toNat) := by
  refine ⟨⟨?_, ?_⟩, ⟨?_, rfl, Option.isSome_iff_exists.mp ?_⟩, ⟨rfl, ?_, ?_⟩, ?_, ⟨?_, ?_⟩⟩ <;> decide +kernel

/-- A reduction without a signal. -/
def aWho : RedWho := { org := org1, va := 0x10000, sig := none, vred := none }

theorem wit_HomeEvents_words :
    (let f : Flight := .atom org1 0x10000 0x10000 8 0 1 0 0 noSignal
     let other : Flight := .atom org2 0x10000 0x10000 8 0 1 0 0 noSignal
     let s : State := { running with flights := [(0, other), (1, f), (2, other)] }
     s.flights = [(0, other)] ++ (1, f) :: [(2, other)] ∧ (∀ p ∈ [(0, other)], p.1 ≠ 1 ∧ p.2.keptBefore f = false) ∧
       (∀ p ∈ [(2, other)], p.1 ≠ 1) ∧ regionOf 0x10000 = .hbm ∧ s.ueIn 0x10000 8 = false) ∧
    (let f : Flight := .red 0x10000 4 0 1 [aWho] false
     let other : Flight := .red 0x10004 4 0 1 [aWho] false
     let s : State := { running with flights := [(0, other), (1, f)] }
     s.flights = [(0, other)] ++ (1, f) :: [] ∧ (∀ p ∈ [(0, other)], p.1 ≠ 1 ∧ p.2.keptBefore f = false) ∧
       s.ueIn 0x10000 4 = false) ∧
    (tfind ({ running with flights := [(0, .vatom org1 0 [] [])] } : State).flights 0 = some (.vatom org1 0 [] []) ∧
      (({ running with flights := [(0, .vatom org1 0 [] [])] } : State).flights.map Prod.fst).Nodup) ∧
    (let first : Flight := .atom org1 0x10000 0x10000 8 0 1 0 0 noSignal
     let s : State := { running with flights := [(0, first), (1, .red 0x10004 4 0 1 [aWho] false)] }
     (s.withEarlier (fun j _ => j == 1)).map Prod.fst = [0, 1] ∧
       first.keptBefore (.red 0x10004 4 0 1 [aWho] false) = true ∧ Flight.keptBefore (.red 0x10004 4 0 1 [aWho] false) first = false) ∧
    (let s : State := { running with flights := [(0, .red 0x10000 4 0 1 [aWho] true), (1, .red 0x10000 4 0 2 [] true)] }
     0 ≠ 1 ∧ tfind s.flights 0 = some (.red 0x10000 4 0 1 [aWho] true) ∧
       tfind s.flights 1 = some (.red 0x10000 4 0 2 [] true) ∧ ((7 : Nat) ≤ 7 ∨ 7 = 10 ∨ 7 = 11) ∧ regionOf 0x10000 ≠ .counters) ∧
    (regionOf (Config.firnEnd - 8) = .firn ∧ regionOf (Config.windowEnd - 8) = .window) := by
  refine ⟨⟨?_, ?_, ?_, ?_, ?_⟩, ⟨?_, ?_, ?_⟩, ⟨?_, ?_⟩, ⟨?_, ?_, ?_⟩, ⟨?_, ?_, ?_, ?_, ?_⟩, ?_, ?_⟩ <;> decide +kernel

/-- A flight number 1 to the barrier at 0x20000, between one of another context and a later one. -/
def atBarrier (f : Flight) : State :=
  { running with flights := [(0, .binit org2 0x20000 2 none 0 noSignal), (1, f), (2, .binit org1 0x20000 2 none 0 noSignal)] }
def AloneAt (f : Flight) : Prop :=
  (atBarrier f).flights = [(0, .binit org2 0x20000 2 none 0 noSignal)] ++ (1, f) :: [(2, .binit org1 0x20000 2 none 0 noSignal)] ∧
  ∀ p ∈ [(0, Flight.binit org2 0x20000 2 none 0 noSignal)] ++ [(2, .binit org1 0x20000 2 none 0 noSignal)],
    p.1 ≠ 1 ∧ (p.1 < 1 → p.2.toBarrier ≠ some (org1.own, 0x20000))

theorem wit_HomeEvents_barriers :
    (AloneAt (.binit org1 0x20000 2 none 0 noSignal) ∧ AloneAt (.barr org1 0x20000 0x0A 1 0 noSignal) ∧
      AloneAt (.bwait org1 0x20000 0x0C false none false none 0 noSignal) ∧
      AloneAt (.bwait org1 0x20000 0x0C true none false none 0 noSignal) ∧
      (∀ f, (atBarrier f).barrier 0x20000 = some 0) ∧ Barrier.admits 0 org1.core = true ∧ Barrier.phase 0 = false ∧ Barrier.phase 0 ≠ true) ∧
    (let f : Flight := .barr org1 0x20000 0x0A 1 0 noSignal
     tfind (atBarrier f).flights 1 = some f ∧ f.toBarrier = some (org1.own, 0x20000)) ∧
    (let s : State := { running with flights := [(0, .bwait org1 0x20000 0x0D true (some 9) false (some 0) 0 noSignal)], wallus := 10 }
     tfind s.flights 0 = some (.bwait org1 0x20000 0x0D true (some 9) false (some 0) 0 noSignal) ∧ 9 < s.wallus.toNat) ∧
    (let s : State := { running with flights := [(0, .flush org1 hPage noSignal)] }
     tfind s.flights 0 = some (.flush org1 hPage noSignal) ∧ pagesOf (hBase hPage) (hBytes hPage) = [0x10000] ∧
       s.xlate (s.core org1.core).tlb (s.envOf org1).asid 0x10000 .load = .ok 0x10000) := by
  refine ⟨⟨⟨rfl, ?_⟩, ⟨rfl, ?_⟩, ⟨rfl, ?_⟩, ⟨rfl, ?_⟩, fun f => ?_, ?_, ?_, ?_⟩, ⟨?_, ?_⟩, ⟨?_, ?_⟩, ?_, ?_, ?_⟩
  case refine_5 => exact (show (atBarrier f).barrier 0x20000 = running.barrier 0x20000 from rfl).trans (by decide +kernel : running.barrier 0x20000 = some 0)
  all_goals decide +kernel

theorem wit_AtomicsAtHome :
    (regionOf 0x10000 = .hbm ∧ ∃ r, running.applyWord [.host] 0x10000 8 0 1 0 = .ok r) ∧
    (let s : State := { running with memUe := [(0x2000, true)] }
     regionOf 0x10000 = .hbm ∧ s.ueIn 0x10000 4 = true) ∧
    ((2 : Nat) ^ 32 - 1 < 2 ^ 32 ∧ (2 : Nat) ^ 64 - 1 < 2 ^ 64 ∧ (7 : Nat) ≤ 7) := by
  refine ⟨⟨by decide, _, rfl⟩, by decide +kernel, by decide⟩

theorem wit_BarrierPhases :
    ((2 : Nat) ^ 21 - 1 < 2 ^ 21) ∧
    (Barrier.arrived (putBits 0 21 21 2) + 1 < Barrier.expect (putBits 0 21 21 2)) ∧
    (let b : Barrier := putBits 0 21 21 1
     b.perr = false ∧ b.arrived + 1 = b.expect ∧ b.field 64 40 = 0 ∧ b.nextArr < b.expect) ∧
    (let b : Barrier := putBits (putBits (putBits 0 21 21 1) 0 21 1) 64 40 5
     b.expect ≤ b.arrived ∧ b.field 64 40 ≠ 0) ∧
    (let b : Barrier := putBits (putBits (putBits 0 21 21 1) 0 21 1) 64 40 (2 ^ 39 - 1)
     b.perr = false ∧ b.arrived = b.expect ∧ b.field 64 40 = 2 ^ 39 - 1 ∧ 0 < 2 ^ 39 - 1 ∧ 2 ^ 39 - 1 < 2 ^ 39 ∧ b.nextArr < b.expect) := by
  decide

theorem wit_NameEvents :
    (tfind ({ running with packets := [(3, .interest 0 7 .localFace none 9 0)] } : State).packets 3 =
      some (.interest 0 7 .localFace none 9 0)) ∧
    (let s : State := { running with routers := [(0, { pit := [], wait := [.interest 0 7 .localFace none 9 0] })] }
     (s.router 0).wait = .interest 0 7 .localFace none 9 0 :: [] ∧ (s.router 0).pit.length < 512) ∧
    (let s : State := { running with
       routers := [(0, { pit := List.replicate 512 ⟨5, [(.north, 4)], [], true⟩, wait := [.interest 0 7 .localFace none 9 0] })] }
     (s.router 0).wait = .interest 0 7 .localFace none 9 0 :: [] ∧
     ¬((s.router 0).pit.length < 512 ∨ (∃ e ∈ (s.router 0).pit, e.name = 7 ∧ (none = (none : Option Nat) ∨ e.locals.length < 8)) ∨
       (s.homeOf 0 7 = some 0 ∧ ((∃ e, (s.die (dieKey 0)).record 7 = some e ∧ e.name = 7) ∨ (s.die (dieKey 0)).sealedAt 7 = true)))) ∧
    (let s : State := { running with routers := [(0, { pit := [⟨7, [(.north, 4)], [(0, 9)], true⟩], wait := [] })] }
     (∀ e ∈ (s.router 0).pit, e.sent = true) ∧ (s.router 0).wait = []) ∧
    (tfind ({ running with packets := [(3, .tile 0 7 (.ok [1]))] } : State).packets 3 = some (.tile 0 7 (.ok [1]))) ∧
    (({ running with packets := [(3, .announce 0 7 [] 1 0 0)] } : State).packets = [(3, .announce 0 7 [] 1 0 0)]) ∧
    (({ running with packets := [(3, .seal 0 0 1 2 0 0)] } : State).packets = [(3, .seal 0 0 1 2 0 0)]) := by
  refine ⟨?_, ?_, ⟨?_, ?_⟩, ?_, ?_, ?_, ?_⟩
  case refine_4 =>
    rintro (h | ⟨e, he, h, -⟩ | ⟨h, -⟩)
    · exact absurd h (by decide +kernel)
    · rw [List.eq_of_mem_replicate he] at h; exact absurd h (by decide)
    · exact absurd h (by decide +kernel)
  all_goals decide +kernel

/-- A record of iteration 5 of tile 0 of tensor 1, sealed up to 3 or not at all, and a full directory. -/
def aRec : DirRec := { name := 0x10000000005, pages := [], len := 0, copy := none }
def withDie (recs : List DirRec) (seals : Tbl Nat) : State := { running with dies := [(0, { recs := recs, seals := seals })] }

theorem wit_NamesAtHome :
    (((withDie [aRec] []).die (dieKey 0)).record aRec.name = some aRec) ∧
    ((∀ e, ((withDie [aRec] [(1, 3)]).die (dieKey 0)).record 0x10000000003 = some e → e.name ≠ 0x10000000003) ∧
      ((withDie [aRec] [(1, 3)]).die (dieKey 0)).sealedAt 0x10000000003 = true) ∧
    (((withDie [aRec] [(1, 3)]).die (dieKey 0)).sealedAt 0x10000000004 = false ∧
      ((withDie [aRec] [(1, 3)]).die (dieKey 0)).record 0x10000000004 = some aRec ∧ nameIter 0x10000000004 < nameIter aRec.name) ∧
    (((withDie (List.replicate 8192 aRec) []).die (dieKey 0)).sealedAt 0x20000000000 = false ∧
      ((withDie (List.replicate 8192 aRec) []).die (dieKey 0)).record 0x20000000000 = none ∧
      8192 ≤ ((withDie (List.replicate 8192 aRec) []).die (dieKey 0)).recs.length) ∧
    tfind ((withDie [] [(1, 3)]).die (dieKey 0)).seals 1 = some 3 := by
  have h : ((withDie [aRec] [(1, 3)]).die (dieKey 0)).record 0x10000000003 = some aRec := by decide +kernel
  refine ⟨by decide +kernel, ⟨fun e he => ?_, by decide +kernel⟩, ⟨by decide +kernel, by decide +kernel, by decide +kernel⟩,
    ⟨rfl, ?_, ?_⟩, by decide +kernel⟩
  · rw [h] at he; cases he; decide
  · show (List.replicate 8192 aRec).find? _ = none
    rw [List.find?_replicate_eq_none_iff]; exact .inr (by decide)
  · show 8192 ≤ (List.replicate 8192 aRec).length
    exact (List.length_replicate ..).ge

/-- A routine at a SACC that loads a row, with a parameter, and with an error in the local store. -/
def loadAcc (mp : W64) (ue : Tbl Bool) : State :=
  { atMend with sched := [] }.setCore 0
    ({ atMend.core 0 with lsUe := ue }.setArr 0 { (atMend.core 0).arr 0 with run := some { placeRoutine with mp := tput 0 [] 0 mp } })
def accWork (mp : W64) (ue : Tbl Bool) : Work := ((loadAcc mp ue).work 0 0).getD
  { k := .reset, arr := 0, n := 0, e := noLaunch, x := .reset, core := 0, p := .reset, r := placeRoutine, flags := 0, stop := none }
/-- What SACC SUB 2 of one row at row 0 reads. -/
def accRead (w : Work) : Work := w.with (w.read (w.mp 0 + BitVec.ofNat 64 (0 * 0)) (4 * serN w.r.cmd.sf) 16) (fun b => w.setRow false 0 (wordsOf (serN w.r.cmd.sf) b))

/-- A routine that stands at a word; fields and rows that pass and that fail; a read that meets an error; a semaphore below
and at what MWAIT needs. -/
theorem wit_MicroWords :
    (microLegal (.sacc 2 0 0 0 0 0) = true ∧ (loadAcc 0 []).work (loadAcc 0 []).focusCore (loadAcc 0 []).focusArr = some (accWork 0 []) ∧
      (accWork 0 []).r.lib = none) ∧
    (0 + 0 < serView (accWork 0 []).r.cmd.sf ∧ (accWork 0 []).rowsOk ((accWork 0 []).mp 0) 0 (4 * serN (accWork 0 []).r.cmd.sf) 16 0 = true ∧
      (accRead (accWork 0 [])).stop = none) ∧
    ((loadAcc 0 [(0, true)]).work 0 0 = some (accWork 0 [(0, true)]) ∧
      (accRead (accWork 0 [(0, true)])).stop = some ⟨0x22, some 0⟩) ∧
    ¬((127 : BitVec 7).toNat + (15 : BitVec 4).toNat < serView (accWork 0 []).r.cmd.sf) ∧
    ((loadAcc 8 []).work 0 0 = some (accWork 8 []) ∧
      (accWork 8 []).rowsOk ((accWork 8 []).mp 0) 0 (4 * serN (accWork 8 []).r.cmd.sf) 16 0 = false) ∧
    ((tget 0 (accWork 0 []).x.a.c.sem (4 : BitVec 8).toNat).toNat < (1 : BitVec 8).toNat ∧
      (0 : BitVec 8).toNat ≤ (tget 0 (accWork 0 []).x.a.c.sem (4 : BitVec 8).toNat).toNat ∧ microLegal (.mwait 4 0) = true) := by
  refine ⟨⟨?_, ?_, ?_⟩, ⟨?_, ?_, ?_⟩, ⟨?_, ?_⟩, ?_, ⟨?_, ?_⟩, ?_, ?_, ?_⟩ <;> decide +kernel

theorem wit_EngineLoops :
    (1 < (⟨0, 5, 9, 2⟩ : MicroLoop).left ∧ (⟨0, 5, 9, 1⟩ : MicroLoop).left ≤ 1 ∧ ∀ l ∈ ([⟨0, 5, 9, 2⟩] : List MicroLoop), l.last ≠ 8) ∧
    (let m := { MUnit.reset with inner := some ⟨2, 4, 2, 0⟩, outer := some ⟨1, 4, 2, 0⟩ }
     m.inner = some ⟨2, 4, 2, 0⟩ ∧ 1 < (⟨2, 4, 2, 0⟩ : MorLoop).left ∧ (∀ l, m.inner = some l → l.last ≠ 3) ∧ ∀ l, m.outer = some l → l.last ≠ 3) ∧
    (let m := { MUnit.reset with inner := some ⟨2, 4, 1, 1⟩, outer := some ⟨1, 4, 2, 0⟩ }
     m.inner = some ⟨2, 4, 1, 1⟩ ∧ (⟨2, 4, 1, 1⟩ : MorLoop).left ≤ 1 ∧ m.outer = some ⟨1, 4, 2, 0⟩ ∧
       (⟨1, 4, 2, 0⟩ : MorLoop).last = (⟨2, 4, 1, 1⟩ : MorLoop).last ∧ 1 < (⟨1, 4, 2, 0⟩ : MorLoop).left) ∧
    (⟨1, 4, 1, 1⟩ : MorLoop).left ≤ 1 := by
  refine ⟨by decide, ⟨rfl, by decide, fun l h => ?_, fun l h => ?_⟩, ⟨rfl, by decide, rfl, by decide, by decide⟩, by decide⟩ <;>
    cases h <;> decide

/-- Arrays: a command that can start, with an entry of the table and with none; a routine at a yield point that a priority one
waits for; one that goes on; a gather; an SDRAIN; an idle array. -/
def withArr (a : Arr) : State := running.setCore 0 ((running.core 0).setArr 0 a)
def callOf (idx : Nat) : ArrCmd := { placeCmd with eng := { eng0 with p := BitVec.ofNat 24 (idx * 2 ^ 14) } }
def aGather : Gather := { idxAddr := 0, left := 1, base := 0, rstr := 48, sbase := 0, sstr := 3, latch := [] }

theorem wit_ArrayEvents :
    (let s := withArr { Arr.reset with queue := [callOf 4] }
     s.startable 0 0 = some (callOf 4) ∧ (s.core 0).entry ((callOf 4).eng.pf 14 8) = some (0, some 4) ∧
       ¬(serBits (callOf 4).sf = 4 ∧ ((s.core 0).arr 0).cap4 = false)) ∧
    (let s := withArr { Arr.reset with queue := [callOf 16] }
     s.startable 0 0 = some (callOf 16) ∧ (s.core 0).entry ((callOf 16).eng.pf 14 8) = none) ∧
    (let s := withArr { Arr.reset with run := some placeRoutine, queue := [{ callOf 0 with shadow := true }] }
     ((s.core 0).arr 0).run = some placeRoutine ∧ ((s.core 0).arr 0).susp = none ∧ placeRoutine.atYield = true ∧
       placeRoutine.cmd.shadow = false ∧ ((s.core 0).arr 0).wantsShadow = true) ∧
    (let s := withArr { Arr.reset with susp := some placeRoutine }
     ((s.core 0).arr 0).run = none ∧ ((s.core 0).arr 0).susp = some placeRoutine ∧ ((s.core 0).arr 0).wantsShadow = false) ∧
    (let r := { placeRoutine with gather := some aGather }
     let s := withArr { Arr.reset with run := some r }
     ∃ w row, s.work 0 0 = some w ∧ w.r.gather = some aGather ∧ aGather.left ≠ 0 ∧ aGather.latch.length < 64 ∧
       w.fetchRow (serPer w.r.cmd.sf) aGather = .ok row) ∧
    (let s := withArr { Arr.reset with queue := [{ callOf 0 with op := 0x10 }] }
     ((s.core 0).arr 0).drained = some { callOf 0 with op := 0x10 }) ∧
    (let s : State := { running with flights := [(0, .smload org1 eng0 0 0 noSignal)] }
     tfind s.flights 0 = some (.smload org1 eng0 0 0 noSignal) ∧ s.loadBehind 0 org1 = false) ∧
    (let s := withArr { Arr.reset with run := some placeRoutine }
     ∃ w, (s.logUe 0 0 4).work 0 0 = some w ∧ (s.logUe 0 0 4).rollsBack 0 w.n = false) ∧
    (let s := (withArr { Arr.reset with run := some placeRoutine }).modCx (fun x => { x with env := some { placeEnv with guard := true } })
     ∃ w, (s.logUe 0 0 4).work 0 0 = some w ∧ (s.logUe 0 0 4).rollsBack 0 w.n = true) ∧
    (((running.core 0).arr 0).owner = none ∧ ((running.core 0).arr 0).pending = 0 ∧ ((running.core 0).arr 0).cap4 = true) := by
  refine ⟨⟨?_, ?_, ?_⟩, ⟨?_, ?_⟩, ⟨?_, ?_, ?_, ?_, ?_⟩, ⟨?_, ?_, ?_⟩, ⟨_, _, rfl, rfl, ?_, ?_, rfl⟩, ?_, ⟨?_, ?_⟩, ⟨_, rfl, ?_⟩,
    ⟨_, rfl, ?_⟩, ?_, ?_, ?_⟩ <;> decide +kernel

/-- Unit 0 in a RUN at index 0, and at a command; with a cache of one page of 1 GiB of its own channel. -/
def bigPage : TlbEnt := { asid := 0, vpn := 0, bits := 30, dpa := 0, perm := 7 }
def inRun (f : MUnit → MUnit) : State :=
  let s := State.reset.placeUnit (.running 0 none) none
  s.setUnit 0 (f { s.unit 0 with tlb := [bigPage] })
def inCmd (f : MUnit → MUnit) : State :=
  let s := State.reset.placeUnit .atCmd none
  s.setUnit 0 (f { s.unit 0 with tlb := [bigPage] })
def firnPage : TlbEnt := { asid := 0, vpn := 1, bits := 16, dpa := Config.firnBase, perm := 7 }

theorem wit_MoraineWords_run :
    (∃ x, ((inRun id).unit (inRun id).focusUnit).exec = some x ∧ x.phase = .running 0 none ∧ (inRun id).expired none = false ∧
      (morReads (.moraineFma 1 2 3 4)).any (fun z => tget false ((inRun id).unit (inRun id).focusUnit).zpois z.toNat) = false) ∧
    ((tget 0 ((inRun id).unit 0).cur 7).toNat % 64 = 0 ∧
      (inRun id).unitRead 0 ((inRun id).morAsid ((inRun id).unit 0)) (tget 0 ((inRun id).unit 0).cur 7) 64 = .ok (List.replicate 64 0) ∧
      (inRun id).unitRead 0 ((inRun id).morAsid ((inRun id).unit 0)) (tget 0 ((inRun id).unit 0).cur 7) 32 = .ok (List.replicate 32 0) ∧
      (inRun id).unitXl 0 ((inRun id).morAsid ((inRun id).unit 0)) (tget 0 ((inRun id).unit 0).cur 7) (morSize 0) .store true = .ok [(0, 64)]) ∧
    (0 < (95 : BitVec 7).toNat ∧ ((inRun id).unit 0).outer = none ∧ ((inRun id).unit 0).inner = none) ∧
    (let m := (inRun (fun m => { m with outer := some ⟨0, 95, 1, 0⟩ })).unit 0
     m.inner = none ∧ ∃ l, m.outer = some l ∧ (95 : BitVec 7).toNat ≤ l.last) ∧
    (let s := inRun (fun m => { m with wake := 0x8000, mbox := [(15, (7, 1))] })
     (s.unit 0).awake (s.morLid (s.unit 0)) 0x8000 = some 15) := by
  refine ⟨⟨_, rfl, ?_, ?_, ?_⟩, ⟨?_, ?_, ?_, ?_⟩, ⟨?_, ?_, ?_⟩, ⟨?_, _, rfl, ?_⟩, ?_⟩ <;> decide +kernel

theorem wit_MoraineWords_commands :
    (∃ x b, ((inCmd id).unit (inCmd id).focusUnit).exec = some x ∧ (inCmd id).morBlock ((inCmd id).unit (inCmd id).focusUnit) = some b ∧
      x.phase = .atCmd) ∧
    ((inCmd id).unitRead 0 0 0x40 (4 * (1 : BitVec 8).toNat) = .ok [0, 0, 0, 0] ∧
      (inCmd id).unitRead 0 0 0x40 160 = .ok (List.replicate 160 0) ∧ (1 : BitVec 8) ≠ 0) ∧
    ((inCmd id).unitXl 0 0 0x800000 1024 .load true = .ok [(0x800000, 1024)] ∧ (inCmd id).unitXl 0 0 0 1024 .store true = .ok [(0, 1024)] ∧
      ownChannel 0 0x800000 = true ∧ ownChannel 0 0 = true ∧ 0x800000 / 2 ^ 10 % 2 ^ 4 = 0 / 2 ^ 10 % 2 ^ 4 ∧
      0x800000 / 2 ^ 14 % 2 ^ 9 = 0 / 2 ^ 14 % 2 ^ 9 ∧ 0x800000 / 2 ^ 23 % 256 = 0 / 2 ^ 23 % 256 + 1) ∧
    (let s := inCmd (fun m => { m with tlb := [firnPage] })
     s.unitLatch 0 0 0x10000 .load = .ok Config.firnBase ∧
     ((s.performStores (.unit 0) 3).joinWrites [0] 0).unitLatch 0 0 0x10000 .atomic = .ok Config.firnBase) ∧
    ((((inCmd id).performStores (.unit 0) 3).joinWrites [0] 0).unitXl 0 0 0 (65536 : W32).toNat .load false = .ok [(0, 65536)] ∧
      ∀ p ∈ ([(0, 65536)] : List (Nat × Nat)), annReach 0 p.1 = true) := by
  refine ⟨⟨_, _, rfl, rfl, ?_⟩, ⟨?_, ?_, ?_⟩, ⟨?_, ?_, ?_, ?_, ?_, ?_, ?_⟩, ⟨?_, ?_⟩, ?_, ?_⟩ <;> decide +kernel

/-- A unit that waits for its mailbox, for a latch, or past its limit; blocks whose units stand at a joined command, have
stopped, or have ended. -/
def waitsAt (p : MorPhase) : State := inRun (fun m => { m with exec := some { blk := 0, cmd := 0, phase := p }, tlb := [firnPage] })
def aBlock (us : List Nat) (ends : List MorEnd) : Block := { placeBlock with units := us, ends := ends }
def withBlock (us : List Nat) (ends : List MorEnd) : State := { waitsAt (.joined (.relm 0 1 0x10000 1)) with blocks := [(0, aBlock us ends)] }

/-- A unit that waits at an MBXW for slot 15, whose word has come, at the last moment of its limit. -/
def wakeState : State :=
  let s := waitsAt (.mbxWait 0 (some 0))
  s.setUnit 0 { s.unit 0 with wake := 0x8000, mbox := [(15, (7, 1))], ib := [(0, 0xA0008000)] }
/-- It receives the word and goes on behind the MBXW. -/
theorem test_mailboxWake : ∃ t, exec (.mailboxWake 0) wakeState = .next t ∧ tget 0 (t.unit 0).q 0 = 7 ∧
    ((t.unit 0).exec.map MorExec.phase) = some (.running 1 (some 0)) ∧ (t.unit 0).wake = 0 := by
  refine ⟨_, rfl, ?_, ?_, ?_⟩ <;> decide +kernel

theorem wit_MoraineEvents :
    (let s := wakeState
     (∃ x, (s.unit 0).exec = some x ∧ x.phase = .mbxWait 0 (some 0)) ∧ decodeMoraine (tget 0 (s.unit 0).ib 0) = .ok (.mbxw 0 0x8000) ∧
     moraineLegal (.mbxw 0 0x8000) = true ∧ s.expired (some 0) = false ∧ (s.unit 0).awake (s.morLid (s.unit 0)) 0x8000 = some 15) ∧
    ((∃ x, ((waitsAt (.trigWait (.trig 0 0 0 0x10000 0) none none none)).unit 0).exec = some x ∧
        x.phase = .trigWait (.trig 0 0 0 0x10000 0) none none none) ∧
      (waitsAt (.trigWait (.trig 0 0 0 0x10000 0) none none none)).trigNow 0 = .met ∧
      (waitsAt (.trigWait (.trig 0 0 0 0x10008 0) none none none)).trigNow 0 = .fails (.of 1)) ∧
    (let s : State := { waitsAt (.running 0 (some 9)) with wallus := 10 }
     (∃ x, (s.unit 0).exec = some x ∧ x.phase = .running 0 (some 9)) ∧ 9 < s.wallus.toNat) ∧
    (let s := withBlock [0] []
     tfind s.blocks 0 = some (aBlock [0] []) ∧ s.joiners 0 (aBlock [0] []) = (0, 0, .relm 0 1 0x10000 1) :: [] ∧
       (∀ e ∈ (aBlock [0] []).ends, e.code = 0) ∧ 0 + 1 = (aBlock [0] []).units.length ∧
       ∃ v, s.morRelease [0] 0 (aBlock [0] []) (.relm 0 1 0x10000 1) = .ok v) ∧
    (let s := withBlock [0, 1] [⟨1, 2, 0, 0⟩]
     tfind s.blocks 0 = some (aBlock [0, 1] [⟨1, 2, 0, 0⟩]) ∧ s.joiners 0 (aBlock [0, 1] [⟨1, 2, 0, 0⟩]) ≠ [] ∧
       ∃ e ∈ (aBlock [0, 1] [⟨1, 2, 0, 0⟩]).ends, e.code ≠ 0) ∧
    (let s := inRun (fun m => { m with exec := none, queue := [0] })
     (s.unit 0).exec = none ∧ (s.unit 0).queue = 0 :: [] ∧ tfind s.blocks 0 = some placeBlock ∧ (s.unit 0).lastLid = placeBlock.org.lid ∧
     ((inRun (fun m => { m with exec := none, queue := [0], lastLid := 2 })).unit 0).lastLid ≠ placeBlock.org.lid) ∧
    (aBlock [0] [⟨0, 0, 1, 0⟩]).ends.length = (aBlock [0] [⟨0, 0, 1, 0⟩]).units.length := by
  refine ⟨⟨⟨_, rfl, ?_⟩, ?_, ?_, ?_, ?_⟩, ⟨⟨_, rfl, ?_⟩, ?_, ?_⟩, ⟨⟨_, rfl, ?_⟩, ?_⟩, ⟨?_, ?_, ?_, ?_, _, rfl⟩,
    ⟨?_, ?_, ⟨1, 2, 0, 0⟩, ?_, ?_⟩, ⟨?_, ?_, ?_, ?_, ?_⟩, ?_⟩ <;> decide +kernel

/-- A descriptor of this device: window 0, offset 0. -/
def descOf (t : Nat) : W64 := BitVec.ofNat 64 (t * 2 ^ 48)
theorem descOf_toNat (t : Nat) (h : t < 16384) : (descOf t).toNat = t * 2 ^ 48 := by
  unfold descOf
  rw [BitVec.toNat_ofNat, Nat.mod_eq_of_lt]
  exact Nat.lt_of_lt_of_le (Nat.mul_lt_mul_of_pos_right h (Nat.two_pow_pos 48)) (by decide)
theorem descOf_fields (t : Nat) (h : t < 16384) : descTdev (descOf t) = t ∧ descWin (descOf t) = 0 ∧ descOff (descOf t) = 0 := by
  unfold descTdev descWin descOff
  rw [BitVec.extractLsb'_toNat, BitVec.extractLsb'_toNat, BitVec.extractLsb'_toNat, descOf_toNat t h, Nat.shiftRight_eq_div_pow,
    Nat.shiftRight_eq_div_pow, Nat.shiftRight_eq_div_pow]
  refine ⟨?_, ?_, ?_⟩
  · rw [Nat.mul_div_cancel _ (Nat.two_pow_pos 48), Nat.mod_eq_of_lt h]
  · rw [show t * 2 ^ 48 = t * 2 ^ 4 * 2 ^ 44 by rw [Nat.mul_assoc, ← Nat.pow_add], Nat.mul_div_cancel _ (Nat.two_pow_pos 44), Nat.mul_mod_left]
  · rw [Nat.pow_zero, Nat.div_one, show t * 2 ^ 48 = t * 2 ^ 8 * 2 ^ 40 by rw [Nat.mul_assoc, ← Nat.pow_add], Nat.mul_mod_left]
theorem ownTdev_small : ownTdev < 16384 := by
  unfold ownTdev panelTdev
  have h1 := Config.torusX.isLt; have h2 := Config.torusY.isLt; have h3 := Config.devId.isLt
  omega
def ownDst : W64 := descOf ownTdev
theorem ownDst_fields : descTdev ownDst = ownTdev ∧ descWin ownDst = 0 ∧ descOff ownDst = 0 := descOf_fields ownTdev ownTdev_small

/-- An entry without retries, and a state in which it has fired; window 0 of this device lies at 0x20000; group 0 holds every
device. -/
def aHdr : DHdr := { rel := 0, acq := 0, scope := 0, re := 0, rn := 0, trig := 0, thresh := 0, ctra := 0, ctrb := 0 }
def winRegs : Tbl Byte :=
  writeNat (writeNat (writeNat [] Config.windowsDpa 8 0x20000) (Config.windowsDpa + 8) 8 0x1000) (Config.windowsDpa + 24) 8 (2 ^ 63)
def grpBytes : Tbl Byte := writeNat (writeNat (writeNat [] 0 8 (2 ^ 64 - 1)) 16 8 0x10000) 24 8 (2 ^ 63 + 0x30000)
def fired (i : Instr) : State := { State.reset.placeDrift i with regs := winRegs, groups := grpBytes }
def firedEnt (i : Instr) : DriftEnt :=
  { list := 0, idx := 0, entry := i, phase := .fired, num := 0, tries := 0, mcOff := 0, naks := [], sig := 0, acks := [], tile := none, ending := none }

theorem own_reach (s : State) (h : s.isolated = []) : s.reach ownTdev = none := by
  simp [State.reach, State.devDown, State.cutPanel, inTorus, h, tget]
theorem own_win (s : State) (h : s.regs = winRegs) : s.recvWin ownTdev 0 =
    { valid := true, queue := false, rowsz := 0, tail := 0, size := 0x1000, base := 0x20000 } := by
  have hr : s.devRegs ownTdev = winRegs := by simp [State.devRegs, h]
  simp only [State.recvWin, hr]
  decide +kernel
theorem at_of (s : State) (d : W64) (t : Nat) (w : RecvWin) (h1 : descTdev d = t) (h2 : descWin d = 0) (h3 : descOff d = 0)
    (hr : s.reach t = none) (hw : s.recvWin t 0 = w) (hv : w.valid = true) (hq : w.queue = false) (hs : ¬ w.size < 64) :
    (∀ ags, s.putAt ags d 64 = .ok (w.base, s)) ∧ s.plainWin d 64 = .ok w.base := by
  unfold State.putAt State.plainWin
  rw [h1, h2, h3, hr, hw]
  simp [hv, hq, hs]
theorem own_at (s : State) (h : s.regs = winRegs) (hi : s.isolated = []) :
    (∀ ags, s.putAt ags ownDst 64 = .ok (0x20000, s)) ∧ s.plainWin ownDst 64 = .ok 0x20000 :=
  at_of s ownDst ownTdev _ ownDst_fields.1 ownDst_fields.2.1 ownDst_fields.2.2 (own_reach s hi) (own_win s h) rfl rfl (by decide)
def aGroup : Sys2Proof.Machine.Group :=
  { valid := true, kind := 0, rfmt := 0, apbase := 0x30000, size := 0x10000, members := BitVec.allOnes 64 }
theorem own_group (s : State) (h : s.groups = grpBytes) : s.usableGroup 0 = some aGroup := by
  have hg : s.group 0 = aGroup := by
    simp only [State.group, h]
    decide +kernel
  have hm : aGroup.members.getLsbD Config.devId.toNat = true := by
    have := Config.devId.isLt
    show (BitVec.allOnes 64).getLsbD Config.devId.toNat = true
    rw [BitVec.getLsbD_allOnes]; simp [this]
  simp only [State.usableGroup, hg, hm]
  rfl
theorem fired_src (i : Instr) : tfind (fired i).drifts (fired i).focusEnt = some (firedEnt i) ∧ (firedEnt i).phase = .fired := ⟨rfl, rfl⟩
/-- The state in which a fired entry acts. -/
def acting (i : Instr) : State := ((fired i).entAcquire (firedEnt i)).driftTouch (firedEnt i)
def aList : DriftList := (fired (.signal aHdr 0 0 0)).dlist 0

theorem wit_DriftEntries_fired (i : Instr) :
    tfind (fired i).drifts (fired i).focusEnt = some (firedEnt i) ∧ (firedEnt i).phase = .fired := ⟨rfl, rfl⟩
theorem at_none (s : State) (d : W64) (t : Nat) (w : RecvWin) (h1 : descTdev d = t) (h2 : descWin d = 0)
    (hr : s.reach t = none) (hw : s.recvWin t 0 = w) (hv : w.valid = false) (ags : List Agent) : s.putAt ags d 64 = .error 0x41 := by
  unfold State.putAt
  rw [h1, h2, hr, hw]
  simp [hv]
theorem own_unset (s : State) (h : s.regs = []) :
    s.recvWin ownTdev 0 = { valid := false, queue := false, rowsz := 0, tail := 0, size := 0, base := 0 } := by
  have hr : s.devRegs ownTdev = [] := by simp [State.devRegs, h]
  simp only [State.recvWin, hr]
  decide +kernel
theorem wit_DriftEntries_puts :
    ((∀ ags, (acting (.put aHdr 0x10000 ownDst 64 0)).putAt ags ownDst 64 = .ok (0x20000, acting (.put aHdr 0x10000 ownDst 64 0))) ∧
      (acting (.put aHdr 0x10000 ownDst 64 0)).srcBytes aList 0x10000 0 64 = (List.replicate 64 0, none)) ∧
    (∀ ags, State.reset.putAt ags ownDst 64 = .error 0x41) ∧
    ((acting (.putred aHdr 0x10000 ownDst 64 0 0)).plainWin ownDst 64 = .ok 0x20000) := by
  refine ⟨⟨(own_at _ rfl rfl).1, by decide +kernel⟩, ?_, (own_at _ rfl rfl).2⟩
  exact at_none _ ownDst ownTdev _ ownDst_fields.1 ownDst_fields.2.1 (own_reach _ rfl) (own_unset _ rfl) rfl
theorem wit_DriftEntries_others :
    ((acting (.putmc aHdr 0x10000 0 64 0 0)).usableGroup (descGroup 0) = some aGroup ∧ descOff 0 + 64 ≤ min aGroup.size (2 ^ 30)) ∧
    (State.reset.usableGroup (descGroup 0) = none) ∧
    ((acting (.get aHdr ownDst 0x10000 64)).plainWin ownDst 64 = .ok 0x20000 ∧ 64 ≤ 64 - 0x20000 % 64 ∧ plainDpa 0x20000 64 = true ∧
      (acting (.get aHdr ownDst 0x10000 64)).ueIn 0x20000 64 = false) ∧
    ((acting (.signal aHdr ownDst 1 0x8005)).reach (descTdev ownDst) = none) ∧
    (({ State.reset with isolated := [(ownTdev, true)] } : State).reach (descTdev ownDst) = some 3) ∧
    (let i : Instr := .rsstep aHdr 0x10000 0x11000 0x12000 128 (BitVec.ofNat 16 ownTdev) 5 2 0 0 0
     let sh := shardOf 128 2 (stepShard 2 0 0)
     (acting i).driftBytes 0 (0x10000 + BitVec.ofNat 64 sh.1) sh.2 = (List.replicate 64 0, none) ∧
       (acting i).reach (BitVec.ofNat 16 ownTdev).toNat = none) ∧
    (let i : Instr := .deliver aHdr 0x10000 0x11000 64 64 0x10000000001
     (acting i).driftBytes 0 0x10000 64 = (List.replicate 64 0, none) ∧
       ∃ v k, putLines (deliverLine ((acting i).entAgents (firedEnt i)) 0 0x11000) none (driftLines 0x11000 64) 0 (List.replicate 64 0) (acting i) 0 = (v, 0, k)) := by
  refine ⟨⟨own_group _ rfl, by decide⟩, by decide +kernel, ⟨(own_at _ rfl rfl).2, by decide, by decide +kernel, by decide +kernel⟩, ?_, ?_,
    ⟨by decide +kernel, ?_⟩, by decide +kernel, _, _, rfl⟩
  · rw [ownDst_fields.1]; exact own_reach _ rfl
  · rw [ownDst_fields.1]; simp [State.reach, State.devDown, State.cutPanel, inTorus, tget]
  · rw [BitVec.toNat_ofNat, Nat.mod_eq_of_lt (Nat.lt_trans ownTdev_small (by decide))]; exact own_reach _ rfl

/-- A state with an entry in a phase, and with a list over. -/
def entIn (i : Instr) (p : DriftPhase) : State := { fired i with drifts := [(0, { firedEnt i with phase := p })] }
def aMsg (d : Nat) : RingMsg := { src := .ent 0, dest := d, sctr := 5, st := 0, data := List.replicate 64 0, sig := 0 }
/-- The RSSTEP of step 1 that waits for the message. -/
def ringState (d : Nat) : State :=
  { entIn (.rsstep { aHdr with trig := 5, thresh := 1 } 0x10000 0x11000 0x12000 128 0 5 2 0 1 0) .armed with rings := [(0, aMsg d)] }

theorem wit_DriftEvents_ends :
    (tfind (entIn (.signal aHdr 0 0 0) (.ended 0 1)).drifts 0 = some { firedEnt (.signal aHdr 0 0 0) with phase := .ended 0 1 }) ∧
    (let s : State := { entIn (.signal aHdr 0 0 0) (.retry 9) with wallus := 9 }
     tfind s.drifts 0 = some { firedEnt (.signal aHdr 0 0 0) with phase := .retry 9 } ∧ 9 ≤ s.wallus.toNat) ∧
    (let l : DriftList := { aList with left := 0 }
     let s : State := { fired (.signal aHdr 0 0 0) with dlists := [(0, l)] }
     tfind s.dlists 0 = some l ∧ l.left = 0 ∧ l.waiting = none ∧ l.qid2 = none) := by
  refine ⟨?_, ⟨?_, ?_⟩, ?_, ?_, ?_, ?_⟩ <;> decide +kernel
/-- Another device of the panel. -/
def otherTdev : Nat := panelTdev ((Config.devId.toNat + 1) % 64)
theorem otherTdev_ne : otherTdev ≠ ownTdev := by
  unfold otherTdev ownTdev panelTdev
  have := Config.devId.isLt
  omega
theorem inPanel_reach (s : State) (d : Nat) (hd : d < 64) (hi : s.isolated = []) (hp : s.peers = []) (hc : s.cutOff = false) :
    s.reach (panelTdev d) = none := by
  have h : panelTdev d / 64 = ownTdev / 64 := by
    unfold ownTdev panelTdev
    have := Config.devId.isLt
    omega
  simp [State.reach, State.devDown, State.peer, State.cutPanel, inTorus, h, hi, hp, hc, tget, Peer.reset]
/-- A message to another device, whose slot is free or holds the last step's data; one to a device that does not answer; and one
to this device, whose slot is free or busy. -/
theorem wit_DriftEvents_rings :
    (tfind (ringState otherTdev).rings 0 = some (aMsg otherTdev) ∧ (ringState otherTdev).reach (aMsg otherTdev).dest = none ∧
      (aMsg otherTdev).dest ≠ ownTdev ∧ tmem ((ringState otherTdev).peer (aMsg otherTdev).dest).slots (aMsg otherTdev).key = false ∧
      tmem ({ Peer.reset with slots := [((aMsg otherTdev).key, ([], 0))] } : Peer).slots (aMsg otherTdev).key = true) ∧
    (({ ringState ownTdev with isolated := [(ownTdev, true)] } : State).reach (aMsg ownTdev).dest = some 3) ∧
    (tfind (ringState ownTdev).rings 0 = some (aMsg ownTdev) ∧ (ringState ownTdev).reach (aMsg ownTdev).dest = none ∧
      (ringState ownTdev).ringDest (aMsg ownTdev) = some (0, 0x11000) ∧ (ringState ownTdev).driftXl 0 0x11000 .store = .ok 0x11000 ∧
      ringHome 0x11000 = true ∧ (∀ r ∈ (ringState ownTdev).ringSlots, r.addr ≠ 0x11000) ∧
      (∃ r ∈ ({ ringState ownTdev with ringSlots := [⟨0x11000, 0⟩] } : State).ringSlots, r.addr = 0x11000) ∧
      ∃ t k, ({ ringState ownTdev with rings := tdel (ringState ownTdev).rings 0 } : State).driftPut
        ((ringState ownTdev).ringAgents (aMsg ownTdev)) 0 0x11000 (aMsg ownTdev).data (aMsg ownTdev).data.length none = (t, 0, k)) ∧
    ((aMsg 9).src = .ent 0 ∧ tfind (ringState 9).drifts 0 = some { firedEnt (.rsstep { aHdr with trig := 5, thresh := 1 } 0x10000 0x11000 0x12000
      128 0 5 2 0 1 0) with phase := .armed }) ∧
    ((ringState 9).entRel { firedEnt (.signal aHdr 0 0 0) with phase := .armed }).1 = false := by
  refine ⟨⟨rfl, inPanel_reach _ _ (Nat.mod_lt _ (by decide)) rfl rfl (by decide +kernel), otherTdev_ne, rfl, ?_⟩, ?_,
    ⟨rfl, own_reach _ rfl, by decide +kernel, by decide +kernel, by decide, by decide, ⟨_, List.mem_cons_self .., rfl⟩, _, _, rfl⟩,
    ⟨rfl, rfl⟩, rfl⟩
  · simp [tmem]
  · show State.reach _ ownTdev = some 3
    simp [State.reach, State.devDown, State.cutPanel, inTorus, tget]
theorem wit_DriftEvents_lines :
    (let i : Instr := .putmc aHdr 0x10000 0 64 0 0
     let s : State := { entIn i .sending with dlists := [(0, { aList with src := some (List.replicate 64 0, none) })] }
     let e := { firedEnt i with phase := .sending }
     tfind s.drifts 0 = some e ∧ e.phase = .sending ∧ e.entry = i ∧ e.mcOff + 64 ≤ (64 : W32).toNat ∧ (descOff 0 + e.mcOff) % 64 = 0 ∧
       descOff 0 + e.mcOff + 64 ≤ min aGroup.size (2 ^ 30) ∧ (s.dlist e.list).src = some (List.replicate 64 0, none) ∧ s.usableGroup (descGroup 0) = some aGroup ∧
       e.mcOff + 64 ≤ (List.replicate 64 (0 : Byte)).length ∧ aGroup.kind = 0) ∧
    (driftHdr (.signal { aHdr with trig := 4, thresh := 2 } 0 0 0) = some { aHdr with trig := 4, thresh := 2 }) ∧
    (let s := entIn (.signal { aHdr with trig := 4, thresh := 2 } 0 0 0) .armed
     ∃ p h, p ∈ (s.setCtr 4 2).drifts ∧ driftHdr p.2.entry = some h ∧ h.trig.toNat = 4 ∧ h.thresh.toNat ≤ (2 : W32).toNat) := by
  refine ⟨⟨rfl, rfl, rfl, by decide, by decide, by decide +kernel, rfl, own_group _ rfl, by decide, rfl⟩, rfl, _, _, List.mem_cons_self .., rfl, ?_, ?_⟩ <;>
    decide +kernel

/-- A reduce group of every device; a range of addresses that any device may write. -/
def redGroup : State := { State.reset with
  groups := writeNat (writeNat (writeNat [] 0 8 (2 ^ 64 - 1)) 16 8 0x10000) 24 8 (2 ^ 63 + 2 ^ 61 + 0x30000) }
def openRange : State := { State.reset with
  regs := writeNat (writeNat [] Config.exposureDpa 8 0x1000) (Config.exposureDpa + 8) 8 (2 ^ 63 + 2 ^ 62 + 0x1FFF) }
/-- A context with a load outstanding at the aperture. -/
def apLoad : LdsOut := { dst := 5, va := 0x10000, sz := 3, pos := 0, result := .error 3 }
def atAperture : State :=
  running.setCore 0 { (running.core 0).setCtx 0 { running.cx with lds := some apLoad } with
    tlb := [{ placeTlb with dpa := 0x800000000000 }] }

theorem wit_PanelEvents :
    ((redGroup.group 0).valid = true ∧ (redGroup.group 0).kind = 1 ∧ 63 ∈ (redGroup.group 0).list ∧ 64 % 64 = 0 ∧
      64 + 64 ≤ (redGroup.group 0).size) ∧
    ((atAperture.ctxAt 0 0).lds = some apLoad ∧
      atAperture.xlate (atAperture.core 0).tlb (atAperture.ctxAt 0 0).launch.asid apLoad.va .load = .ok 0x800000000000 ∧
      regionOf 0x800000000000 = .aperture 0 0) ∧
    (openRange.cutOff = false ∧ exposed openRange.regs true 0x1000 8 = true ∧ plainDpa 0x1000 8 = true ∧ openRange.partBad 0x1000 8 = false) ∧
    ({ State.reset with links := (List.range 32).map (fun n => (n, .down)) } : State).cutOff = true ∧
    (exposed openRange.regs false 0x2000 1 = false ∧ exposed openRange.regs true 0x2000 1 = false ∧
      exposed openRange.regs true 0x2000 4 = false ∧ exposed openRange.regs true 0x2000 8 = false) ∧
    (exposed openRange.regs true 0x1000 4 = true ∧ plainDpa 0x1000 4 = true ∧ inCounters 0x1000 4 = false ∧
      ∃ r, openRange.applyWord [.peer (panelTdev 0)] 0x1000 4 0 5 0 = .ok r) ∧
    (exposed openRange.regs true 0x1FF8 8 = true ∧ plainDpa 0x1FF8 8 = true ∧ inCounters 0x1FF8 8 = false ∧
      ∃ r, openRange.applyWord [.peer (panelTdev 0)] 0x1FF8 8 12 0 5 = .ok r) ∧
    (State.reset.link 7 = .up ∧ ({ State.reset with links := [(7, .held 2)] } : State).link 7 = .held 2) := by
  refine ⟨⟨?_, ?_, ?_, ?_, ?_⟩, ⟨?_, ?_, ?_⟩, ⟨?_, ?_, ?_, ?_⟩, ?_, ⟨?_, ?_, ?_, ?_⟩, ⟨?_, ?_, ?_, _, rfl⟩, ⟨?_, ?_, ?_, _, rfl⟩, ?_, ?_⟩ <;>
    decide +kernel

/-- An empty run of three bundles; a second context, or the shadow context, beside the first. -/
def emptyThree : State := State.reset.placeCode [0, 2]
def beside (n : Nat) (f : Core → Core) : State := emptyThree.setCore 0 (f ((emptyThree.core 0).setCtx n emptyThree.cx))
def ldsOut (r : Except Nat W64) : State := running.modCx (fun x => { x with lds := some { apLoad with result := r } })
def nextTile : State := running.modCx (fun x => { x with tile := none, next := some (1, 2, 3) })

theorem wit_ContextEvents :
    (∃ t, emptyThree.prepare = .run 3 t) ∧
    (((ldsOut (.ok 7)).ctxAt 0 0).lds = some { apLoad with result := .ok 7 } ∧ ((ldsOut (.ok 7)).ctxAt 0 0).guard.replayLeft = [] ∧
      ((ldsOut (.ok 7)).ctxAt 0 0).env.any LaunchEnv.guard = false) ∧
    (((ldsOut (.error 2)).ctxAt 0 0).lds = some { apLoad with result := .error 2 } ∧
      ((ldsOut (.error 2)).ctxAt 0 0).env.any LaunchEnv.guard = false) ∧
    ((running.ctxAt 0 0).env = some placeEnv) ∧
    ((beside 1 (fun k => { k with issued := 2048 })).fairNext 0 = some 1) ∧
    ((beside 4 id).takesOver 0 = true) ∧
    (((beside 1 (fun k => { k with frozen := true })).core 0).frozen = true ∧
      (beside 1 (fun k => { k with frozen := true })).takesOver 0 = false) ∧
    ((nextTile.ctxAt 0 0).env = some placeEnv ∧ (nextTile.ctxAt 0 0).tile = none ∧ (nextTile.ctxAt 0 0).next = some (1, 2, 3) ∧
      (nextTile.ctxAt 0 0).guard.commitDue = false ∧ nextTile.stopping placeEnv.lid = false) ∧
    (let e : LaunchEnv := { placeEnv with w := 2, h := 2, gx := 3, gy := 3, gz := 2 }
     0 < e.w ∧ 0 < e.h ∧ 0 < e.gx ∧ 0 < e.gy ∧ 0 < e.gz ∧ e.tileAfter (2, 2, 0) = some (0, 0, 1)) := by
  have h : (match emptyThree.prepare with | .run n _ => n == 3 | _ => false) = true := by decide +kernel
  refine ⟨?_, ⟨?_, ?_, ?_⟩, ⟨?_, ?_⟩, ?_, ?_, ?_, ⟨?_, ?_⟩, ⟨?_, ?_, ?_, ?_, ?_⟩, ?_⟩
  · revert h
    generalize emptyThree.prepare = p
    cases p <;> simp
  all_goals decide +kernel

/-- The launch of a 1 × 1 grid, with its count block and its completion at 0x10000; in a phase. -/
def aRecord : List Byte := (((List.replicate 128 0).set 0x18 1).set 0x1A 1).set 0x6A 1 |>.set 0x4A 1
def launchIn (p : LaunchPhase) : Launch := { aLaunch with record := aRecord, phase := p, lid := 0 }
def withLaunch (l : Launch) : State := { State.reset with
  launches := [(0, l)], lqueues := [(0, [0])], unitTlbs := [(0, [placeTlb])], nun := { Nunatak.new with scrubbed := true } }
/-- A slot of the window whose V is 1. -/
def slotSet : State := { State.reset with mem := [(0x008010000000, 1)], doorbells := [0x008010000000], nun := { Nunatak.new with scrubbed := true } }

theorem wit_LaunchEvents_admission :
    (slotSet.doorbells = (0x008010000000 + 128 * 0) :: [] ∧ 0 < 256 ∧ (slotSet.byte (0x008010000000 + 128 * 0)).getLsbD 0 = true ∧ slotSet.admits = true) ∧
    (let l := { launchIn .queued with counted := false }
     let s : State := { withLaunch l with mem := writeNat (writeNat (writeNat [] 0x10000 4 1) 0x10004 4 2) 0x10008 4 (2 ^ 24) }
     tfind s.launches 0 = some l ∧ l.phase = .queued ∧ l.counted = false ∧ s.headOf l.die = some 0 ∧ s.countReady l = true ∧
       ((s.acquireCount l).lunitFill l.die l.asid (BitVec.ofNat 64 (l.field 0x48 8)) 16).countBlock l = some (1, 2, 2 ^ 24) ∧
       0 < 1 ∧ 2 ≤ 2 ^ 24 ∧ 2 ^ 24 ≤ 2 ^ 24) ∧
    (let l := launchIn .queued
     tfind (withLaunch l).launches 0 = some l ∧ l.counted = true ∧ (withLaunch l).headOf l.die = some 0 ∧ (withLaunch l).admits = true ∧
       (withLaunch l).originOf l.record = some (0, 0)) := by
  refine ⟨⟨?_, ?_, ?_, ?_⟩, ⟨?_, ?_, ?_, ?_, ?_, ?_, ?_, ?_, ?_⟩, ?_, ?_, ?_, ?_, ?_⟩ <;> decide +kernel
theorem wit_LaunchEvents_rounds :
    (let l := launchIn (.round 1 [0] false)
     let s := withLaunch l
     tfind s.launches 0 = some l ∧ s.earlierRound 1 0 = false ∧ tget false s.nun.retired 0 = false ∧ s.ctxFree 0 l.prio = true ∧
       recLsneed l.record ≤ (s.core 0).lsFree) ∧
    (let l := launchIn (.round 1 [0] false)
     let s : State := { withLaunch l with nun := { Nunatak.new with retired := [(0, true)] } }
     tfind s.launches 0 = some l ∧ s.earlierRound 1 0 = false ∧ tget false s.nun.retired 0 = true) ∧
    (let l := launchIn (.round 1 [] false)
     tfind (withLaunch l).launches 0 = some l ∧
       (∀ c ∈ rectCores l.ox l.oy (recW l.record) (recH l.record), tget false (withLaunch l).nun.retired c = false) ∧ l.field 0x78 4 = 0) ∧
    (let l := launchIn (.round 1 [] true)
     tfind (withLaunch l).launches 0 = some l ∧ l.phase = .round 1 [] true) ∧
    (let l := launchIn (.backoff 0)
     tfind (withLaunch l).launches 0 = some l ∧ 0 ≤ (withLaunch l).wallus.toNat) ∧
    (let l := launchIn (.ended 3)
     tfind (withLaunch l).launches 0 = some l ∧ l.lid = 0 ∧ l.src = .slot 0 ∧ (withLaunch l).doneAt l = some 0x10000) ∧
    (let l := { launchIn .running with lid := 1 }
     tfind (withLaunch l).launches 0 = some l ∧ l.lid ≠ 0 ∧ (withLaunch l).launchEnd l = some 0) ∧
    (let l := { launchIn .running with lid := 1, src := .cmd org2 0x10000 0 noSignal }
     tfind (withLaunch l).launches 0 = some l ∧ l.lid ≠ 0 ∧ (withLaunch l).launchEnd l = some 0) ∧
    (2 ^ 32 - 1 < 2 ^ 32 ∧ 255 < 256 ∧ 2 ^ 64 - 1 < 2 ^ 64) := by
  refine ⟨⟨?_, ?_, ?_, ?_, ?_⟩, ⟨?_, ?_, ?_⟩, ⟨?_, ?_, ?_⟩, ⟨?_, ?_⟩, ⟨?_, ?_⟩, ⟨?_, ?_, ?_, ?_⟩, ⟨?_, ?_, ?_⟩, ⟨?_, ?_, ?_⟩, ?_⟩ <;>
    decide +kernel

/-- A guarded context at the end of a run of its segment. -/
def commitDue (f : Guard → Guard) : State :=
  guarded.modCx (fun x => { x with guard := f { Guard.none with commitDue := true, point := some x.a, tile := some (0, 0, 0) } })

theorem wit_GuardEvents :
    (((commitDue id).at' 0 0).commitReady = true ∧ ((commitDue id).ctxAt 0 0).guard.rerun = 0) ∧
    (((commitDue id).ctxAt 0 0).env.any LaunchEnv.guard = true ∧ ((commitDue id).ctxAt 0 0).guard.point = some guarded.cx.a ∧
      ((commitDue id).core 0).snapped ((commitDue id).ctxAt 0 0).launch.lid = true) ∧
    (let s := (commitDue id).setCore 0 (((commitDue id).core 0).setArr 0 { Arr.reset with owner := some 1, snapv := false })
     (s.ctxAt 0 0).env.any LaunchEnv.guard = true ∧ (s.ctxAt 0 0).guard.point = some guarded.cx.a ∧ (s.ctxAt 0 0).guard.rerun = 0 ∧
       (s.core 0).snapped (s.ctxAt 0 0).launch.lid = false) ∧
    ((commitDue (fun g => { g with rerun := 2 })).ctxAt 0 0).guard.rerun ≠ 0 ∧
    (let s := commitDue (fun g => { g with rerun := 1 })
     (s.at' 0 0).commitReady = true ∧ (s.at' 0 0).cx.guard.rerun = 1 ∧ (s.core 0).snapped (s.at' 0 0).cx.launch.lid = true) ∧
    (let s := commitDue (fun g => { g with rerun := 2, aclk := 5, firstAclk := 5, firstCrc := crc32c [] })
     (s.at' 0 0).commitReady = true ∧ (s.at' 0 0).cx.guard.rerun = 2 ∧ (s.at' 0 0).cx.guard.aclk = (s.at' 0 0).cx.guard.firstAclk ∧
       (s.at' 0 0).rerunCrc = (s.at' 0 0).cx.guard.firstCrc) ∧
    (let s := commitDue (fun g => { g with rerun := 2, aclk := 5, firstAclk := 6 })
     (s.at' 0 0).commitReady = true ∧ (s.at' 0 0).cx.guard.rerun = 2 ∧ (s.at' 0 0).cx.guard.aclk ≠ (s.at' 0 0).cx.guard.firstAclk) := by
  refine ⟨⟨?_, ?_⟩, ⟨?_, ?_, ?_⟩, ⟨?_, ?_, ?_, ?_⟩, ?_, ⟨?_, ?_, ?_⟩, ⟨?_, ?_, ?_, ?_⟩, ?_, ?_, ?_⟩ <;> decide +kernel
/-- A held store of one byte, and two chunks recorded. -/
def withHeld : State := commitDue (fun g => { g with hold := [.store 0x10000 [7]] })
def withJournal : State := commitDue (fun g => { g with journal := [(0, List.replicate 32 7), (64, List.replicate 32 9)] })
theorem wit_GuardRestores :
    (withHeld.cx.guard.hold ≠ [] ∧ withHeld.cx.guard.replayLeft = []) ∧
    (withJournal.cx.guard.point = some guarded.cx.a ∧
      withJournal.cx.guard.journal.Pairwise (fun p q => p.1 + p.2.length ≤ q.1) ∧
      ∀ p ∈ withJournal.cx.guard.journal, 40 < p.1 ∨ p.1 + p.2.length ≤ 40) := by
  refine ⟨⟨?_, ?_⟩, ?_, ?_, ?_⟩ <;> decide +kernel
/-- Undoing a run puts both chunks back. -/
theorem test_unwindChunks : readBytes (withJournal.unwind 1).fcore.ls 64 32 = List.replicate 32 9 := by decide +kernel

/-- Tables of two levels that map 1 GiB at 0; a control block with a command. -/
def mapped : State := { running with
  mem := writeNat (writeNat [] 0x200000 8 0x300001) 0x300000 8 0x1F, regs := writeNat [] Config.xlatCtxDpa 8 0x200001 }
/-- The walk of its first page, under way for context 0 of core 0. -/
def aWalk : Walk := { die := 0, asid := 0, page := 1, reqs := [(0, 1)] }
def asking : State := { mapped with walks := [aWalk] }
def ctlBlock (s : State) (cmd img : Nat) : State :=
  s.setCore 0 { s.core 0 with evCmd := cmd, evStatus := 1, evImage := BitVec.ofNat 64 img }
/-- A parked context of a running launch, and the head of its image at 0x40000. -/
def parked : Parking := { lid := 1, ctx := running.cx, deltas := [], fills := [] }
def toRestore : State :=
  let s : State := { State.reset with
    mem := writeNat (writeNat (writeNat [] 0x40000 4 0x43564153) 0x40004 2 1) 0x40008 8 1 ++
      (bytesOfNat 8 (coreXY 0).toNat).zipIdx.map (fun p => (0x40010 + p.2, p.1))
    launches := [(0, aLaunch)] }
  ctlBlock (s.setCore 0 { s.core 0 with parking := [parked] }) 2 0x40000
def restoreRd (off len : Nat) : Nat := readNat toRestore.mem ((toRestore.core 0).evImage.toNat + off) len
theorem natOfBytes_bytesOfNat (n v : Nat) : natOfBytes (bytesOfNat n v) = v % 256 ^ n := by
  induction n generalizing v with
  | zero => simp [bytesOfNat, natOfBytes, Nat.mod_one]
  | succ n ih =>
    simp only [bytesOfNat, natOfBytes, ih, BitVec.toNat_ofNat]
    rw [show 256 ^ (n + 1) = 256 * 256 ^ n from Nat.pow_succ', Nat.mod_mul]
theorem restore_xy : BitVec.ofNat 64 (restoreRd 0x10 8) = coreXY 0 := by
  have h : restoreRd 0x10 8 = natOfBytes (bytesOfNat 8 (coreXY 0).toNat) := rfl
  rw [h, natOfBytes_bytesOfNat]
  apply BitVec.eq_of_toNat_eq
  have := (coreXY 0).isLt
  rw [BitVec.toNat_ofNat]
  omega

theorem wit_TranslationAndEvictionEvents :
    (asking.walks.find? (fun w => w.asid == BitVec.ofNat 16 0 && w.page == pageNo 0x12345 && asking.walking w) = some aWalk ∧
      asking.walk (BitVec.ofNat 16 0) aWalk.va = .ok { asid := 0, vpn := 0, bits := 30, dpa := 0, perm := 7 } ∧ asking.xinvBusy = false) ∧
    (let s : State := { asking with xinvBusy := true, regs := writeNat asking.regs (Config.xinvDpa + 8) 8 (2 ^ 17 + 2 ^ 16) }
     s.walks.find? (fun w => w.asid == BitVec.ofNat 16 0 && w.page == pageNo 0x12345 && s.walking w) = some aWalk ∧
       (s.xinvBusy && s.xinvCovers { asid := 0, vpn := 0, bits := 30, dpa := 0, perm := 7 }) = true ∧
       ∃ w ∈ s.walks, s.xinvCovers (s.walkEnt w) = true) ∧
    (let s : State := { running with walks := [aWalk] }
     s.walks.find? (fun w => w.asid == BitVec.ofNat 16 0 && w.page == pageNo 0x12345 && s.walking w) = some aWalk ∧
       s.walk (BitVec.ofNat 16 0) aWalk.va = .error ⟨9, 0⟩) ∧
    ((∃ w ∈ asking.walks, w.die = coreDie asking.focusCore ∧ w.asid = asking.cx.launch.asid ∧ w.page = pageNo 0x12345) ∧
      asking.walks = [] ++ aWalk :: [] ∧ aWalk ∉ ([] : List Walk)) ∧
    (let s : State := { running with xinvBusy := true }
     s.xinvBusy = true ∧ ∀ w ∈ s.walks, s.xinvCovers (s.walkEnt w) = false) ∧
    (let s := ctlBlock running 1 0x40000
     (s.core 0).evCmd = 1 ∧ (s.core 0).evCtx < 4 ∧ ((s.core 0).ctx (s.core 0).evCtx).tile.isSome = true ∧ (s.core 0).parking.length < 8 ∧
       imageAt (s.core 0).evImage.toNat = true ∧ s.evictable 0 (s.core 0).evCtx = true) ∧
    (let s := ctlBlock State.reset 1 0x40000
     (s.core 0).evCmd = 1 ∧ ((s.core 0).ctx (s.core 0).evCtx).tile = none) ∧
    (let s := ctlBlock State.reset 2 0x40001
     (s.core 0).evCmd = 2 ∧ imageAt (s.core 0).evImage.toNat = false) ∧
    ((toRestore.core 0).evCmd = 2 ∧ imageAt (toRestore.core 0).evImage.toNat = true ∧ toRestore.ueIn (toRestore.core 0).evImage.toNat (40192 + 8 * restoreRd 6 2) = false ∧
      restoreRd 0 4 = 0x43564153 ∧ restoreRd 4 2 = 1 ∧ toRestore.runs (restoreRd 8 8) = true ∧
      BitVec.ofNat 64 (restoreRd 0x10 8) = coreXY 0 ∧ (toRestore.core 0).parking.find? (fun q => q.lid == restoreRd 8 8) = some parked ∧
      toRestore.ctxFree 0 false = true ∧ [0, 1, 2, 3].find? (fun n => ((toRestore.core 0).ctx n).env.isNone) = some 0) := by
  refine ⟨⟨?_, ?_, ?_⟩, ⟨?_, ?_, ?_⟩, ⟨?_, ?_⟩, ⟨?_, ?_, ?_⟩, ⟨?_, ?_⟩, ⟨?_, ?_, ?_, ?_, ?_, ?_⟩, ⟨?_, ?_⟩, ⟨?_, ?_⟩, ?_, ?_, ?_, ?_, ?_, ?_,
    restore_xy, ?_, ?_, ?_⟩ <;> decide +kernel

/-- A mailbox with a command and its arguments. -/
def mailbox (op a b : Nat) (c : Nat := 0) : State := { State.reset with
  nun := { Nunatak.new with op := op, status := 1, args := [BitVec.ofNat 64 a, BitVec.ofNat 64 b, BitVec.ofNat 64 c, 0] } }
def mArg (s : State) (n : Nat) : Nat := (s.nun.args.getD n 0).toNat
/-- Little-endian fields written into zeros. -/
def fields (n : Nat) (l : List (Nat × Nat × Nat)) : List Byte :=
  l.foldl (fun o f => o.take f.1 ++ bytesOfNat f.2.1 f.2.2 ++ o.drop (f.1 + f.2.1)) (List.replicate n 0)
/-- A firmware object of three sections: code of 64 bytes, memory of 32, and the signatures. -/
def fwObject : List Byte := fields 3160
  [(0, 4, 0x4F564743), (4, 2, 1), (6, 2, 0x80), (8, 4, 0x0F02), (0x20, 8, 0x80), (0x28, 2, 3), (0x30, 8, 3160),
   (0x80, 2, 1), (0x88, 8, 0x100), (0x90, 8, 64), (0xA0, 2, 0xC), (0xA8, 8, 0x140), (0xB0, 8, 32),
   (0xC0, 2, 0xF), (0xC8, 8, 0x180), (0xD0, 8, 2776)]
/-- A key command that enrols slot 0 by its own keys. -/
def keyCommand : List Byte := fields 2952
  [(0, 4, 0x4B4D4344), (4, 1, 1), (8, 8, 1), (0xB0, 4, 96), (0x114, 4, 2668)]

theorem wit_ManagementAndHost_commands :
    ((mailbox 1 0 7).nun.op = 1 ∧ mArg (mailbox 1 0 7) 0 = 0 ∧
      (mailbox 1 0 7).launches.filter (fun p => p.2.lid != 0 && p.2.lid == mArg (mailbox 1 0 7) 1) = []) ∧
    (let s : State := { mailbox 1 0 1 with launches := [(0, aLaunch)] }
     s.launches.filter (fun p => p.2.lid != 0 && p.2.lid == mArg s 1) = [(0, aLaunch)]) ∧
    (mArg (mailbox 2 511 0) 0 < 512 ∧ 512 ≤ mArg (mailbox 2 512 0) 0) ∧ mArg (mailbox 3 31 0) 0 < 32 ∧
    (mArg (mailbox 4 63 0) 0 < 64 ∧ ((mailbox 4 63 0).peer (panelTdev 63)).up = true ∧ (mailbox 4 63 0).cutOff = false) ∧ (400 ≤ mArg (mailbox 5 400 0) 0 ∧ mArg (mailbox 5 400 0) 0 ≤ 1600) ∧
    (mArg (mailbox 5 399 0) 0 < 400) ∧
    (hbmObject (mArg (mailbox 6 0 3160) 0) (mArg (mailbox 6 0 3160) 1) = true ∧
      (mailbox 6 0 3160).fwRefusal (readBytes (mailbox 6 0 3160).mem 0 3160) = some 1) ∧
    ((mailbox 7 0 0).nun.op = 7 ∧ ((mailbox 7 0 0).nun.slot (mailbox 7 0 0).nun.fwActive).fresh = false) ∧
    (let s : State := { mailbox 7 0 0 with nun := { Nunatak.new with op := 7, fwA := { object := [], secver := 3, valid := true, fresh := true } } }
     (s.nun.slot s.nun.fwActive).fresh = true) ∧
    (hbmObject (mArg (mailbox 8 0 2952) 0) 2952 = true ∧ mArg (mailbox 8 0 2952) 1 = 2952 ∧
      (mailbox 8 0 2952).keyStatus (readBytes (mailbox 8 0 2952).mem 0 2952) = 3) ∧
    (let s := mailbox 9 0 0x1000 0x2000
     hbmObject (mArg s 0) 32 = true ∧ hbmObject (mArg s 1) (0x60 + 56 * s.images.length + 2776) = true ∧
       0x60 + 56 * s.images.length + 2776 ≤ mArg s 2) ∧
    hbmObject (mArg (mailbox 10 0 0) 0) 152 = true ∧
    (hbmObject (mArg (mailbox 10 1 0) 0) 152 = false ∧ hbmObject (mArg (mailbox 6 1 0) 0) (mArg (mailbox 6 1 0) 1) = false ∧
      hbmObject (mArg (mailbox 8 1 2952) 0) 2952 = false ∧ mArg (mailbox 8 0 2951) 1 ≠ 2952) := by
  refine ⟨⟨?_, ?_, ?_⟩, ?_, ⟨?_, ?_⟩, ?_, ⟨?_, ?_, ?_⟩, ⟨?_, ?_⟩, ?_, ⟨?_, ?_⟩, ⟨?_, ?_⟩, ?_, ⟨?_, ?_, ?_⟩, ⟨?_, ?_, ?_⟩, ?_, ?_, ?_, ?_, ?_⟩ <;>
    decide +kernel
/-- Cancelling by a slot and by a command's record, at the bounds of their arguments; bad arguments; a link, a device and a peer
that does not answer. -/
theorem wit_ManagementAndHost_arguments :
    ((mailbox 1 1 255).nun.op = 1 ∧ mArg (mailbox 1 1 255) 0 = 1 ∧ mArg (mailbox 1 1 255) 1 < 256 ∧ 256 ≤ mArg (mailbox 1 1 256) 1) ∧
    (mArg (mailbox 1 2 0x10000 65535) 0 = 2 ∧ mArg (mailbox 1 2 0x10000 65535) 2 < 65536 ∧ 65536 ≤ mArg (mailbox 1 2 0 65536) 2 ∧
      2 < mArg (mailbox 1 3 0) 0) ∧
    (32 ≤ mArg (mailbox 3 32 0) 0 ∧ 64 ≤ mArg (mailbox 4 64 0) 0 ∧ 1600 < mArg (mailbox 5 1601 0) 0) ∧
    (let s : State := { mailbox 4 ((Config.devId.toNat + 1) % 64) 0 with links := (List.range 32).map (fun n => (n, .down)) }
     mArg s 0 < 64 ∧ panelTdev (mArg s 0) ≠ ownTdev ∧ (s.rejoin (panelTdev (mArg s 0))).cutOff = true) ∧
    (State.reset.nun.status ≠ 1 ∧ 0 < (10 : Byte).toNat ∧ (10 : Byte).toNat ≤ 10) ∧
    (Config.windowBase ≤ Config.windowEnd - 8 ∧ Config.windowEnd - 8 + 8 ≤ Config.windowEnd) := by
  have arg : mArg (mailbox 4 ((Config.devId.toNat + 1) % 64) 0) 0 = (Config.devId.toNat + 1) % 64 := by
    simp only [mArg, mailbox, List.getD_cons_zero, BitVec.toNat_ofNat]
    exact Nat.mod_eq_of_lt (Nat.lt_trans (Nat.mod_lt _ (by decide)) (by decide))
  refine ⟨?_, ?_, ?_, ?_, ?_, ?_⟩
  case refine_4 =>
    intro s
    have h : mArg s 0 = (Config.devId.toNat + 1) % 64 := arg
    rw [h]
    refine ⟨Nat.mod_lt _ (by decide), otherTdev_ne, ?_⟩
    simp only [State.rejoin]
    split <;> decide +kernel
  all_goals decide +kernel
/-- SHA-384 of the three bytes "abc", as the standard that R108 names gives it. -/
theorem test_sha384 : sha384 [0x61, 0x62, 0x63] = [0xcb, 0x00, 0x75, 0x3f, 0x45, 0xa3, 0x5e, 0x8b, 0xb5, 0xa0, 0x3d, 0x69, 0x9a, 0xc6, 0x50, 0x07, 0x27, 0x2c, 0x32, 0xab, 0x0e, 0xde, 0xd1, 0x63, 0x1a, 0x8b, 0x60, 0x5a, 0x43, 0xff, 0x5b, 0xed, 0x80, 0x86, 0x07, 0x2b, 0xa1, 0xe7, 0xcc, 0x23, 0x58, 0xba, 0xec, 0xa1, 0x34, 0xc8, 0x25, 0xa7] := by
  decide +kernel

/-- A loaded image, and a slot that asks for its unloading. -/
def anImage : Image := { asid := 0, bases := [0x10000], regions := [], tensors := [], digest := [] }
def loadAsk (unload base : Nat) : State := { State.reset with
  mem := writeNat (writeNat (writeNat [] (loadSlot 0) 4 1) (loadSlot 0 + 6) 1 unload) (loadSlot 0 + 8) 8 base
  doorbells := [loadSlot 0], images := [anImage], nun := { Nunatak.new with scrubbed := true } }
theorem wit_ManagementAndHost_host :
    (Config.hbmEnd - 1 + [(7 : Byte)].length ≤ Config.hbmEnd) ∧
    (Config.windowBase ≤ Config.windowEnd - 1 ∧ Config.windowEnd - 1 + [(7 : Byte)].length ≤ Config.windowEnd) ∧
    regionOf Config.mailboxDpa = .regs ∧ (271 < 272) ∧
    ((Config.xinvDpa, 16) ∈ plainRegs ∧ Config.xinvDpa ≤ Config.xinvDpa + 9 ∧ Config.xinvDpa + 9 < Config.xinvDpa + 16 ∧
      Config.xinvDpa + 9 ≠ Config.xinvDpa + 10) ∧
    ((loadAsk 0 0).asks 0 false = true ∧ (loadAsk 0 0).slotReserved 0 = false ∧
      hbmObject (readNat (loadAsk 0 0).mem (loadSlot 0 + 8) 8) (readNat (loadAsk 0 0).mem (loadSlot 0 + 16) 8) = true) ∧
    ((loadAsk 1 0x10000).asks 0 true = true ∧ (loadAsk 1 0x10000).slotReserved 0 = false ∧
      (loadAsk 1 0x10000).images.find? (fun i => i.asid == BitVec.ofNat 16 (readNat (loadAsk 1 0x10000).mem (loadSlot 0 + 4) 2) &&
        i.bases.getD 0 0 == readNat (loadAsk 1 0x10000).mem (loadSlot 0 + 8) 8) = some anImage) ∧
    State.reset.nun.scrubbed = false ∧ State.reset.nun.capWatts < 1601 ∧ 350 < State.reset.nun.aclkMhz ∧
    (let s : State := { State.reset with nun := { Nunatak.new with aclkMhz := 600 } }
     1520 * 100 ≤ s.nun.capWatts * 95 ∧ s.nun.gating = 0 ∧ s.nun.aclkMhz < s.nun.planMhz) := by
  refine ⟨?_, ⟨?_, ?_⟩, ?_, ?_, ⟨?_, ?_, ?_, ?_⟩, ⟨?_, ?_, ?_⟩, ⟨?_, ?_, ?_⟩, ?_, ?_, ?_, ?_, ?_, ?_⟩ <;> decide +kernel

theorem wit_StepKeepsMemory : Memory.wf running.mem ∧ ∃ t, step running = .next t := by
  refine ⟨by decide +kernel, ?_⟩
  have h : (match step running with | .next _ => true | _ => false) = true := by decide +kernel
  revert h
  generalize step running = r
  cases r <;> simp
theorem wit_MemoryReadAfterWrite : (0x0FFF < 0x1000 ∨ 0x1000 + [(7 : Byte)].length ≤ 0x0FFF) ∧ Memory.wf [(5, 7)] := by decide

end Sys2Proof.Tests
end

section
/-! SUPPORT. What a context waits for while its results land, when a bundle passes its test, and what a trap entry
writes (R39, R68, R138, R156). -/

namespace Sys2Proof.Machine

open Sys2Proof

/-! Landing ends no wait and takes nothing of the guard's buffers (R156, R300). -/

/-- What `Free` asks of a context. -/
structure SameWaits (x y : Ctx) : Prop where
  lds : y.lds = x.lds
  commitDue : y.guard.commitDue = x.guard.commitDue
  holdUsed : y.guard.holdUsed = x.guard.holdUsed
  journalUsed : y.guard.journalUsed = x.guard.journalUsed

theorem SameWaits.refl (x : Ctx) : SameWaits x x := ⟨rfl, rfl, rfl, rfl⟩

theorem SameWaits.trans {x y z : Ctx} (h : SameWaits x y) (g : SameWaits y z) : SameWaits x z :=
  ⟨g.lds.trans h.lds, g.commitDue.trans h.commitDue, g.holdUsed.trans h.holdUsed, g.journalUsed.trans h.journalUsed⟩

/-- A fold of steps that keep what a context waits for keeps it. -/
theorem sameWaits_foldl {α : Type} {f : Ctx → α → Ctx} (hf : ∀ x e, SameWaits x (f x e)) (es : List α) (x : Ctx) :
    SameWaits x (es.foldl f x) := by
  induction es generalizing x with
  | nil => exact .refl x
  | cons e es ih => exact (hf x e).trans (ih (f x e))

/-- Of the guard, a group that lands changes the record of inputs alone, whatever its destination (R303). -/
theorem sameWaits_landGroup (e : Landing) (x : Ctx) (gl : GroupLand) : SameWaits x (x.landGroup e gl) := by
  unfold Ctx.landGroup
  refine ⟨?_, ?_, ?_, ?_⟩ <;> (dsimp only; (repeat' split) <;> rfl)

theorem sameWaits_landEntry (x : Ctx) (e : Landing) : SameWaits x (x.landEntry e) := by
  unfold Ctx.landEntry
  split
  · exact ⟨rfl, rfl, rfl, rfl⟩
  · exact ⟨rfl, rfl, rfl, rfl⟩
  · exact (sameWaits_foldl (sameWaits_landGroup e) e.groups x).trans ⟨rfl, rfl, rfl, rfl⟩

theorem sameWaits_landAll (x : Ctx) : SameWaits x x.landAll := by
  unfold Ctx.landAll
  extract_lets due a v x1 x2
  split
  · exact .refl x
  · have h1 : SameWaits x x1 := ⟨rfl, rfl, rfl, rfl⟩
    have h2 : SameWaits x1 x2 := sameWaits_foldl sameWaits_landEntry due x1
    exact (h1.trans h2).trans ⟨rfl, rfl, rfl, rfl⟩

/-- A context that waits for nothing waits for nothing once its results due have landed. -/
theorem free_landed {s : State} (h : Free s) : Free s.landed := by
  obtain ⟨hl, hc, hh, hj⟩ := h
  have hw : SameWaits s.cx s.landed.cx := by
    unfold State.landed
    rw [cx_modCx]
    exact sameWaits_landAll s.cx
  exact ⟨hw.lds.trans hl, hw.commitDue.trans hc, hw.holdUsed.trans_le hh, hw.journalUsed.trans_le hj⟩

/-! The test of a bundle. -/

/-- A bundle issues that nothing holds, that needs no commit and that traps nowhere (R39, R68). -/
theorem test_go_of {s : State} {l : List (Slot × Instr)} (hl : s.landed.cx.lds = none)
    (hc : s.landed.cx.guard.commitDue = false) (hh : s.landed.heldBy l = false)
    (hn : s.landed.needsCommit false l = false) (ht : s.landed.trapOf l = none) : s.test l = .go s.landed := by
  unfold State.test
  simp [hl, hc, hh, hn, ht]

/-! What a trap entry writes (R138). -/

@[simp] theorem cx_log (s : State) (src code : Nat) (d : List Byte) : (s.log src code d).cx = s.cx := rfl

/-- What a core's clock counts is nothing of its contexts. -/
@[simp] theorem cx_setFcore_acycle (s : State) (n : W64) : (s.setFcore { s.fcore with acycle := n }).cx = s.cx := by
  unfold State.cx
  rw [fcore_setFcore]
  rfl

/-- A launch told to stop keeps the contexts that run it (R31). -/
@[simp] theorem cx_stopLaunch (s : State) (lid code : Nat) : (s.stopLaunch lid code).cx = s.cx := by
  unfold State.stopLaunch
  (repeat' split) <;> rfl

/-- Trap entry writes the saved registers, whether its handler is entered or its tile task ends (R138). -/
theorem enterTrap_saves (s : State) (cause : Cause) (info pc : W64) :
    (s.enterTrap cause info pc).cx.a.c.trapPc = pc ∧ (s.enterTrap cause info pc).cx.a.c.trapInfo = info ∧
    (s.enterTrap cause info pc).cx.a.c.trapCause = BitVec.ofNat 64 cause.code := by
  unfold State.enterTrap
  extract_lets c0 vec s1 k s2 s3 lid s4
  have hs3 : s3.cx = s1.cx := by
    unfold s3
    split
    · exact (cx_log ..).trans (cx_setFcore_acycle s1 _)
    · exact cx_setFcore_acycle s1 _
  split
  · simp [s4, hs3, s1, Ctx.endTask]
  · simp [hs3, s1]

end Sys2Proof.Machine
end

section
/-! SUPPORT. Software traps and semaphores that saturate (R130, R137). -/

namespace Sys2Proof.Machine

open Sys2Proof

/-! SWTRAP (R137). -/

/-- TRAP is a slot instruction that posts its trap. -/
theorem trap_completes (code : BitVec 16) : Completes (.trap code) (fun s => s.post (.trap code.toNat)) :=
  fun _ h => slot_ready h

theorem runSlots_cons_of_next {sl : Slot} {i : Instr} {r : List (Slot × Instr)} {s t : State} (h : exec i s = .next t) :
    runSlots ((sl, i) :: r) s = runSlots r t := by
  simp only [runSlots, h]

/-- A posted trap is what follows the bundle: its handler is entered from F with the code (R137). -/
theorem control_of_trap {s : State} {n : Nat} (h : s.cx.iss.post.find? Post.isControl = some (.trap n)) :
    s.control = (s.goTo s.cx.iss.fall s.cx.a.c.loops).enterTrap .swtrap (BitVec.ofNat 64 n) s.cx.iss.fall := by
  simp only [State.control, h]

/-- Settles O28: TRAP posts its trap, and the control part of the bundle enters it. -/
theorem softwareTrap : Obligations.SoftwareTrap := by
  refine ⟨⟨fun code s r hc => ?_, trap_completes, fun s code h => ?_⟩, by decide⟩
  · rw [runSlots_cons_of_next (trap_completes code s (ready_checked hc)), issued_checked hc]
  · rw [control_of_trap h]
    obtain ⟨hpc, hinfo, hcause⟩ := enterTrap_saves (s.goTo s.cx.iss.fall s.cx.a.c.loops) .swtrap
      (BitVec.ofNat 64 code.toNat) s.cx.iss.fall
    exact ⟨hpc, hinfo.trans (BitVec.ofNat_toNat 64 code), hcause⟩

/-! Semaphores (R130). -/

/-- A signal's sum, cut at 0xFFFF. -/
theorem semAdd_sem (x : Ctx) (sem inc : Nat) :
    (tget 0 (x.semAdd sem inc).a.c.sem sem).toNat = min ((tget 0 x.a.c.sem sem).toNat + inc) 0xFFFF := by
  unfold Ctx.semAdd
  dsimp only
  split <;> simp only [tget_tput_same, BitVec.toNat_ofNat] <;> omega

/-- A signal short of saturation makes nothing due; one past it makes SEMOVF due with the lowest index. -/
theorem semAdd_semovf (x : Ctx) (sem inc : Nat) :
    (x.semAdd sem inc).a.p.semovf = if 0xFFFF < (tget 0 x.a.c.sem sem).toNat + inc then
      some (match x.a.p.semovf with | some j => min j sem | none => sem) else x.a.p.semovf := by
  unfold Ctx.semAdd
  dsimp only
  split
  · exact (if_neg (by omega)).symm
  · exact (if_pos (by omega)).symm

/-- SEMOVF is the first cause where no machine check and no SDATA is due (R392). -/
theorem first_semovf {p : PendSt} {n : Nat} (hm : p.mchk = none) (hd : p.sdata = none) (hs : p.semovf = some n) :
    p.first = some (.semovf, BitVec.ofNat 64 n) := by
  simp only [PendSt.first, hm, hd, hs]

/-- A cause that is due is taken before the next bundle, at the address of its header (R130, R392). -/
theorem prepare_first {s : State} {c : Cause} {info : W64}
    (h : (s.modCx Ctx.replayInputs).cx.a.p.first = some (c, info)) :
    s.prepare = .stop (((s.modCx Ctx.replayInputs).modPend PendSt.taken).enterTrap c info
      (s.modCx Ctx.replayInputs).nextAddr) := by
  simp only [State.prepare, h]

/-- Settles O27: the sum is cut at 0xFFFF, and the SEMOVF that is due is the first cause before the next bundle. -/
theorem semaphoreSaturates : Obligations.SemaphoreSaturates := by
  refine ⟨fun x sem inc => ?_, semAdd_semovf, fun s n hm hd hs => ?_⟩
  · rw [semAdd_sem]
    split <;> omega
  · exact ⟨_, prepare_first (first_semovf hm hd hs), enterTrap_saves ..⟩

end Sys2Proof.Machine
end

section
/-! SUPPORT. Division and constants (R142): a bundle of one division, which nothing holds and nothing traps, and what LI and LUI
build. -/

namespace Sys2Proof.Machine

open Sys2Proof

/-! A bundle of one division. -/

/-- DIVS or DIVU (R142). -/
def IsDivision (i : Instr) : Prop := ∃ rd ra rb : BitVec 6, i = .divs rd ra rb ∨ i = .divu rd ra rb

section
variable {i : Instr} (h : IsDivision i)
include h

theorem division_notHeld (s : State) : s.heldBy [(slotOf i, i)] = false := by
  obtain ⟨rd, ra, rb, rfl | rfl⟩ := h <;> rfl

theorem division_needsNoCommit (s : State) : s.needsCommit false [(slotOf i, i)] = false := by
  obtain ⟨rd, ra, rb, rfl | rfl⟩ := h <;> exact Bool.and_false _

theorem division_notIll (s : State) : s.illOf [(slotOf i, i)] = none := by
  obtain ⟨rd, ra, rb, rfl | rfl⟩ := h <;> rfl

/-- It reads no vector register, so none that is poisoned. -/
theorem division_noReplay (s : State) : s.replayOf [(slotOf i, i)] = none := by
  obtain ⟨rd, ra, rb, rfl | rfl⟩ := h <;> exact ite_self _

theorem division_noSfmt (s : State) : s.sfmtOf [(slotOf i, i)] = none := by
  obtain ⟨rd, ra, rb, rfl | rfl⟩ := h <;> rfl

theorem division_noWport (s : State) : s.wportOf [(slotOf i, i)] = none := by
  obtain ⟨rd, ra, rb, rfl | rfl⟩ := h <;> rfl

/-- It takes nothing of the guard's buffers. -/
theorem division_noCkspan {s : State} (hf : Free s) : s.ckspanOf [(slotOf i, i)] = none := by
  obtain ⟨-, -, hh, hj⟩ := hf
  have hhold : holdCost i = 0 := by
    obtain ⟨rd, ra, rb, rfl | rfl⟩ := h <;> rfl
  have hrecord : recordCost i = 0 := by
    obtain ⟨rd, ra, rb, rfl | rfl⟩ := h <;> rfl
  have hjournal : s.journalCost [(slotOf i, i)] = 0 := by
    obtain ⟨rd, ra, rb, rfl | rfl⟩ := h <;> rfl
  simp [State.ckspanOf, hhold, hrecord, hjournal, Nat.not_lt.mpr hh, Nat.not_lt.mpr hj]

theorem division_noEarlyTrap {s : State} (hf : Free s) : s.earlyTrap [(slotOf i, i)] = none := by
  simp only [State.earlyTrap, division_notIll h, division_noReplay h, division_noSfmt h, division_noWport h,
    division_noCkspan h hf, Option.map_none]

theorem division_noTrap {s : State} (hf : Free s) : s.trapOf [(slotOf i, i)] = none := by
  simp only [State.trapOf, division_noEarlyTrap h hf]
  obtain ⟨rd, ra, rb, rfl | rfl⟩ := h <;> rfl

/-- A division issues wherever the context waits for nothing, whatever its operands are. -/
theorem division_ready {s : State} (hf : Free s) : Ready i s := by
  have hl : Free s.landed := free_landed hf
  obtain ⟨hlds, hcommit, -⟩ := id hl
  exact .inr (test_go_of hlds hcommit (division_notHeld h _) (division_needsNoCommit h _) (division_noTrap h hl))

end

/-! What divisions and constants give (R141, R142). -/

theorem divUnsigned_zero (a : W64) : divUnsigned a 0 = BitVec.ofNat 64 (2 ^ 64 - 1) := rfl

theorem divSigned_zero (a : W64) : divSigned a 0 = BitVec.ofInt 64 (-1) := rfl

/-- The one quotient that does not fit wraps. -/
theorem divSigned_min_neg_one :
    divSigned (BitVec.ofInt 64 (-(2 ^ 63))) (BitVec.ofInt 64 (-1)) = BitVec.ofInt 64 (-(2 ^ 63)) := by
  decide

theorem givesScalar_divu (rd ra rb : BitVec 6) :
    GivesScalar (.divu rd ra rb) rd 12 (fun s => divUnsigned (s.sr ra) (s.sr rb)) := fun _ h => slot_ready h

theorem givesScalar_divs (rd ra rb : BitVec 6) :
    GivesScalar (.divs rd ra rb) rd 12 (fun s => divSigned (s.sr ra) (s.sr rb)) := fun _ h => slot_ready h

theorem givesScalar_li (rd : BitVec 6) (imm : BitVec 20) :
    GivesScalar (.li rd imm) rd 1 (fun _ => imm.signExtend 64) := fun _ h => slot_ready h

/-- LUI shifts in 20 bits: 20 places are a factor of 2^20. -/
theorem givesScalar_lui (rd : BitVec 6) (imm : BitVec 20) :
    GivesScalar (.lui rd imm) rd 1 (fun s => s.sr rd * 0x100000 + imm.zeroExtend 64) := by
  intro s h
  have hmul : s.issued.sr rd * 0x100000 = s.issued.sr rd <<< (20 : Nat) :=
    (BitVec.shiftLeft_eq_mul_twoPow (s.issued.sr rd) 20).symm
  simp only [hmul]
  exact slot_ready h

/-- The number of two bit strings side by side. -/
theorem toNat_append_eq_mul_add {n m : Nat} (x : BitVec n) (y : BitVec m) :
    (x ++ y).toNat = x.toNat * 2 ^ m + y.toNat := by
  rw [BitVec.toNat_append, ← Nat.shiftLeft_add_eq_or_of_lt y.isLt, Nat.shiftLeft_eq]

/-- What LUI makes of a constant so far. -/
theorem toNat_mul_add_zeroExtend (x : W64) (m : BitVec 20) :
    (x * 0x100000 + m.zeroExtend 64).toNat = (x.toNat * 2 ^ 20 + m.toNat) % 2 ^ 64 := by
  rw [BitVec.toNat_add, BitVec.toNat_mul]
  simp

/-- LI's sign bits lie above the top 4 bits of the constant. -/
theorem toNat_signExtend_mod_16 (top : BitVec 20) : (top.signExtend 64).toNat % 16 = top.toNat % 16 := by
  have hlt := top.isLt
  rw [BitVec.toNat_signExtend, BitVec.toNat_setWidth]
  split <;> omega

/-- LI with the top 4 bits and three LUIs of 20 bits build a constant: the sign bits that LI sets are shifted out. -/
theorem li_lui_build_constant (top m1 m2 m3 : BitVec 20) :
    (((top.signExtend 64 * 0x100000 + m1.zeroExtend 64) * 0x100000 + m2.zeroExtend 64) * 0x100000 + m3.zeroExtend 64 : W64) =
      top.extractLsb' 0 4 ++ m1 ++ m2 ++ m3 := by
  apply BitVec.eq_of_toNat_eq
  have htop := toNat_signExtend_mod_16 top
  have h1 := m1.isLt
  have h2 := m2.isLt
  have h3 := m3.isLt
  simp only [toNat_mul_add_zeroExtend, toNat_append_eq_mul_add, BitVec.extractLsb'_toNat, Nat.shiftRight_zero]
  omega

/-- Settles O17: a division issues under `Free` alone, and gives what R142 names; a constant is built as R142 says. -/
theorem scalarDivisionCorners : Obligations.ScalarDivisionCorners := by
  refine ⟨⟨fun rd ra rb s hf hb => ?_, fun rd ra rb s hf hb => ?_, fun rd ra rb s hf ha hb => ?_,
    fun rd imm => ⟨givesScalar_li rd imm, givesScalar_lui rd imm⟩, li_lui_build_constant, by decide⟩, by decide⟩
  · simp only [givesScalar_divu rd ra rb s (division_ready ⟨rd, ra, rb, .inr rfl⟩ hf), hb, divUnsigned_zero]
  · simp only [givesScalar_divs rd ra rb s (division_ready ⟨rd, ra, rb, .inl rfl⟩ hf), hb, divSigned_zero]
  · simp only [givesScalar_divs rd ra rb s (division_ready ⟨rd, ra, rb, .inl rfl⟩ hf), ha, hb, divSigned_min_neg_one]

end Sys2Proof.Machine
end

section
/-! SUPPORT. Operations that the layer of memory leaves out, and the meanings of events that are more than one of its
operations. -/

namespace Sys2Proof.Machine

open Sys2Proof

/-! Operations. -/

@[simp] theorem modSer_mem (s : State) (f : SerSt → SerSt) : (s.modSer f).mem = s.mem := rfl

@[simp] theorem onCtx_wf (s : State) (core ctx : Nat) {f : State → State} (h : MemOk s.mem)
    (hf : ∀ u, MemOk u.mem → MemOk (f u).mem) : MemOk (s.onCtx core ctx f).mem := by
  simpa [State.onCtx] using hf _ (by simpa using h)

@[simp] theorem readUnder_wf (s : State) (va : W64) (n : Nat) (h : MemOk s.mem) : MemOk (s.readUnder va n).mem := by
  unfold State.readUnder
  split <;> simp [h]

@[simp] theorem takeHead_mem (s : State) (code : Nat) : (s.takeHead code).mem = s.mem := by simp [State.takeHead]

@[simp] theorem acquireSem_mem (s : State) (sem : BitVec 8) : (s.acquireSem sem).mem = s.mem := by simp [State.acquireSem]

@[simp] theorem flushWin_mem (s : State) (org : Origin) (h : W256) : (s.flushWin org h).mem = s.mem := by simp [State.flushWin]

@[simp] theorem acquireCount_mem (s : State) (l : Launch) : (s.acquireCount l).mem = s.mem := by simp [State.acquireCount]

@[simp] theorem logImage_mem (s : State) (l : Launch) : (s.logImage l).mem = s.mem := by
  unfold State.logImage
  dsimp only
  split <;> simp

@[simp] theorem releaseLaunch_mem (s : State) (l : Launch) (at' : Option Nat) : (s.releaseLaunch l at').mem = s.mem := by
  unfold State.releaseLaunch
  dsimp only
  (repeat' split) <;> simp

@[simp] theorem tellWalk_mem (s : State) (out : Walked) (who : Nat × Nat) : (s.tellWalk out who).mem = s.mem := by
  unfold State.tellWalk
  split <;> simp

@[simp] theorem rejoin_mem (s : State) (t : Nat) : (s.rejoin t).mem = s.mem := by
  unfold State.rejoin
  split <;> simp

@[simp] theorem ctrOver_mem (s : State) (dpa : Nat) (data : List Byte) (c : Nat) : (s.ctrOver dpa data c).mem = s.mem := by
  simp [State.ctrOver]

@[simp] theorem hostRelease_mem (s : State) (a : Nat) : (s.hostRelease a).mem = s.mem := by simp [State.hostRelease]

@[simp] theorem slotAcquire_mem (s : State) (a : Nat) : (s.slotAcquire a).mem = s.mem := by
  unfold State.slotAcquire
  exact foldl_mem _ (fun _ _ => acquire_mem ..) _ s

@[simp] theorem trigMet_mem (s : State) (u : Nat) (kind scope : BitVec 8) (obj : W64) : (s.trigMet u kind scope obj).mem = s.mem := by
  simp [State.trigMet]

@[simp] theorem unguarded_mem (s : State) (core ctx : Nat) : (s.unguarded core ctx).mem = s.mem := by
  unfold State.unguarded
  dsimp only
  rw [setCtxAt_mem, foldl_mem]
  intro s a
  (repeat' split) <;> simp

@[simp] theorem unmapPages_wf (s : State) (asid va n : Nat) (h : MemOk s.mem) : MemOk (s.unmapPages asid va n).mem := by
  induction n generalizing s va with
  | zero => exact h
  | succ n ih =>
    unfold State.unmapPages
    refine ih _ _ ?_
    split <;> simp [h]

@[simp] theorem driftPut_wf (s : State) (ags : List Agent) (asid : BitVec 16) (va : W64) (bs : List Byte) (n : Nat)
    (st : Option Nat) (h : MemOk s.mem) : MemOk (s.driftPut ags asid va bs n st).1.mem :=
  putLines_wf (fun _ _ _ _ hu e => driftWrite_wf hu e) h

@[simp] theorem ringEnd_mem (s : State) (m : RingMsg) (st : Nat) : (s.ringEnd m st).mem = s.mem := by
  unfold State.ringEnd
  split <;> simp

@[simp] theorem ringDone_mem (s : State) (m : RingMsg) (pieces : List (Nat × Nat)) : (s.ringDone m pieces).mem = s.mem := by
  unfold State.ringDone
  (repeat' split) <;> simp

@[simp] theorem peerServe_wf (s : State) (acc : PeerAcc) (dpa : Nat) (data : List Byte) (h : MemOk s.mem) :
    MemOk (s.peerServe acc dpa data).mem := by
  cases acc with
  | load => exact h
  | store =>
    dsimp only [State.peerServe]
    (repeat' split) <;> simp [h]
  | atomic =>
    dsimp only [State.peerServe]
    (repeat' split) <;> first | exact h | (rename_i e; refine applyWord_wf ?_ e; (repeat' split) <;> simp [h])

/-! Before a bundle. -/

/-- A bundle whose slots pass their test has changed no memory. -/
theorem prepareSlots_go_mem {s t : State} {a : W64} {len : Nat} {l : List (Slot × Instr)} (e : s.prepareSlots a len l = .go t) :
    t.mem = s.mem := by
  unfold State.prepareSlots at e
  dsimp only at e
  split at e
  · rw [test_go e]; simp
  · cases e

theorem prepare_run_mem {s t : State} {n : Nat} (e : s.prepare = .run n t) : t.mem = s.mem := by
  unfold State.prepare at e
  dsimp only at e
  (repeat' split at e) <;> cases e
  simp

theorem prepare_slots_mem {s t : State} {l : List (Slot × Instr)} (e : s.prepare = .slots l t) : t.mem = s.mem := by
  unfold State.prepare at e
  dsimp only at e
  (repeat' split at e) <;> cases e
  rename_i u hu
  simp [prepareSlots_go_mem hu]

/-! Meanings of events. -/

theorem flushhCompletion_wf {s t : State} {req : Nat} (h : MemOk s.mem) (e : execFlushhCompletion req s = .next t) :
    MemOk t.mem := by
  unfold execFlushhCompletion at e
  split at e
  · cases e
    suffices ∀ u : State, u.mem = s.mem → MemOk u.mem by
      refine this _ ?_
      split <;> simp only [applySignal_mem, release_mem, flushWin_mem] <;> rw [foldl_mem]
      · rfl
      · intro s va; split <;> simp
      · rfl
      · intro s va; split <;> simp
    exact fun u hu => hu ▸ h
  · cases e; exact h

theorem interestExpiry_wf {s t : State} {router : Nat} (h : MemOk s.mem) (e : execInterestExpiry router s = .next t) :
    MemOk t.mem := by
  unfold execInterestExpiry at e
  extract_lets at e
  cases e
  refine foldl_wf _ (fun _ _ hu => by simp [hu]) _ _ (foldl_wf _ (fun _ _ hu => by simp [hu]) _ _ ?_)
  simp [h]

theorem commit_wf {s t : State} {lnch : Nat} (h : MemOk s.mem) (e : execCommit lnch s = .next t) : MemOk t.mem := by
  unfold execCommit at e
  dsimp only at e
  (repeat' split at e) <;> cases e
  all_goals first
    | exact h
    | (rw [foldl_mem _ (fun _ _ => setCore_mem ..)]; (repeat' split) <;> simp [h])
    | simp [h]

theorem countBlockRead_wf {s t : State} {lnch : Nat} (h : MemOk s.mem) (e : execCountBlockRead lnch s = .next t) :
    MemOk t.mem := by
  unfold execCountBlockRead at e
  dsimp only at e
  (repeat' split at e) <;> cases e <;> (repeat' split) <;> simp [h]

theorem deliver_wf {s t : State} {hd : DHdr} {src dst name : W64} {len tsize : W32} (h : MemOk s.mem)
    (e : execDeliver hd src dst len tsize name s = .next t) : MemOk t.mem := by
  unfold execDeliver at e
  extract_lets n at e
  split at e
  · cases e; exact h
  · rename_i x _
    extract_lets l at e
    split at e
    · rename_i s0 _ _ _ _
      have h0 : MemOk s0.mem := by simp [s0, h]
      have h1 := putLines_wf (wr := deliverLine (s0.entAgents x) l.asid dst)
        (st := (s0.driftBytes l.asid src len.toNat).2) (ns := driftLines dst.toNat len.toNat) (off := 0)
        (bs := (s0.driftBytes l.asid src len.toNat).1) (k := 0) (fun _ _ _ _ hu e => deliverLine_wf hu e) h0
      dsimp only at e
      split at e <;> cases e <;> simp [h1]
    · (repeat' split at e) <;> cases e <;> simp [h]
    · cases e; exact h

theorem emptyBundle_wf {s t : State} (h : MemOk s.mem) (e : execEmptyBundle s = .next t) : MemOk t.mem := by
  unfold execEmptyBundle at e
  split at e
  · cases e; simp [prepare_run_mem ‹_›, h]
  · cases e; exact prepare_stop_wf h ‹_›
  · cases e; exact h

theorem hostCxlWrite_wf {s t : State} {dpa : Nat} {data : List Byte} (h : MemOk s.mem)
    (e : execHostCxlWrite dpa data s = .next t) : MemOk t.mem := by
  unfold execHostCxlWrite at e
  split at e
  · cases e
    rw [foldl_mem _ (fun _ _ => slotAcquire_mem ..), foldl_mem _ hostRelease_mem]
    simp [h]
  · cases e; exact h

theorem hostCxlRead_wf {s t : State} {dpa len : Nat} (h : MemOk s.mem) (e : execHostCxlRead dpa len s = .next t) :
    MemOk t.mem := by
  unfold execHostCxlRead at e
  split at e
  · cases e
    rw [foldl_mem _ (fun _ _ => acquire_mem ..)]
    exact h
  · cases e; exact h

theorem joinComplete_wf {s t : State} {blk : Nat} (h : MemOk s.mem) (e : execJoinComplete blk s = .next t) :
    MemOk t.mem := by
  unfold execJoinComplete at e
  dsimp only at e
  have hn : ∀ (l : List (Nat × Nat × Instr)), MemOk (l.foldl (fun s j => s.morNext j.1) s).mem :=
    fun l => foldl_wf _ (fun _ _ hu => by simpa using hu) l s h
  (repeat' split at e) <;> cases e
  · exact h
  · exact h
  · exact foldl_wf _ (fun _ _ hu => by simp [hu]) _ s h
  · exact morRelease_wf (hn _) ‹_›
  · simp [hn]
  · exact h
  · exact h

theorem launchCompletion_wf {s t : State} {lnch : Nat} (h : MemOk s.mem) (e : execLaunchCompletion lnch s = .next t) :
    MemOk t.mem := by
  unfold execLaunchCompletion at e
  split at e
  · cases e; exact h
  · split at e
    · cases e; exact h
    · dsimp only at e
      cases e
      (repeat' split) <;> simp [h]

theorem loadRequest_wf {s t : State} {n : Nat} (h : MemOk s.mem) (e : execLoadRequest n s = .next t) : MemOk t.mem := by
  unfold execLoadRequest at e
  dsimp only at e
  (repeat' split at e) <;> obtain rfl := Host.Outcome.next.inj e
  · exact h
  · simp [h]
  · exact loadRecord_wf _ _ _ _ (load_wf _ _ _ h)

theorem unloadRequest_wf {s t : State} {n : Nat} (h : MemOk s.mem) (e : execUnloadRequest n s = .next t) : MemOk t.mem := by
  unfold execUnloadRequest at e
  dsimp only at e
  (repeat' split at e) <;> cases e
  · exact h
  · simp [h]
  · simp [h]
  · simp [h]
  · refine loadRecord_wf _ _ _ _ (foldl_wf _ (fun _ _ hu => ?_) _ s h)
    simp [hu]

theorem moraineLimitExpiry_wf {s t : State} {u : Nat} (h : MemOk s.mem) (e : execMoraineLimitExpiry u s = .next t) :
    MemOk t.mem := by
  unfold execMoraineLimitExpiry at e
  dsimp only at e
  (repeat' split at e) <;> cases e
  · exact morStop_wf _ _ _ (by simpa using h)
  · exact morStop_wf _ _ _ h
  · exact h
  · exact h

theorem registerWrite_wf {s t : State} {dpa : Nat} {data : List Byte} (h : MemOk s.mem)
    (e : execRegisterWrite dpa data s = .next t) : MemOk t.mem := by
  unfold execRegisterWrite at e
  extract_lets s1 at e
  cases e
  rw [foldl_mem _ (fun _ _ => ctrOver_mem ..)]
  refine foldl_wf _ (fun _ _ hu => ?_) _ _ h
  split <;> simp [hu]

theorem rerunCompare_wf {s t : State} {core ctx : Nat} (h : MemOk s.mem) (e : execRerunCompare core ctx s = .next t) :
    MemOk t.mem := by
  unfold execRerunCompare at e
  dsimp only at e
  (repeat' split at e) <;> cases e
  · exact h
  · simp [h]
  · exact onCtx_wf s core ctx h (fun u hu => by simp [hu])
  · exact onCtx_wf _ core ctx (by simp [h]) (fun u hu => by simp [hu])
  · simp [h]
  · exact h

theorem rollback_wf {s t : State} {core ctx : Nat} (h : MemOk s.mem) (e : execRollback core ctx s = .next t) : MemOk t.mem := by
  unfold execRollback at e
  dsimp only at e
  (repeat' split at e) <;> cases e
  · exact h
  · simp [h]
  · simp [h]
  · exact onCtx_wf s core ctx h (fun u hu => by simp [hu])

theorem checkpointCommit_wf {s t : State} {core ctx : Nat} (h : MemOk s.mem) (e : execCheckpointCommit core ctx s = .next t) :
    MemOk t.mem := by
  unfold execCheckpointCommit at e
  split at e <;> cases e
  · exact onCtx_wf s core ctx h (fun u hu => by simp [hu])
  · exact h

theorem ringSlotTransfer_wf {s t : State} {msg : Nat} (h : MemOk s.mem) (e : execRingSlotTransfer msg s = .next t) :
    MemOk t.mem := by
  unfold execRingSlotTransfer at e
  dsimp only at e
  (repeat' split at e) <;> cases e <;> simp [h]

theorem translationWalk_wf {s t : State} {asid : Nat} {va : W64} (h : MemOk s.mem) (e : execTranslationWalk asid va s = .next t) :
    MemOk t.mem := by
  unfold execTranslationWalk at e
  dsimp only at e
  (repeat' split at e) <;> cases e
  · exact h
  · rw [foldl_mem _ (fun _ _ => tellWalk_mem ..)]; exact h
  · rw [foldl_mem _ (fun _ _ => tellWalk_mem ..)]; exact h
  · rw [foldl_mem _ (fun _ _ => tlbFill_mem ..), foldl_mem _ (fun _ _ => tellWalk_mem ..)]; exact h

theorem trigSatisfied_wf {s t : State} {u : Nat} (h : MemOk s.mem) (e : execTrigSatisfied u s = .next t) : MemOk t.mem := by
  unfold execTrigSatisfied at e
  dsimp only at e
  (repeat' split at e) <;> cases e <;> simp [h]

theorem multicastLine_wf {s t : State} {put : Nat} (h : MemOk s.mem) (e : execMulticastLine put s = .next t) : MemOk t.mem := by
  unfold execMulticastLine at e
  split at e
  · cases e; exact h
  · split at e
    · split at e
      · cases e; exact h
      · extract_lets s1 at e
        have h1 : MemOk s1.mem := by
          unfold s1
          split <;> simp [h]
        clear_value s1
        dsimp only at e
        (repeat' split at e) <;> cases e
        · simp [h1]
        · simp [h1]
        · simp [h1]
        · simp [h1]
        · simpa using multicastTo_wf _ _ _ _ _ _ _ h1
        · exact ownLine_wf _ _ _ _ _ h1
    · cases e; exact h

theorem peerAccess_wf {s t : State} {acc : PeerAcc} {dpa len : Nat} {data : List Byte} (h : MemOk s.mem)
    (e : execPeerAccess acc dpa len data s = .next t) : MemOk t.mem := by
  unfold execPeerAccess at e
  dsimp only at e
  split at e <;> cases e <;> simp [h]

theorem thermalTrip_wf {s t : State} {j : Nat} (h : MemOk s.mem) (e : execThermalTrip j s = .next t) : MemOk t.mem := by
  unfold execThermalTrip at e
  split at e <;> cases e
  · exact rebooted_wf _ _ (by simpa using h)
  · exact h

end Sys2Proof.Machine
end

section
/-! SUPPORT. Every meaning keeps memory in canonical form, family by family of the opcode table. -/
namespace Sys2Proof.Machine

open Sys2Proof

/-! Meanings of slot instructions. -/

theorem movp_wf {s t : State} {o : MovArgs} (h : MemOk s.mem) (e : execMovp o s = .next t) : MemOk t.mem := by
  refine slot_wf h (fun u hu => ?_) e
  have hp : ∀ (b : Nat → Post) (l : List Nat), (l.foldl (fun s g => s.post (b g)) u).mem = u.mem :=
    fun b l => foldl_mem (fun s g => s.post (b g)) (fun _ _ => post_mem ..) l u
  dsimp only
  split <;> simp only [landRows_mem, hp] <;> exact hu

theorem waitp_wf {s t : State} {sem val : BitVec 8} {rd : BitVec 6} (h : MemOk s.mem) (e : execWaitp sem val rd s = .next t) :
    MemOk t.mem := by
  refine slot_wf h (fun u hu => ?_) e
  dsimp only
  split <;> simp [hu]

theorem vatom_wf {s t : State} {o : MemArgs} (h : MemOk s.mem) (e : execVatom o s = .next t) : MemOk t.mem := by
  refine slot_wf h (fun u hu => ?_) e
  dsimp only
  split
  · simpa using hu
  · rw [enqueue_mem, foldl_mem _ (fun _ _ => tlbFill_mem ..)]
    simpa using hu

theorem engSlot_wf {i : Instr} {o : EngArgs} {s t : State} {send : Nat → State → State} (h : MemOk s.mem)
    (hs : ∀ id u, MemOk u.mem → MemOk (send id u).mem) (e : slot i s (fun u => u.engCmd i o send) = .next t) : MemOk t.mem :=
  slot_wf h (fun u hu => engCmd_wf u i o send hu hs) e

/-! Meanings of engine words. -/

theorem mwait_wf {s t : State} {sem val : BitVec 8} (h : MemOk s.mem) (e : execMwait sem val s = .next t) : MemOk t.mem := by
  unfold execMwait at e
  split at e
  · cases e; exact h
  · split at e
    · cases e; simpa using h
    · exact micro_wf h e

theorem moraineVld_wf {s t : State} {z : BitVec 5} {st : BitVec 3} {fmt : BitVec 2} (h : MemOk s.mem)
    (e : execMoraineVld z st fmt s = .next t) : MemOk t.mem := by
  refine morRun_wf h (fun pc m m' pc' u hu => ?_) e
  dsimp only at hu
  split at hu
  · cases hu
  · split at hu <;> cases hu
    simpa using h

theorem moraineVst_wf {s t : State} {z : BitVec 5} {st : BitVec 3} {fmt : BitVec 2} (h : MemOk s.mem)
    (e : execMoraineVst z st fmt s = .next t) : MemOk t.mem := by
  refine morRun_wf h (fun pc m m' pc' u hu => ?_) e
  dsimp only at hu
  split at hu
  · cases hu
  · split at hu
    · cases hu
    · rename_i ps _
      cases hu
      cases ps.head? with
      | none => simpa using h
      | some p => exact storeMem_wf _ _ _ _ (by simpa using h)

theorem loop_wf {i : Instr} {s t : State} {f : Nat → MUnit → State → Except MStop (MUnit × Nat × State)} (h : MemOk s.mem)
    (hf : ∀ pc m m' pc' u, f pc m s = .ok (m', pc', u) → u = s) (e : morRun i s f = .next t) : MemOk t.mem :=
  morRun_wf h (fun pc m m' pc' u hu => hf pc m m' pc' u hu ▸ h) e

theorem mbxw_wf {s t : State} {q : BitVec 3} {msk : BitVec 16} (h : MemOk s.mem) (e : execMbxw q msk s = .next t) :
    MemOk t.mem := by
  unfold execMbxw at e
  dsimp only at e
  split at e
  · split at e
    · split at e
      · cases e; simpa using h
      · refine morRun_wf h (fun pc m m' pc' u hu => ?_) e
        split at hu <;> cases hu <;> exact h
    · cases e; exact h
  · cases e; exact h

theorem mailboxWake_wf {s t : State} {u : Nat} (h : MemOk s.mem) (e : execMailboxWake u s = .next t) : MemOk t.mem := by
  unfold execMailboxWake at e
  dsimp only at e
  (repeat' split at e) <;> try (cases e; exact h)
  · rename_i hn
    cases e
    have ht := mbxw_wf (by exact h) hn
    exact ht
  · exact mbxw_wf (by exact h) e

theorem loadp_wf {s t : State} {kind first count : BitVec 8} {addr : W64} (h : MemOk s.mem)
    (e : execLoadp kind first count addr s = .next t) : MemOk t.mem := by
  refine morCmd_wf h (fun u m b v hv => ?_) e
  dsimp only at hv
  split at hv <;> cases hv
  simpa using h

theorem rowsh_wf {s t : State} {src dst : W64} (h : MemOk s.mem) (e : execRowsh src dst s = .next t) : MemOk t.mem := by
  refine morCmd_wf h (fun u m b v hv => ?_) e
  dsimp only at hv
  split at hv
  · cases hv
  · split at hv
    · split at hv <;> cases hv
      simp [h]
    all_goals cases hv

/-! Meanings of Drift entries. -/

theorem put_wf {s t : State} {hd : DHdr} {src dst : W64} {len : W32} {rctr : BitVec 16} (h : MemOk s.mem)
    (e : execPut hd src dst len rctr s = .next t) : MemOk t.mem := by
  refine drift_wf h (fun n x l u hu => ?_) e
  dsimp only
  split
  · simpa using hu
  · rename_i a s1 hp
    have h1 := putLines_wf (wr := fun s off b => s.targetWrite (s.entAgents x) (descTdev dst) (a + off) b)
      (st := (s1.srcBytes l src 0 len.toNat).2) (ns := driftLines a len.toNat) (off := 0)
      (bs := (s1.srcBytes l src 0 len.toNat).1) (k := 0) (fun _ _ _ _ hv ev => targetWrite_wf hv ev) (putAt_wf hu hp)
    split <;> simpa using h1

theorem putred_wf {s t : State} {hd : DHdr} {src dst : W64} {len : W32} {rctr : BitVec 16} {fop : BitVec 8} (h : MemOk s.mem)
    (e : execPutred hd src dst len rctr fop s = .next t) : MemOk t.mem := by
  refine drift_wf h (fun n x l u hu => ?_) e
  dsimp only
  split
  · simpa using hu
  · rename_i a hp
    have h1 := putLines_wf (wr := fun s off b => s.targetAdds (s.entAgents x) (descTdev dst) (a + off) fop.toNat 1 b)
      (st := (u.srcBytes l src 0 len.toNat).2) (ns := (List.range (len.toNat / 4)).map (fun _ => 4)) (off := 0)
      (bs := (u.srcBytes l src 0 len.toNat).1) (k := 0) (fun _ _ _ _ hv ev => targetAdds_wf hv ev) hu
    split <;> simpa using h1

theorem rsstep_wf {s t : State} {hd : DHdr} {buf recv dst sig : W64} {len : W32} {succ sctr : BitVec 16} {np q st : BitVec 8}
    (h : MemOk s.mem) (e : execRsstep hd buf recv dst len succ sctr np q st sig s = .next t) : MemOk t.mem := by
  refine drift_wf h (fun n x l u hu => ?_) e
  extract_lets _ p slotVa
  split
  extract_lets mine got
  clear_value mine
  have hg : ∀ bs g s1, got = .ok (bs, g, s1) → MemOk s1.mem := by
    intro bs g s1 eg
    unfold got at eg
    (repeat' split at eg) <;> simp only [Except.ok.injEq, Prod.mk.injEq, reduceCtorEq] at eg <;>
      (obtain ⟨-, -, rfl⟩ := eg; exact hu)
  clear_value got
  split
  · simpa using hu
  · rename_i bs g s1
    have h1 := hg bs g s1 rfl
    dsimp only
    split
    · split <;> simpa using h1
    · split
      · simpa using driftPut_wf _ _ _ _ _ _ _ h1
      · split
        · simpa using driftPut_wf _ _ _ _ _ _ _ h1
        · rename_i hw
          simpa using driftWrite_wf (driftPut_wf _ _ _ _ _ _ _ h1) hw

/-! Meanings of management commands. -/

theorem cancel_wf {s t : State} (h : MemOk s.mem) (e : execCancel s = .next t) : MemOk t.mem := by
  refine mgmt_wf h (fun u hu => ?_) e
  dsimp only
  split
  · simpa using hu
  · split
    · simpa using hu
    · rw [mgmtDone_mem, foldl_mem _ (fun _ _ => cancelLaunch_mem ..)]
      exact hu

theorem keycmd_wf {s t : State} (h : MemOk s.mem) (e : execKeycmd s = .next t) : MemOk t.mem := by
  refine mgmt_wf h (fun u hu => ?_) e
  extract_lets a
  split
  · simpa using hu
  · split
    · simpa using hu
    · exact hu

/-! Every meaning. -/

/-- Scalar arithmetic. -/
theorem scalarInstr_wf {i : Instr} {s t : State} (hi : isScalarArith i = true) (h : MemOk s.mem) (e : exec i s = .next t) :
    MemOk t.mem := by
  cases i with
  | add | sub | addi | and | or | xor | andi | ori | xori | shl | shr | sra | shli | shri | srai | mul | mulh
  | mulhu | divs | divu | min | max | minu | maxu | slt | sltu | seq | sne | selz | li | lui | clz | popc =>
    exact slot_wf h (fun u hu => by simpa using hu) e
  | _ => cases hi

/-- Vector arithmetic. -/
theorem vectorInstr_wf {i : Instr} {s t : State} (hi : (vShape i).isSome = true) (h : MemOk s.mem) (e : exec i s = .next t) :
    MemOk t.mem := by
  cases i with
  | fadd | fsub | fmul | fma | fms | fnma | fmin | fmax | fabs | fneg | fcmp | fsel | fclass | rndi | ftoi | itof
  | getexp | getmant | expins | faddx | fsubx | fmulx | dwadd | dwsub | dwmul | dwadds | dwnorm | dwtof | rsum
  | rsumc | rmax | rmin | rsumi | fdot4 | idotb | idotn | cvtf | cvtn | cvtb | iadd | isub | imul | imulh | imin
  | imax | iand | ior | ixor | ishl | ishr | isra | icmp | iabs | laneid | bcast | perm => exact vector_wf h e
  | _ => cases hi

/-- ENG commands. -/
theorem engInstr_wf {i : Instr} {s t : State} (hi : (engArgs i).isSome = true) (h : MemOk s.mem) (e : exec i s = .next t) :
    MemOk t.mem := by
  unfold engArgs at hi
  split at hi
  case h_26 => cases hi
  all_goals
    refine engSlot_wf h (fun id u hu => ?_) e
    simp [hu]

/-- Micro-words. -/
theorem microInstr_wf {i : Instr} {s t : State} (hi : isMicro i = true) (h : MemOk s.mem) (e : exec i s = .next t) :
    MemOk t.mem := by
  cases i with
  | sldw | sstrm | soutr | sacc | sdrn | sgath | mloop | madd | yp | msig => exact micro_wf h e
  | mwait => exact mwait_wf h e
  | mend =>
    dsimp only [exec, execMend] at e
    (repeat' split at e) <;> cases e <;> simp [h]
  | _ => cases hi

/-- Moraine instructions. -/
theorem moraineInstr_wf {i : Instr} {s t : State} (hi : isMoraine i = true) (h : MemOk s.mem) (e : exec i s = .next t) :
    MemOk t.mem := by
  cases i with
  | moraineFadd | moraineFsub | moraineFmul | moraineFma | moraineFmin | moraineFmax | moraineFcmp | moraineFsel
  | moraineRcp | moraineRsq | moraineCvtb | moraineBcast =>
    dsimp only [exec, execMoraineFadd, execMoraineFsub, execMoraineFmul, execMoraineFma, execMoraineFmin, execMoraineFmax,
      execMoraineFcmp, execMoraineFsel, execMoraineRcp, execMoraineRsq, execMoraineCvtb, execMoraineBcast] at e
    exact morLanes_wf h e
  | moraineVld => exact moraineVld_wf h e
  | moraineVst => exact moraineVst_wf h e
  | mbxw => exact mbxw_wf h e
  | movi | loopa | loopb | mbxs =>
    dsimp only [exec, execMovi, execLoopa, execLoopb, execMbxs] at e
    refine morRun_wf h (fun pc m m' pc' u hu => ?_) e
    (repeat' split at hu) <;> cases hu <;> simp [h]
  | moraineEnd =>
    dsimp only [exec, execMoraineEnd] at e
    (repeat' split at e) <;> cases e <;> simp [h]
  | _ => cases hi

/-- Moraine commands. -/
theorem commandInstr_wf {i : Instr} {s t : State} (hi : isCommand i = true) (h : MemOk s.mem) (e : exec i s = .next t) :
    MemOk t.mem := by
  cases i with
  | fencem | relm | annm => exact morSync_wf h e
  | loadp => exact loadp_wf h e
  | rowsh => exact rowsh_wf h e
  | run | mbx | trig =>
    dsimp only [exec, execRun, execMbx, execTrig] at e
    refine morCmd_wf h (fun u m b v hv => ?_) e
    (repeat' split at hv) <;> cases hv <;> simp [h]
  | _ => cases hi

/-- Drift entries. -/
theorem driftInstr_wf {i : Instr} {s t : State} (hi : (driftHdr i).isSome = true) (h : MemOk s.mem) (e : exec i s = .next t) :
    MemOk t.mem := by
  cases i with
  | put hd => exact put_wf (hd := hd) h e
  | putred hd => exact putred_wf (hd := hd) h e
  | rsstep hd => exact rsstep_wf (hd := hd) h e
  | deliver hd => exact deliver_wf (hd := hd) h e
  | putmc | get | signal =>
    dsimp only [exec, execPutmc, execGet, execSignal] at e
    refine drift_wf h (fun n x l u hu => ?_) e
    (repeat' split) <;> simp [hu]
  | _ => cases hi

/-- Events. -/
theorem runEvent_wf {ev : Event} {s t : State} (h : MemOk s.mem) (e : runEvent ev s = .next t) : MemOk t.mem := by
  cases ev with
  | mailboxWake => exact mailboxWake_wf h e
  | trigSatisfied => exact trigSatisfied_wf h e
  | moraineLimitExpiry => exact moraineLimitExpiry_wf h e
  | joinComplete => exact joinComplete_wf h e
  | ringSlotTransfer => exact ringSlotTransfer_wf h e
  | multicastLine => exact multicastLine_wf h e
  | peerAccess => exact peerAccess_wf h e
  | emptyBundle => exact emptyBundle_wf h e
  | countBlockRead => exact countBlockRead_wf h e
  | commit => exact commit_wf h e
  | launchCompletion => exact launchCompletion_wf h e
  | interestExpiry => exact interestExpiry_wf h e
  | flushhCompletion => exact flushhCompletion_wf h e
  | checkpointCommit => exact checkpointCommit_wf h e
  | rollback => exact rollback_wf h e
  | rerunCompare => exact rerunCompare_wf h e
  | translationWalk asid va => exact translationWalk_wf (asid := asid) (va := va) h e
  | hostCxlWrite => exact hostCxlWrite_wf h e
  | hostCxlRead => exact hostCxlRead_wf h e
  | registerWrite => exact registerWrite_wf h e
  | loadRequest => exact loadRequest_wf h e
  | unloadRequest => exact unloadRequest_wf h e
  | cancel => exact cancel_wf h e
  | keycmd => exact keycmd_wf h e
  | thermalTrip => exact thermalTrip_wf h e
  | retire | linkup | reinstate | powercap | fwupdate | fwconfirm | attest | idkey =>
    dsimp only [runEvent, execRetire, execLinkup, execReinstate, execPowercap, execFwupdate, execFwconfirm, execAttest, execIdkey] at e
    refine mgmt_wf h (fun u hu => ?_) e
    (repeat' split) <;> simp [hu]
  | blockStart | msubCompletion | driftEntryCompletion | driftRetry | darmCompletion | driftCounterAccess
  | reduceContribution | apertureLoad | peerIsolation | linkFailure | linkRetrain | resultLanding
  | sfuResultLanding | declaredLoadLanding | loadDataArrival | ldsDataReturn | stsErrorResponse | trapEntry
  | fairnessSwitch | priorityTakeover | normalResume | launchRecordCopy | reservationRound | reserve | release
  | backoffExpiry | tileTaskStart | copyCompletion | barrierDelivered | rotqExchange | rotTimeout | atomApply
  | redApply | routerRedMerge | redHoldExpiry | barrierInit | barrierArrive | barrierWaitArrival | btwaitTimeout
  | interestArrival | interestAdmit | announcementArrival | tileArrival | sealArrival | routineStart
  | routineSuspend | routineResume | gatherFill | sdrainCompletion | smloadWrite | seracDataError | xinvInvalidate
  | invalidationComplete | evict | restore | controlStatusRead | reset | scrubDone | marginStep | replan
  | powerCapStep | cap4Off =>
    dsimp only [runEvent,
      execBlockStart, execMsubCompletion, execDriftEntryCompletion, execDriftRetry, execDarmCompletion,
      execDriftCounterAccess, execReduceContribution, execApertureLoad, execPeerIsolation, execLinkFailure,
      execLinkRetrain, execResultLanding, execSfuResultLanding, execDeclaredLoadLanding, execLoadDataArrival,
      execLdsDataReturn, execStsErrorResponse, execTrapEntry, execFairnessSwitch, execPriorityTakeover, execNormalResume,
      execLaunchRecordCopy, execReservationRound, execReserve, execRelease, execBackoffExpiry, execTileTaskStart,
      execCopyCompletion, execBarrierDelivered, execRotqExchange, execRotTimeout, execAtomApply, execRedApply,
      execRouterRedMerge, execRedHoldExpiry, execBarrierInit, execBarrierArrive, execBarrierWaitArrival,
      execBtwaitTimeout, execInterestArrival, execInterestAdmit, execAnnouncementArrival, execTileArrival,
      execSealArrival, execRoutineStart, execRoutineSuspend, execRoutineResume, execGatherFill, execSdrainCompletion,
      execSmloadWrite, execSeracDataError, execXinvInvalidate, execInvalidationComplete, execEvict, execRestore,
      execControlStatusRead, execReset, execScrubDone, execMarginStep, execReplan, execPowerCapStep, execCap4Off] at e
    (repeat' split at e) <;> cases e <;> simp [h]

/-- No meaning spoils the canonical form of memory. -/
theorem exec_wf {i : Instr} {s t : State} (h : MemOk s.mem) (e : exec i s = .next t) : MemOk t.mem := by
  cases i with
  | add | sub | addi | and | or | xor | andi | ori | xori | shl | shr | sra | shli | shri | srai | mul | mulh
  | mulhu | divs | divu | min | max | minu | maxu | slt | sltu | seq | sne | selz | li | lui | clz | popc =>
    exact scalarInstr_wf rfl h e
  | fadd | fsub | fmul | fma | fms | fnma | fmin | fmax | fabs | fneg | fcmp | fsel | fclass | rndi | ftoi | itof
  | getexp | getmant | expins | faddx | fsubx | fmulx | dwadd | dwsub | dwmul | dwadds | dwnorm | dwtof | rsum
  | rsumc | rmax | rmin | rsumi | fdot4 | idotb | idotn | cvtf | cvtn | cvtb | iadd | isub | imul | imulh | imin
  | imax | iand | ior | ixor | ishl | ishr | isra | icmp | iabs | laneid | bcast | perm => exact vectorInstr_wf rfl h e
  | copy | copys | rotq | ask | announce | atom | red | binit | barr | barrx | bwait | btwait | scall
  | scfg | sdrain | smload | sintf | msub | mstat | darm | dput | launch | launchi | flushh => exact engInstr_wf rfl h e
  | sldw | sstrm | soutr | sacc | sdrn | sgath | mloop | madd | yp | msig | mwait | mend => exact microInstr_wf rfl h e
  | moraineVld | moraineVst | moraineFadd | moraineFsub | moraineFmul | moraineFma | moraineFmin | moraineFmax
  | moraineFcmp | moraineFsel | moraineRcp | moraineRsq | moraineCvtb | movi | moraineBcast | loopa | loopb
  | moraineEnd | mbxs | mbxw => exact moraineInstr_wf rfl h e
  | loadp | run | rowsh | mbx | trig | fencem | relm | annm => exact commandInstr_wf rfl h e
  | put | putred | putmc | get | signal | rsstep | deliver => exact driftInstr_wf rfl h e
  | br | jr | call | ret | loop | loopi | lbrk | wait | post | yield | trap | eret | halt | fence | mts | stf
  | hset | hget | hadv | htile | hname | movr | kand | kor | srseed | vld | vst | vldx | vstx | ldg | ldr =>
    dsimp only [exec,
      execBr, execJr, execCall, execRet, execLoop, execLoopi, execLbrk, execWait, execPost, execYield, execTrap,
      execEret, execHalt, execFence, execMts, execStf, execHset, execHget, execHadv, execHtile, execHname, execMovr,
      execKand, execKor, execSrseed, execVld, execVst, execVldx, execVstx, execLdg, execLdr] at e
    exact slot_wf h (fun u hu => by simp [hu]) e
  | brc | ckpt | acq | rel | mfs | lds | sts | ldf | xgc | pop | kmov | movs | movv | reld | vred =>
    dsimp only [exec, execBrc, execCkpt, execAcq, execRel, execMfs, execLds, execSts, execLdf, execXgc, execPop, execKmov, execMovs,
      execMovv, execReld, execVred] at e
    refine slot_wf h (fun u hu => ?_) e
    (repeat' split) <;> simp [hu]
  | waitp => exact waitp_wf h e
  | movp => exact movp_wf h e
  | vatom => exact vatom_wf h e
  | mailboxWake => exact runEvent_wf (ev := .mailboxWake _) h e
  | trigSatisfied => exact runEvent_wf (ev := .trigSatisfied _) h e
  | moraineLimitExpiry => exact runEvent_wf (ev := .moraineLimitExpiry _) h e
  | joinComplete => exact runEvent_wf (ev := .joinComplete _) h e
  | blockStart => exact runEvent_wf (ev := .blockStart _) h e
  | msubCompletion => exact runEvent_wf (ev := .msubCompletion _) h e
  | ringSlotTransfer => exact runEvent_wf (ev := .ringSlotTransfer _) h e
  | driftEntryCompletion => exact runEvent_wf (ev := .driftEntryCompletion _) h e
  | driftRetry => exact runEvent_wf (ev := .driftRetry _) h e
  | darmCompletion => exact runEvent_wf (ev := .darmCompletion _) h e
  | driftCounterAccess => exact runEvent_wf (ev := .driftCounterAccess _ _ _) h e
  | multicastLine => exact runEvent_wf (ev := .multicastLine _) h e
  | reduceContribution => exact runEvent_wf (ev := .reduceContribution _ _ _ _) h e
  | apertureLoad => exact runEvent_wf (ev := .apertureLoad _ _ _) h e
  | peerAccess => exact runEvent_wf (ev := .peerAccess _ _ _ _) h e
  | peerIsolation => exact runEvent_wf (ev := .peerIsolation _ _) h e
  | linkFailure => exact runEvent_wf (ev := .linkFailure _) h e
  | linkRetrain => exact runEvent_wf (ev := .linkRetrain _ _ _) h e
  | emptyBundle => exact runEvent_wf (ev := .emptyBundle) h e
  | resultLanding => exact runEvent_wf (ev := .resultLanding) h e
  | sfuResultLanding => exact runEvent_wf (ev := .sfuResultLanding) h e
  | declaredLoadLanding => exact runEvent_wf (ev := .declaredLoadLanding) h e
  | loadDataArrival => exact runEvent_wf (ev := .loadDataArrival _ _ _ _) h e
  | ldsDataReturn => exact runEvent_wf (ev := .ldsDataReturn _ _) h e
  | stsErrorResponse => exact runEvent_wf (ev := .stsErrorResponse _ _ _ _) h e
  | trapEntry => exact runEvent_wf (ev := .trapEntry _ _) h e
  | fairnessSwitch => exact runEvent_wf (ev := .fairnessSwitch _) h e
  | priorityTakeover => exact runEvent_wf (ev := .priorityTakeover _) h e
  | normalResume => exact runEvent_wf (ev := .normalResume _) h e
  | launchRecordCopy => exact runEvent_wf (ev := .launchRecordCopy _) h e
  | countBlockRead => exact runEvent_wf (ev := .countBlockRead _) h e
  | reservationRound => exact runEvent_wf (ev := .reservationRound _) h e
  | reserve => exact runEvent_wf (ev := .reserve _ _) h e
  | commit => exact runEvent_wf (ev := .commit _) h e
  | release => exact runEvent_wf (ev := .release _) h e
  | backoffExpiry => exact runEvent_wf (ev := .backoffExpiry _) h e
  | tileTaskStart => exact runEvent_wf (ev := .tileTaskStart _ _) h e
  | launchCompletion => exact runEvent_wf (ev := .launchCompletion _) h e
  | copyCompletion => exact runEvent_wf (ev := .copyCompletion _ _) h e
  | barrierDelivered => exact runEvent_wf (ev := .barrierDelivered _ _) h e
  | rotqExchange => exact runEvent_wf (ev := .rotqExchange _ _) h e
  | rotTimeout => exact runEvent_wf (ev := .rotTimeout _ _) h e
  | atomApply => exact runEvent_wf (ev := .atomApply _) h e
  | redApply => exact runEvent_wf (ev := .redApply _) h e
  | routerRedMerge => exact runEvent_wf (ev := .routerRedMerge _ _) h e
  | redHoldExpiry => exact runEvent_wf (ev := .redHoldExpiry _) h e
  | barrierInit => exact runEvent_wf (ev := .barrierInit _) h e
  | barrierArrive => exact runEvent_wf (ev := .barrierArrive _) h e
  | barrierWaitArrival => exact runEvent_wf (ev := .barrierWaitArrival _) h e
  | btwaitTimeout => exact runEvent_wf (ev := .btwaitTimeout _) h e
  | interestArrival => exact runEvent_wf (ev := .interestArrival _) h e
  | interestAdmit => exact runEvent_wf (ev := .interestAdmit _) h e
  | interestExpiry => exact runEvent_wf (ev := .interestExpiry _) h e
  | announcementArrival => exact runEvent_wf (ev := .announcementArrival _) h e
  | tileArrival => exact runEvent_wf (ev := .tileArrival _) h e
  | sealArrival => exact runEvent_wf (ev := .sealArrival _) h e
  | flushhCompletion => exact runEvent_wf (ev := .flushhCompletion _) h e
  | routineStart => exact runEvent_wf (ev := .routineStart _ _) h e
  | routineSuspend => exact runEvent_wf (ev := .routineSuspend _ _) h e
  | routineResume => exact runEvent_wf (ev := .routineResume _ _) h e
  | gatherFill => exact runEvent_wf (ev := .gatherFill _ _) h e
  | sdrainCompletion => exact runEvent_wf (ev := .sdrainCompletion _ _) h e
  | smloadWrite => exact runEvent_wf (ev := .smloadWrite _) h e
  | seracDataError => exact runEvent_wf (ev := .seracDataError _ _) h e
  | checkpointCommit => exact runEvent_wf (ev := .checkpointCommit _ _) h e
  | rollback => exact runEvent_wf (ev := .rollback _ _) h e
  | rerunCompare => exact runEvent_wf (ev := .rerunCompare _ _) h e
  | translationWalk => exact runEvent_wf (ev := .translationWalk _ _) h e
  | xinvInvalidate => exact runEvent_wf (ev := .xinvInvalidate) h e
  | invalidationComplete => exact runEvent_wf (ev := .invalidationComplete) h e
  | evict => exact runEvent_wf (ev := .evict _) h e
  | restore => exact runEvent_wf (ev := .restore _) h e
  | controlStatusRead => exact runEvent_wf (ev := .controlStatusRead _) h e
  | hostCxlWrite => exact runEvent_wf (ev := .hostCxlWrite _ _) h e
  | hostCxlRead => exact runEvent_wf (ev := .hostCxlRead _ _) h e
  | registerWrite => exact runEvent_wf (ev := .registerWrite _ _) h e
  | loadRequest => exact runEvent_wf (ev := .loadRequest _) h e
  | unloadRequest => exact runEvent_wf (ev := .unloadRequest _) h e
  | cancel => exact runEvent_wf (ev := .cancel) h e
  | retire => exact runEvent_wf (ev := .retire) h e
  | linkup => exact runEvent_wf (ev := .linkup) h e
  | reinstate => exact runEvent_wf (ev := .reinstate) h e
  | powercap => exact runEvent_wf (ev := .powercap) h e
  | fwupdate => exact runEvent_wf (ev := .fwupdate) h e
  | fwconfirm => exact runEvent_wf (ev := .fwconfirm) h e
  | keycmd => exact runEvent_wf (ev := .keycmd) h e
  | attest => exact runEvent_wf (ev := .attest) h e
  | idkey => exact runEvent_wf (ev := .idkey) h e
  | reset => exact runEvent_wf (ev := .reset _) h e
  | scrubDone => exact runEvent_wf (ev := .scrubDone) h e
  | marginStep => exact runEvent_wf (ev := .marginStep _) h e
  | replan => exact runEvent_wf (ev := .replan _) h e
  | powerCapStep => exact runEvent_wf (ev := .powerCapStep _ _ _) h e
  | thermalTrip => exact runEvent_wf (ev := .thermalTrip _) h e
  | cap4Off => exact runEvent_wf (ev := .cap4Off _ _) h e
  -- SEAL is left: its name is a keyword of Lean, and no name of a case.
  | _ => exact engInstr_wf rfl h e

end Sys2Proof.Machine
end

section
/-! SUPPORT. One step keeps memory in canonical form; no meaning stops the machine. -/

namespace Sys2Proof.Machine

open Sys2Proof

/-! Steps. -/

theorem runSlots_wf {l : List (Slot × Instr)} {s t : State} (h : MemOk s.mem) (e : runSlots l s = .next t) : MemOk t.mem := by
  induction l generalizing s with
  | nil => cases e; exact h
  | cons p r ih =>
    unfold runSlots at e
    split at e
    · rename_i hx; exact ih (exec_wf h hx) e
    all_goals cases e

theorem runBundle_wf {l : List (Slot × Instr)} {s t : State} (h : MemOk s.mem) (e : runBundle l s = .next t) : MemOk t.mem := by
  unfold runBundle at e
  split at e
  · rename_i hx
    cases e
    exact finishBundle_wf _ (runSlots_wf h hx)
  all_goals cases e

theorem turn_wf {s t : State} {c : Nat} (h : MemOk s.mem) (e : runTurn (s.turn c) = .next t) : MemOk t.mem := by
  have hc : MemOk ((s.poll c).choose c).2.mem := by simp [h]
  unfold State.turn at e
  split at e
  · rename_i hx
    rw [hx] at hc
    cases e
    exact hc
  · rename_i n u hx
    rw [hx] at hc
    split at e
    · rename_i hp
      cases e
      exact prepare_stop_wf (by exact hc) hp
    · rename_i hp
      cases e
      rw [finishRun_mem, prepare_run_mem hp]
      exact hc
    · rename_i hp
      refine runBundle_wf ?_ e
      rw [prepare_slots_mem hp]
      exact hc

/-- What an engine's turn prepares changes no memory that its word's meaning would not keep. -/
theorem runEngine_wf {r : Option (Option Instr × State)} {t : State} (h : ∀ p ∈ r, MemOk p.2.mem) (e : runEngine r = .next t) :
    MemOk t.mem := by
  unfold runEngine at e
  split at e
  · cases e
  · exact exec_wf (h _ rfl) e
  · cases e; exact h _ rfl

theorem arrayTurn_mem {s : State} {c a : Nat} {p : Option Instr × State} (h : s.arrayTurn c a = some p) : p.2.mem = s.mem := by
  unfold State.arrayTurn at h
  dsimp only at h
  split at h
  · cases h
  · split at h
    · cases h
    · split at h
      · cases h
      · obtain rfl := Option.some.inj h
        split <;> simp

theorem unitTurn_wf {s : State} {u : Nat} {p : Option Instr × State} (hs : MemOk s.mem) (h : s.unitTurn u = some p) :
    MemOk p.2.mem := by
  unfold State.unitTurn at h
  split at h
  · cases h
  · obtain rfl := Option.some.inj h
    exact morFetch_wf _ (by exact hs)

theorem driftTurn_mem {s : State} {p : Instr × State} (h : s.driftTurn = some p) : p.2.mem = s.mem := by
  unfold State.driftTurn at h
  split at h
  · cases h
  · obtain ⟨e, -, rfl⟩ := Option.map_eq_some_iff.mp h
    rfl

/-! What another device performed before its answer was lost (R366). -/

theorem unheard_wf {n lines : Nat} {r : Host.Outcome State Fault Refusal} {s : State} (hs : MemOk s.mem)
    (hr : ∀ t, r = .next t → MemOk t.mem) : MemOk (State.unheard n lines r s).mem := by
  unfold State.unheard
  split
  · have ht := hr _ rfl
    (repeat' split) <;> simp [ht]
  · exact hs

theorem loseEntry_wf (s : State) (tdev n lines : Nat) (h : MemOk s.mem) : MemOk (s.loseEntry tdev n lines).mem := by
  unfold State.loseEntry
  dsimp only
  split
  · split
    · exact h
    · exact unheard_wf h (fun t ht => put_wf (by exact h) ht)
  · split
    · exact h
    · exact unheard_wf h (fun t ht => putred_wf (by exact h) ht)
  · rename_i hd dst inc rctr _
    split
    · exact h
    · exact unheard_wf h (fun t ht => exec_wf (i := .signal hd dst inc rctr) (by exact h) ht)
  · exact h

theorem lose_wf (s : State) (peer : Nat) (l : Lost) (h : MemOk s.mem) : MemOk (s.lose peer l).mem := by
  unfold State.lose
  split
  · refine foldl_wf _ (fun u f hu => ?_) _ s h
    split
    · exact performLost_wf _ _ _ hu
    · exact performFlight_wf _ _ hu
  · split <;> simp [h]
  · exact loseEntry_wf _ _ _ _ h

theorem cut_wf {s t : State} {peer : Nat} {done : List Lost} (h : MemOk s.mem) (e : s.cut peer done = .next t) : MemOk t.mem :=
  exec_wf (i := .peerIsolation peer false) (foldl_wf _ (fun u l hu => lose_wf u peer l hu) done s h) e

theorem runAct_wf {a : Act} {s t : State} (h : MemOk s.mem) (e : runAct a s = .next t) : MemOk t.mem := by
  cases a with
  | event ev => exact runEvent_wf (by simpa using h) e
  | cut => exact cut_wf h e
  | issue c =>
    simp only [runAct] at e
    split at e
    · exact turn_wf h e
    · cases e
  | array c a => exact runEngine_wf (fun p hp => arrayTurn_mem hp ▸ h) e
  | unit u => exact runEngine_wf (fun p hp => unitTurn_wf h hp) e
  | drift =>
    refine runEngine_wf (fun p hp => ?_) e
    obtain ⟨q, hq, rfl⟩ := Option.map_eq_some_iff.mp hp
    exact driftTurn_mem hq ▸ h
  | _ => simp only [runAct] at e; cases e; simp [h]

theorem choice_mem (s : State) : s.choice.2.mem = s.mem := by
  unfold State.choice
  split <;> rfl

/-- Settles O59: what a step carries out keeps memory in canonical form, and choosing it changes no memory. -/
theorem stepKeepsMemory : Obligations.StepKeepsMemory := by
  intro s t h e
  exact runAct_wf (by rw [choice_mem]; exact h) e

/-! Nothing stops the machine. -/

theorem mwait_answers (sem val : BitVec 8) (s : State) : ∃ t, execMwait sem val s = .next t := by
  unfold execMwait
  split
  · exact ⟨_, rfl⟩
  · split
    · exact ⟨_, rfl⟩
    · exact micro_answers ..

theorem mbxw_answers (q : BitVec 3) (msk : BitVec 16) (s : State) : ∃ t, execMbxw q msk s = .next t := by
  unfold execMbxw
  dsimp only
  split
  · split
    · split
      · exact ⟨_, rfl⟩
      · exact morRun_answers ..
    · exact ⟨_, rfl⟩
  · exact ⟨_, rfl⟩

theorem mailboxWake_answers (u : Nat) (s : State) : ∃ t, execMailboxWake u s = .next t := by
  unfold execMailboxWake
  dsimp only
  split
  · split
    · split
      · rename_i q msk _
        split
        · split
          · exact ⟨_, rfl⟩
          · exact mbxw_answers ..
        · exact ⟨_, rfl⟩
      · exact ⟨_, rfl⟩
    · exact ⟨_, rfl⟩
  · exact ⟨_, rfl⟩

/-- An event answers on each of its branches. -/
theorem runEvent_answers (ev : Event) (s : State) : ∃ t, runEvent ev s = .next t := by
  cases ev with
  | mailboxWake => exact mailboxWake_answers ..
  | cancel | retire | linkup | reinstate | powercap | fwupdate | fwconfirm | keycmd | attest | idkey =>
    dsimp only [runEvent, exec, execCancel, execRetire, execLinkup, execReinstate, execPowercap, execFwupdate,
      execFwconfirm, execKeycmd, execAttest, execIdkey]
    exact mgmt_answers ..
  | trigSatisfied | moraineLimitExpiry | joinComplete | blockStart | msubCompletion =>
    dsimp only [runEvent, exec, execTrigSatisfied, execMoraineLimitExpiry, execJoinComplete, execBlockStart,
      execMsubCompletion]
    (repeat' split) <;> exact ⟨_, rfl⟩
  | ringSlotTransfer | driftEntryCompletion | driftRetry | darmCompletion | driftCounterAccess | multicastLine =>
    dsimp only [runEvent, exec, execRingSlotTransfer, execDriftEntryCompletion, execDriftRetry, execDarmCompletion,
      execDriftCounterAccess, execMulticastLine]
    (repeat' split) <;> exact ⟨_, rfl⟩
  | reduceContribution | apertureLoad | peerAccess | peerIsolation | linkFailure | linkRetrain =>
    dsimp only [runEvent, exec, execReduceContribution, execApertureLoad, execPeerAccess, execPeerIsolation,
      execLinkFailure, execLinkRetrain]
    (repeat' split) <;> exact ⟨_, rfl⟩
  | emptyBundle | resultLanding | sfuResultLanding | declaredLoadLanding | loadDataArrival =>
    dsimp only [runEvent, exec, execEmptyBundle, execResultLanding, execSfuResultLanding, execDeclaredLoadLanding,
      execLoadDataArrival]
    (repeat' split) <;> exact ⟨_, rfl⟩
  | ldsDataReturn | stsErrorResponse | trapEntry | fairnessSwitch | priorityTakeover | normalResume =>
    dsimp only [runEvent, exec, execLdsDataReturn, execStsErrorResponse, execTrapEntry, execFairnessSwitch,
      execPriorityTakeover, execNormalResume]
    (repeat' split) <;> exact ⟨_, rfl⟩
  | launchRecordCopy | countBlockRead | reservationRound | reserve =>
    dsimp only [runEvent, exec, execLaunchRecordCopy, execCountBlockRead, execReservationRound, execReserve]
    (repeat' split) <;> exact ⟨_, rfl⟩
  | commit | release | backoffExpiry | tileTaskStart | launchCompletion =>
    dsimp only [runEvent, exec, execCommit, execRelease, execBackoffExpiry, execTileTaskStart, execLaunchCompletion]
    (repeat' split) <;> exact ⟨_, rfl⟩
  | copyCompletion | barrierDelivered | rotqExchange | rotTimeout | atomApply | redApply | routerRedMerge |
  redHoldExpiry =>
    dsimp only [runEvent, exec, execCopyCompletion, execBarrierDelivered, execRotqExchange, execRotTimeout,
      execAtomApply, execRedApply, execRouterRedMerge, execRedHoldExpiry]
    (repeat' split) <;> exact ⟨_, rfl⟩
  | barrierInit | barrierArrive | barrierWaitArrival | btwaitTimeout =>
    dsimp only [runEvent, exec, execBarrierInit, execBarrierArrive, execBarrierWaitArrival, execBtwaitTimeout]
    (repeat' split) <;> exact ⟨_, rfl⟩
  | interestArrival | interestAdmit | interestExpiry | announcementArrival | tileArrival | sealArrival |
  flushhCompletion =>
    dsimp only [runEvent, exec, execInterestArrival, execInterestAdmit, execInterestExpiry, execAnnouncementArrival,
      execTileArrival, execSealArrival, execFlushhCompletion]
    (repeat' split) <;> exact ⟨_, rfl⟩
  | routineStart | routineSuspend | routineResume | gatherFill | sdrainCompletion | smloadWrite =>
    dsimp only [runEvent, exec, execRoutineStart, execRoutineSuspend, execRoutineResume, execGatherFill,
      execSdrainCompletion, execSmloadWrite]
    (repeat' split) <;> exact ⟨_, rfl⟩
  | seracDataError | checkpointCommit | rollback | rerunCompare =>
    dsimp only [runEvent, exec, execSeracDataError, execCheckpointCommit, execRollback, execRerunCompare]
    (repeat' split) <;> exact ⟨_, rfl⟩
  | translationWalk | xinvInvalidate | invalidationComplete | evict | restore =>
    dsimp only [runEvent, exec, execTranslationWalk, execXinvInvalidate, execInvalidationComplete, execEvict,
      execRestore]
    (repeat' split) <;> exact ⟨_, rfl⟩
  | controlStatusRead | hostCxlWrite | hostCxlRead | registerWrite | loadRequest | unloadRequest =>
    dsimp only [runEvent, exec, execControlStatusRead, execHostCxlWrite, execHostCxlRead, execRegisterWrite,
      execLoadRequest, execUnloadRequest]
    (repeat' split) <;> exact ⟨_, rfl⟩
  | reset | scrubDone | marginStep | replan | powerCapStep | thermalTrip | cap4Off =>
    dsimp only [runEvent, exec, execReset, execScrubDone, execMarginStep, execReplan, execPowerCapStep,
      execThermalTrip, execCap4Off]
    (repeat' split) <;> exact ⟨_, rfl⟩

/-- Every instruction, command and event answers a next state: an arm that is one of the shared operations by that operation's
lemma, any other on each of its branches. -/
theorem exec_answers (i : Instr) (s : State) : ∃ t, exec i s = .next t := by
  cases i with
  | br | brc | jr | call | ret | loop | loopi | lbrk | wait | post | waitp | yield | ckpt | trap | eret | halt
  | fence | acq | rel | mfs | mts | add | sub | addi | and | or | xor | andi | ori | xori | shl | shr | sra | shli
  | shri | srai | mul | mulh | mulhu | divs | divu | min | max | minu | maxu | slt | sltu | seq | sne | selz | li
  | lui | clz | popc | lds | sts | ldf | stf | hset | hget | hadv | htile | hname | fadd | fsub | fmul | fma | fms
  | fnma | fmin | fmax | fabs | fneg | fcmp | fsel | fclass | rndi | ftoi | itof | getexp | getmant | expins
  | faddx | fsubx | fmulx | dwadd | dwsub | dwmul | dwadds | dwnorm | dwtof | rsum | rsumc | rmax | rmin | rsumi
  | fdot4 | idotb | idotn | cvtf | cvtn | cvtb | iadd | isub | imul | imulh | imin | imax | iand | ior | ixor
  | ishl | ishr | isra | icmp | iabs | laneid | bcast | perm | movp | movr | xgc | pop | kmov | kand | kor | movs
  | movv | srseed | vld | vst | vldx | vstx | ldg | ldr | reld | vatom | vred | copy | copys | rotq | ask
  | announce | atom | red | binit | barr | barrx | bwait | btwait | scall | scfg | sdrain | smload | sintf
  | msub | mstat | darm | dput | launch | launchi | flushh => exact slot_answers ..
  | sldw | sstrm | soutr | sacc | sdrn | sgath | mloop | madd | yp | msig => exact micro_answers ..
  | moraineVld | moraineVst | moraineFadd | moraineFsub | moraineFmul | moraineFma | moraineFmin | moraineFmax
  | moraineFcmp | moraineFsel | moraineRcp | moraineRsq | moraineCvtb | movi | moraineBcast | loopa | loopb | mbxs =>
    dsimp only [exec,
      execMoraineVld, execMoraineVst, execMoraineFadd, execMoraineFsub, execMoraineFmul, execMoraineFma, execMoraineFmin,
      execMoraineFmax, execMoraineFcmp, execMoraineFsel, execMoraineRcp, execMoraineRsq, execMoraineCvtb, execMovi,
      execMoraineBcast, execLoopa, execLoopb, execMbxs]
    exact morRun_answers ..
  | loadp | run | rowsh | mbx | trig | fencem | relm | annm =>
    dsimp only [exec,
      execLoadp, execRun, execRowsh, execMbx, execTrig, execFencem, execRelm, execAnnm]
    exact morCmd_answers ..
  | put | putred | putmc | get | signal | rsstep =>
    dsimp only [exec,
      execPut, execPutred, execPutmc, execGet, execSignal, execRsstep]
    exact drift_answers ..
  | cancel | retire | linkup | reinstate | powercap | fwupdate | fwconfirm | keycmd | attest | idkey =>
    dsimp only [exec,
      execCancel, execRetire, execLinkup, execReinstate, execPowercap, execFwupdate, execFwconfirm, execKeycmd,
      execAttest, execIdkey]
    exact mgmt_answers ..
  | mwait => exact mwait_answers ..
  | mbxw => exact mbxw_answers ..
  | mailboxWake => exact mailboxWake_answers ..
  | mend | moraineEnd | deliver =>
    dsimp only [exec, execMend, execMoraineEnd, execDeliver]
    (repeat' split) <;> exact ⟨_, rfl⟩
  | trigSatisfied x0 => exact runEvent_answers (.trigSatisfied x0) s
  | moraineLimitExpiry x0 => exact runEvent_answers (.moraineLimitExpiry x0) s
  | joinComplete x0 => exact runEvent_answers (.joinComplete x0) s
  | blockStart x0 => exact runEvent_answers (.blockStart x0) s
  | msubCompletion x0 => exact runEvent_answers (.msubCompletion x0) s
  | ringSlotTransfer x0 => exact runEvent_answers (.ringSlotTransfer x0) s
  | driftEntryCompletion x0 => exact runEvent_answers (.driftEntryCompletion x0) s
  | driftRetry x0 => exact runEvent_answers (.driftRetry x0) s
  | darmCompletion x0 => exact runEvent_answers (.darmCompletion x0) s
  | driftCounterAccess x0 x1 x2 => exact runEvent_answers (.driftCounterAccess x0 x1 x2) s
  | multicastLine x0 => exact runEvent_answers (.multicastLine x0) s
  | reduceContribution x0 x1 x2 x3 => exact runEvent_answers (.reduceContribution x0 x1 x2 x3) s
  | apertureLoad x0 x1 x2 => exact runEvent_answers (.apertureLoad x0 x1 x2) s
  | peerAccess x0 x1 x2 x3 => exact runEvent_answers (.peerAccess x0 x1 x2 x3) s
  | peerIsolation x0 x1 => exact runEvent_answers (.peerIsolation x0 x1) s
  | linkFailure x0 => exact runEvent_answers (.linkFailure x0) s
  | linkRetrain x0 x1 x2 => exact runEvent_answers (.linkRetrain x0 x1 x2) s
  | emptyBundle => exact runEvent_answers .emptyBundle s
  | resultLanding => exact runEvent_answers .resultLanding s
  | sfuResultLanding => exact runEvent_answers .sfuResultLanding s
  | declaredLoadLanding => exact runEvent_answers .declaredLoadLanding s
  | loadDataArrival x0 x1 x2 x3 => exact runEvent_answers (.loadDataArrival x0 x1 x2 x3) s
  | ldsDataReturn x0 x1 => exact runEvent_answers (.ldsDataReturn x0 x1) s
  | stsErrorResponse x0 x1 x2 x3 => exact runEvent_answers (.stsErrorResponse x0 x1 x2 x3) s
  | trapEntry x0 x1 => exact runEvent_answers (.trapEntry x0 x1) s
  | fairnessSwitch x0 => exact runEvent_answers (.fairnessSwitch x0) s
  | priorityTakeover x0 => exact runEvent_answers (.priorityTakeover x0) s
  | normalResume x0 => exact runEvent_answers (.normalResume x0) s
  | launchRecordCopy x0 => exact runEvent_answers (.launchRecordCopy x0) s
  | countBlockRead x0 => exact runEvent_answers (.countBlockRead x0) s
  | reservationRound x0 => exact runEvent_answers (.reservationRound x0) s
  | reserve x0 x1 => exact runEvent_answers (.reserve x0 x1) s
  | commit x0 => exact runEvent_answers (.commit x0) s
  | release x0 => exact runEvent_answers (.release x0) s
  | backoffExpiry x0 => exact runEvent_answers (.backoffExpiry x0) s
  | tileTaskStart x0 x1 => exact runEvent_answers (.tileTaskStart x0 x1) s
  | launchCompletion x0 => exact runEvent_answers (.launchCompletion x0) s
  | copyCompletion x0 x1 => exact runEvent_answers (.copyCompletion x0 x1) s
  | barrierDelivered x0 x1 => exact runEvent_answers (.barrierDelivered x0 x1) s
  | rotqExchange x0 x1 => exact runEvent_answers (.rotqExchange x0 x1) s
  | rotTimeout x0 x1 => exact runEvent_answers (.rotTimeout x0 x1) s
  | atomApply x0 => exact runEvent_answers (.atomApply x0) s
  | redApply x0 => exact runEvent_answers (.redApply x0) s
  | routerRedMerge x0 x1 => exact runEvent_answers (.routerRedMerge x0 x1) s
  | redHoldExpiry x0 => exact runEvent_answers (.redHoldExpiry x0) s
  | barrierInit x0 => exact runEvent_answers (.barrierInit x0) s
  | barrierArrive x0 => exact runEvent_answers (.barrierArrive x0) s
  | barrierWaitArrival x0 => exact runEvent_answers (.barrierWaitArrival x0) s
  | btwaitTimeout x0 => exact runEvent_answers (.btwaitTimeout x0) s
  | interestArrival x0 => exact runEvent_answers (.interestArrival x0) s
  | interestAdmit x0 => exact runEvent_answers (.interestAdmit x0) s
  | interestExpiry x0 => exact runEvent_answers (.interestExpiry x0) s
  | announcementArrival x0 => exact runEvent_answers (.announcementArrival x0) s
  | tileArrival x0 => exact runEvent_answers (.tileArrival x0) s
  | sealArrival x0 => exact runEvent_answers (.sealArrival x0) s
  | flushhCompletion x0 => exact runEvent_answers (.flushhCompletion x0) s
  | routineStart x0 x1 => exact runEvent_answers (.routineStart x0 x1) s
  | routineSuspend x0 x1 => exact runEvent_answers (.routineSuspend x0 x1) s
  | routineResume x0 x1 => exact runEvent_answers (.routineResume x0 x1) s
  | gatherFill x0 x1 => exact runEvent_answers (.gatherFill x0 x1) s
  | sdrainCompletion x0 x1 => exact runEvent_answers (.sdrainCompletion x0 x1) s
  | smloadWrite x0 => exact runEvent_answers (.smloadWrite x0) s
  | seracDataError x0 x1 => exact runEvent_answers (.seracDataError x0 x1) s
  | checkpointCommit x0 x1 => exact runEvent_answers (.checkpointCommit x0 x1) s
  | rollback x0 x1 => exact runEvent_answers (.rollback x0 x1) s
  | rerunCompare x0 x1 => exact runEvent_answers (.rerunCompare x0 x1) s
  | translationWalk x0 x1 => exact runEvent_answers (.translationWalk x0 x1) s
  | xinvInvalidate => exact runEvent_answers .xinvInvalidate s
  | invalidationComplete => exact runEvent_answers .invalidationComplete s
  | evict x0 => exact runEvent_answers (.evict x0) s
  | restore x0 => exact runEvent_answers (.restore x0) s
  | controlStatusRead x0 => exact runEvent_answers (.controlStatusRead x0) s
  | hostCxlWrite x0 x1 => exact runEvent_answers (.hostCxlWrite x0 x1) s
  | hostCxlRead x0 x1 => exact runEvent_answers (.hostCxlRead x0 x1) s
  | registerWrite x0 x1 => exact runEvent_answers (.registerWrite x0 x1) s
  | loadRequest x0 => exact runEvent_answers (.loadRequest x0) s
  | unloadRequest x0 => exact runEvent_answers (.unloadRequest x0) s
  | reset x0 => exact runEvent_answers (.reset x0) s
  | scrubDone => exact runEvent_answers .scrubDone s
  | marginStep x0 => exact runEvent_answers (.marginStep x0) s
  | replan x0 => exact runEvent_answers (.replan x0) s
  | powerCapStep x0 x1 x2 => exact runEvent_answers (.powerCapStep x0 x1 x2) s
  | thermalTrip x0 => exact runEvent_answers (.thermalTrip x0) s
  | cap4Off x0 x1 => exact runEvent_answers (.cap4Off x0 x1) s
  -- SEAL is left: its name is a keyword of Lean, and no name of a case.
  | _ => exact slot_answers ..

theorem runSlots_answers (l : List (Slot × Instr)) (s : State) : ∃ t, runSlots l s = .next t := by
  induction l generalizing s with
  | nil => exact ⟨s, rfl⟩
  | cons p r ih =>
    obtain ⟨t, ht⟩ := exec_answers p.2 s
    obtain ⟨u, hu⟩ := ih t
    exact ⟨u, by rw [← hu]; exact runSlots_cons_of_next ht⟩

theorem runBundle_answers (l : List (Slot × Instr)) (s : State) : ∃ t, runBundle l s = .next t := by
  obtain ⟨t, ht⟩ := runSlots_answers l s
  exact ⟨t.finishBundle, by simp only [runBundle, ht]⟩

theorem runTurn_answers (r : Turn) : ∃ t, runTurn r = .next t := by
  cases r with
  | idle => exact ⟨_, rfl⟩
  | run => exact ⟨_, rfl⟩
  | slots l s => exact runBundle_answers l s

/-- A step gives a next state, or the order names an agent that has nothing to do. -/
def Goes (r : Host.Outcome State Fault Refusal) : Prop := (∃ t, r = .next t) ∨ r = .fault .noAgent

theorem runEngine_goes (r : Option (Option Instr × State)) : Goes (runEngine r) := by
  match r with
  | none => exact .inr rfl
  | some (some i, s) => exact .inl (exec_answers i s)
  | some (none, s) => exact .inl ⟨s, rfl⟩

/-- Settles O13: every meaning answers, so a step does; only an order for an agent that is not there has none. -/
theorem nothingStops : Obligations.NothingStops := by
  refine ⟨exec_answers, fun s => ?_⟩
  show Goes (runAct s.choice.1 s.choice.2)
  cases s.choice.1 with
  | event ev => exact .inl (runEvent_answers ev _)
  | cut peer done => exact .inl (exec_answers (.peerIsolation peer false) _)
  | issue c =>
    simp only [runAct]
    split
    · exact .inl (runTurn_answers _)
    · exact .inr rfl
  | array => exact runEngine_goes _
  | unit => exact runEngine_goes _
  | drift => exact runEngine_goes _
  | _ => exact .inl ⟨_, rfl⟩

end Sys2Proof.Machine
end

section
/-! SUPPORT. Memory keeps what is written (R2, R47). -/

namespace Sys2Proof.Machine

open Sys2Proof

/-! Reading back what is written. -/

theorem natOfBytes_bytesOfNat (n v : Nat) : natOfBytes (bytesOfNat n v) = v % 256 ^ n := by
  induction n generalizing v with
  | zero => simp [bytesOfNat, natOfBytes, Nat.mod_one]
  | succ n ih =>
    have hpow : 256 ^ (n + 1) = 256 * 256 ^ n := Nat.pow_succ'
    simp only [bytesOfNat, natOfBytes, ih, BitVec.toNat_ofNat, hpow, Nat.mod_mul, Nat.reducePow]

theorem readBytes_writeBytes_same (t : Tbl Byte) (a : Nat) (bs : List Byte) :
    readBytes (writeBytes t a bs) a bs.length = bs := by
  induction bs generalizing t a with
  | nil => rfl
  | cons b r ih =>
    simp only [writeBytes, List.length_cons, readBytes, ih]
    rw [tget_writeBytes_other _ _ _ (Or.inl (by omega)), tget_tput_same]

theorem readNat_writeBytes_same (t : Tbl Byte) (a n v : Nat) :
    readNat (writeBytes t a (bytesOfNat n v)) a n = v % 2 ^ (8 * n) := by
  have h := readBytes_writeBytes_same t a (bytesOfNat n v)
  rw [bytesOfNat_length] at h
  rw [readNat, h, natOfBytes_bytesOfNat, Nat.pow_mul]

/-! A table in canonical form is given by what its addresses read as. -/

theorem tget_of_above {α : Type} {d : α} {k : Nat} {t : Tbl α} (h : Above k t) {j : Nat} (hj : j ≤ k) : tget d t j = d := by
  induction t with
  | nil => rfl
  | cons p r ih =>
    have hp : k < p.1 := h p (List.mem_cons_self ..)
    simp only [tget]
    rw [if_neg (by omega), ih (fun q hq => h q (List.mem_cons_of_mem _ hq))]

theorem twf_cons {α : Type} [DecidableEq α] {d : α} {p : Nat × α} {t : Tbl α} (h : twf d (p :: t) = true) :
    Above p.1 t ∧ p.2 ≠ d ∧ twf d t = true := by
  simp only [twf, Bool.and_eq_true, List.all_cons, tsorted_cons, bne_iff_ne] at h
  obtain ⟨⟨ha, hs⟩, hp, hr⟩ := h
  exact ⟨ha, hp, by simp [twf, hs, hr]⟩

theorem twf_ext {α : Type} [DecidableEq α] {d : α} {t u : Tbl α} (ht : twf d t = true) (hu : twf d u = true)
    (h : ∀ a, tget d t a = tget d u a) : t = u := by
  induction t generalizing u with
  | nil =>
    cases u with
    | nil => rfl
    | cons q r =>
      obtain ⟨-, hq, -⟩ := twf_cons hu
      exact absurd (by simpa [tget] using (h q.1).symm) hq
  | cons p t ih =>
    obtain ⟨hpa, hp, ht'⟩ := twf_cons ht
    cases u with
    | nil => exact absurd (by simpa [tget] using h p.1) hp
    | cons q r =>
      obtain ⟨hqa, hq, hr'⟩ := twf_cons hu
      obtain ⟨k, v⟩ := p
      obtain ⟨l, w⟩ := q
      have hk := h k
      have hl := h l
      simp only [tget, ↓reduceIte] at hk hl
      have hkl : k = l := by
        rcases Nat.lt_trichotomy k l with hlt | heq | hgt
        · rw [if_neg (by omega), tget_of_above hqa (by omega)] at hk
          exact absurd hk hp
        · exact heq
        · rw [if_neg (by omega), tget_of_above hpa (by omega)] at hl
          exact absurd hl.symm hq
      subst hkl
      simp only [↓reduceIte] at hk
      rw [hk, ih ht' hr' fun a => ?_]
      have ha := h a
      simp only [tget] at ha
      split at ha
      · rename_i hak
        rw [tget_of_above hpa (by simp [hak]), tget_of_above hqa (by simp [hak])]
      · exact ha

/-- Settles O60: reading what is written and the rest byte by byte; two canonical tables that read alike have the same first
entry, and so on down. -/
theorem memoryReadAfterWrite : Obligations.MemoryReadAfterWrite :=
  ⟨fun s a bs => readBytes_writeBytes_same s.mem a bs,
    fun s a b bs h => tget_writeBytes_other s.mem a bs h,
    fun s a bs h => writeMem_wf s a bs h,
    fun s a n v => readNat_writeBytes_same s.mem a n v,
    fun _ _ h h' e => twf_ext h h' e⟩

end Sys2Proof.Machine
end

section
/-! SUPPORT. The statements of tier 1: words that are refused, reset, and what a step dispatches to. -/

namespace Sys2Proof.Machine

open Sys2Proof

/-! Opcodes of no arm (R72, R79). -/

/-- The top bits of a word, as a number. -/
theorem toNat_extractLsb'_top {k n : Nat} (w : BitVec (k + n)) : (w.extractLsb' k n).toNat = w.toNat / 2 ^ k := by
  have hlt : w.toNat / 2 ^ k < 2 ^ n := by
    rw [Nat.div_lt_iff_lt_mul (Nat.two_pow_pos k), Nat.mul_comm, ← Nat.pow_add]
    exact w.isLt
  rw [BitVec.extractLsb'_toNat, Nat.shiftRight_eq_div_pow, Nat.mod_eq_of_lt hlt]

theorem decodeCtl_unassigned (w : W32) (h : w.toNat / 2 ^ 26 = 0 ∨ 0x15 < w.toNat / 2 ^ 26) :
    ∃ n, decodeCtl w = .error (.unassigned n) := by
  rw [← toNat_extractLsb'_top (k := 26) (n := 6)] at h
  unfold decodeCtl
  split <;> try omega
  exact ⟨_, rfl⟩

theorem decodeScalarBoth_unassigned (w : W32) (h : (w.extractLsb' 26 6).toNat = 0 ∨ 0x21 < (w.extractLsb' 26 6).toNat) :
    ∃ n, decodeScalarBoth w = .error (.unassigned n) := by
  unfold decodeScalarBoth
  split <;> try omega
  exact ⟨_, rfl⟩

theorem decodeScalarB_unassigned (w : W32) (h : 0x2A < (w.extractLsb' 26 6).toNat) :
    ∃ n, decodeScalarB w = .error (.unassigned n) := by
  unfold decodeScalarB
  split <;> try omega
  exact ⟨_, rfl⟩

theorem decodeSca_wrongSlot (w : W32) (h : 0x22 ≤ w.toNat / 2 ^ 26) (h' : w.toNat / 2 ^ 26 ≤ 0x2A) :
    ∃ n, decodeSca w = .error (.wrongSlot n) := by
  rw [← toNat_extractLsb'_top (k := 26) (n := 6)] at h h'
  exact ⟨_, if_pos ⟨h, h'⟩⟩

theorem decodeSca_unassigned (w : W32) (h : w.toNat / 2 ^ 26 = 0 ∨ 0x2A < w.toNat / 2 ^ 26) :
    ∃ n, decodeSca w = .error (.unassigned n) := by
  rw [← toNat_extractLsb'_top (k := 26) (n := 6)] at h
  unfold decodeSca
  rw [if_neg (by omega)]
  exact decodeScalarBoth_unassigned w (by omega)

theorem decodeScb_unassigned (w : W32) (h : w.toNat / 2 ^ 26 = 0 ∨ 0x2A < w.toNat / 2 ^ 26) :
    ∃ n, decodeScb w = .error (.unassigned n) := by
  rw [← toNat_extractLsb'_top (k := 26) (n := 6)] at h
  unfold decodeScb
  split
  · exact decodeScalarBoth_unassigned w (by omega)
  · exact decodeScalarB_unassigned w (by omega)

theorem vecOfOp_eq_none {op : Nat} (h : op = 0 ∨ 0x38 < op) (o : VArgs) : vecOfOp op o = none := by
  unfold vecOfOp
  split <;> first | omega | rfl

theorem movOfOp_eq_none {op : Nat} (h : op = 0 ∨ 0x0A < op) (o : MovArgs) : movOfOp op o = none := by
  unfold movOfOp
  split <;> first | omega | rfl

theorem memOfOp_eq_none {op : Nat} (h : op = 0 ∨ 0x09 < op) (o : MemArgs) : memOfOp op o = none := by
  unfold memOfOp
  split <;> first | omega | rfl

theorem engOfOp_eq_none {op : Nat} (h : op = 0 ∨ 0x19 < op) (o : EngArgs) : engOfOp op o = none := by
  unfold engOfOp
  split <;> first | omega | rfl

theorem decodeVea_unassigned (w : W64) (h : w.toNat / 2 ^ 57 = 0 ∨ 0x38 < w.toNat / 2 ^ 57) :
    ∃ n, decodeVea w = .error (.unassigned n) := by
  rw [← toNat_extractLsb'_top (k := 57) (n := 7)] at h
  exact ⟨(w.extractLsb' 57 7).toNat, by simp only [decodeVea, vecOfOp_eq_none h]⟩

theorem decodeVeb_wrongSlot (w : W64) (h : 0x17 ≤ w.toNat / 2 ^ 57) (h' : w.toNat / 2 ^ 57 ≤ 0x24) :
    ∃ n, decodeVeb w = .error (.wrongSlot n) := by
  rw [← toNat_extractLsb'_top (k := 57) (n := 7)] at h h'
  exact ⟨_, if_pos ⟨h, h'⟩⟩

theorem decodeVeb_unassigned (w : W64) (h : w.toNat / 2 ^ 57 = 0 ∨ 0x38 < w.toNat / 2 ^ 57) :
    ∃ n, decodeVeb w = .error (.unassigned n) := by
  have hv := decodeVea_unassigned w h
  rw [← toNat_extractLsb'_top (k := 57) (n := 7)] at h
  unfold decodeVeb
  rw [if_neg (by omega)]
  exact hv

theorem decodeMov_unassigned (w : W32) (h : w.toNat / 2 ^ 27 = 0 ∨ 0x0A < w.toNat / 2 ^ 27) :
    ∃ n, decodeMov w = .error (.unassigned n) := by
  rw [← toNat_extractLsb'_top (k := 27) (n := 5)] at h
  exact ⟨(w.extractLsb' 27 5).toNat, by simp only [decodeMov, movOfOp_eq_none h]⟩

theorem decodeMem_unassigned (w : W64) (h : w.toNat / 2 ^ 58 = 0 ∨ 0x09 < w.toNat / 2 ^ 58) :
    ∃ n, decodeMem w = .error (.unassigned n) := by
  rw [← toNat_extractLsb'_top (k := 58) (n := 6)] at h
  exact ⟨(w.extractLsb' 58 6).toNat, by simp only [decodeMem, memOfOp_eq_none h]⟩

theorem decodeEng_unassigned (w : W64) (h : w.toNat / 2 ^ 58 = 0 ∨ 0x19 < w.toNat / 2 ^ 58) :
    ∃ n, decodeEng w = .error (.unassigned n) := by
  rw [← toNat_extractLsb'_top (k := 58) (n := 6)] at h
  exact ⟨(w.extractLsb' 58 6).toNat, by simp only [decodeEng, engOfOp_eq_none h]⟩

theorem decodeMicro_unassigned (w : W64) (h : w.toNat / 2 ^ 59 = 0 ∨ 0x0C < w.toNat / 2 ^ 59) :
    ∃ n, decodeMicro w = .error (.unassigned n) := by
  rw [← toNat_extractLsb'_top (k := 59) (n := 5)] at h
  unfold decodeMicro
  split <;> try omega
  exact ⟨_, rfl⟩

theorem decodeMoraine_unassigned (w : W32) (h : w.toNat / 2 ^ 27 = 0 ∨ 0x14 < w.toNat / 2 ^ 27) :
    ∃ n, decodeMoraine w = .error (.unassigned n) := by
  rw [← toNat_extractLsb'_top (k := 27) (n := 5)] at h
  unfold decodeMoraine
  split <;> try omega
  exact ⟨_, rfl⟩

/-- A record's first byte. -/
theorem toNat_field_zero_one (bs : List Byte) : (field bs 0 1).toNat = (bs.headD 0).toNat := by
  cases bs with
  | nil => rfl
  | cons b r =>
    have := b.isLt
    simp only [field, List.drop_zero, List.take_succ_cons, List.take_zero, leNat, BitVec.toNat_ofNat, List.headD_cons]
    omega

theorem decodeCommand_unassigned (bs : List Byte) (hl : bs.length = 32) (h : (bs.headD 0).toNat = 0 ∨ 8 < (bs.headD 0).toNat) :
    ∃ n, decodeCommand bs = .error (.unassigned n) := by
  rw [← toNat_field_zero_one] at h
  unfold decodeCommand
  rw [if_neg (by simp [hl])]
  split <;> try omega
  exact ⟨_, rfl⟩

theorem decodeDrift_refused (bs : List Byte) (hl : bs.length = 64) (h : (bs.headD 0).toNat = 0 ∨ 7 < (bs.headD 0).toNat) :
    ∃ e, decodeDrift bs = .error e := by
  rw [← toNat_field_zero_one] at h
  unfold decodeDrift
  rw [if_neg (by simp [hl])]
  split
  · exact ⟨_, rfl⟩
  · dsimp only
    split <;> try omega
    exact ⟨_, rfl⟩

/-- Settles O5. -/
theorem otherOpcodesRefused : Obligations.OtherOpcodesRefused :=
  ⟨decodeCtl_unassigned, decodeSca_wrongSlot, decodeSca_unassigned, decodeScb_unassigned, decodeVea_unassigned,
    decodeVeb_wrongSlot, decodeVeb_unassigned, decodeMov_unassigned, decodeMem_unassigned, decodeEng_unassigned,
    decodeMicro_unassigned, decodeMoraine_unassigned, decodeCommand_unassigned, decodeDrift_refused⟩

/-- Settles O4: each word is decoded as the model runs it. -/
theorem specWordsDecode : Obligations.SpecWordsDecode := by
  unfold Obligations.SpecWordsDecode
  decide

/-- Settles O9. -/
theorem resetMemoryCanonical : Obligations.ResetMemoryCanonical := rfl

theorem sr_reset (c n r : Nat) : (State.reset.ctxAt c n).a.c.sr r = 0 := by
  unfold CtlSt.sr
  split <;> rfl

/-- Settles O7. -/
theorem resetState : Obligations.ResetState := by
  unfold Obligations.ResetState
  and_intros <;> intros <;> and_intros <;> try rfl
  exact sr_reset ..

/-! What a step dispatches to. -/

theorem step_of_choice {s v : State} {a : Act} (h : s.choice = (a, v)) : step s = runAct a v := by
  simp only [step, h]

theorem choice_of_sched {s : State} {a : Act} {r : List Act} (h : s.sched = a :: r) : s.choice = (a, { s with sched := r }) := by
  simp only [State.choice, h]

/-- Without an order from outside, the oldest caused event is next. -/
theorem choice_of_queue {s : State} {e : Event} {r : List Event} (hs : s.sched = []) (hq : s.queue = e :: r) :
    s.choice = (.event e, s) := by
  simp only [State.choice, hs, State.nextAct, hq]

/-- Settles O12: each event's row by its arm of runEvent. -/
theorem stepRunsEvents : Obligations.StepRunsEvents := by
  refine ⟨⟨fun s e v h => step_of_choice h, fun s => ?_⟩, ?_, ?_, ?_⟩
  · and_intros <;> intros <;> rfl
  · intro s a r h
    exact step_of_choice (choice_of_sched h)
  · intro s e r hs hq
    rw [step_of_choice (choice_of_queue hs hq)]
    simp only [runAct, State.takeEvent, hq, List.erase_cons_head]
  · intro s us r h
    exact step_of_choice (choice_of_sched h)

/-- Settles O11: the turn of an engine gives the word at which it stands, and its meaning is run. -/
theorem stepRunsEngines : Obligations.StepRunsEngines := by
  refine ⟨?_, ?_, ?_, ?_, ?_, ?_⟩
  · intro s v t c a i hc ht
    simp only [step_of_choice hc, runAct, ht, runEngine]
  · intro t w i hw hl hp hd
    simp only [State.microNext, hw, hl, hd, Option.isSome_none, Bool.false_eq_true, ↓reduceIte, Nat.not_le_of_lt hp]
  · intro s v t u i hc ht
    simp only [step_of_choice hc, runAct, ht, runEngine]
  · intro t x b pc lim i hx hb hp hl hpc hd
    simp only [State.morFetch, hx, hb, hp, hl, hd, Bool.false_eq_true, ↓reduceIte, Nat.not_le_of_lt hpc]
  · intro t x b bs i hx hb hp hr hd
    simp only [State.morFetch, hx, hb, hp, hr, hd]
  · intro s v n e hc hr he
    simp only [step_of_choice hc, runAct, State.driftTurn, hr, he, Option.map_some, runEngine]

/-- What the bundle at a context's pc is prepared to, where nothing is due before it and every page that its fetch needs is at
hand. -/
theorem prepare_of_bundle {s x t : State} {a : W64} {len : Nat} {l : List (Slot × Instr)} (hx : s.modCx Ctx.replayInputs = x)
    (hf : x.cx.a.p.first = none) (hb : x.fetch padLimit x.cx.a.c.pc = .ok (a, .bundle l len))
    (hm : x.missing [fetchAfter x.cx.a.c.pc, a] = []) (hp : x.prepareSlots a len l = .go t) :
    s.prepare = .slots l ((t.spend (t.bundleCost l)).modIss (fun i => { i with need := semNeeds l, checked := true })) := by
  unfold State.prepare
  rw [hx]
  dsimp only
  rw [hf]
  dsimp only
  rw [hb]
  dsimp only
  rw [hm]
  dsimp only
  rw [hp]

theorem turn_of_slots {s w t : State} {c n : Nat} {l : List (Slot × Instr)} (hc : (s.poll c).choose c = (some n, w))
    (hp : (w.at' c n).prepare = .slots l t) : s.turn c = .slots l t := by
  unfold State.turn
  rw [hc]
  dsimp only
  rw [hp]

/-- Settles O10. -/
theorem stepRunsBundle : Obligations.StepRunsBundle := by
  refine ⟨?_, ?_, ?_, ?_⟩
  · intro s v w t c n l a len x hc hlt hch hf hfe hm hp
    have hprep := prepare_of_bundle (s := w.at' c n) rfl hf hfe hm hp
    have hturn := turn_of_slots hch hprep
    rw [step_of_choice hc]
    simp only [runAct, hlt, ↓reduceIte, hturn, runTurn]
  · intro x a len l h
    simp only [State.prepareSlots, h, List.isEmpty_nil, Bool.true_or, ↓reduceIte]
  · intro x bs l len hpc hb hd
    have hpad : padLimit = (padLimit - 1) + 1 := by decide
    rw [hpad]
    simp only [State.fetch, hpc, hb, hd]
  · intro sl i x
    simp only [runBundle, runSlots]
    cases exec i x <;> rfl

end Sys2Proof.Machine
end

section
/-! SUPPORT. When a bundle issues, and the results of scalar and vector arithmetic. -/

namespace Sys2Proof.Machine

open Sys2Proof

/-! Results at issue. -/

theorem givesScalar_congr {i : Instr} {rd : BitVec 6} {lat : Nat} {v v' : State → W64} (h : GivesScalar i rd lat v)
    (hv : ∀ s, v s = v' s) : GivesScalar i rd lat v' :=
  (funext hv) ▸ h

theorem givesScalar_minu (rd ra rb : BitVec 6) : GivesScalar (.minu rd ra rb) rd 1
    (fun s => if (s.sr ra).toNat < (s.sr rb).toNat then s.sr ra else s.sr rb) :=
  givesScalar_congr (v := fun s => if (s.sr ra).ult (s.sr rb) then s.sr ra else s.sr rb) (fun _ h => slot_ready h)
    (fun s => by simp only [BitVec.ult_eq_decide, decide_eq_true_eq])

theorem givesScalar_maxu (rd ra rb : BitVec 6) : GivesScalar (.maxu rd ra rb) rd 1
    (fun s => if (s.sr ra).toNat < (s.sr rb).toNat then s.sr rb else s.sr ra) :=
  givesScalar_congr (v := fun s => if (s.sr ra).ult (s.sr rb) then s.sr rb else s.sr ra) (fun _ h => slot_ready h)
    (fun s => by simp only [BitVec.ult_eq_decide, decide_eq_true_eq])

theorem givesScalar_slt (rd ra rb : BitVec 6) : GivesScalar (.slt rd ra rb) rd 1
    (fun s => if (s.sr ra).toInt < (s.sr rb).toInt then 1 else 0) :=
  givesScalar_congr (v := fun s => bit64 ((s.sr ra).slt (s.sr rb))) (fun _ h => slot_ready h)
    (fun s => by simp only [bit64, BitVec.slt_eq_decide, decide_eq_true_eq])

theorem givesScalar_sltu (rd ra rb : BitVec 6) : GivesScalar (.sltu rd ra rb) rd 1
    (fun s => if (s.sr ra).toNat < (s.sr rb).toNat then 1 else 0) :=
  givesScalar_congr (v := fun s => bit64 ((s.sr ra).ult (s.sr rb))) (fun _ h => slot_ready h)
    (fun s => by simp only [bit64, BitVec.ult_eq_decide, decide_eq_true_eq])

theorem givesScalar_seq (rd ra rb : BitVec 6) : GivesScalar (.seq rd ra rb) rd 1
    (fun s => if s.sr ra = s.sr rb then 1 else 0) :=
  givesScalar_congr (v := fun s => bit64 (s.sr ra == s.sr rb)) (fun _ h => slot_ready h)
    (fun s => by simp only [bit64, beq_iff_eq])

theorem givesScalar_sne (rd ra rb : BitVec 6) : GivesScalar (.sne rd ra rb) rd 1
    (fun s => if s.sr ra = s.sr rb then 0 else 1) :=
  givesScalar_congr (v := fun s => bit64 (s.sr ra != s.sr rb)) (fun _ h => slot_ready h)
    (fun s => by by_cases h : s.sr ra = s.sr rb <;> simp [bit64, h])

/-- Settles O16: each is its slot's effect on the state in which it reads its operands. -/
theorem scalarArithmetic : Obligations.ScalarArithmetic := fun rd ra rb rc =>
  ⟨fun _ h => slot_ready h, fun _ h => slot_ready h, fun _ _ h => slot_ready h, fun _ h => slot_ready h,
    fun _ h => slot_ready h, fun _ h => slot_ready h, fun _ _ h => slot_ready h, fun _ _ h => slot_ready h,
    fun _ _ h => slot_ready h, fun _ h => slot_ready h, fun _ h => slot_ready h, fun _ h => slot_ready h,
    fun _ _ h => slot_ready h, fun _ _ h => slot_ready h, fun _ _ h => slot_ready h, fun _ h => slot_ready h,
    fun _ h => slot_ready h, fun _ h => slot_ready h, givesScalar_divs rd ra rb, givesScalar_divu rd ra rb,
    fun _ h => slot_ready h, fun _ h => slot_ready h, givesScalar_minu rd ra rb, givesScalar_maxu rd ra rb,
    givesScalar_slt rd ra rb, givesScalar_sltu rd ra rb, givesScalar_seq rd ra rb, givesScalar_sne rd ra rb,
    fun _ h => slot_ready h, givesScalar_li rd, givesScalar_lui rd, fun _ h => slot_ready h, fun _ h => slot_ready h⟩

/-- Settles O22: each is its slot's effect on the state in which it reads its operands. -/
theorem vectorResults : Obligations.VectorResults := by
  and_intros <;> intro o <;> and_intros <;> exact fun _ h => slot_ready h

/-! What the functions of R141 and R142 are. -/

theorem divUnsigned_toNat {a b : W64} (hb : b ≠ 0) : (divUnsigned a b).toNat = a.toNat / b.toNat := by
  have := a.isLt
  have hle := Nat.div_le_self a.toNat b.toNat
  rw [divUnsigned, if_neg hb, BitVec.toNat_ofNat, Nat.mod_eq_of_lt (by omega)]

/-- DIVS is the quotient of the signed division of bit vectors, which wraps only where −2^63 is divided by −1. -/
theorem divSigned_toInt {a b : W64} (hb : b ≠ 0) (h : ¬(a = BitVec.ofInt 64 (-(2 ^ 63)) ∧ b = BitVec.ofInt 64 (-1))) :
    (divSigned a b).toInt = a.toInt.tdiv b.toInt := by
  have hne : a ≠ BitVec.intMin 64 ∨ b ≠ -1#64 := by
    by_cases ha : a = BitVec.intMin 64
    · exact .inr fun hb' => h ⟨ha, hb'⟩
    · exact .inl ha
  rw [divSigned, if_neg hb, BitVec.toInt_ofInt, ← BitVec.toInt_sdiv, BitVec.toInt_sdiv_of_ne_or_ne a b hne]

theorem signExtend_mul (a b : W64) :
    a.signExtend 128 * b.signExtend 128 = BitVec.ofInt 128 (a.toInt * b.toInt) := by
  rw [BitVec.ofInt_mul, ← BitVec.toInt_signExtend_of_le (x := a) (v := 128) (by decide),
    ← BitVec.toInt_signExtend_of_le (x := b) (v := 128) (by decide), BitVec.ofInt_toInt, BitVec.ofInt_toInt]

theorem mulHigh_eq (a b : W64) : mulHigh a b = (a.signExtend 128 * b.signExtend 128).extractLsb' 64 64 := by
  apply BitVec.eq_of_toNat_eq
  rw [signExtend_mul, mulHigh, BitVec.extractLsb'_toNat, BitVec.toNat_ofInt, BitVec.toNat_ofInt, Nat.shiftRight_eq_div_pow]
  generalize a.toInt * b.toInt = p
  omega

theorem mulHighU_eq (a b : W64) : mulHighU a b = (a.zeroExtend 128 * b.zeroExtend 128).extractLsb' 64 64 := by
  have ha := a.isLt
  have hb := b.isLt
  have hlt : a.toNat * b.toNat < 2 ^ 128 := Nat.mul_lt_mul'' (c := 2 ^ 64) (d := 2 ^ 64) ha hb
  apply BitVec.eq_of_toNat_eq
  simp only [mulHighU, BitVec.toNat_ofNat, BitVec.extractLsb'_toNat, BitVec.toNat_mul, BitVec.truncate_eq_setWidth, BitVec.toNat_setWidth,
    Nat.shiftRight_eq_div_pow]
  rw [Nat.mod_eq_of_lt (a := a.toNat) (by omega), Nat.mod_eq_of_lt (a := b.toNat) (by omega), Nat.mod_eq_of_lt hlt]

theorem leadZeros_bounds {a : W64} (h : a ≠ 0) :
    leadZeros a < 64 ∧ 2 ^ (63 - leadZeros a) ≤ a.toNat ∧ a.toNat < 2 ^ (64 - leadZeros a) := by
  have hne : a.toNat ≠ 0 := fun e => h (BitVec.eq_of_toNat_eq e)
  have hlog : Nat.log2 a.toNat < 64 := (Nat.log2_lt hne).mpr a.isLt
  rw [leadZeros, if_neg h]
  have e : 63 - (63 - Nat.log2 a.toNat) = Nat.log2 a.toNat := by omega
  have e' : 64 - (63 - Nat.log2 a.toNat) = Nat.log2 a.toNat + 1 := by omega
  rw [e, e']
  exact ⟨by omega, Nat.log2_self_le hne, Nat.lt_log2_self⟩

theorem oneBits_zero : oneBits 0 = 0 := by decide

/-- Setting a 0 bit adds one to the count: the bits of the others are as they were. -/
theorem oneBits_or_twoPow {a : W64} {k : Nat} (hk : k < 64) (h : a.getLsbD k = false) :
    oneBits (a ||| BitVec.twoPow 64 k) = oneBits a + 1 := by
  have hbit : ∀ i, (a ||| BitVec.twoPow 64 k).getLsbD i = (a.getLsbD i || decide (i = k)) := by
    intro i
    simp only [BitVec.getLsbD_or, BitVec.getLsbD_twoPow]
    by_cases e : i = k
    · simp [e, hk]
    · simp [e, Ne.symm e]
  have hsplit : ∀ l : List Nat, l.countP (fun i => a.getLsbD i || decide (i = k)) =
      l.countP (fun i => a.getLsbD i) + l.count k := by
    intro l
    induction l with
    | nil => rfl
    | cons i l ih =>
      simp only [List.countP_cons, List.count_cons, ih]
      by_cases e : i = k
      · simp [e, h]; omega
      · simp [e]; omega
  have hone : (List.range 64).count k = 1 := List.count_eq_one_of_mem (List.nodup_range) (List.mem_range.mpr hk)
  simp only [oneBits, hbit, hsplit, hone]

/-- Settles O18. -/
theorem scalarFunctions : Obligations.ScalarFunctions :=
  ⟨⟨fun _ _ => divUnsigned_toNat, fun _ _ => divSigned_toInt⟩, ⟨mulHigh_eq, mulHighU_eq⟩, rfl, fun _ => leadZeros_bounds, oneBits_zero,
    fun _ _ => oneBits_or_twoPow⟩

/-! When a bundle issues (R39, R68, R390, R392). -/

theorem test_trap {s : State} {l : List (Slot × Instr)} {tr : TrapAt} (hl : s.landed.cx.lds = none)
    (hc : s.landed.cx.guard.commitDue = false) (hh : s.landed.heldBy l = false) (hn : s.landed.needsCommit false l = false)
    (ht : s.landed.trapOf l = some tr) : s.test l = .stop (s.landed.takeTrap tr) := by
  unfold State.test
  simp only [hl, hc, hh, hn, ht, Option.isSome_none, Bool.or_self, Bool.false_eq_true, ↓reduceIte, Bool.false_and]

theorem test_go_iff (s t : State) (l : List (Slot × Instr)) : s.test l = .go t ↔
    (t = s.landed ∧ s.landed.cx.lds = none ∧ s.landed.cx.guard.commitDue = false ∧ s.landed.heldBy l = false ∧
      s.landed.needsCommit false l = false ∧ s.landed.trapOf l = none) := by
  constructor
  · intro h
    have ht := test_go h
    unfold State.test at h
    dsimp only at h
    split at h
    · cases h
    rename_i hw
    split at h
    · cases h
    split at h
    · cases h
    rename_i hh
    split at h
    · cases h
    rename_i htr
    simp only [Bool.or_eq_true, not_or, Bool.not_eq_true, Option.isSome_eq_false_iff, Option.isNone_iff_eq_none] at hw hh
    obtain ⟨hlds, hdue⟩ := hw
    obtain ⟨hheld, hneeds⟩ := hh
    rw [hheld] at hneeds
    exact ⟨ht, hlds, hdue, hheld, hneeds, htr⟩
  · rintro ⟨rfl, hl, hc, hh, hn, htr⟩
    exact test_go_of hl hc hh hn htr

/-- An unguarded bundle that is held stays where it is. -/
theorem test_held {s : State} {l : List (Slot × Instr)} (hl : s.landed.cx.lds = none) (hc : s.landed.cx.guard.commitDue = false)
    (hg : s.landed.cx.launch.guard = false) (hh : s.landed.heldBy l = true) : s.test l = .stop ((s.placeAcq s.landed l).markBlocked) := by
  have hn : s.landed.needsCommit true l = false := by simp only [State.needsCommit, hg, Bool.false_and]
  unfold State.test
  simp only [hl, hc, hh, hn, Option.isSome_none, Bool.or_self, Bool.false_eq_true, ↓reduceIte, Bool.false_and, Bool.true_or]

/-- Settles O14. -/
theorem issueVerdict : Obligations.IssueVerdict :=
  ⟨test_go_iff, fun _ _ _ => test_trap, fun _ _ => test_held⟩

/-- What the test of a bundle finds of an instruction that waits for nothing, reads no vector register and no memory, and takes
nothing of the guard's buffers (R39, R391, R392). -/
structure AsksNothing (i : Instr) : Prop where
  notHeld : ∀ s : State, s.heldBy [(slotOf i, i)] = false
  needsNoCommit : ∀ s : State, s.needsCommit false [(slotOf i, i)] = false
  notIll : ∀ s : State, s.illSlot 1 i = !legal i
  noBody : ∀ s : State, s.badBody i = false
  noReads : portReads i = []
  noReplay : ∀ s : State, s.replayOf [(slotOf i, i)] = none
  noSfmt : ∀ s : State, s.sfmtOf [(slotOf i, i)] = none
  noWport : ∀ s : State, s.wportOf [(slotOf i, i)] = none
  noCost : ∀ s : State, holdCost i = 0 ∧ recordCost i = 0 ∧ s.journalCost [(slotOf i, i)] = 0
  noLate : ∀ s : State, s.earlyTrap [(slotOf i, i)] = none → s.trapOf [(slotOf i, i)] = none

theorem illOf_of_legal {s : State} {sl : Slot} {i : Instr} (h : s.illSlot 1 i = false) (hb : s.badBody i = false)
    (hp : portReads i = []) : s.illOf [(sl, i)] = none := by
  simp [State.illOf, h, hb, hp, anyConflict]

theorem asksNothing_scalarArith {i : Instr} (h : isScalarArith i = true) : AsksNothing i := by
  cases i with
  | add | sub | addi | and | or | xor | andi | ori | xori | shl | shr | sra | shli | shri | srai | mul | mulh | mulhu
  | divs | divu | min | max | minu | maxu | slt | sltu | seq | sne | selz | li | lui | clz | popc =>
    exact ⟨fun _ => rfl, fun _ => Bool.and_false _, fun _ => (Bool.or_false _).trans (Bool.or_false _), fun _ => rfl, rfl,
      fun _ => ite_self _, fun _ => rfl, fun _ => rfl,
      fun _ => ⟨rfl, rfl, rfl⟩, fun s he => by unfold State.trapOf; rw [he]; rfl⟩
  | _ => cases h

theorem noEarlyTrap_of_asksNothing {i : Instr} (h : AsksNothing i) (hw : i.WellFormed) {s : State} (hf : Free s) :
    s.earlyTrap [(slotOf i, i)] = none := by
  have hill : s.illSlot 1 i = false := by rw [h.notIll, hw]; rfl
  obtain ⟨-, -, hh, hj⟩ := hf
  obtain ⟨hhold, hrecord, hjournal⟩ := h.noCost s
  have hck : s.ckspanOf [(slotOf i, i)] = none := by
    simp [State.ckspanOf, hhold, hrecord, hjournal, Nat.not_lt.mpr hh, Nat.not_lt.mpr hj]
  simp only [State.earlyTrap, illOf_of_legal hill (h.noBody s) h.noReads, h.noReplay, h.noSfmt, h.noWport, hck, Option.map_none]

theorem noTrap_of_asksNothing {i : Instr} (h : AsksNothing i) (hw : i.WellFormed) {s : State} (hf : Free s) :
    s.trapOf [(slotOf i, i)] = none :=
  h.noLate s (noEarlyTrap_of_asksNothing h hw hf)

/-- It issues wherever the context waits for nothing. -/
theorem ready_of_asksNothing {i : Instr} (h : AsksNothing i) (hw : i.WellFormed) {s : State} (hf : Free s) : Ready i s := by
  have hl : Free s.landed := free_landed hf
  obtain ⟨hlds, hcommit, -⟩ := id hl
  exact .inr (test_go_of hlds hcommit (h.notHeld _) (h.needsNoCommit _) (noTrap_of_asksNothing h hw hl))

/-- Settles O15. -/
theorem scalarArithmeticIssues : Obligations.ScalarArithmeticIssues :=
  fun _ _ hi hw hf => ready_of_asksNothing (asksNothing_scalarArith hi) hw hf

end Sys2Proof.Machine
end

section
/-! SUPPORT. What lanes compute, and the landing of results (R152 to R156). -/

namespace Sys2Proof.Machine

open Sys2Proof

/-! Lanes of a row and bits of a mask. -/

theorem lanesNat_lt (f : Nat → W32) (n : Nat) : lanesNat f n < 2 ^ (32 * n) := by
  induction n with
  | zero => simp [lanesNat]
  | succ n ih =>
    have hf := (f n).isLt
    have hpow : 2 ^ (32 * (n + 1)) = 2 ^ 32 * 2 ^ (32 * n) := by rw [← Nat.pow_add, Nat.mul_add, Nat.add_comm]
    have hmul : (f n).toNat * 2 ^ (32 * n) ≤ (2 ^ 32 - 1) * 2 ^ (32 * n) := Nat.mul_le_mul_right _ (by omega)
    rw [lanesNat, hpow]
    rw [Nat.sub_mul, Nat.one_mul] at hmul
    have hle : 2 ^ (32 * n) ≤ 2 ^ 32 * 2 ^ (32 * n) := Nat.le_mul_of_pos_left _ (by decide)
    omega

/-- A 32-bit digit of the number that the digits give. -/
theorem lanesNat_digit (f : Nat → W32) {n l : Nat} (h : l < n) : lanesNat f n / 2 ^ (32 * l) % 2 ^ 32 = (f l).toNat := by
  induction n with
  | zero => omega
  | succ n ih =>
    rw [lanesNat]
    rcases Nat.lt_or_eq_of_le (Nat.le_of_lt_succ h) with hlt | rfl
    · have hpow : 2 ^ (32 * n) = 2 ^ 32 * 2 ^ (32 * (n - l - 1)) * 2 ^ (32 * l) := by
        rw [← Nat.pow_add, ← Nat.pow_add]
        congr 1
        omega
      rw [hpow, ← Nat.mul_assoc, Nat.add_mul_div_right _ _ (Nat.two_pow_pos _), Nat.mul_left_comm, Nat.add_mul_mod_self_left, ih hlt]
    · rw [Nat.add_mul_div_right _ _ (Nat.two_pow_pos _), Nat.div_eq_of_lt (lanesNat_lt f l), Nat.zero_add,
        Nat.mod_eq_of_lt (f l).isLt]

theorem lane_rowOf (f : Nat → W32) {l : Nat} (h : l < 16) : lane (rowOf f) l = f l := by
  apply BitVec.eq_of_toNat_eq
  rw [lane, BitVec.extractLsb'_toNat, rowOf, BitVec.toNat_ofNat, Nat.mod_eq_of_lt (lanesNat_lt f 16), Nat.shiftRight_eq_div_pow,
    lanesNat_digit f h]

/-- The sum of the powers of 2 that a mask is made of. -/
def maskNat (f : Nat → Bool) (n : Nat) : Nat := (List.range n).foldl (fun a l => if f l then a + 2 ^ l else a) 0

theorem maskNat_succ (f : Nat → Bool) (n : Nat) : maskNat f (n + 1) = if f n then maskNat f n + 2 ^ n else maskNat f n := by
  simp only [maskNat, List.range_succ, List.foldl_append, List.foldl_cons, List.foldl_nil]

theorem maskNat_lt (f : Nat → Bool) (n : Nat) : maskNat f n < 2 ^ n := by
  induction n with
  | zero => simp [maskNat]
  | succ n ih =>
    rw [maskNat_succ, Nat.pow_succ]
    split <;> omega

theorem testBit_maskNat (f : Nat → Bool) {n l : Nat} (h : l < n) : (maskNat f n).testBit l = f l := by
  induction n with
  | zero => omega
  | succ n ih =>
    have hlt := maskNat_lt f n
    rw [maskNat_succ]
    rcases Nat.lt_or_eq_of_le (Nat.le_of_lt_succ h) with hl | rfl
    · split
      · rw [Nat.add_comm, Nat.testBit_two_pow_add_gt hl, ih hl]
      · exact ih hl
    · split
      · rename_i hf
        rw [Nat.add_comm, Nat.testBit_two_pow_add_eq, Nat.testBit_lt_two_pow hlt, hf, Bool.not_false]
      · rename_i hf
        rw [Nat.testBit_lt_two_pow hlt, Bool.eq_false_iff.mpr hf]

theorem getLsbD_maskOf (f : Nat → Bool) {l : Nat} (h : l < 16) : (maskOf f).getLsbD l = f l := by
  have hm : maskOf f = BitVec.ofNat 16 (maskNat f 16) := rfl
  rw [hm, BitVec.getLsbD_ofNat, testBit_maskNat f h, decide_eq_true h, Bool.true_and]

/-! Rows and masks land (R152, R154, R155). -/

theorem lane_mergeRow (act : BitVec 16) (new old : BitVec 512) {l : Nat} (h : l < 16) :
    lane (mergeRow act new old) l = if act.getLsbD l then lane new l else lane old l := by
  unfold mergeRow
  split
  · rename_i hall
    rw [hall]
    have hbit : (0xFFFF : BitVec 16).getLsbD l = true := by
      interval_cases l <;> rfl
    rw [if_pos hbit]
  · split
    · rename_i hnone
      rw [hnone]
      simp
    · exact lane_rowOf _ h

theorem row_landRow_same (v : VecSt) (g r : Nat) (act : BitVec 16) (row : BitVec 512) :
    (v.landRow g r act row).row g r = mergeRow act row (v.row g r) :=
  tget_tput_same ..

theorem row_landRow_other (v : VecSt) {g r g' r' : Nat} (act : BitVec 16) (row : BitVec 512) (h : 64 * g' + r' ≠ 64 * g + r) :
    (v.landRow g r act row).row g' r' = v.row g' r' :=
  tget_tput_other _ _ _ h

theorem tmem_tdel_same {α : Type} (t : Tbl α) (j : Nat) : tmem (tdel t j) j = false := by
  simp [tmem, tdel]

theorem msk_landMask (v : VecSt) (g k : Nat) (act : BitVec 16) (row : BitVec 512) {l : Nat} (h : l < 16) :
    ((v.landMask g k act row).msk g k).getLsbD l =
      if k = 0 then true else if act.getLsbD l then (lane row l).getLsbD 0 else (v.msk g k).getLsbD l := by
  by_cases hk : k = 0
  · have hbit : (0xFFFF : BitVec 16).getLsbD l = true := by
      interval_cases l <;> rfl
    simp only [VecSt.msk, hk, ↓reduceIte, hbit]
  · simp only [VecSt.landMask, VecSt.setMsk, hk, ↓reduceIte, VecSt.msk, tget_tput_same, BitVec.getLsbD_or, BitVec.getLsbD_and,
      BitVec.getLsbD_not, getLsbD_maskOf _ h, h, decide_true, Bool.true_and]
    cases act.getLsbD l <;> simp

/-! s63 (R113). -/

theorem landScal_63 (s : State) (lat : Nat) (v : W64) : s.landScal 63 lat v = s := if_pos rfl

theorem sr_setSr_same (c : CtlSt) (r : Nat) (v : W64) : (c.setSr r v).sr r = if r = 63 then 0 else v := by
  unfold CtlSt.setSr CtlSt.sr
  split
  · rfl
  · exact tget_tput_same ..

theorem sr_setSr_other (c : CtlSt) {r q : Nat} (v : W64) (h : q ≠ r) : (c.setSr r v).sr q = c.sr q := by
  unfold CtlSt.setSr CtlSt.sr
  split
  · rfl
  · split
    · rfl
    · exact tget_tput_other _ _ _ h

/-! The results due take effect in the order of issue (R71, R114, R156). -/

/-- A group that lands writes no scalar and no handle, and the landing buffer stands. -/
theorem landGroup_ctl (e : Landing) (x : Ctx) (gl : GroupLand) :
    (x.landGroup e gl).a.c = x.a.c ∧ (x.landGroup e gl).a.v.landing = x.a.v.landing := by
  unfold Ctx.landGroup
  constructor
  all_goals
    dsimp only
    (repeat' split) <;> (try simp only [VecSt.landMask, VecSt.setMsk]) <;> (repeat' split) <;> rfl

theorem landGroups_ctl (e : Landing) (gls : List GroupLand) (x : Ctx) :
    (gls.foldl (fun x gl => x.landGroup e gl) x).a.c = x.a.c ∧
    (gls.foldl (fun x gl => x.landGroup e gl) x).a.v.landing = x.a.v.landing := by
  induction gls generalizing x with
  | nil => exact ⟨rfl, rfl⟩
  | cons gl gls ih =>
    obtain ⟨hc, hv⟩ := ih (x.landGroup e gl)
    obtain ⟨hc', hv'⟩ := landGroup_ctl e x gl
    exact ⟨hc.trans hc', hv.trans hv'⟩

theorem landing_landedSlot (v : VecSt) (o : Option Nat) : (v.landedSlot o).landing = v.landing := by
  unfold VecSt.landedSlot
  split
  · rfl
  · split <;> rfl

theorem landing_landEntry (x : Ctx) (e : Landing) : (x.landEntry e).a.v.landing = x.a.v.landing := by
  unfold Ctx.landEntry
  split
  · rfl
  · rfl
  · exact (landing_landedSlot _ _).trans (landGroups_ctl e e.groups x).2

/-- What an entry does to a scalar. -/
theorem sr_landEntry {r : Nat} (hr : r ≠ 63) (x : Ctx) (e : Landing) :
    (x.landEntry e).a.c.sr r = if e.dest == .scal r then e.value.truncate 64 else x.a.c.sr r := by
  unfold Ctx.landEntry
  split
  · rename_i q hq
    rw [hq]
    by_cases h : q = r
    · subst h
      simp [sr_setSr_same, hr]
    · have hne : (LandDest.scal q == .scal r) = false := by simpa using h
      simp only [hne, sr_setSr_other _ _ (Ne.symm h), Bool.false_eq_true, ↓reduceIte]
  · rename_i h hh
    rw [hh]
    rfl
  · rename_i hs hh
    have hne : (e.dest == .scal r) = false := by simpa using hs r
    simp only [hne, Bool.false_eq_true, ↓reduceIte, (landGroups_ctl e e.groups x).1]

/-- What an entry does to a handle. -/
theorem hnd_landEntry (h : Nat) (x : Ctx) (e : Landing) :
    tget 0 (x.landEntry e).a.c.hnd h = if e.dest == .hnd h then e.value else tget 0 x.a.c.hnd h := by
  unfold Ctx.landEntry
  split
  · rename_i q hq
    rw [hq, CtlSt.setSr]
    split <;> rfl
  · rename_i q hq
    rw [hq]
    by_cases hqh : q = h
    · subst hqh
      simp
    · have hne : (LandDest.hnd q == .hnd h) = false := by simpa using hqh
      simp only [hne, tget_tput_other _ _ _ (Ne.symm hqh), Bool.false_eq_true, ↓reduceIte]
  · rename_i hs hh
    have hne : (e.dest == .hnd h) = false := by simpa using hh h
    simp only [hne, Bool.false_eq_true, ↓reduceIte, (landGroups_ctl e e.groups x).1]

/-- Of the steps that write a register the last one stays. -/
theorem foldl_last {α β γ : Type} {f : α → β → α} {get : α → γ} {p : β → Bool} {val : β → γ}
    (h : ∀ x e, get (f x e) = if p e then val e else get x) (l : List β) (x : α) :
    get (l.foldl f x) = (((l.filter p).getLast?).map val).getD (get x) := by
  induction l using List.reverseRecOn with
  | nil => rfl
  | append_singleton l e ih =>
    rw [List.foldl_append, List.foldl_cons, List.foldl_nil, h, List.filter_append]
    by_cases hp : p e
    · simp [hp]
    · simp [hp, ih]

/-- Where the landing buffer holds none due, all of the results landed stand as they were. -/
theorem landAll_eq (x : Ctx) : x.landAll.a.c = ((x.a.v.landing.filter (fun e => e.count == 0)).foldl Ctx.landEntry
    { x with a := { x.a with v := { x.a.v with landing := x.a.v.landing.filter (fun e => e.count != 0) } } }).a.c := by
  unfold Ctx.landAll
  dsimp only
  split
  · rename_i h
    rw [List.isEmpty_iff.mp h]
    rfl
  · rfl

theorem landAll_last {γ : Type} (get : CtlSt → γ) (p : Landing → Bool) (val : Landing → γ)
    (h : ∀ (x : Ctx) (e : Landing), get (x.landEntry e).a.c = if p e then val e else get x.a.c) (x : Ctx) :
    get x.landAll.a.c = (((x.a.v.landing.filter (fun e => e.count == 0 && p e)).getLast?).map val).getD (get x.a.c) := by
  rw [landAll_eq, foldl_last (get := fun x : Ctx => get x.a.c) h, List.filter_filter]
  simp only [Bool.and_comm]

theorem landing_landAll (x : Ctx) : x.landAll.a.v.landing = x.a.v.landing.filter (fun e => e.count != 0) := by
  have hfold : ∀ (es : List Landing) (y : Ctx), (es.foldl Ctx.landEntry y).a.v.landing = y.a.v.landing := by
    intro es
    induction es with
    | nil => exact fun _ => rfl
    | cons e es ih => exact fun y => (ih _).trans (landing_landEntry y e)
  unfold Ctx.landAll
  dsimp only
  split
  · rename_i h
    rw [List.isEmpty_iff, List.filter_eq_nil_iff] at h
    exact (List.filter_eq_self.mpr fun e he => by simpa using h e he).symm
  · exact hfold _ _

/-- Settles O19. -/
theorem resultsLand : Obligations.ResultsLand :=
  ⟨⟨fun x r hr => landAll_last (fun c => c.sr r) (fun e => e.dest == .scal r) (fun e => e.value.truncate 64) (sr_landEntry hr) x,
    fun x h => landAll_last (fun c => tget 0 c.hnd h) (fun e => e.dest == .hnd h) (fun e => e.value) (hnd_landEntry h) x,
    landing_landAll, fun _ => ⟨rfl, rfl⟩⟩,
    ⟨fun _ => rfl, landScal_63, sr_setSr_same, fun c _ _ v h => sr_setSr_other c v h⟩,
    fun v g r l act row h => by rw [row_landRow_same, lane_mergeRow _ _ _ h],
    fun v _ _ _ _ act row h => row_landRow_other v act row h,
    fun _ _ _ _ _ => tmem_tdel_same _ _,
    fun v g k _ act row h => msk_landMask v g k act row h⟩

/-! What the lanes compute (R152, R169). -/

/-- Without stochastic rounding no generator moves: the active lanes give their results. -/
theorem runLanes_zero (core g : Nat) (act : BitVec 16) (f : Nat → W32 → LaneRes) (ls : List Nat) (v : VecSt) :
    runLanes core g act 0 f ls v = (v, ls.map (fun l => if act.getLsbD l then f l 0 else ⟨0, 0, 0⟩)) := by
  induction ls with
  | nil => rfl
  | cons l ls ih =>
    simp only [runLanes, List.map_cons, VecSt.stepGens, ih, ↓reduceIte]
    split <;> rfl

theorem runGroups_zero (core : Nat) (acts : Nat → BitVec 16) (f : Nat → Nat → W32 → LaneRes) (gs : List Nat) (v : VecSt) :
    runGroups core acts 0 f gs v = (v, gs.map (fun g => groupLandOf g (acts g)
      ((List.range 16).map (fun l => if (acts g).getLsbD l then f g l 0 else ⟨0, 0, 0⟩)))) := by
  induction gs with
  | nil => rfl
  | cons g gs ih => simp only [runGroups, runLanes_zero, ih, List.map_cons]

/-- Nothing but the generators differs. -/
def OnlyGens (v u : VecSt) : Prop := { u with frazil := v.frazil } = v

theorem OnlyGens.refl (v : VecSt) : OnlyGens v v := rfl

theorem OnlyGens.trans {v u w : VecSt} (h : OnlyGens v u) (h' : OnlyGens u w) : OnlyGens v w := by
  unfold OnlyGens at *
  rw [← h, ← h']

theorem onlyGens_stepGens (core n k : Nat) (v : VecSt) : OnlyGens v (VecSt.stepGens core n k v) := by
  induction k generalizing v with
  | zero => exact .refl v
  | succ k ih => exact OnlyGens.trans (u := (v.stepGen core n).2) rfl (ih _)

theorem onlyGens_runLanes (core g : Nat) (act : BitVec 16) (n : Nat) (f : Nat → W32 → LaneRes) (ls : List Nat) (v : VecSt) :
    OnlyGens v (runLanes core g act n f ls v).1 := by
  induction ls generalizing v with
  | nil => exact .refl v
  | cons l ls ih =>
    simp only [runLanes]
    split
    · exact (onlyGens_stepGens core _ n v).trans (ih _)
    · exact ih v

theorem onlyGens_runGroups (core : Nat) (acts : Nat → BitVec 16) (n : Nat) (f : Nat → Nat → W32 → LaneRes) (gs : List Nat)
    (v : VecSt) : OnlyGens v (runGroups core acts n f gs v).1 := by
  induction gs generalizing v with
  | nil => exact .refl v
  | cons g gs ih =>
    rw [runGroups]
    exact (onlyGens_runLanes core g _ n (f g) _ v).trans (ih _)

theorem getLsbD_act (v : VecSt) (gm : BitVec 8) (k g l : Nat) :
    (v.act gm k g).getLsbD l = (gm.getLsbD g && (v.msk g k).getLsbD l) := by
  unfold VecSt.act
  cases gm.getLsbD g <;> simp

/-- Settles O20. -/
theorem lanesComputed : Obligations.LanesComputed := ⟨runGroups_zero, onlyGens_runGroups, getLsbD_act⟩

end Sys2Proof.Machine
end

section
/-! SUPPORT. The instructions whose only effect is results that land later (R114, R155, R204). -/

namespace Sys2Proof.Machine

open Sys2Proof

theorem OnlyLands.refl (s : State) : OnlyLands s s :=
  ⟨⟨rfl, fun _ _ => rfl, rfl, fun _ _ => rfl⟩,
    ⟨rfl, rfl, rfl, rfl, rfl, rfl, rfl, rfl, rfl, rfl, rfl, rfl, rfl, rfl, rfl, rfl, rfl, rfl⟩, fun _ => rfl, rfl, [], by simp⟩

/-- A result joins the landing buffer after the generators have moved. -/
theorem onlyLands_gens_land (s : State) {v : VecSt} (h : OnlyGens s.cx.a.v v) (e : Landing) :
    OnlyLands s ((s.modVec fun _ => v).land e) := by
  have hv : v = { s.cx.a.v with frazil := v.frazil } := by rw [← h]
  refine ⟨OnlyFocus_trans (onlyFocus_modVec s _) (onlyFocus_land _ e), ?_, fun _ => rfl, ?_, [e], ?_⟩
  · rw [cx_land, cx_modVec, hv]
    exact ⟨rfl, rfl, rfl, rfl, rfl, rfl, rfl, rfl, rfl, rfl, rfl, rfl, rfl, rfl, rfl, rfl, rfl, rfl⟩
  · rw [cx_land, cx_modVec]
  · rw [cx_land, cx_modVec, hv]

theorem onlyLands_landLanes (s : State) (dest : LandDest) (lat : Nat) (gm : BitVec 8) (k steps : Nat)
    (f : VecSt → Nat → Nat → W32 → LaneRes) : OnlyLands s (s.landLanes dest lat gm k steps f) :=
  onlyLands_gens_land s (onlyGens_runGroups ..) _

theorem onlyLands_landScal (s : State) (r : BitVec 6) (lat : Nat) (v : W64) : OnlyLands s (s.landScal r lat v) := by
  unfold State.landScal
  split
  · exact .refl s
  · exact onlyLands_land s _

theorem onlyLands_landHandle (s : State) (i : Instr) (h : BitVec 5) : OnlyLands s (s.landHandle i h) := by
  unfold State.landHandle
  split
  · exact onlyLands_land s _
  · exact .refl s

/-- The instruction is a slot's effect, and that only adds results. -/
def SlotLands (i : Instr) : Prop := ∃ f : State → State, (∀ s, exec i s = slot i s f) ∧ ∀ s, OnlyLands s (f s)

theorem slotLands_scalarArith {i : Instr} (h : isScalarArith i = true) : SlotLands i := by
  cases i with
  | add | sub | addi | and | or | xor | andi | ori | xori | shl | shr | sra | shli | shri | srai | mul | mulh | mulhu
  | divs | divu | min | max | minu | maxu | slt | sltu | seq | sne | selz | li | lui | clz | popc =>
    exact ⟨_, fun _ => rfl, fun _ => onlyLands_landScal ..⟩
  | _ => cases h

theorem slotLands_vector {i : Instr} (h : (vShape i).isSome = true) : SlotLands i := by
  cases i with
  | fadd | fsub | fmul | fma | fms | fnma | fmin | fmax | fabs | fneg | fcmp | fsel | fclass | rndi | ftoi | itof | getexp
  | getmant | expins | faddx | fsubx | fmulx | dwadd | dwsub | dwmul | dwadds | dwnorm | dwtof | rsum | rsumc | rmax | rmin
  | rsumi | fdot4 | idotb | idotn | cvtf | cvtn | cvtb | iadd | isub | imul | imulh | imin | imax | iand | ior | ixor
  | ishl | ishr | isra | icmp | iabs | laneid | bcast | perm =>
    exact ⟨_, fun _ => rfl, fun _ => onlyLands_landLanes ..⟩
  | _ => cases h

theorem slotLands_of_onlyResults {i : Instr} (h : onlyResults i = true) : SlotLands i := by
  by_cases hs : isScalarArith i = true
  · exact slotLands_scalarArith hs
  by_cases hv : (vShape i).isSome = true
  · exact slotLands_vector hv
  simp only [onlyResults, Bool.eq_false_iff.mpr hs, Bool.eq_false_iff.mpr hv, Bool.false_or] at h
  cases i with
  | hset | hadv | htile | hname => exact ⟨_, fun _ => rfl, fun _ => onlyLands_landHandle ..⟩
  | hget | movv => exact ⟨_, fun _ => rfl, fun _ => onlyLands_landScal ..⟩
  | movr | xgc | kand | kor | movs => exact ⟨_, fun _ => rfl, fun _ => onlyLands_land ..⟩
  | kmov o =>
    refine ⟨_, fun _ => rfl, fun s => ?_⟩
    dsimp only
    split <;> exact onlyLands_land ..
  | _ => cases h

/-- Settles O21. -/
theorem resultsOnlyFrame : Obligations.ResultsOnlyFrame := by
  intro i s t hi hr ht
  obtain ⟨f, hf, hl⟩ := slotLands_of_onlyResults hi
  rw [hf, slot_ready hr] at ht
  cases ht
  exact hl s.issued

end Sys2Proof.Machine
end

section
/-! SUPPORT. Transfers, loops, the other control instructions and semaphores (R122 to R140). -/

namespace Sys2Proof.Machine

open Sys2Proof

/-! Transfers (R122, R123, R125, R127). -/

/-- The conditions of BRC, on the signed value (R122). -/
theorem brcHolds_eq (cond : BitVec 3) (v : W64) : brcHolds cond v =
    match cond.toNat with
      | 0 => decide (v.toInt = 0)
      | 1 => decide (v.toInt ≠ 0)
      | 2 => decide (v.toInt < 0)
      | 3 => decide (0 ≤ v.toInt)
      | 4 => decide (0 < v.toInt)
      | _ => decide (v.toInt ≤ 0) := by
  have hz : (v == 0) = decide (v.toInt = 0) := by
    rw [Bool.eq_iff_iff, beq_iff_eq, decide_eq_true_iff, ← BitVec.toInt_inj]
    rfl
  have hneg : v.slt 0 = decide (v.toInt < 0) := by
    rw [BitVec.slt_eq_decide]
    rfl
  have hpos : (0 : W64).slt v = decide (0 < v.toInt) := by
    rw [BitVec.slt_eq_decide]
    rfl
  unfold brcHolds
  generalize cond.toNat = n
  rcases n with _ | _ | _ | _ | _ | n <;> simp only [bne, hz, hneg, hpos, ← decide_not, Int.not_lt] <;> rfl

theorem brc_completes (sc : BitVec 6) (cond : BitVec 3) (ofs : BitVec 17) : Completes (.brc sc cond ofs) (fun s =>
    if brcHolds cond (s.sr sc) then s.jump (s.cx.iss.addr + ofs.signExtend 64) true 2 else s) := fun _ h => slot_ready h

theorem onlyFocus_jump (s : State) (target : W64) (leaves : Bool) (n : Nat) : OnlyFocus s (s.jump target leaves n) :=
  OnlyFocus_trans (onlyFocus_modIss s _) (onlyFocus_modIss _ _)

theorem sameRegs_jump (s : State) (target : W64) (leaves : Bool) (n : Nat) : SameRegs s.cx (s.jump target leaves n).cx := by
  unfold State.jump State.spend
  rw [cx_modIss, cx_modIss]
  exact ⟨rfl, rfl, rfl, rfl, rfl, rfl, rfl, rfl, rfl, rfl, rfl, rfl, rfl, rfl, rfl, rfl, rfl, rfl⟩

theorem cx_goTo (s : State) (pc : W64) (l : LoopSt) :
    (s.goTo pc l).cx.a.c.pc = pc ∧ (s.goTo pc l).cx.a.c.loops = l := by
  unfold State.goTo
  rw [cx_modCtl]
  exact ⟨rfl, rfl⟩

theorem control_of_taken {s : State} (h : s.cx.iss.post.find? Post.isControl = none) (ht : s.cx.iss.taken = true) :
    s.control = s.goTo s.cx.iss.next (if s.cx.iss.leaves then s.leaveLoops s.cx.iss.next s.cx.a.c.loops else s.cx.a.c.loops) := by
  simp only [State.control, h, ht, ↓reduceIte]

theorem control_of_not_taken {s : State} (h : s.cx.iss.post.find? Post.isControl = none) (ht : s.cx.iss.taken = false) :
    s.control = s.goTested s.cx.iss.addr s.cx.iss.next s.cx.a.c.loops := by
  simp only [State.control, h, ht, Bool.false_eq_true, ↓reduceIte]

/-- At no level's LAST the test of the loops changes nothing. -/
theorem test_of_no_last {a : W64} {ks : List Nat} {l : LoopSt} (h : ∀ k ∈ ks, tget 0 l.last k ≠ a) : LoopSt.test a ks l = (none, l) := by
  induction ks with
  | nil => rfl
  | cons k ks ih =>
    rw [LoopSt.test, if_neg (h k (List.mem_cons_self ..)), ih fun j hj => h j (List.mem_cons_of_mem _ hj)]

/-- A target in every active body leaves none. -/
theorem leaveLoops_of_inside {s : State} {target : W64} {l : LoopSt}
    (h : ∀ k ∈ l.order, tget 0 l.start k ≤ target ∧ target < s.bundleEnd (tget 0 l.last k)) : s.leaveLoops target l = l := by
  have hnone : l.order.findIdx? (fun k =>
      !(decide (tget 0 l.start k ≤ target) && decide (target < s.bundleEnd (tget 0 l.last k)))) = none := by
    rw [List.findIdx?_eq_none_iff]
    intro k hk
    obtain ⟨h1, h2⟩ := h k hk
    rw [decide_eq_true h1, decide_eq_true h2]
    rfl
  simp only [State.leaveLoops, hnone]

/-- Settles O23. -/
theorem transfers : Obligations.Transfers := by
  refine ⟨⟨fun _ _ h => slot_ready h, fun sc cond ofs => ?_, fun _ _ h => slot_ready h, fun _ _ h => slot_ready h,
    fun _ h => slot_ready h⟩, ⟨fun s h ht => ?_, fun s h ht hl => ?_, fun s target l => leaveLoops_of_inside⟩,
    fun s target leaves n => ⟨onlyFocus_jump .., sameRegs_jump .., fun _ => rfl⟩,
    fun s p => ⟨onlyFocus_post s p, sameRegs_post s p, fun _ => rfl⟩⟩
  · have h := brc_completes sc cond ofs
    simp only [brcHolds_eq] at h
    exact h
  · rw [control_of_taken h ht]
    exact cx_goTo ..
  · rw [control_of_not_taken h ht, State.goTested, test_of_no_last fun k hk => hl k (List.mem_reverse.mp hk)]
    exact cx_goTo ..

/-! The passes of a loop level (R124, R125). -/

theorem lc_setLc_same (l : LoopSt) (k : Nat) (v : W64) : tget 0 (l.setLc k v).lc k = v := tget_tput_same ..

/-- The test at LAST of a level with passes left: one is taken, and issue goes back to START. -/
theorem test_pass {l : LoopSt} {k : Nat} {a : W64} (hl : tget 0 l.last k = a) (hc : 1 < (tget 0 l.lc k).toNat) :
    LoopSt.test a [k] l = (some (tget 0 l.start k), l.setLc k (tget 0 l.lc k - 1)) := by
  rw [LoopSt.test, if_pos hl, if_pos hc]

/-- The test at LAST of a level in its last pass: it ends. -/
theorem test_end {l : LoopSt} {k : Nat} {a : W64} (hl : tget 0 l.last k = a) (hc : ¬1 < (tget 0 l.lc k).toNat) :
    LoopSt.test a [k] l = (none, { l.setLc k 0 with order := l.order.filter (fun j => j != k) }) := by
  rw [LoopSt.test, if_pos hl, if_neg hc]
  rfl

/-- The level after so many passes, while more are left. -/
theorem loopTests_state {l : LoopSt} {k m : Nat} (ho : l.order = [k]) (h : m < (tget 0 l.lc k).toNat) :
    (loopTests (tget 0 l.last k) m l).order = [k] ∧ (tget 0 (loopTests (tget 0 l.last k) m l).lc k).toNat = (tget 0 l.lc k).toNat - m ∧
    (loopTests (tget 0 l.last k) m l).last = l.last ∧ (loopTests (tget 0 l.last k) m l).start = l.start := by
  induction m with
  | zero => exact ⟨ho, rfl, rfl, rfl⟩
  | succ m ih =>
    obtain ⟨hord, hlc, hlast, hstart⟩ := ih (by omega)
    have hlt := (tget 0 l.lc k).isLt
    have hstep := test_pass (l := loopTests (tget 0 l.last k) m l) (k := k) (a := tget 0 l.last k) (by rw [hlast]) (by omega)
    rw [loopTests, hord, List.reverse_singleton, hstep]
    refine ⟨hord, ?_, hlast, hstart⟩
    have hone : (1 : W64).toNat = 1 := rfl
    simp only [LoopSt.setLc, tget_tput_same]
    rw [BitVec.toNat_sub_of_le (by rw [BitVec.le_def, hone]; omega), hlc, hone]
    omega

/-- Settles O24, by induction on the passes made. -/
theorem loopsMakeTheirPasses : Obligations.LoopsMakeTheirPasses := by
  intro l k n m ho hn hm
  subst hn
  obtain ⟨hord, hlc, hlast, hstart⟩ := loopTests_state ho hm
  refine ⟨hord, hlc, ?_, ?_⟩
  · split
    · rw [test_pass (by rw [hlast]) (by omega), hstart]
    · rw [test_end (by rw [hlast]) (by omega)]
  · obtain ⟨p, hp⟩ : ∃ p, (tget 0 l.lc k).toNat = p + 1 := ⟨(tget 0 l.lc k).toNat - 1, by omega⟩
    obtain ⟨hord', hlc', hlast', -⟩ := loopTests_state (m := p) ho (by omega)
    rw [hp, loopTests, hord', List.reverse_singleton, test_end (by rw [hlast']) (by omega)]
    exact ⟨by simp only [hord', List.filter_cons, bne_self_eq_false, Bool.false_eq_true, ↓reduceIte, List.filter_nil],
      lc_setLc_same (loopTests (tget 0 l.last k) p l) k 0⟩

/-! The other control instructions (R124, R126, R132 to R140). -/

/-- A count, clamped: none where the scalar is not positive. -/
theorem loopCount_eq (v : W64) :
    min v.toInt.toNat (2 ^ 32 - 1) = if v.toInt ≤ 0 then 0 else min v.toNat (2 ^ 32 - 1) := by
  split
  · rename_i h
    rw [Int.toNat_of_nonpos h, Nat.zero_min]
  · rename_i h
    rw [BitVec.toInt_eq_toNat_cond] at h ⊢
    have := v.isLt
    split at h
    · rename_i hc
      rw [if_pos hc, Int.toNat_natCast]
    · omega

/-- An instruction that records nothing takes nothing of the journal. -/
theorem recordUse_eq {s : State} {i : Instr} (h : s.cx.launch.guard = false ∨ recordCost i = 0) : s.recordUse i = s := by
  unfold State.recordUse
  rw [if_neg]
  rcases h with h | h <;> simp [h]

theorem mfs_completes (rd : BitVec 6) {sys : BitVec 12} (h : ¬(sys = 0x021 ∨ sys = 0x022)) :
    Completes (.mfs rd sys) (fun s => s.landScal rd 1 (s.sysRead sys.toNat)) := by
  intro s hr
  have hc : recordCost (.mfs rd sys) = 0 := by
    simp only [recordCost, engArgs]
    rw [if_neg (by simpa using h)]
  have hs : (decide (sys = 0x021) || decide (sys = 0x022)) = false := by simpa using h
  refine (slot_ready hr).trans ?_
  simp only [State.mfsValue, hs, Bool.false_and, Bool.false_eq_true, ↓reduceIte, recordUse_eq (.inr hc)]

theorem mfs_unguarded (rd : BitVec 6) (sys : BitVec 12) {s : State} (hr : Ready (.mfs rd sys) s)
    (hg : s.issued.cx.launch.guard = false) : exec (.mfs rd sys) s = .next (s.issued.landScal rd 1 (s.issued.sysRead sys.toNat)) := by
  refine (slot_ready hr).trans ?_
  simp only [State.mfsValue, hg, Bool.and_false, Bool.false_eq_true, ↓reduceIte, recordUse_eq (.inl hg)]

theorem acq_completes (sa sb : BitVec 6) (scope : BitVec 3) {kind : BitVec 2} (h : kind ≠ 2) :
    Completes (.acq sa sb scope kind) (fun s =>
      s.dropAcq.acquire s.ctxAgent scope.toNat (fun x => s.acqObj (s.sr sa) kind == some x)) :=
  fun _ hr => (slot_ready hr).trans (by simp only [h, ↓reduceIte])

theorem loop_completes (lvl : BitVec 2) (eo : BitVec 14) (rs : BitVec 6) : Completes (.loop lvl eo rs) (fun s => s.startLoop lvl eo
    (if (s.sr rs).toInt ≤ 0 then 0 else min (s.sr rs).toNat (2 ^ 32 - 1))) :=
  fun _ hr => (slot_ready hr).trans (by simp only [loopCount_eq])

theorem startLoop_of_pos {s : State} {lvl : BitVec 2} {eo : BitVec 14} {n : Nat} (h : 0 < n) : s.startLoop lvl eo n =
    s.modCtl (fun c => { c with loops :=
      { lc := tput 0 c.loops.lc lvl.toNat (BitVec.ofNat 64 n), start := tput 0 c.loops.start lvl.toNat s.cx.iss.fall,
        last := tput 0 c.loops.last lvl.toNat (s.cx.iss.addr + eo.zeroExtend 64), order := c.loops.order ++ [lvl.toNat] } }) :=
  if_neg (Nat.ne_of_gt h)

/-- Settles O25. -/
theorem controlInstructions : Obligations.ControlInstructions := by
  refine ⟨⟨fun _ h => slot_ready h, fun _ h => slot_ready h, fun _ h => slot_ready h, fun _ h => slot_ready h,
    fun _ h => slot_ready h, fun _ _ h => slot_ready h, fun sa sb scope _ => acq_completes sa sb scope,
    fun _ _ _ _ h => slot_ready h, fun _ _ _ _ h => slot_ready h, fun rd _ => mfs_completes rd,
    fun rd _ => mfs_unguarded rd 0x021, fun rd _ => mfs_unguarded rd 0x022, fun _ _ _ h => slot_ready h⟩,
    loop_completes, fun _ _ _ _ h => slot_ready h, fun s lvl eo n h0 hn => ?_, fun _ _ _ => rfl⟩
  rw [startLoop_of_pos h0]
  simp only [cx_modCtl, tget_tput_same, BitVec.toNat_ofNat, Nat.mod_eq_of_lt hn]
  exact ⟨trivial, trivial, trivial, trivial, onlyFocus_modCtl s _, fun _ => rfl, trivial, trivial⟩

/-! Semaphores (R129). -/

theorem sem_semSub (s : State) (sem : BitVec 8) (v : BitVec 16) (n : Nat) : tget 0 (s.semSub sem v).cx.a.c.sem n =
    if n = sem.toNat then tget 0 s.cx.a.c.sem n - v else tget 0 s.cx.a.c.sem n := by
  unfold State.semSub
  rw [cx_modCtl]
  split
  · rename_i h
    rw [h, tget_tput_same]
  · rename_i h
    exact tget_tput_other _ _ _ h

theorem heldBy_of_need {s : State} {l : List (Slot × Instr)} {sem n : Nat} (h : (sem, n) ∈ semNeeds l)
    (hlt : (tget 0 s.cx.a.c.sem sem).toNat < needOf (semNeeds l) sem) : s.heldBy l = true := by
  have hany : (semNeeds l).any (fun p => (tget 0 s.cx.a.c.sem p.1).toNat < needOf (semNeeds l) p.1) = true :=
    List.any_eq_true.mpr ⟨_, h, decide_eq_true hlt⟩
  simp only [State.heldBy, hany, Bool.true_or]

theorem semovfOf_post {s : State} {sem val : BitVec 8} (h : 0xFFFF < (tget 0 s.cx.a.c.sem sem.toNat).toNat + val.toNat) :
    s.semovfOf [(.ctl, .post sem val)] = some sem.toNat := by
  have hn : needOf (semNeeds [(.ctl, .post sem val)]) sem.toNat = 0 := rfl
  simp only [State.semovfOf, List.findSome?_cons, hn, Nat.sub_zero, h, ↓reduceIte]

/-- Settles O26. -/
theorem semaphores : Obligations.Semaphores :=
  ⟨fun _ _ _ h => slot_ready h, fun _ _ _ h => slot_ready h, fun _ _ _ _ h => slot_ready h, sem_semSub,
    fun _ _ _ _ h hlt => heldBy_of_need h hlt, fun _ _ _ => semovfOf_post⟩

end Sys2Proof.Machine
end

section
/-! SUPPORT. Traps in their order, entry and return, and system registers (R118, R138, R140, R391, R392). -/

namespace Sys2Proof.Machine

open Sys2Proof

/-! Trap entry and return (R138). -/

/-- The control state of a handler at its start. -/
def CtlSt.handler (c : CtlSt) (cause : Cause) (info pc vec : W64) (landing : List Landing) : CtlSt :=
  { c with trapPc := pc, trapCause := BitVec.ofNat 64 cause.code, trapInfo := info,
           held := some { landing := landing, loops := c.loops, runLeft := c.runLeft, pc := pc },
           loops := .none, runLeft := 0, active := true, pc := vec }

/-- The vector of a cause (R138, R218). -/
def CtlSt.vector (c : CtlSt) (cause : Cause) : W64 := if cause = .replay then c.replayVec else c.trapVec

theorem enterTrap_handler {s : State} {cause : Cause} (info pc : W64) (hv : s.cx.a.c.vector cause ≠ 0) (ha : s.cx.a.c.active = false) :
    (s.enterTrap cause info pc).cx = { s.cx with
      iss := .idle, walked := [],
      a := { s.cx.a with c := s.cx.a.c.handler cause info pc (s.cx.a.c.vector cause) s.cx.a.v.landing
                         v := { s.cx.a.v with landing := [] } } } := by
  unfold State.enterTrap
  extract_lets c0 vec s1 k s2 s3 lid s4
  have hs3 : s3.cx = s1.cx := by
    unfold s3
    split
    · exact (cx_log ..).trans (cx_setFcore_acycle s1 _)
    · exact cx_setFcore_acycle s1 _
  have hvec : (vec = 0 || c0.active) = false := by
    simp only [c0, ha, Bool.or_false, decide_eq_false_iff_not]
    exact hv
  simp only [hvec, Bool.false_eq_true, ↓reduceIte, cx_modCx, hs3, s1, cx_modCtl]
  rfl

theorem leaveTrap_handler {s : State} {h : Held} (hh : s.cx.a.c.held = some h) :
    s.leaveTrap.cx.a.v.landing = h.landing ++ s.cx.a.v.landing ∧ s.leaveTrap.cx.a.c.loops = h.loops ∧
    s.leaveTrap.cx.a.c.runLeft = (if s.cx.a.c.trapPc = h.pc then h.runLeft else 0) ∧ s.leaveTrap.cx.a.c.active = false ∧
    s.leaveTrap.cx.a.c.pc = s.cx.a.c.trapPc := by
  unfold State.leaveTrap
  rw [cx_modCx]
  dsimp only
  rw [hh]
  exact ⟨rfl, rfl, rfl, rfl, rfl⟩

/-- Where no handler can be entered, the task ends. -/
theorem enterTrap_ends {s : State} {cause : Cause} (info pc : W64) (h : s.cx.a.c.vector cause = 0 ∨ s.cx.a.c.active = true) :
    (s.enterTrap cause info pc).cx.tile = none ∧ (s.enterTrap cause info pc).cx.a.v.landing = [] ∧
    (∀ r l, s.launchRef s.cx.launch.lid = some r → tfind s.launches r = some l → l.phase = .running →
      tfind (s.enterTrap cause info pc).launches r = some { l with phase := .stopping 7 }) := by
  unfold State.enterTrap
  extract_lets c0 vec s1 k s2 s3 lid s4
  have hl3 : s3.launches = s.launches := by
    unfold s3
    split <;> rfl
  have hvec : (vec = 0 || c0.active) = true := by
    rcases h with h | h
    · have hz : vec = 0 := h
      simp [hz]
    · simp [c0, h]
  simp only [hvec, ↓reduceIte, cx_stopLaunch, cx_modCx]
  refine ⟨rfl, rfl, fun r l hr hl hp => ?_⟩
  have hl4 : (s4.modCx Ctx.endTask).launches = s.launches := hl3
  have hr4 : (s4.modCx Ctx.endTask).launchRef lid = some r := by
    unfold State.launchRef
    rw [hl4]
    exact hr
  unfold State.stopLaunch
  rw [hr4]
  dsimp only
  rw [hl4, hl]
  dsimp only
  rw [hp]
  exact tfind_tset_same ..

theorem code_lt (cause : Cause) : cause.code < 2 ^ 64 := by
  cases cause <;> decide

/-- Settles O29. -/
theorem trapEntryAndReturn : Obligations.TrapEntryAndReturn := by
  refine ⟨fun s cause info pc hv ha => ?_, fun s cause info pc h => ?_⟩
  · have hcx := enterTrap_handler info pc hv ha
    have hheld : (s.enterTrap cause info pc).cx.a.c.held =
        some { landing := s.cx.a.v.landing, loops := s.cx.a.c.loops, runLeft := s.cx.a.c.runLeft, pc := pc } := by rw [hcx]; rfl
    have hpc : (s.enterTrap cause info pc).cx.a.c.trapPc = pc := by rw [hcx]; rfl
    have hland : (s.enterTrap cause info pc).cx.a.v.landing = [] := by rw [hcx]
    obtain ⟨r1, r2, r3, r4, r5⟩ := leaveTrap_handler hheld
    rw [hland, List.append_nil] at r1
    rw [hpc] at r3 r5
    rw [if_pos rfl] at r3
    refine ⟨hpc, ?_, ?_, ?_, ?_, hheld, ?_, ?_, hland, ?_, ?_, ?_, ?_, ?_, ?_, ?_, enterTrap_mem .., r1, r2, r3, r4, r5⟩ <;> rw [hcx]
    case refine_1 => exact (BitVec.toNat_ofNat ..).trans (Nat.mod_eq_of_lt (code_lt cause))
    all_goals rfl
  · obtain ⟨htile, hland, hstop⟩ := enterTrap_ends info pc h
    obtain ⟨hpc, hinfo, hcause⟩ := enterTrap_saves s cause info pc
    exact ⟨htile, hland, hpc, by rw [hcause, BitVec.toNat_ofNat, Nat.mod_eq_of_lt (code_lt cause)], hinfo, enterTrap_mem .., hstop⟩

/-! The order of causes (R391, R392). -/

theorem trapOf_of_early {s : State} {l : List (Slot × Instr)} {t : TrapAt} (h : s.earlyTrap l = some t) : s.trapOf l = some t := by
  simp only [State.trapOf, h]

/-- An illegal slot is named by its bit, or the bundle by 8 (R391). -/
theorem illOf_names {s : State} {l : List (Slot × Instr)} {n : Nat} (h : s.illOf l = some n) :
    n ≤ 8 ∧ (n < 8 → ∃ p ∈ l, p.1.bit = n ∧ s.illSlot l.length p.2 = true) := by
  unfold State.illOf at h
  split at h
  · rename_i p hp
    cases h
    have hbit : p.1.bit < 8 := by cases p.1 <;> decide
    exact ⟨Nat.le_of_lt hbit, fun _ => ⟨p, List.mem_of_find?_eq_some hp, rfl, by simpa using List.find?_some hp⟩⟩
  · split at h
    · cases h
      exact ⟨Nat.le_refl 8, fun h => absurd h (Nat.lt_irrefl 8)⟩
    · cases h

theorem illOf_of_not_legal {s : State} {sl : Slot} {i : Instr} (h : legal i = false) : s.illOf [(sl, i)] = some sl.bit := by
  have hill : s.illSlot 1 i = true := by
    unfold State.illSlot
    rw [h]
    rfl
  simp only [State.illOf, List.length_singleton, List.find?_cons, hill]

/-- Settles O30: the causes are tested in their order. -/
theorem trapOrder : Obligations.TrapOrder := by
  refine ⟨fun s l n h1 => ?_, fun s l v h1 h2 => ?_, fun s l n h1 h2 h3 => ?_, fun s l v h1 h2 h3 h4 => ?_,
    fun s l n h1 h2 h3 h4 h5 => ?_, fun s sl i => illOf_of_not_legal, fun s l n => illOf_names⟩ <;> apply trapOf_of_early
  · simp only [State.earlyTrap, h1]
  · simp only [State.earlyTrap, h1, h2]
  · simp only [State.earlyTrap, h1, h2, h3]
  · simp only [State.earlyTrap, h1, h2, h3, h4]
  · simp only [State.earlyTrap, h1, h2, h3, h4, h5, Option.map_some]

/-! System registers (R8, R118, R140). -/

theorem cx_applyPost_sysWrite (s : State) (n : Nat) (w : W64) :
    (s.applyPost (.sysWrite n w)).cx = { s.cx with a := s.cx.a.sysWrite s.cx.iss.raised n w } := cx_modCx ..

theorem lcClamp_toNat (w : W64) : (lcClamp w).toNat = min w.toNat (2 ^ 32 - 1) := by
  unfold lcClamp
  split
  · omega
  · have hmax : (0xFFFFFFFF : W64).toNat = 2 ^ 32 - 1 := rfl
    omega

/-- Only the top bit can be cleared. -/
theorem getLsbD_clear_top (v w : W64) {k : Nat} (hk : k < 64) :
    (v &&& ~~~ (w &&& 0x8000000000000000)).getLsbD k = if k = 63 then (v.getLsbD 63 && !w.getLsbD 63) else v.getLsbD k := by
  have htop : (0x8000000000000000 : W64) = BitVec.twoPow 64 63 := rfl
  rw [htop, BitVec.getLsbD_and, BitVec.getLsbD_not, BitVec.getLsbD_and, BitVec.getLsbD_twoPow]
  split
  · rename_i h
    simp [h]
  · rename_i h
    simp [hk, Ne.symm h]

/-- Settles O31: each register by its arm of sysWrite and of sysRead. -/
theorem systemRegisters : Obligations.SystemRegisters := by
  refine ⟨fun s w n hn => ?_, fun s w n h h' => ?_, fun s w n hn => ?_, fun s w => ?_, fun s w => ?_, fun s w => ?_,
    fun s w k hk => ?_, fun s w => ?_, fun a raised w n hn => ?_⟩
  · simp only [List.mem_cons, List.not_mem_nil, or_false] at hn
    rcases hn with rfl | rfl | rfl | rfl | rfl <;> (unfold State.sysRead; rw [cx_applyPost_sysWrite]; rfl)
  · obtain rfl | rfl | rfl | rfl | rfl | rfl | rfl | rfl : n = 0x110 ∨ n = 0x111 ∨ n = 0x112 ∨ n = 0x113 ∨ n = 0x114 ∨
      n = 0x115 ∨ n = 0x116 ∨ n = 0x117 := by omega
    all_goals
      unfold State.sysRead
      rw [cx_applyPost_sysWrite]
      exact tget_tput_same ..
  · simp only [List.mem_cons, List.not_mem_nil, or_false] at hn
    rw [← lcClamp_toNat]
    rcases hn with rfl | rfl | rfl <;> (unfold State.sysRead; rw [cx_applyPost_sysWrite]; exact congrArg BitVec.toNat (lc_setLc_same ..))
  · unfold State.sysRead
    rw [cx_applyPost_sysWrite]
    rfl
  · unfold State.sysRead
    rw [cx_applyPost_sysWrite]
    rfl
  · unfold State.sysRead
    rw [cx_applyPost_sysWrite]
    rfl
  · unfold State.sysRead
    rw [cx_applyPost_sysWrite]
    exact (getLsbD_clear_top _ _ (Nat.lt_succ_of_lt hk)).trans (if_neg (Nat.ne_of_lt hk))
  · unfold State.sysRead
    rw [cx_applyPost_sysWrite]
    exact getLsbD_clear_top _ _ (by decide)
  · simp only [List.mem_cons, List.not_mem_nil, or_false] at hn
    rcases hn with rfl | rfl | rfl | rfl | rfl | rfl | rfl | rfl | rfl | rfl | rfl | rfl | rfl | rfl | rfl | rfl | rfl | rfl |
      rfl | rfl | rfl | rfl <;> rfl

end Sys2Proof.Machine
end

section
/-! SUPPORT. The fields of a handle (R115, R145 to R148). -/

namespace Sys2Proof.Machine

open Sys2Proof

/-! Bits of a handle that are replaced. -/

theorem getLsbD_putBits (h : W256) {lo n : Nat} (v : Nat) {i : Nat} (hi : i < 256) :
    (putBits h lo n v).getLsbD i = if lo ≤ i ∧ i < lo + n then v.testBit (i - lo) else h.getLsbD i := by
  have hlow : h.toNat % 2 ^ lo < 2 ^ lo := Nat.mod_lt _ (Nat.two_pow_pos _)
  have hmid : v % 2 ^ n < 2 ^ n := Nat.mod_lt _ (Nat.two_pow_pos _)
  have hsum : h.toNat % 2 ^ lo + v % 2 ^ n * 2 ^ lo + h.toNat / 2 ^ (lo + n) * 2 ^ (lo + n) =
      2 ^ lo * (2 ^ n * (h.toNat / 2 ^ (lo + n)) + v % 2 ^ n) + h.toNat % 2 ^ lo := by
    rw [Nat.pow_add]
    ring
  rw [putBits, hsum, BitVec.getLsbD_ofNat, decide_eq_true hi, Bool.true_and, Nat.testBit_two_pow_mul_add _ hlow,
    Nat.testBit_two_pow_mul_add _ hmid]
  split
  · rename_i h1
    rw [if_neg (by omega), Nat.testBit_mod_two_pow, decide_eq_true h1, Bool.true_and]
    rfl
  · rename_i h1
    split
    · rename_i h2
      rw [if_pos (by omega), Nat.testBit_mod_two_pow, decide_eq_true h2, Bool.true_and]
    · rename_i h2
      have hi' : i - lo - n + (lo + n) = i := by omega
      rw [if_neg (by omega), Nat.testBit_div_two_pow, hi']
      rfl

theorem extract_putBits_same (h : W256) {lo n : Nat} (v : Nat) (hn : lo + n ≤ 256) :
    (putBits h lo n v).extractLsb' lo n = BitVec.ofNat n v := by
  apply BitVec.eq_of_getLsbD_eq
  intro i hi
  rw [BitVec.getLsbD_extractLsb', decide_eq_true hi, Bool.true_and, getLsbD_putBits _ _ (by omega), if_pos (by omega),
    BitVec.getLsbD_ofNat, decide_eq_true hi, Bool.true_and, Nat.add_sub_cancel_left]

theorem extract_putBits_other (h : W256) {lo n a m : Nat} (v : Nat) (hd : a + m ≤ lo ∨ lo + n ≤ a) :
    (putBits h lo n v).extractLsb' a m = h.extractLsb' a m := by
  apply BitVec.eq_of_getLsbD_eq
  intro i hi
  rw [BitVec.getLsbD_extractLsb', BitVec.getLsbD_extractLsb']
  by_cases h256 : a + i < 256
  · rw [getLsbD_putBits _ _ h256, if_neg (by omega)]
  · rw [BitVec.getLsbD_of_ge _ _ (by omega), BitVec.getLsbD_of_ge _ _ (by omega)]

/-! The bits that each field is read from (R115). -/

/-- The places and widths of a field. -/
def fieldBits (g : Nat) : List (Nat × Nat) :=
  match g with
  | 0 => [(0, 57)]
  | 1 => [(57, 2)]
  | 2 => [(59, 4)]
  | 3 => [(63, 1), (192, 12)]
  | 4 => [(64, 64)]
  | 5 => [(104, 24)]
  | 6 => [(80, 24)]
  | 7 => [(64, 16)]
  | 8 | 9 | 10 | 11 => [(128 + 16 * (g - 8), 16)]
  | 12 | 13 | 14 | 15 => [(208 + 12 * (g - 12), 12)]
  | 16 => [(204, 4)]
  | _ => [(64 * (g - 17), 64)]

theorem extract_extract_name (h : W256) {a n : Nat} (hn : a + n ≤ 64) :
    (h.extractLsb' 64 64).extractLsb' a n = h.extractLsb' (64 + a) n := by
  apply BitVec.eq_of_getLsbD_eq
  intro i hi
  simp only [BitVec.getLsbD_extractLsb', decide_eq_true hi, decide_eq_true (show a + i < 64 by omega), Bool.true_and, Nat.add_assoc]

theorem hSv_eq (h : W256) : hSv h = (h.extractLsb' 63 1).getLsbD 0 := by
  rw [BitVec.getLsbD_extractLsb', hSv]
  rfl

/-- HGET of a field reads its bits and no others. -/
theorem hgetValue_congr {h h' : W256} {g : BitVec 5}
    (heq : ∀ p ∈ fieldBits g.toNat, h'.extractLsb' p.1 p.2 = h.extractLsb' p.1 p.2) : hgetValue h' g = hgetValue h g := by
  unfold hgetValue
  generalize g.toNat = n at heq
  dsimp only
  by_cases h0 : n = 0
  · subst h0
    rw [if_pos rfl, if_pos rfl, hBase, hBase, heq (0, 57) (List.mem_singleton_self _)]
  rw [if_neg h0, if_neg h0]
  congr 1
  rcases Nat.lt_or_ge n 17 with hn | hn
  · interval_cases n <;>
      simp only [fieldBits, List.forall_mem_cons, List.not_mem_nil, false_implies, implies_true, and_true, Nat.reduceAdd,
        Nat.reduceSub, Nat.reduceMul] at heq <;>
      simp (disch := decide) only [hRes, hFmt, hSv_eq, hSync, hName, extract_extract_name, hDim, hStr, hSsh, Nat.reduceAdd,
        Nat.reduceSub, Nat.reduceMul, heq]
    exact absurd rfl h0
  · obtain ⟨k, rfl⟩ : ∃ k, n = k + 17 := ⟨n - 17, by omega⟩
    exact congrArg BitVec.toNat (heq (64 * k, 64) (List.mem_singleton_self _))

/-- HGET of a field of one place. -/
theorem hgetValue_of_single {g : BitVec 5} {lo n : Nat} (h0 : g.toNat ≠ 0) (hb : fieldBits g.toNat = [(lo, n)]) (h : W256) :
    hgetValue h g = BitVec.ofNat 64 (h.extractLsb' lo n).toNat := by
  unfold hgetValue
  generalize g.toNat = k at h0 hb
  dsimp only
  rw [if_neg h0]
  congr 1
  rcases Nat.lt_or_ge k 17 with hn | hn
  · interval_cases k <;> cases hb <;>
      simp (disch := decide) only [hRes, hFmt, hName, extract_extract_name, hDim, hStr, hSsh, Nat.reduceAdd, Nat.reduceSub,
        Nat.reduceMul]
    exact absurd rfl h0
  · obtain ⟨j, rfl⟩ : ∃ j, k = j + 17 := ⟨k - 17, by omega⟩
    cases hb
    rfl

/-! HSET (R145). -/

/-- The largest value of a field of one place. -/
def fieldMax (n : Nat) : Nat :=
  match n with
  | 1 => 3
  | 2 => 9
  | 5 | 6 => 0xFFFFFF
  | 7 | 8 | 9 | 10 | 11 => 0xFFFF
  | 12 | 13 | 14 | 15 => 0xFFF
  | 16 => 15
  | _ => 2 ^ 64 - 1

theorem fieldMax_lt {k lo n : Nat} (h0 : k ≠ 0) (hb : fieldBits k = [(lo, n)]) : fieldMax k < 2 ^ n := by
  rcases Nat.lt_or_ge k 17 with hk | hk
  · interval_cases k <;> cases hb <;> first | decide | exact absurd rfl h0
  · obtain ⟨j, rfl⟩ : ∃ j, k = j + 17 := ⟨k - 17, by omega⟩
    cases hb
    exact Nat.sub_lt (Nat.two_pow_pos 64) Nat.one_pos

/-- HSET of a field of one place: the values up to the largest are accepted. -/
theorem hsetRes_of_single {f : BitVec 5} {lo n : Nat} (h0 : f.toNat ≠ 0) (hb : fieldBits f.toNat = [(lo, n)]) (h20 : f.toNat ≤ 20)
    (h : W256) (v : W64) : hsetRes h f v = if v.toNat ≤ fieldMax f.toNat then .ok (putBits h lo n v.toNat) else .ill := by
  have hv : v.toNat ≤ 2 ^ 64 - 1 := Nat.le_sub_one_of_lt v.isLt
  unfold hsetRes
  generalize f.toNat = k at h0 hb h20
  interval_cases k <;> cases hb <;> first | rfl | exact (if_pos hv).symm | exact absurd rfl h0

theorem hsetRes_base (h : W256) (v : W64) : hsetRes h 0 v = if canonical v = true then .ok (putBits h 0 57 v.toNat) else .xlate v := rfl

theorem hsetRes_sync (h : W256) (v : W64) : hsetRes h 3 v =
    if v.toNat ≤ 0x1FFF then .ok (putBits (putBits h 63 1 (v.toNat / 4096)) 192 12 v.toNat) else .ill := rfl

/-- A field number is that of BASE, of SYNC, of a field of one place, or reserved. -/
theorem field_cases (f : BitVec 5) : f = 0 ∨ f = 3 ∨ (f.toNat ≠ 0 ∧ f.toNat ≤ 20 ∧ ∃ p, fieldBits f.toNat = [p]) ∨ 20 < f.toNat := by
  have h : f = 0 ∨ f = 3 ∨ (f.toNat ≠ 0 ∧ f.toNat ≤ 20 ∧ (fieldBits f.toNat).length = 1) ∨ 20 < f.toNat := by
    revert f
    decide
  simpa only [List.length_eq_one_iff] using h

/-- A canonical address is the sign extension of its low 57 bits. -/
theorem canonical_iff (v : W64) : canonical v = true ↔ (v.extractLsb' 0 57).signExtend 64 = v := by
  have hv := v.isLt
  have h0 : (v.extractLsb' 56 8 = 0) ↔ v.toNat / 2 ^ 56 % 2 ^ 8 = 0 := by
    rw [← BitVec.toNat_inj, BitVec.extractLsb'_toNat, Nat.shiftRight_eq_div_pow]
    rfl
  have h1 : (v.extractLsb' 56 8 = 0xFF) ↔ v.toNat / 2 ^ 56 % 2 ^ 8 = 255 := by
    rw [← BitVec.toNat_inj, BitVec.extractLsb'_toNat, Nat.shiftRight_eq_div_pow]
    rfl
  rw [canonical, Bool.or_eq_true, beq_iff_eq, beq_iff_eq, h0, h1, ← BitVec.toNat_inj, BitVec.toNat_signExtend, BitVec.toNat_setWidth,
    BitVec.msb_eq_decide, BitVec.extractLsb'_toNat, Nat.shiftRight_zero]
  simp only [decide_eq_true_eq]
  split <;> omega

theorem canonical_iff_range (v : W64) : canonical v = true ↔ (v.extractLsb' 56 8 = 0 ∨ v.extractLsb' 56 8 = 0xFF) := by
  rw [canonical, Bool.or_eq_true, beq_iff_eq, beq_iff_eq]

theorem fieldBits_bound (f : BitVec 5) : f.toNat ≤ 20 → ∀ p ∈ fieldBits f.toNat, p.1 + p.2 ≤ 256 ∧ p.2 ≤ 64 := by
  revert f
  decide

/-- No bit is in a place of both. -/
def bitsApart (a b : List (Nat × Nat)) : Bool := a.all (fun p => b.all (fun q => p.1 + p.2 ≤ q.1 || q.1 + q.2 ≤ p.1))

theorem apart_of_bitsApart {a b : List (Nat × Nat)} (h : bitsApart a b = true) {p q : Nat × Nat} (hp : p ∈ a) (hq : q ∈ b) :
    p.1 + p.2 ≤ q.1 ∨ q.1 + q.2 ≤ p.1 := by
  have hpq := List.all_eq_true.mp (List.all_eq_true.mp h p hp) q hq
  simpa using hpq

/-- The fields 0 to 16 share no bit, but for the name and its parts. -/
theorem fieldBits_apart (f g : BitVec 5) : f.toNat ≤ 16 → g.toNat ≤ 16 → g ≠ f → ¬(f = 4 ∧ 5 ≤ g.toNat ∧ g.toNat ≤ 7) →
    ¬(g = 4 ∧ 5 ≤ f.toNat ∧ f.toNat ≤ 7) → bitsApart (fieldBits g.toNat) (fieldBits f.toNat) = true := by
  revert f g
  decide

theorem hsetRes_reserved {f : BitVec 5} (h20 : 20 < f.toNat) (h : W256) (v : W64) : hsetRes h f v = .ill := by
  have := f.isLt
  unfold hsetRes
  generalize f.toNat = k at *
  interval_cases k <;> rfl

/-- What HSET accepts changes the bits of its field alone. -/
theorem hsetRes_frame {h h' : W256} {f : BitVec 5} {v : W64} (hs : hsetRes h f v = .ok h') {a m : Nat}
    (hd : ∀ q ∈ fieldBits f.toNat, a + m ≤ q.1 ∨ q.1 + q.2 ≤ a) : h'.extractLsb' a m = h.extractLsb' a m := by
  rcases field_cases f with rfl | rfl | ⟨h0, h20, p, hb⟩ | h20
  · rw [hsetRes_base] at hs
    split at hs <;> cases hs
    exact extract_putBits_other _ _ (hd (0, 57) (by decide))
  · rw [hsetRes_sync] at hs
    split at hs <;> cases hs
    rw [extract_putBits_other _ _ (hd (192, 12) (by decide)), extract_putBits_other _ _ (hd (63, 1) (by decide))]
  · rw [hsetRes_of_single h0 hb h20] at hs
    split at hs <;> cases hs
    exact extract_putBits_other _ _ (hd _ (by rw [hb]; exact List.mem_singleton_self _))
  · rw [hsetRes_reserved h20] at hs
    cases hs

/-- HGET reads back what HSET accepts. -/
theorem hsetRes_readBack {h h' : W256} {f : BitVec 5} {v : W64} (hs : hsetRes h f v = .ok h') : hgetValue h' f = v := by
  rcases field_cases f with rfl | rfl | ⟨h0, h20, p, hb⟩ | h20
  · rw [hsetRes_base] at hs
    split at hs <;> cases hs
    rename_i hc
    have hx : BitVec.ofNat 57 v.toNat = v.extractLsb' 0 57 := by
      apply BitVec.eq_of_toNat_eq
      rw [BitVec.toNat_ofNat, BitVec.extractLsb'_toNat, Nat.shiftRight_zero]
    show ((putBits h 0 57 v.toNat).extractLsb' 0 57).signExtend 64 = v
    rw [extract_putBits_same _ _ (by decide), hx, (canonical_iff v).mp hc]
  · rw [hsetRes_sync] at hs
    split at hs <;> cases hs
    rename_i hv
    show BitVec.ofNat 64 ((if hSv _ then 4096 else 0) + hSync _) = v
    rw [hSv_eq, hSync, extract_putBits_other _ _ (by decide), extract_putBits_same _ _ (by decide),
      extract_putBits_same _ _ (by decide)]
    apply BitVec.eq_of_toNat_eq
    simp only [BitVec.toNat_ofNat, BitVec.getLsbD_ofNat, Nat.testBit_zero, Nat.lt_add_one, decide_true, Bool.true_and, decide_eq_true_eq]
    split <;> omega
  · rw [hsetRes_of_single h0 hb h20] at hs
    split at hs <;> cases hs
    rename_i hv
    obtain ⟨h256, -⟩ := fieldBits_bound f h20 p (by rw [hb]; exact List.mem_singleton_self _)
    have hlt : v.toNat < 2 ^ p.2 := Nat.lt_of_le_of_lt hv (fieldMax_lt h0 hb)
    rw [hgetValue_of_single h0 hb, extract_putBits_same _ _ h256, BitVec.toNat_ofNat, Nat.mod_eq_of_lt hlt, BitVec.ofNat_toNat,
      BitVec.setWidth_eq]
  · rw [hsetRes_reserved h20] at hs
    cases hs

/-- Every refusal but that of a BASE is ILL. -/
theorem hsetRes_ill {h : W256} {f : BitVec 5} {v : W64} (hf : f ≠ 0) (hn : ∀ h', hsetRes h f v ≠ .ok h') : hsetRes h f v = .ill := by
  rcases field_cases f with rfl | rfl | ⟨h0, h20, p, hb⟩ | h20
  · exact absurd rfl hf
  · rw [hsetRes_sync] at hn ⊢
    split at hn
    · exact absurd rfl (hn _)
    · rename_i hv
      exact if_neg hv
  · rw [hsetRes_of_single h0 hb h20] at hn ⊢
    split at hn
    · exact absurd rfl (hn _)
    · rename_i hv
      exact if_neg hv
  · exact hsetRes_reserved h20 h v

/-- The values that HSET accepts. -/
theorem hsetRes_accepts (h : W256) (f : BitVec 5) (v : W64) : (∃ h', hsetRes h f v = .ok h') ↔
    (match f.toNat with
      | 0 => v.extractLsb' 56 8 = 0 ∨ v.extractLsb' 56 8 = 0xFF
      | 1 => v.toNat ≤ 3
      | 2 => v.toNat ≤ 9
      | 3 => v.toNat ≤ 0x1FFF
      | 5 | 6 => v.toNat ≤ 0xFFFFFF
      | 7 | 8 | 9 | 10 | 11 => v.toNat ≤ 0xFFFF
      | 12 | 13 | 14 | 15 => v.toNat ≤ 0xFFF
      | 16 => v.toNat ≤ 15
      | 4 | 17 | 18 | 19 | 20 => True
      | _ => False) := by
  have hif : ∀ (c : Prop) [Decidable c] (x : W256) (r : HandleRes), (∀ y, r ≠ .ok y) →
      ((∃ h', (if c then HandleRes.ok x else r) = .ok h') ↔ c) := by
    intro c _ x r hr
    split
    · rename_i hc
      exact ⟨fun _ => hc, fun _ => ⟨x, rfl⟩⟩
    · rename_i hc
      exact ⟨fun ⟨y, hy⟩ => absurd hy (hr y), fun hc' => absurd hc' hc⟩
  have hlt := f.isLt
  unfold hsetRes
  generalize f.toNat = k at *
  have hill : ∀ y, HandleRes.ill ≠ .ok y := fun _ h => by cases h
  have hxlate : ∀ y, HandleRes.xlate v ≠ .ok y := fun _ h => by cases h
  have hbase : (∃ h', (if canonical v = true then HandleRes.ok (putBits h 0 57 v.toNat) else .xlate v) = .ok h') ↔
      (v.extractLsb' 56 8 = 0 ∨ v.extractLsb' 56 8 = 0xFF) := (hif _ _ _ hxlate).trans (canonical_iff_range v)
  interval_cases k <;> first
    | exact hbase
    | exact hif _ _ _ hill
    | exact ⟨fun _ => trivial, fun _ => ⟨_, rfl⟩⟩
    | exact ⟨fun ⟨y, hy⟩ => hill y hy, False.elim⟩

/-- Settles O32. -/
theorem handleFieldsReadBack : Obligations.HandleFieldsReadBack := by
  refine ⟨fun h v => ?_, hsetRes_accepts, fun h f v => hsetRes_ill, fun h h' f v => hsetRes_readBack, fun h h' f g v hs hf hg hne hn hn' => ?_⟩
  · rw [hsetRes_base]
    simp only [canonical_iff_range]
  · exact hgetValue_congr fun p hp => hsetRes_frame hs fun q hq =>
      apart_of_bitsApart (fieldBits_apart f g hf hg hne hn hn') hp hq

end Sys2Proof.Machine
end

section
/-! SUPPORT. HADV, HTILE and HNAME (R146 to R148). -/

namespace Sys2Proof.Machine

open Sys2Proof

/-- The canonical range of an address, as a signed number (R22). -/
def InRange (a : Int) : Prop := -(2 ^ 56) ≤ a ∧ a < 2 ^ 56

/-! BASE moved (R146). -/

theorem moveBase_odd {h : W256} {n : Int} (hn : n % 2 ≠ 0) : moveBase h n = .ill := if_pos (bne_iff_ne.mpr hn)

/-- Where the count of half bytes is even and BASE stays in the canonical range, it moves, and its bits alone are replaced. -/
theorem moveBase_in {h : W256} {n : Int} (hn : n % 2 = 0) (hr : InRange ((hBase h).toInt + n / 2)) :
    moveBase h n = .ok (putBits h 0 57 (BitVec.ofInt 57 ((hBase h).toInt + n / 2)).toNat) := by
  obtain ⟨h1, h2⟩ := hr
  unfold moveBase hBaseInt
  rw [hn]
  simp only [bne_self_eq_false, Bool.false_eq_true, ↓reduceIte, decide_eq_true h1, decide_eq_true h2, Bool.and_self]

theorem moveBase_out {h : W256} {n : Int} (hn : n % 2 = 0) (hr : ¬InRange ((hBase h).toInt + n / 2)) :
    moveBase h n = .xlate (BitVec.ofInt 64 ((hBase h).toInt + n / 2)) := by
  unfold moveBase hBaseInt
  rw [hn]
  simp only [bne_self_eq_false, Bool.false_eq_true, ↓reduceIte]
  rw [if_neg]
  simpa [InRange] using hr

theorem hBase_putBits {h : W256} {a : Int} (hr : InRange a) : (hBase (putBits h 0 57 (BitVec.ofInt 57 a).toNat)).toInt = a := by
  obtain ⟨h1, h2⟩ := hr
  rw [hBase, extract_putBits_same _ _ (by decide), BitVec.ofNat_toNat, BitVec.setWidth_eq, BitVec.toInt_signExtend_of_le (by decide),
    BitVec.toInt_ofInt]
  exact Int.bmod_eq_of_le (by omega) (by omega)

/-- A field that lies above BASE stands. -/
theorem hgetValue_putBase (h : W256) (v : Nat) {g : BitVec 5} (h0 : g ≠ 0) (h17 : g ≠ 17) :
    hgetValue (putBits h 0 57 v) g = hgetValue h g := by
  have hb : bitsApart (fieldBits g.toNat) [(0, 57)] = true := by
    revert g
    decide
  exact hgetValue_congr fun p hp => extract_putBits_other _ _ (apart_of_bitsApart hb hp (List.mem_singleton_self _))

/-! Offsets in bits and in half bytes (R116). -/

theorem fmtBits_quarter {f eb : Nat} (h : fmtBits f = some eb) : (eb : Int) = 4 * (eb / 4 : Nat) := by
  have hmem : eb = 8 ∨ eb = 4 ∨ eb = 16 ∨ eb = 32 := by
    unfold fmtBits at h
    split at h <;> cases h <;> decide
  rcases hmem with rfl | rfl | rfl | rfl <;> rfl

theorem fmtBits_reserved {f : Nat} (h : 9 < f) : fmtBits f = none := by
  unfold fmtBits
  split <;> first | omega | rfl

/-- What moving BASE by a number of bits gives, in the three cases of R146. -/
theorem moveBase_bits {h : W256} {n off : Int} (ho : off = 4 * n) :
    (off % 8 ≠ 0 → moveBase h n = .ill) ∧
    (off % 8 = 0 → InRange ((hBase h).toInt + off / 8) →
      moveBase h n = .ok (putBits h 0 57 (BitVec.ofInt 57 ((hBase h).toInt + off / 8)).toNat)) ∧
    (off % 8 = 0 → ¬InRange ((hBase h).toInt + off / 8) → moveBase h n = .xlate (BitVec.ofInt 64 ((hBase h).toInt + off / 8))) := by
  have hdiv : off / 8 = n / 2 := by omega
  rw [hdiv]
  exact ⟨fun h1 => moveBase_odd (by omega), fun h1 => moveBase_in (by omega), fun h1 => moveBase_out (by omega)⟩

theorem hadvRes_outer (h : W256) (v : W64) {k : BitVec 2} (hk : k ≠ 0) :
    hadvRes h v k = moveBase h (v.toInt * hStr h k.toNat * (2 ^ hSsh h * 2 : Nat)) := if_neg hk

theorem hadvRes_inner {h : W256} {eb : Nat} (v : W64) (he : fmtBits (hFmt h) = some eb) :
    hadvRes h v 0 = moveBase h (v.toInt * hStr h 0 * (eb / 4 : Nat)) := by
  simp only [hadvRes, he, ↓reduceIte, sint]

/-- The half bytes that HTILE moves by. -/
def tileNibbles (h : W256) (x y : W64) (eb : Nat) : Int :=
  x.toInt * hDim h 0 * hStr h 0 * (eb / 4 : Nat) + y.toInt * hDim h 1 * hStr h 1 * (2 ^ hSsh h * 2 : Nat)

theorem htileRes_eq {h : W256} {eb : Nat} (x y : W64) (f : BitVec 5) (he : fmtBits (hFmt h) = some eb) :
    htileRes h x y f = match moveBase h (tileNibbles h x y eb) with
      | .ok h' => .ok (putBits h' 80 24 ((((hName h).extractLsb' 16 24).toNat + y.toInt * 2 ^ f.toNat + x.toInt) % 2 ^ 24).toNat)
      | r => r := by
  simp only [htileRes, he]
  rfl

/-- A field is what is put there, where it fits. -/
theorem hgetValue_putBits {g : BitVec 5} {lo n : Nat} (h0 : g.toNat ≠ 0) (hb : fieldBits g.toNat = [(lo, n)]) (hn : lo + n ≤ 256)
    (h64 : n ≤ 64) (h : W256) {v : Nat} (hv : v < 2 ^ n) : (hgetValue (putBits h lo n v) g).toNat = v := by
  have hpow : 2 ^ n ≤ 2 ^ 64 := Nat.pow_le_pow_right (by decide) h64
  rw [hgetValue_of_single h0 hb, extract_putBits_same _ _ hn, BitVec.toNat_ofNat, BitVec.toNat_ofNat, Nat.mod_eq_of_lt hv,
    Nat.mod_eq_of_lt (Nat.lt_of_lt_of_le hv hpow)]

/-- Every field apart from a place stands when it is replaced. -/
theorem hgetValue_putBits_other {g : BitVec 5} {lo n : Nat} (hb : bitsApart (fieldBits g.toNat) [(lo, n)] = true) (h : W256) (v : Nat) :
    hgetValue (putBits h lo n v) g = hgetValue h g :=
  hgetValue_congr fun p hp => extract_putBits_other _ _ (apart_of_bitsApart hb hp (List.mem_singleton_self _))

theorem apart_tile (g : BitVec 5) : g.toNat ≤ 16 → g ≠ 4 → g ≠ 6 → bitsApart (fieldBits g.toNat) [(80, 24)] = true := by
  revert g
  decide

theorem apart_iter (g : BitVec 5) : g.toNat ≤ 16 → g ≠ 4 → g ≠ 7 → bitsApart (fieldBits g.toNat) [(64, 16)] = true := by
  revert g
  decide

theorem emod_toNat_lt (a : Int) (n : Nat) : (a % 2 ^ n).toNat < 2 ^ n := by
  have hpos : (0 : Int) < 2 ^ n := Int.pow_pos (by decide)
  have hlt := Int.emod_lt_of_pos a hpos
  have hnn := Int.emod_nonneg a (Int.ne_of_gt hpos)
  zify
  rw [Int.toNat_of_nonneg hnn]
  exact hlt

theorem emod_toNat_cast (a : Int) (n : Nat) : ((a % 2 ^ n).toNat : Int) = a % 2 ^ n :=
  Int.toNat_of_nonneg (Int.emod_nonneg a (Int.ne_of_gt (Int.pow_pos (by decide))))

theorem hgetValue_tile (h : W256) : ((hName h).extractLsb' 16 24).toNat = (hgetValue h 6).toNat := by
  have hlt := ((hName h).extractLsb' 16 24).isLt
  have hv : hgetValue h 6 = BitVec.ofNat 64 ((hName h).extractLsb' 16 24).toNat := rfl
  rw [hv, BitVec.toNat_ofNat, Nat.mod_eq_of_lt (by omega)]

theorem hgetValue_iter (h : W256) : ((hName h).extractLsb' 0 16).toNat = (hgetValue h 7).toNat := by
  have hlt := ((hName h).extractLsb' 0 16).isLt
  have hv : hgetValue h 7 = BitVec.ofNat 64 ((hName h).extractLsb' 0 16).toNat := rfl
  rw [hv, BitVec.toNat_ofNat, Nat.mod_eq_of_lt (by omega)]

theorem hBase_putBits_other (h : W256) {lo n : Nat} (hlo : 57 ≤ lo) (v : Nat) : hBase (putBits h lo n v) = hBase h := by
  rw [hBase, extract_putBits_other _ _ (.inl (by omega)), hBase]

/-! The instructions. -/

theorem hadv_outer (h : W256) (v : W64) {k : BitVec 2} (hk : k ≠ 0) :
    (InRange ((hBase h).toInt + v.toInt * hStr h k.toNat * 2 ^ hSsh h) → ∃ h', hadvRes h v k = .ok h' ∧
      (hBase h').toInt = (hBase h).toInt + v.toInt * hStr h k.toNat * 2 ^ hSsh h ∧
      ∀ g : BitVec 5, g ≠ 0 → g ≠ 17 → hgetValue h' g = hgetValue h g) ∧
    (¬InRange ((hBase h).toInt + v.toInt * hStr h k.toNat * 2 ^ hSsh h) →
      hadvRes h v k = .xlate (BitVec.ofInt 64 ((hBase h).toInt + v.toInt * hStr h k.toNat * 2 ^ hSsh h))) := by
  have hn : v.toInt * hStr h k.toNat * (2 ^ hSsh h * 2 : Nat) = v.toInt * hStr h k.toNat * 2 ^ hSsh h * 2 := by
    push_cast
    ring
  rw [hadvRes_outer h v hk, hn]
  generalize v.toInt * hStr h k.toNat * 2 ^ hSsh h = d
  have he : d * 2 % 2 = 0 := Int.mul_emod_left d 2
  have hd : d * 2 / 2 = d := Int.mul_ediv_cancel d (by decide)
  refine ⟨fun hr => ⟨_, moveBase_in he (by rw [hd]; exact hr), ?_, fun g => hgetValue_putBase h _⟩, fun hr => ?_⟩
  · rw [hd, hBase_putBits hr]
  · rw [moveBase_out he (by rw [hd]; exact hr), hd]

theorem hadv_inner (h : W256) (v : W64) {eb : Nat} (he : fmtBits (hFmt h) = some eb) {off : Int} (ho : off = v.toInt * hStr h 0 * eb) :
    (off % 8 ≠ 0 → hadvRes h v 0 = .ill) ∧
    (off % 8 = 0 → InRange ((hBase h).toInt + off / 8) → ∃ h', hadvRes h v 0 = .ok h' ∧ (hBase h').toInt = (hBase h).toInt + off / 8 ∧
      ∀ g : BitVec 5, g ≠ 0 → g ≠ 17 → hgetValue h' g = hgetValue h g) ∧
    (off % 8 = 0 → ¬InRange ((hBase h).toInt + off / 8) → hadvRes h v 0 = .xlate (BitVec.ofInt 64 ((hBase h).toInt + off / 8))) := by
  have hoff : off = 4 * (v.toInt * hStr h 0 * (eb / 4 : Nat)) := by
    rw [ho, fmtBits_quarter he]
    push_cast
    ring
  rw [hadvRes_inner v he]
  obtain ⟨h1, h2, h3⟩ := moveBase_bits (h := h) hoff
  exact ⟨h1, fun hz hr => ⟨_, h2 hz hr, hBase_putBits hr, fun g => hgetValue_putBase h _⟩, h3⟩

theorem htile_moves (h : W256) (x y : W64) (f : BitVec 5) {eb : Nat} (he : fmtBits (hFmt h) = some eb) {off : Int}
    (ho : off = x.toInt * hDim h 0 * hStr h 0 * eb + y.toInt * hDim h 1 * hStr h 1 * 2 ^ hSsh h * 8) :
    (off % 8 ≠ 0 → htileRes h x y f = .ill) ∧
    (off % 8 = 0 → InRange ((hBase h).toInt + off / 8) → ∃ h', htileRes h x y f = .ok h' ∧
      (hBase h').toInt = (hBase h).toInt + off / 8 ∧
      ((hgetValue h' 6).toNat : Int) = ((hgetValue h 6).toNat + y.toInt * 2 ^ f.toNat + x.toInt) % 2 ^ 24 ∧
      ∀ g : BitVec 5, g.toNat ≤ 16 → g ≠ 0 → g ≠ 4 → g ≠ 6 → hgetValue h' g = hgetValue h g) ∧
    (off % 8 = 0 → ¬InRange ((hBase h).toInt + off / 8) → htileRes h x y f = .xlate (BitVec.ofInt 64 ((hBase h).toInt + off / 8))) := by
  have hoff : off = 4 * tileNibbles h x y eb := by
    rw [ho, tileNibbles, fmtBits_quarter he]
    push_cast
    ring
  rw [htileRes_eq x y f he]
  obtain ⟨h1, h2, h3⟩ := moveBase_bits (h := h) hoff
  refine ⟨fun hz => by rw [h1 hz], fun hz hr => ?_, fun hz hr => by rw [h3 hz hr]⟩
  rw [h2 hz hr]
  refine ⟨_, rfl, ?_, ?_, fun g h16 g0 g4 g6 => ?_⟩
  · rw [hBase_putBits_other _ (by decide), hBase_putBits hr]
  · rw [hgetValue_putBits (by decide) (by rfl) (by decide) (by decide) _ (emod_toNat_lt _ 24), emod_toNat_cast, hgetValue_tile]
  · have h17 : g ≠ 17 := fun hg => by rw [hg] at h16; exact absurd h16 (by decide)
    rw [hgetValue_putBits_other (apart_tile g h16 g4 g6), hgetValue_putBase h _ g0 h17]

theorem hname_add_iter (h : W256) (v w : W64) : ∃ h', hnameRes h v w 0 = .ok h' ∧
    ((hgetValue h' 7).toNat : Int) = ((hgetValue h 7).toNat + v.toInt) % 2 ^ 16 ∧
    ∀ g : BitVec 5, g.toNat ≤ 16 → g ≠ 4 → g ≠ 7 → hgetValue h' g = hgetValue h g := by
  refine ⟨_, rfl, ?_, fun g h16 g4 g7 => hgetValue_putBits_other (apart_iter g h16 g4 g7) _ _⟩
  rw [hgetValue_putBits (by decide) (by rfl) (by decide) (by decide) _ (emod_toNat_lt _ 16), emod_toNat_cast, hgetValue_iter, sint]

theorem hname_add_tile (h : W256) (v w : W64) : ∃ h', hnameRes h v w 1 = .ok h' ∧
    ((hgetValue h' 6).toNat : Int) = ((hgetValue h 6).toNat + v.toInt) % 2 ^ 24 ∧
    ∀ g : BitVec 5, g.toNat ≤ 16 → g ≠ 4 → g ≠ 6 → hgetValue h' g = hgetValue h g := by
  refine ⟨_, rfl, ?_, fun g h16 g4 g6 => hgetValue_putBits_other (apart_tile g h16 g4 g6) _ _⟩
  rw [hgetValue_putBits (by decide) (by rfl) (by decide) (by decide) _ (emod_toNat_lt _ 24), emod_toNat_cast, hgetValue_tile, sint]

theorem hname_set (h : W256) {v w : W64} (hv : v.toNat < 2 ^ 24) (hw : w.toNat < 2 ^ 16) : ∃ h', hnameRes h v w 2 = .ok h' ∧
    hgetValue h' 6 = v ∧ hgetValue h' 7 = w ∧
    ∀ g : BitVec 5, g.toNat ≤ 16 → g ≠ 4 → g ≠ 6 → g ≠ 7 → hgetValue h' g = hgetValue h g := by
  have hres : hnameRes h v w 2 = .ok (putBits (putBits h 80 24 v.toNat) 64 16 w.toNat) :=
    if_pos (by rw [decide_eq_true hv, decide_eq_true hw]; rfl)
  refine ⟨_, hres, ?_, ?_, fun g h16 g4 g6 g7 => ?_⟩
  · apply BitVec.eq_of_toNat_eq
    rw [hgetValue_putBits_other (apart_iter 6 (by decide) (by decide) (by decide)),
      hgetValue_putBits (by decide) (by rfl) (by decide) (by decide) _ hv]
  · apply BitVec.eq_of_toNat_eq
    rw [hgetValue_putBits (by decide) (by rfl) (by decide) (by decide) _ hw]
  · rw [hgetValue_putBits_other (apart_iter g h16 g4 g7), hgetValue_putBits_other (apart_tile g h16 g4 g6)]

theorem hname_set_ill (h : W256) {v w : W64} (hvw : 2 ^ 24 ≤ v.toNat ∨ 2 ^ 16 ≤ w.toNat) : hnameRes h v w 2 = .ill :=
  if_neg (by
    simp only [Bool.and_eq_true, decide_eq_true_eq, not_and]
    omega)

/-- Settles O33. -/
theorem handleMoves : Obligations.HandleMoves :=
  ⟨fun h v _ hk => hadv_outer h v hk, fun h v _ he => hadv_inner h v he rfl,
    fun h v w f hf => ⟨by simp only [hadvRes, fmtBits_reserved hf, ↓reduceIte], by simp only [htileRes, fmtBits_reserved hf]⟩,
    fun h x y f _ he => htile_moves h x y f he rfl, hname_add_iter, hname_add_tile, fun h _ _ => hname_set h,
    fun h _ _ => hname_set_ill h⟩

end Sys2Proof.Machine
end

section
/-! SUPPORT. Handles and scalar memory at issue (R143 to R148); POP, which observes the completion that filled its slot (R50). -/

namespace Sys2Proof.Machine

open Sys2Proof

/-! Handles (R145 to R148). -/

/-- A handle operation that its checks pass gives its handle. -/
theorem landHandle_ok {s : State} {i : Instr} {v : W256} (h : s.handleRes i = some (.ok v)) (hh : BitVec 5) :
    s.landHandle i hh = s.landHnd hh v := by
  unfold State.landHandle
  rw [h]

theorem givesHandle_of_handleRes {i : Instr} {h : BitVec 5} {f : State → HandleRes} (hi : ∀ s, s.handleRes i = some (f s))
    (he : ∀ s, exec i s = slot i s (fun s => s.landHandle i h)) : GivesHandle i h f := by
  intro s v hr hv
  rw [he, slot_ready hr, landHandle_ok ((hi s.issued).trans (congrArg some hv))]

theorem handleOps_give (h : BitVec 5) (rs rt : BitVec 6) (fld : BitVec 5) :
    GivesHandle (.hset h rs fld) h (fun s => hsetRes (s.hr h) fld (s.sr rs)) ∧
    GivesScalar (.hget h rs fld) rs 1 (fun s => hgetValue (s.hr h) fld) ∧
    (∀ dim, GivesHandle (.hadv h rs dim) h (fun s => hadvRes (s.hr h) (s.sr rs) dim)) ∧
    GivesHandle (.htile h rs rt fld) h (fun s => htileRes (s.hr h) (s.sr rs) (s.sr rt) fld) ∧
    GivesHandle (.hname h rs rt fld) h (fun s => hnameRes (s.hr h) (s.sr rs) (s.sr rt) fld) :=
  ⟨givesHandle_of_handleRes (fun _ => rfl) (fun _ => rfl), fun _ hr => slot_ready hr,
    fun _ => givesHandle_of_handleRes (fun _ => rfl) (fun _ => rfl), givesHandle_of_handleRes (fun _ => rfl) (fun _ => rfl),
    givesHandle_of_handleRes (fun _ => rfl) (fun _ => rfl)⟩

/-! Scalar memory (R143, R144). -/

theorem journal_unguarded {s : State} (i : Instr) (h : s.cx.launch.guard = false) : s.journal i = s := by
  unfold State.journal
  rw [h]
  rfl

theorem sts_completes (rd ra : BitVec 6) (sz : BitVec 3) (imm : BitVec 11) : Completes (.sts rd ra sz imm) (fun s =>
    if s.cx.launch.guard then
      (s.readUnder (s.memAddr ra imm) (szBytes sz)).hold (.store (s.memAddr ra imm) (bytesOfNat (szBytes sz) (s.sr rd).toNat)) 32
    else s.storeVirt (s.memAddr ra imm) (bytesOfNat (szBytes sz) (s.sr rd).toNat)) := by
  intro s hr
  refine (slot_ready hr).trans ?_
  simp only [bytesOfNat_length]

theorem ldf_good {rd ra : BitVec 6} {sz : BitVec 3} {imm : BitVec 11} {s : State} (hr : Ready (.ldf rd ra sz imm) s)
    (hb : s.issued.fcore.lsBad s.issued.cx.launch (s.issued.memAddr ra imm).toNat (szBytes sz) = none) :
    exec (.ldf rd ra sz imm) s = .next (s.issued.landScal rd 3
      (szExtend sz (s.issued.fcore.lsRead s.issued.cx.launch (s.issued.memAddr ra imm).toNat (szBytes sz)))) := by
  refine (slot_ready hr).trans ?_
  dsimp only
  rw [hb]

theorem ldf_bad {rd ra : BitVec 6} {sz : BitVec 3} {imm : BitVec 11} {s : State} {c : Nat} (hr : Ready (.ldf rd ra sz imm) s)
    (hb : s.issued.fcore.lsBad s.issued.cx.launch (s.issued.memAddr ra imm).toNat (szBytes sz) = some c) :
    exec (.ldf rd ra sz imm) s = .next (((s.issued.landScal rd 3 (Config.freeWord s.issued.free)).nextFree).lsError c) := by
  refine (slot_ready hr).trans ?_
  dsimp only
  rw [hb]

theorem stf_unguarded {rd ra : BitVec 6} {sz : BitVec 3} {imm : BitVec 11} {s : State} (hr : Ready (.stf rd ra sz imm) s)
    (hg : s.issued.cx.launch.guard = false) : exec (.stf rd ra sz imm) s =
      .next (s.issued.setFcore (s.issued.fcore.lsWrite s.issued.cx.launch
        (s.issued.memAddr ra imm).toNat (bytesOfNat (szBytes sz) (s.issued.sr rd).toNat))) := by
  refine (slot_ready hr).trans ?_
  simp only [journal_unguarded _ hg]

/-- Settles O34. -/
theorem handlesAndScalarMemory : Obligations.HandlesAndScalarMemory :=
  ⟨handleOps_give, fun ra sz imm rd => ⟨fun _ hr => slot_ready hr, sts_completes rd ra sz imm, fun _ => ldf_good, fun _ _ => ldf_bad,
    fun _ => stf_unguarded⟩⟩

/-! POP (R50, R207). -/

/-- A blocking POP of a filled slot takes the head, observes its completion, and lands the entry. -/
theorem pop_filled {o : MovArgs} {s : State} {e : QSlot} {r : List QSlot} {v : W64} (hr : Ready (.pop o) s)
    (hq : s.issued.cx.a.q.slots (o.x.extractLsb' 0 3).toNat = e :: r) (he : e.entry = some v) (hb : o.x.getLsbD 3 = true) :
    exec (.pop o) s = .next ((s.issued.takeHead (o.x.extractLsb' 0 3).toNat).landScal o.d 1 v) := by
  refine (slot_ready hr).trans ?_
  dsimp only
  rw [hq]
  dsimp only
  rw [he, hb]

/-- A context whose queue 0 holds a filled slot, and a write that the completion of the slot's command made known by it: an
agent has not seen it. -/
def popReady : State :=
  { State.reset.modCx (fun x => { x with
      iss := { x.iss with checked := true }
      a := { x.a with q := { x.a.q with q := [(0, [{ id := 0, seq := 0, entry := some 7 }])] } } }) with
    lags := [{ agent := .host, dev := 0, at' := 0, seen := 0, bad := false,
               unseen := [{ seq := 0, byte := 1, bad := false, edge := false, writers := [], holders := [],
                            released := [(.doneSlot 0 0 0 0, 6, .host)] }] }] }

/-- A blocking POP of queue 0 to s5. -/
def popArgs : MovArgs := { gs := 0, gd := 0, a := 0, d := 5, x := 8 }

/-- By the POP the context has come to hold the write; without observing the completion it would not. -/
theorem popReady_observes : ((popReady.takeHead 0).landScal 5 1 7).lags ≠ ((popReady.popHead 0).landScal 5 1 7).lags := by
  decide

/-- Refutes O37: a POP does more than take the head of its queue and land the entry. The context observes the completion that
filled the slot (R50), and so a write that an agent has not seen yet, in `popReady`, is held by the context after it. -/
theorem not_movSlot : ¬ Obligations.MovSlot := by
  intro h
  obtain ⟨-, -, -, -, hpop, -⟩ := h popArgs
  have hready : Ready (.pop popArgs) popReady := ready_checked (by decide)
  have hissued : popReady.issued = popReady := issued_checked (by decide)
  have hslots : popReady.issued.cx.a.q.slots 0 = [{ id := 0, seq := 0, entry := some 7 }] := by
    rw [hissued]
    decide
  have hclaim := hpop popReady _ [] 7 hready hslots rfl
  rw [pop_filled hready hslots rfl rfl, hissued] at hclaim
  injection hclaim with heq
  exact popReady_observes (congrArg State.lags heq)

end Sys2Proof.Machine
end

section
/-! SUPPORT. A launch's share of the local store (R33, R143, R212, R234). -/

namespace Sys2Proof.Machine

open Sys2Proof

/-! Addresses of a share. -/

/-- The bytes of a share have their own places. -/
theorem phys_inj {e : LaunchEnv} (hn : e.umap.Nodup) {a b : Nat} (ha : a < 16384 * e.umap.length) (hb : b < 16384 * e.umap.length)
    (h : e.phys a = e.phys b) : a = b := by
  have hla : a / 16384 < e.umap.length := Nat.div_lt_of_lt_mul ha
  have hlb : b / 16384 < e.umap.length := Nat.div_lt_of_lt_mul hb
  simp only [LaunchEnv.phys, List.getD_eq_getElem _ _ hla, List.getD_eq_getElem _ _ hlb] at h
  have hu : e.umap[a / 16384] = e.umap[b / 16384] := by omega
  have hidx : a / 16384 = b / 16384 := (List.Nodup.getElem_inj_iff hn).mp hu
  omega

/-- Launches that hold different units share no place. -/
theorem phys_ne_of_disjoint {e f : LaunchEnv} {a b : Nat} (ha : a < 16384 * e.umap.length) (hb : b < 16384 * f.umap.length)
    (h : ∀ u ∈ e.umap, u ∉ f.umap) : e.phys a ≠ f.phys b := by
  have hla : a / 16384 < e.umap.length := Nat.div_lt_of_lt_mul ha
  have hlb : b / 16384 < f.umap.length := Nat.div_lt_of_lt_mul hb
  intro heq
  simp only [LaunchEnv.phys, List.getD_eq_getElem _ _ hla, List.getD_eq_getElem _ _ hlb] at heq
  have hu : e.umap[a / 16384] = f.umap[b / 16384] := by omega
  exact h _ (List.getElem_mem hla) (hu ▸ List.getElem_mem hlb)

/-! What a write leaves (R143). -/

/-- The bytes of a list, each written at the place of its offset. -/
def lsBytes (e : LaunchEnv) : Nat → List Byte → Tbl Byte → Tbl Byte
  | _, [], t => t
  | off, b :: bs, t => lsBytes e (off + 1) bs (tput 0 t (e.phys off) b)

theorem lsWrite_ls (k : Core) (e : LaunchEnv) (off : Nat) (bs : List Byte) : (k.lsWrite e off bs).ls = lsBytes e off bs k.ls := by
  have hfold : ∀ (bs : List Byte) (n : Nat) (t : Tbl Byte),
      (bs.zipIdx n).foldl (fun t p => tput 0 t (e.phys (off + p.2)) p.1) t = lsBytes e (off + n) bs t := by
    intro bs
    induction bs with
    | nil => exact fun _ _ => rfl
    | cons b bs ih => exact fun n t => ih (n + 1) _
  exact hfold bs 0 k.ls

theorem tget_lsBytes_other (e : LaunchEnv) {a off : Nat} {bs : List Byte} (t : Tbl Byte)
    (h : ∀ i, off ≤ i → i < off + bs.length → a ≠ e.phys i) : tget 0 (lsBytes e off bs t) a = tget 0 t a := by
  induction bs generalizing off t with
  | nil => rfl
  | cons b bs ih =>
    rw [lsBytes, ih _ fun i h1 h2 => h i (by omega) (by rw [List.length_cons]; omega)]
    exact tget_tput_other _ _ _ (h off (Nat.le_refl _) (by rw [List.length_cons]; omega))

theorem lsRead_one (k : Core) (e : LaunchEnv) (a : Nat) : k.lsRead e a 1 = [tget 0 k.ls (e.phys a)] := rfl

/-- A byte that no byte of the write shares its place with reads as before. -/
theorem lsRead_lsWrite_other (k : Core) {e f : LaunchEnv} {off a : Nat} {bs : List Byte}
    (h : ∀ i, off ≤ i → i < off + bs.length → f.phys a ≠ e.phys i) : (k.lsWrite e off bs).lsRead f a 1 = k.lsRead f a 1 := by
  rw [lsRead_one, lsRead_one, lsWrite_ls, tget_lsBytes_other e _ h]

theorem lsRead_congr {k k' : Core} (h : k'.ls = k.ls) (e : LaunchEnv) (off n : Nat) : k'.lsRead e off n = k.lsRead e off n := by
  induction n generalizing off with
  | zero => rfl
  | succ n ih => rw [Core.lsRead, Core.lsRead, h, ih]

/-- A read of the bytes written gives them. -/
theorem lsRead_lsBytes {e : LaunchEnv} (hn : e.umap.Nodup) (bs : List Byte) (k : Core) {off : Nat}
    (h : off + bs.length ≤ 16384 * e.umap.length) (t : Tbl Byte) : { k with ls := lsBytes e off bs t }.lsRead e off bs.length = bs := by
  induction bs generalizing off t with
  | nil => rfl
  | cons b bs ih =>
    rw [List.length_cons] at h
    have hhead : tget 0 (lsBytes e (off + 1) bs (tput 0 t (e.phys off) b)) (e.phys off) = b := by
      rw [tget_lsBytes_other e _ fun i h1 h2 heq => ?_]
      · exact tget_tput_same ..
      · have := phys_inj hn (by omega) (by omega) heq
        omega
    simp only [lsBytes, List.length_cons, Core.lsRead, hhead]
    exact congrArg (b :: ·) (ih (by omega) _)

theorem lsRead_lsWrite_same {e : LaunchEnv} (hn : e.umap.Nodup) (k : Core) {off : Nat} {bs : List Byte}
    (h : off + bs.length ≤ 16384 * e.umap.length) : (k.lsWrite e off bs).lsRead e off bs.length = bs := by
  rw [lsRead_congr (k := { k with ls := lsBytes e off bs k.ls }) (lsWrite_ls ..)]
  exact lsRead_lsBytes hn bs k h k.ls

theorem lsRead_lsWrite_nat {e : LaunchEnv} (hn : e.umap.Nodup) (k : Core) {off n : Nat} (v : Nat)
    (h : off + n ≤ 16384 * e.umap.length) : natOfBytes ((k.lsWrite e off (bytesOfNat n v)).lsRead e off n) = v % 2 ^ (8 * n) := by
  have hread := lsRead_lsWrite_same hn k (off := off) (bs := bytesOfNat n v) (by rw [bytesOfNat_length]; exact h)
  rw [bytesOfNat_length] at hread
  rw [hread, natOfBytes_bytesOfNat, Nat.pow_mul]

/-! Words of one instruction (R212). -/

/-- The words written one after the other. -/
def lsWords (e : LaunchEnv) (ws : List (Nat × W32)) (k : Core) : Core :=
  ws.foldl (fun k w => k.lsWrite e w.1 (bytesOfNat 4 w.2.toNat)) k

theorem lsWriteWords_ls (k : Core) (e : LaunchEnv) (ws : List (Nat × W32)) : (k.lsWriteWords e ws).ls = (lsWords e ws k).ls := by
  unfold Core.lsWriteWords
  dsimp only
  split <;> rfl

theorem lsRead_lsWords_other {e : LaunchEnv} (hn : e.umap.Nodup) {a : Nat} (ha : a < 16384 * e.umap.length) {ws : List (Nat × W32)}
    (h : ∀ w ∈ ws, w.1 + 4 ≤ 16384 * e.umap.length ∧ (a < w.1 ∨ w.1 + 4 ≤ a)) (k : Core) :
    (lsWords e ws k).lsRead e a 1 = k.lsRead e a 1 := by
  induction ws generalizing k with
  | nil => rfl
  | cons w ws ih =>
    obtain ⟨hw, hd⟩ := h w (List.mem_cons_self ..)
    refine (ih (fun v hv => h v (List.mem_cons_of_mem _ hv)) _).trans (lsRead_lsWrite_other k fun i h1 h2 heq => ?_)
    rw [bytesOfNat_length] at h2
    have := phys_inj hn ha (by omega) heq
    omega

/-- Settles O35. -/
theorem localStore : Obligations.LocalStore := by
  refine ⟨fun k e off n v hn h => lsRead_lsWrite_nat hn k v h, fun k e off a bs hn h ha hd => lsRead_lsWrite_other k fun i h1 h2 heq => ?_,
    fun k e f off a bs h ha hd => lsRead_lsWrite_other k fun i h1 h2 heq => ?_, fun _ _ _ _ => rfl, fun k e ws off w hn h => ?_,
    fun k e ws a hn ha h => ?_⟩
  · have := phys_inj hn ha (by omega) heq
    omega
  · exact phys_ne_of_disjoint (by omega) ha hd heq.symm
  · rw [lsRead_congr (lsWriteWords_ls ..), lsWords, List.foldl_append]
    exact (lsRead_lsWrite_nat hn _ w.toNat h).trans (Nat.mod_eq_of_lt w.isLt)
  · rw [lsRead_congr (lsWriteWords_ls ..)]
    exact lsRead_lsWords_other hn ha h k

end Sys2Proof.Machine
end

section
/-! SUPPORT. A scalar store to this device's memory (R143, R144, R300). -/

namespace Sys2Proof.Machine

open Sys2Proof

/-! What a fill of a translation cache, and the note of a write, leave alone. -/

theorem core_tlbFill (s : State) (c : Nat) (asid : BitVec 16) (va : W64) (d : Nat) :
    ∃ l, (s.tlbFill c asid va).core d = { s.core d with tlb := l } := by
  unfold State.tlbFill
  split
  · exact ⟨_, rfl⟩
  · by_cases h : d = c
    · subst h
      exact ⟨_, core_setCore ..⟩
    · exact ⟨(s.core d).tlb, core_setCore_other _ _ h⟩

theorem ctxs_tlbFill (s : State) (c : Nat) (asid : BitVec 16) (va : W64) (d n : Nat) :
    ((s.tlbFill c asid va).core d).ctx n = (s.core d).ctx n ∧ ((s.tlbFill c asid va).core d).ls = (s.core d).ls := by
  obtain ⟨l, h⟩ := core_tlbFill s c asid va d
  rw [h]
  exact ⟨rfl, rfl⟩

theorem tlbFill_frame (s : State) (c : Nat) (asid : BitVec 16) (va : W64) :
    (s.tlbFill c asid va).focusCore = s.focusCore ∧ (s.tlbFill c asid va).focusCtx = s.focusCtx ∧
    (s.tlbFill c asid va).memUe = s.memUe ∧ (s.tlbFill c asid va).queue = s.queue ∧ (s.tlbFill c asid va).lags = s.lags := by
  unfold State.tlbFill
  split <;> exact ⟨rfl, rfl, rfl, rfl, rfl⟩

theorem cx_of_ctxs {s t : State} (hc : t.focusCore = s.focusCore) (hx : t.focusCtx = s.focusCtx)
    (h : ∀ d n, (t.core d).ctx n = (s.core d).ctx n) : t.cx = s.cx := by
  unfold State.cx State.fcore
  rw [hc, hx, h]

theorem cx_tlbFill (s : State) (c : Nat) (asid : BitVec 16) (va : W64) : (s.tlbFill c asid va).cx = s.cx := by
  obtain ⟨hc, hx, -⟩ := tlbFill_frame s c asid va
  exact cx_of_ctxs hc hx fun d n => (ctxs_tlbFill s c asid va d n).1

/-- Nothing but what agents have not seen yet differs. -/
def OnlyLags (s t : State) : Prop := ∃ l, t = { s with lags := l }

theorem OnlyLags.trans {s t u : State} (h : OnlyLags s t) (g : OnlyLags t u) : OnlyLags s u := by
  obtain ⟨l, rfl⟩ := h
  obtain ⟨m, rfl⟩ := g
  exact ⟨m, rfl⟩

theorem onlyLags_reachLags (s : State) (w : Lag → Bool) (p : Lag → Unseen → Bool) : OnlyLags s (s.reachLags w p) := by
  unfold State.reachLags
  split
  · exact ⟨s.lags, rfl⟩
  · exact ⟨_, rfl⟩

theorem onlyLags_noteBytes (s : State) (ags : List Agent) (dev : Nat) (ws : List (Nat × Byte)) :
    OnlyLags s (s.noteBytes ags dev ws) := by
  unfold State.noteBytes
  split
  · exact ⟨s.lags, rfl⟩
  · exact (onlyLags_reachLags s _ _).trans ⟨_, rfl⟩

theorem onlyLags_noteAt (s : State) (ags : List Agent) (a : Nat) (bs : List Byte) : OnlyLags s (s.noteAt ags a bs) := by
  unfold State.noteAt
  split
  · exact onlyLags_noteBytes ..
  · exact ⟨s.lags, rfl⟩

/-! The writer sees what it writes (R53, R57). -/

theorem upTo_place (g : Lag) (p : Unseen → Bool) :
    (g.upTo p).agent = g.agent ∧ (g.upTo p).dev = g.dev ∧ (g.upTo p).at' = g.at' := by
  unfold Lag.upTo
  split <;> exact ⟨rfl, rfl, rfl⟩

/-- A lag that is left is of an agent that does not see the write, and lies where it lay. -/
theorem left_place {sees : Bool} {g0 g : Lag} {m : Option (Nat × Byte)} {f : Nat × Byte → List Unseen}
    (h : (if sees then none else match m with | none => some g0 | some w => some { g0 with unseen := f w }) = some g) :
    sees = false ∧ g0.agent = g.agent ∧ g0.dev = g.dev ∧ g0.at' = g.at' := by
  split at h
  · cases h
  · rename_i hs
    refine ⟨Bool.eq_false_iff.mpr hs, ?_⟩
    split at h <;> cases h <;> exact ⟨rfl, rfl, rfl⟩

/-- A writer lags on no byte that it has just written. -/
theorem lagOf_noteBytes {s : State} {ag : Agent} {ags : List Agent} (hag : ag ∈ ags) {dev a : Nat} {ws : List (Nat × Byte)}
    (hw : ∃ b, (a, b) ∈ ws) : (s.noteBytes ags dev ws).lagOf ag dev a = none := by
  obtain ⟨b, hb⟩ := hw
  unfold State.lagOf
  rw [List.find?_eq_none]
  unfold State.noteBytes
  split
  · rename_i h
    rw [List.isEmpty_iff.mp h]
    exact fun g hg => absurd hg (List.not_mem_nil)
  · intro g hg
    dsimp only at hg
    rw [List.mem_filterMap] at hg
    obtain ⟨g0, -, hsome⟩ := hg
    rw [Bool.and_eq_true, not_and]
    intro his
    exfalso
    rw [Lag.is, Bool.and_eq_true, Bool.and_eq_true, beq_iff_eq, beq_iff_eq, beq_iff_eq] at his
    obtain ⟨⟨hagent, hdev⟩, hat⟩ := his
    obtain ⟨hsees, h1, h2, h3⟩ := left_place hsome
    rw [hagent] at h1
    rw [hdev] at h2
    rw [hat] at h3
    have hmem : (a, b) ∈ ws.filter (fun w => w.1 / ag.grain == a / ag.grain) :=
      List.mem_filter.mpr ⟨hb, beq_self_eq_true _⟩
    rw [h1, h2, h3, if_pos rfl, List.contains_iff_mem.mpr hag, Bool.true_or, Bool.and_true, Bool.not_eq_false',
      List.isEmpty_iff] at hsees
    rw [hsees] at hmem
    exact List.not_mem_nil hmem

theorem mem_bytesAt {a i : Nat} {bs : List Byte} (h : i < bs.length) : ∃ b, (a + i, b) ∈ bytesAt a bs :=
  ⟨bs[i], List.mem_map.mpr ⟨(bs[i], i), List.mem_zipIdx_iff_getElem?.mpr (List.getElem?_eq_getElem h), rfl⟩⟩

/-! A write that covers whole each granule that it touches, of those with an error, clears them (R144, R358). -/

theorem tget_foldl_tdel {α : Type} {d : α} (l : List Nat) (t : Tbl α) {j : Nat} (h : j ∈ l ∨ tget d t j = d) :
    tget d (l.foldl tdel t) j = d := by
  induction l generalizing t with
  | nil => exact h.resolve_left List.not_mem_nil
  | cons k l ih =>
    refine ih (tdel t k) ?_
    by_cases hj : j = k
    · subst hj
      exact .inr (tget_tdel_same d t j)
    · rcases h with h | h
      · exact .inl ((List.mem_cons.mp h).resolve_left hj)
      · exact .inr ((tget_tdel_other d t hj).trans h)

theorem memUe_writeMem_clear {s : State} {a : Nat} {bs : List Byte} (h : s.partBad a bs.length = false) {g : Nat}
    (hg : g ∈ granules a bs.length) : tget false (s.writeMem a bs).memUe g = false := by
  unfold State.writeMem
  dsimp only
  split
  · rename_i he
    rw [List.isEmpty_iff.mp he]
    rfl
  · rename_i he
    rw [State.partBad, Bool.eq_false_iff.mpr he, Bool.not_false, Bool.true_and, List.any_eq_false] at h
    refine tget_foldl_tdel _ _ ?_
    have hgood := h g hg
    rw [Bool.and_eq_true, not_and, Bool.not_eq_true', Bool.not_eq_false] at hgood
    cases hu : tget false s.memUe g with
    | true => exact .inl (List.mem_filter.mpr ⟨hg, hgood hu⟩)
    | false => exact .inr rfl

theorem ueIn_of_clear {s : State} {a n : Nat} (h : ∀ g ∈ granules a n, tget false s.memUe g = false) : s.ueIn a n = false := by
  rw [State.ueIn, Bool.and_eq_false_iff]
  right
  rw [List.any_eq_false]
  exact fun g hg => by rw [h g hg]; decide

theorem granules_byte {a n i : Nat} (h : i < n) : ∀ g ∈ granules (a + i) 1, g ∈ granules a n := by
  intro g hg
  rw [granules, List.mem_eraseDups, List.mem_map] at hg ⊢
  obtain ⟨k, hk, rfl⟩ := hg
  rw [List.mem_range] at hk
  refine ⟨(a + i) / 8 - a / 8, List.mem_range.mpr (by omega), ?_⟩
  congr 1
  omega

/-! STS (R143, R144). -/

theorem performLoadsAt_read {s : State} (h : s.cx.a.unread = false) (ps : List (Nat × Nat)) : s.performLoadsAt ps = s := by
  unfold State.performLoadsAt
  rw [h]
  rfl

theorem drainAt_of_none {s : State} (hf : s.flights = []) (hu : s.cx.a.unread = false) (o : Origin) (ps : List (Nat × Nat)) :
    s.drainAt o ps = s := by
  unfold State.drainAt
  simp only [performLoadsAt_read hu, hf, List.isEmpty_nil, ↓reduceIte]

/-- This device's HBM, Firn or window. -/
def OwnRegion (d : Nat) : Prop := regionOf d = .hbm ∨ regionOf d = .firn ∨ regionOf d = .window

theorem placeOf_own {d : Nat} (h : OwnRegion d) : placeOf d = some (ownTdev, d) := by
  unfold placeOf
  rcases h with h | h | h <;> rw [h]

theorem readDpa_own {s : State} {d : Nat} (h : OwnRegion d) (n : Nat) :
    s.readDpa d n = if s.ueIn d n then .error 1 else .ok (readBytes s.mem d n) := by
  unfold State.readDpa
  rcases h with h | h | h <;> rw [h]

theorem writeAs_own {s : State} {d : Nat} (h : OwnRegion d) (ags : List Agent) (bs : List Byte) :
    s.writeAs ags d bs = .ok ((s.noteAt ags d bs).writeMem d bs) := by
  have hw : ∀ t : State, t.writeDpa d bs = .ok (t.writeMem d bs) := by
    intro t
    unfold State.writeDpa
    rcases h with h | h | h <;> rw [h]
  simp only [State.writeAs, hw]

theorem homeTdev_own : homeTdev ownTdev = ownTdev := by
  unfold homeTdev edgeTdev
  rw [if_neg (by omega)]

theorem partBadAt_own {s : State} {d : Nat} (h : OwnRegion d) (n : Nat) : s.partBadAt d n = s.partBad d n := by
  simp only [State.partBadAt, placeOf_own h, homeTdev_own, beq_self_eq_true, Bool.true_and]

/-- What is written to this device's memory is read back by its writer. -/
theorem readAs_storeMem {s : State} {ag : Agent} {d : Nat} {bs : List Byte} (h : OwnRegion d)
    (hp : s.partBad d bs.length = false) : ((s.noteAt [ag] d bs).writeMem d bs).readAs ag d bs.length = .ok bs := by
  have hp' : (s.noteAt [ag] d bs).partBad d bs.length = false := by
    obtain ⟨l, hl⟩ := onlyLags_noteAt s [ag] d bs
    rw [hl]
    exact hp
  have hclear := fun g => memUe_writeMem_clear (g := g) hp'
  have hread : ((s.noteAt [ag] d bs).writeMem d bs).readDpa d bs.length = .ok bs := by
    rw [readDpa_own h, ueIn_of_clear hclear, if_neg Bool.false_ne_true]
    exact congrArg _ (readBytes_writeBytes_same _ d bs)
  have hseen : ∀ i, i < bs.length → ((s.noteAt [ag] d bs).writeMem d bs).lagOf ag ownTdev (d + i) = none := by
    intro i hi
    show (s.noteAt [ag] d bs).lagOf ag ownTdev (d + i) = none
    rw [State.noteAt, placeOf_own h]
    exact lagOf_noteBytes (List.mem_singleton_self ag) (mem_bytesAt hi)
  have hbad : (List.range bs.length).any (fun i => ((s.noteAt [ag] d bs).writeMem d bs).badFor ag ownTdev (d + i)) = false := by
    rw [List.any_eq_false]
    intro i hi
    have hi := List.mem_range.mp hi
    rw [State.badFor, hseen i hi, homeTdev_own, beq_self_eq_true, Bool.true_and,
      ueIn_of_clear fun g hg => hclear g (granules_byte hi g hg)]
    exact Bool.false_ne_true
  unfold State.readAs
  dsimp only
  split
  · exact hread
  · rename_i hne
    rw [hread, placeOf_own h]
    simp only [hbad, Bool.false_eq_true, ↓reduceIte, State.asSeen, if_neg hne]
    congr 1
    apply List.ext_getElem
    · rw [List.length_map, List.length_zipIdx]
    · intro i h1 h2
      rw [List.getElem_map, List.getElem_zipIdx, Nat.zero_add, hseen i h2]
      rfl

theorem partBadAt_tlbFill (s : State) (c : Nat) (asid : BitVec 16) (va : W64) (a n : Nat) :
    (s.tlbFill c asid va).partBadAt a n = s.partBadAt a n := by
  obtain ⟨-, -, hue, -⟩ := tlbFill_frame s c asid va
  simp only [State.partBadAt, State.partBad, hue]

/-- A store with nothing in flight: its pieces are tested for errors, then written. -/
theorem storeVirt_eq {s : State} {va : W64} {bs : List Byte} {ps : List (Nat × Nat)} (hf : s.flights = []) (hu : s.cx.a.unread = false)
    (hx : s.xlRange va bs.length .store = .ok ps) : s.storeVirt va bs =
      if ps.any (fun p => s.partBadAt p.1 p.2) then
        (s.tlbFill s.focusCore s.cx.launch.asid va).enqueue (.stsErrorResponse s.focusCore s.focusCtx 1 va)
      else match (s.tlbFill s.focusCore s.cx.launch.asid va).writePieces [s.ctxAgent] ps bs with
        | .ok t => t
        | .error e => (s.tlbFill s.focusCore s.cx.launch.asid va).enqueue (.stsErrorResponse s.focusCore s.focusCtx e va) := by
  have hag : (s.tlbFill s.focusCore s.cx.launch.asid va).ctxAgent = s.ctxAgent := by
    obtain ⟨hc, -⟩ := tlbFill_frame s s.focusCore s.cx.launch.asid va
    unfold State.ctxAgent
    rw [hc, cx_tlbFill]
  unfold State.storeVirt
  rw [hx]
  dsimp only
  rw [drainAt_of_none hf hu, hag]
  simp only [partBadAt_tlbFill] <;> rfl

theorem storeVirt_own {s : State} {va : W64} {bs : List Byte} {d : Nat} (hf : s.flights = []) (hu : s.cx.a.unread = false)
    (hx : s.xlRange va bs.length .store = .ok [(d, bs.length)]) (hd : OwnRegion d) (hp : s.partBad d bs.length = false) :
    s.storeVirt va bs = ((s.tlbFill s.focusCore s.cx.launch.asid va).noteAt [s.ctxAgent] d bs).writeMem d bs := by
  have hbad : [(d, bs.length)].any (fun p => s.partBadAt p.1 p.2) = false := by
    rw [List.any_cons, List.any_nil, Bool.or_false, partBadAt_own hd, hp]
  rw [storeVirt_eq hf hu hx, hbad, if_neg Bool.false_ne_true]
  simp only [State.writePieces, List.take_length, writeAs_own hd]

theorem sameRegs_hold (s : State) (h : HeldEff) (n : Nat) : SameRegs s.cx (s.hold h n).cx := by
  unfold State.hold
  rw [cx_modCx]
  exact ⟨rfl, rfl, rfl, rfl, rfl, rfl, rfl, rfl, rfl, rfl, rfl, rfl, rfl, rfl, rfl, rfl, rfl, rfl⟩

/-- Settles O36. -/
theorem scalarStoreFrame : Obligations.ScalarStoreFrame := by
  refine ⟨fun s va bs d hf hu hx hd hp => ?_, fun s h n => ⟨onlyFocus_modCx s _, sameRegs_hold s h n, fun _ => rfl⟩,
    fun s va bs p hf hu hx hb => ?_, fun s va bs e p hf hu hx hb he => ?_⟩
  · dsimp only
    rw [storeVirt_own hf hu hx hd hp]
    obtain ⟨hc, hxx, hue, hq, -⟩ := tlbFill_frame s s.focusCore s.cx.launch.asid va
    have hmem := tlbFill_mem s s.focusCore s.cx.launch.asid va
    have hctx := fun d n => ctxs_tlbFill s s.focusCore s.cx.launch.asid va d n
    have hcx := cx_tlbFill s s.focusCore s.cx.launch.asid va
    have hp' : (s.tlbFill s.focusCore s.cx.launch.asid va).partBad d bs.length = false := by
      rw [State.partBad, hue]
      exact hp
    generalize s.tlbFill s.focusCore s.cx.launch.asid va = u at *
    obtain ⟨l, hl⟩ := onlyLags_noteAt u [s.ctxAgent] d bs
    have hread := readAs_storeMem (ag := s.ctxAgent) hd hp'
    rw [hl] at hread ⊢
    refine ⟨readBytes_writeBytes_same _ d bs, hread, fun a ha => ?_, hcx, fun c n => (hctx c n).1, fun c => (hctx c 0).2, hq⟩
    exact (tget_writeBytes_other _ d bs ha).trans (congrArg (fun m => tget 0 m a) hmem)
  · rw [storeVirt_eq hf hu hx, if_pos hb]
    exact ⟨List.mem_append_right _ (List.mem_singleton_self _), fun a => congrArg (fun m => tget 0 m a) (tlbFill_mem ..)⟩
  · rw [storeVirt_eq hf hu hx, hb, if_neg Bool.false_ne_true, he]
    exact List.mem_append_right _ (List.mem_singleton_self _)

end Sys2Proof.Machine
end

section
/-! SUPPORT. The MEM slot (R211 to R221). -/

namespace Sys2Proof.Machine

open Sys2Proof

/-! Of two writes at one key the later counts. -/

theorem tset_tset {α : Type} (t : Tbl α) (j : Nat) (v w : α) : tset (tset t j v) j w = tset t j w := by
  induction t with
  | nil => simp [tset]
  | cons p r ih =>
    obtain ⟨k, u⟩ := p
    by_cases hlt : j < k
    · simp [tset, hlt]
    · by_cases heq : j = k
      · simp [tset, heq]
      · simp [tset, hlt, heq, ih]

theorem tdel_tset {α : Type} (t : Tbl α) (j : Nat) (v : α) : tdel (tset t j v) j = tdel t j := by
  induction t with
  | nil => simp [tset, tdel]
  | cons p r ih =>
    obtain ⟨k, u⟩ := p
    unfold tset
    split
    · simp [tdel]
    · split
      · rename_i hjk
        simp [tdel, hjk]
      · simp only [tdel, List.filter_cons] at ih ⊢
        rw [ih]

theorem tdel_tdel {α : Type} (t : Tbl α) (j : Nat) : tdel (tdel t j) j = tdel t j := by
  simp [tdel]

/-- The later write counts alone, unless the earlier one took the entry away and the later lists it. -/
theorem tput_tput {α : Type} [DecidableEq α] {d : α} (t : Tbl α) (j : Nat) {v w : α} (h : v ≠ d ∨ v = w) :
    tput d (tput d t j v) j w = tput d t j w := by
  by_cases hv : v = d
  · have hw : w = d := by
      rcases h with h | h
      · exact absurd hv h
      · exact h ▸ hv
    simp only [tput, hv, hw, ↓reduceIte, tdel_tdel]
  · simp only [tput, hv, ↓reduceIte, tset_tset, tdel_tset]

/-- Of two writes of the context in focus the later counts. -/
theorem setCx_setCx (s : State) {x y : Ctx} (h : x ≠ Ctx.reset ∨ x = y) : (s.setCx x).setCx y = s.setCx y := by
  have hctx : (s.fcore.setCtx s.focusCtx x).setCtx s.focusCtx y = s.fcore.setCtx s.focusCtx y := by
    simp only [Core.setCtx, tput_tput _ _ h]
  have hcore : s.fcore.setCtx s.focusCtx x ≠ Core.reset ∨ s.fcore.setCtx s.focusCtx x = s.fcore.setCtx s.focusCtx y := by
    refine h.imp (fun hx he => hx ?_) (fun he => by rw [he])
    rw [← ctx_setCtx s.fcore s.focusCtx x, he]
    rfl
  simp only [State.setCx, State.setFcore, State.fcore, setCore_focusCore, setCore_focusCtx, core_setCore] at hctx hcore ⊢
  rw [hctx]
  simp only [State.setCore, tput_tput _ _ hcore]

/-- Writing its context back changes nothing that a later write of it would not. -/
theorem setCx_issued (s : State) (y : Ctx) : (s.issued.setCx s.issued.cx).setCx y = s.issued.setCx y := by
  by_cases hc : s.cx.iss.checked = true
  · have hi : s.issued = s := if_pos hc
    rw [hi]
    refine setCx_setCx s (.inl fun he => ?_)
    rw [he] at hc
    exact absurd hc (by decide)
  · have hi : s.issued = s.setCx s.cx.landAll := if_neg hc
    rw [hi, cx_setCx, setCx_setCx s (.inr rfl)]

/-! Rows of the local store (R212, R213). -/

theorem natOfBytes_lt (bs : List Byte) : natOfBytes bs < 256 ^ bs.length := by
  induction bs with
  | nil => simp [natOfBytes]
  | cons b r ih =>
    have hb := b.isLt
    rw [natOfBytes, List.length_cons, Nat.pow_succ']
    omega

theorem length_lsRead (k : Core) (e : LaunchEnv) (off n : Nat) : (k.lsRead e off n).length = n := by
  induction n generalizing off with
  | zero => rfl
  | succ n ih => rw [Core.lsRead, List.length_cons, ih]

theorem toNat_lsWord (k : Core) (e : LaunchEnv) (off : Nat) : (k.lsWord e off).toNat = natOfBytes (k.lsRead e off 4) := by
  have hlt := natOfBytes_lt (k.lsRead e off 4)
  rw [length_lsRead, ← Nat.pow_mul 2 8 4] at hlt
  rw [Core.lsWord, BitVec.toNat_ofNat, Nat.mod_eq_of_lt hlt]

theorem foldr_digit (ws : List W32) (l : Nat) :
    ws.foldr (fun w n => w.toNat + 2 ^ 32 * n) 0 / 2 ^ (32 * l) % 2 ^ 32 = (ws.getD l 0).toNat := by
  induction ws generalizing l with
  | nil => simp
  | cons w r ih =>
    have hw := w.isLt
    cases l with
    | zero =>
      simp only [List.foldr_cons, List.getD_cons_zero]
      omega
    | succ l =>
      rw [List.foldr_cons, List.getD_cons_succ, ← ih l, Nat.mul_succ, Nat.pow_add, Nat.mul_comm (2 ^ (32 * l)),
        ← Nat.div_div_eq_div_mul, Nat.add_mul_div_left _ _ (by decide), Nat.div_eq_of_lt hw, Nat.zero_add]

theorem lane_rowOfList (ws : List W32) {l : Nat} (h : l < 16) : lane (rowOfList ws) l = ws.getD l 0 := by
  have hpow : 2 ^ 512 = 2 ^ (32 * l) * 2 ^ (512 - 32 * l) := by
    rw [← Nat.pow_add]
    congr 1
    omega
  apply BitVec.eq_of_toNat_eq
  rw [lane, BitVec.extractLsb'_toNat, rowOfList, BitVec.toNat_ofNat, Nat.shiftRight_eq_div_pow, hpow, Nat.mod_mul_right_div_self,
    Nat.mod_mod_of_dvd _ (Nat.pow_dvd_pow 2 (by omega)), foldr_digit]

/-- The active lanes of the groups of G are those listed. -/
theorem mem_lanesOf {v : VecSt} {gm : BitVec 8} {k g l : Nat} :
    (g, l) ∈ v.lanesOf gm k ↔ g ∈ groupList gm ∧ l < 16 ∧ (v.act gm k g).getLsbD l = true := by
  simp [VecSt.lanesOf]

/-- What one group of lanes lands where no generator steps. -/
def groupRow (f : Nat → Nat → LaneRes) (act : BitVec 16) (g : Nat) : GroupLand :=
  groupLandOf g act ((List.range 16).map (fun l => if act.getLsbD l then f g l else ⟨0, 0, 0⟩))

theorem lane_groupRow (f : Nat → Nat → LaneRes) {act : BitVec 16} (g : Nat) {l : Nat} (hl : l < 16) (ha : act.getLsbD l = true) :
    lane (groupRow f act g).lo l = (f g l).lo := by
  rw [groupRow, groupLandOf, lane_rowOfList _ hl]
  simp [hl, ha]

/-- Where no generator steps, computing lanes only lands their results. -/
theorem landLanes_issued (s : State) (dest : LandDest) (lat : Nat) (gm : BitVec 8) (k : Nat) (f : VecSt → Nat → Nat → W32 → LaneRes) :
    s.issued.landLanes dest lat gm k 0 f = s.issued.land {
      count := lat, dest := dest, value := 0, slot := none,
      groups := (groupList gm).map (fun g => groupRow (fun g l => f s.issued.cx.a.v g l 0) (s.issued.cx.a.v.act gm k g) g) } := by
  unfold State.landLanes
  dsimp only
  rw [runGroups_zero]
  simp only [State.land, State.modVec, State.modCx, cx_setCx]
  exact setCx_issued s _

theorem row_loads {i : Instr} {o : MemArgs} (he : ∀ s, exec i s = slot i s (fun s => s.lsLoad i o)) {s : State} (hr : Ready i s)
    (hb : ∀ p ∈ s.issued.cx.a.v.lanesOf o.g o.k.toNat,
      s.issued.fcore.lsBad s.issued.cx.launch (s.issued.laneOf i p.1 p.2).toNat 4 = none) :
    ∃ t, exec i s = .next t ∧
      ∃ gl : List GroupLand, t = s.issued.land { count := 6, dest := .vec (opReg o.v), value := 0, slot := none, groups := gl } ∧
        gl.map (fun x => x.grp) = groupList o.g ∧
        ∀ x ∈ gl, x.act = s.issued.cx.a.v.act o.g o.k.toNat x.grp ∧ ∀ l, l < 16 → x.act.getLsbD l →
          (lane x.lo l).toNat = natOfBytes (s.issued.fcore.lsRead s.issued.cx.launch (s.issued.laneOf i x.grp l).toNat 4) := by
  have hnone := List.findSome?_eq_none_iff.mpr hb
  refine ⟨_, (he s).trans (slot_ready hr), ?_⟩
  unfold State.lsLoad
  dsimp only
  rw [hnone, landLanes_issued]
  refine ⟨_, rfl, ?_, ?_⟩
  · rw [List.map_map]
    exact List.map_id _
  · intro x hx
    obtain ⟨g, hg, rfl⟩ := List.mem_map.mp hx
    refine ⟨rfl, fun l hl hact => ?_⟩
    have hgood := hb (g, l) (mem_lanesOf.mpr ⟨hg, hl, hact⟩)
    have hlane := lane_groupRow (fun g l => plain (if (s.issued.fcore.lsBad s.issued.cx.launch (s.issued.laneOf i g l).toNat 4).isSome
      then lane (Config.freeRow (s.issued.free + g)) l else s.issued.fcore.lsWord s.issued.cx.launch (s.issued.laneOf i g l).toNat))
      g hl hact
    refine (congrArg BitVec.toNat hlane).trans ?_
    dsimp only at hgood ⊢
    rw [hgood]
    exact toNat_lsWord _ _ _

/-! Declared-latency loads, atomics and reductions (R214, R220). -/

/-- LDG and LDR take the lowest free replay slot. -/
theorem newLoad_lowest {s : State} {remote : Bool} {o : MemArgs} {n : Nat} (hn : n < 32) (hfree : tmem s.cx.a.v.replay n = false)
    (hlow : ∀ m, m < n → tmem s.cx.a.v.replay m = true) :
    s.newLoad remote o = s.issueLoad n {
      hnd := s.hr o.h, idx := s.memIdx o,
      act := (List.range 8).map (fun g => s.cx.a.v.act o.g o.k.toNat g), grps := o.g, dst := opReg o.v, lat := o.lat.toNat,
      remote := remote, cause := 0, pgrp := 0, flying := true } o.g o.lat.toNat := by
  have hfind : (List.range 32).find? (fun n => !tmem s.cx.a.v.replay n) = some n := by
    rw [List.find?_range_eq_some]
    exact ⟨by simp [hfree], List.mem_range.mpr hn, fun m hm => by simp [hlow m hm]⟩
  unfold State.newLoad
  dsimp only
  rw [hfind]

/-- The record bytes of a guarded segment are all that their account changes. -/
theorem a_recordUse (s : State) (i : Instr) : (s.recordUse i).cx.a = s.cx.a := by
  unfold State.recordUse
  split
  · rw [cx_modCx]
  · rfl

theorem load_issues {i : Instr} {o : MemArgs} {remote : Bool} (he : ∀ s, exec i s = slot i s (fun s => (s.recordUse i).newLoad remote o))
    {s : State} {n : Nat} (hr : Ready i s) (hn : n < 32) (hfree : tmem s.issued.cx.a.v.replay n = false)
    (hlow : ∀ m, m < n → tmem s.issued.cx.a.v.replay m = true) :
    exec i s = .next ((s.issued.recordUse i).issueLoad n {
      hnd := s.issued.hr o.h, idx := s.issued.memIdx o,
      act := (List.range 8).map (fun g => s.issued.cx.a.v.act o.g o.k.toNat g), grps := o.g, dst := opReg o.v,
      lat := o.lat.toNat, remote := remote, cause := 0, pgrp := 0, flying := true } o.g o.lat.toNat) := by
  have ha := a_recordUse s.issued i
  rw [he s, slot_ready hr, newLoad_lowest hn (by rw [ha]; exact hfree) (by rw [ha]; exact hlow)]
  simp only [State.memIdx, State.sr, State.hr, ha]

theorem reld_issues {o : MemArgs} {s : State} {r : RSlot} (hr : Ready (.reld o) s)
    (hs : tfind s.issued.cx.a.v.replay ((s.issued.sr o.s).toNat % 32) = some r) :
    exec (.reld o) s = .next (if s.issued.reldGroups o = 0 then s.issued else
      (s.issued.recordUse (.reld o)).issueLoad ((s.issued.sr o.s).toNat % 32) r (s.issued.reldGroups o) o.lat.toNat) := by
  refine (slot_ready hr).trans ?_
  dsimp only
  rw [hs]

theorem vatom_sends {o : MemArgs} {s : State} (hr : Ready (.vatom o) s) (hg : s.issued.cx.launch.guard = false)
    (hl : s.issued.cx.guard.replayLeft = []) :
    exec (.vatom o) s = .next (
      let lanes := s.issued.atomLanes (.vatom o) o
      let n := 8 * groupCount o.g
      let r := s.issued.reserve qMem n
      let f := (r.2.performLoadsAt (lanes.map (fun l => (l.2.1, 4)))).addFlight (.vatom s.issued.origin (o.x.extractLsb' 0 4).toNat lanes ((List.range n).map (fun j => r.1 + j)))
      (lanes.foldl (fun t l => t.tlbFill t.focusCore t.cx.launch.asid l.1) f.2).enqueue (.atomApply f.1)) := by
  refine (slot_ready hr).trans ?_
  have hcx : (s.issued.reserve qMem (8 * groupCount o.g)).2.cx.guard = s.issued.cx.guard ∧
      (s.issued.reserve qMem (8 * groupCount o.g)).2.cx.launch = s.issued.cx.launch := by
    simp [State.reserve, Ctx.launch]
  have hnew : (s.issued.reserve qMem (8 * groupCount o.g)).2.alreadySent = false := by
    simp only [State.alreadySent, hcx.1, hl, List.any_nil]
  have hmark : (s.issued.reserve qMem (8 * groupCount o.g)).2.markSent = (s.issued.reserve qMem (8 * groupCount o.g)).2 := by
    simp only [State.markSent, hcx.2, hg, Bool.false_eq_true, ↓reduceIte]
  simp only [hnew, hmark, Bool.false_eq_true, ↓reduceIte]

theorem vred_sends {o : MemArgs} {s : State} (hr : Ready (.vred o) s) (hg : s.issued.cx.launch.guard = false) :
    exec (.vred o) s = .next (
      let lanes := s.issued.atomLanes (.vred o) o
      let t := s.issued.performLoadsAt (lanes.map (fun l => (l.2.1, 4)))
      if lanes = [] then t else
        let f := t.addFlight (.vred s.issued.origin lanes.length [])
        (lanes.zipIdx).foldl (fun t p => (t.tlbFill t.focusCore t.cx.launch.asid p.1.1).sendRed p.1.2.1 4 (o.x.extractLsb' 0 4).toNat
          (p.1.2.2.1.zeroExtend 64) [{ org := t.origin, va := p.1.1, sig := none, vred := some (f.1, p.2) }]) f.2) := by
  refine (slot_ready hr).trans ?_
  dsimp only
  rw [hg]
  simp only [Bool.false_eq_true, ↓reduceIte, State.vredEffect, List.isEmpty_iff]

theorem vred_held {o : MemArgs} {s : State} (hr : Ready (.vred o) s) (hg : s.issued.cx.launch.guard = true) :
    exec (.vred o) s = .next (s.issued.holdSend (.vred o) none) := by
  refine (slot_ready hr).trans ?_
  rw [hg]
  rfl

/-- Settles O38. -/
theorem memSlot : Obligations.MemSlot := fun _ =>
  ⟨fun _ => row_loads fun _ => rfl, fun _ => row_loads fun _ => rfl, fun _ hr => slot_ready hr, fun _ hr => slot_ready hr,
    fun _ _ => load_issues fun _ => rfl, fun _ _ => load_issues fun _ => rfl, fun _ _ => reld_issues, fun _ => vatom_sends,
    fun _ => vred_sends, fun _ => vred_held⟩

end Sys2Proof.Machine
end

section
/-! SUPPORT. What survives a reset (R413, R417). -/

namespace Sys2Proof.Machine

open Sys2Proof

/-- A log that is not full keeps every event when one more is appended. -/
theorem mem_newestEvents {l : List LogEnt} (hl : l.length < 65536) (x : LogEnt) {e : LogEnt} (he : e ∈ l) :
    e ∈ newestEvents (l ++ [x]) := by
  have hall : newestEvents (l ++ [x]) = l ++ [x] := by
    unfold newestEvents
    rw [List.take_of_length_le (by simp; omega), List.reverse_reverse]
  rw [hall]
  exact List.mem_append_left _ he

/-- The record of a boot keeps the events of a log that is not full. -/
theorem log_bootLog {s : State} (hl : s.nun.log.length < 65536) {e : LogEnt} (he : e ∈ s.nun.log) : e ∈ s.bootLog.nun.log := by
  unfold State.bootLog
  split
  · exact he
  · exact mem_newestEvents hl _ he

/-- The record of a boot changes the log and its count of events alone. -/
theorem bootLog_frame (s : State) : ∃ (l : List LogEnt) (n : Nat), s.bootLog = { s with nun := { s.nun with log := l, nextSeq := n } } := by
  unfold State.bootLog
  split
  · exact ⟨_, _, rfl⟩
  · exact ⟨_, _, rfl⟩

/-- A table from which the keys past an end are removed gives the default there. -/
theorem tget_filter_beyond {α : Type} (d : α) (t : Tbl α) {e a : Nat} (h : e ≤ a) : tget d (t.filter (fun p => p.1 < e)) a = d := by
  induction t with
  | nil => rfl
  | cons p r ih =>
    by_cases hp : p.1 < e
    · rw [List.filter_cons_of_pos (by simpa using hp), tget, if_neg (by omega), ih]
    · rw [List.filter_cons_of_neg (by simpa using hp), ih]

/-- Settles O8. -/
theorem resetKeeps : Obligations.ResetKeeps := by
  intro s cold
  refine ⟨_, rfl, ?_⟩
  have hlog : s.nun.log.length < 65536 → ∀ e ∈ s.nun.log, e ∈ (s.rebooted cold).nun.log := by
    intro hl e he
    unfold State.rebooted
    refine log_bootLog ?_ ?_
    · cases cold <;> exact hl
    · cases cold <;> exact he
  obtain ⟨l, n, hboot⟩ : ∃ l n, s.rebooted cold = _ := bootLog_frame _
  rw [hboot] at hlog ⊢
  cases cold <;>
    exact ⟨rfl, rfl, rfl, rfl, rfl, rfl, hlog, fun _ ha => tget_filter_beyond 0 s.mem ha, rfl, rfl, rfl, rfl⟩

end Sys2Proof.Machine
end

section
/-! SUPPORT. The ENG slot and the result queues (R129, R237 to R239, R263, R300, R310). -/

namespace Sys2Proof.Machine

open Sys2Proof

/-! The result queues (R237 to R239). -/

theorem slots_reserve (q : QueueSt) (code n : Nat) : (q.reserve code n).2.slots code =
    q.slots code ++ (List.range n).map (fun i => { id := (q.reserve code n).1 + i, seq := tget 0 q.seq code, entry := none }) :=
  tget_tput_same _ _ _ _

theorem reserve_appends (q : QueueSt) (code n : Nat) :
    let r := q.reserve code n
    (r.2.slots code).length = (q.slots code).length + n ∧
    (∀ i, i < (q.slots code).length → (r.2.slots code)[i]? = (q.slots code)[i]?) ∧
    (∀ i, i < n → (r.2.slots code)[(q.slots code).length + i]? = some { id := r.1 + i, seq := tget 0 q.seq code, entry := none }) ∧
    tget 0 r.2.seq code = (tget 0 q.seq code + 1) % 65536 ∧
    (∀ other, other ≠ code → r.2.slots other = q.slots other ∧ tget 0 r.2.seq other = tget 0 q.seq other) := by
  refine ⟨?_, fun i hi => ?_, fun i hi => ?_, tget_tput_same _ _ _ _, fun other ho => ⟨tget_tput_other _ _ _ ho, tget_tput_other _ _ _ ho⟩⟩
  · simp [slots_reserve]
  · rw [slots_reserve, List.getElem?_append_left hi]
  · rw [slots_reserve, List.getElem?_append_right (Nat.le_add_right _ _)]
    simp [hi]

theorem popHead_takes (s : State) (code : Nat) :
    (s.popHead code).cx.a.q.slots code = (s.cx.a.q.slots code).drop 1 ∧
    (∀ other, other ≠ code → (s.popHead code).cx.a.q.slots other = s.cx.a.q.slots other) ∧
    OnlyFocus s (s.popHead code) ∧ (s.popHead code).cx.a.c = s.cx.a.c ∧ (s.popHead code).cx.a.v = s.cx.a.v ∧
    SameMem s (s.popHead code) := by
  have hcx : (s.popHead code).cx = { s.cx with a := { s.cx.a with
      q := { s.cx.a.q with q := tput [] s.cx.a.q.q code ((s.cx.a.q.slots code).drop 1) } } } := cx_modCx s _
  refine ⟨?_, fun other ho => ?_, onlyFocus_modCx s _, ?_, ?_, fun _ => rfl⟩
  · rw [hcx]
    exact tget_tput_same _ _ _ _
  · rw [hcx]
    exact tget_tput_other _ _ _ ho
  · rw [hcx]
  · rw [hcx]

/-! An ENG command at issue (R129, R263, R300). -/

theorem onlyLags_share (s : State) (ags : List Agent) (p : Lag → Unseen → Bool) : OnlyLags s (s.share ags p) := by
  unfold State.share
  split
  · exact ⟨s.lags, rfl⟩
  · exact ⟨_, rfl⟩

theorem onlyLags_acquire (s : State) (ag : Agent) (scope : Nat) (objs : SyncObj → Bool) : OnlyLags s (s.acquire ag scope objs) := by
  unfold State.acquire
  split
  · exact ⟨s.lags, rfl⟩
  · exact (onlyLags_share ..).trans (onlyLags_reachLags ..)

theorem OnlyLags.cx_eq {s t : State} (h : OnlyLags s t) : t.cx = s.cx := by
  obtain ⟨l, rfl⟩ := h
  rfl

/-- The context after its wait is consumed: the threshold is taken from its semaphore. -/
theorem cx_consumeWait (s : State) (o : EngArgs) : (s.consumeWait o).cx = { s.cx with a := { s.cx.a with c := { s.cx.a.c with
    sem := tput 0 s.cx.a.c.sem o.wsem.toNat (tget 0 s.cx.a.c.sem o.wsem.toNat - o.wthr.zeroExtend 16) } } } := by
  unfold State.consumeWait
  dsimp only
  split
  · rw [(onlyLags_acquire ..).cx_eq, cx_modCtl]
  · rw [cx_modCtl]

theorem sem_consumeWait (o : EngArgs) (s : State) (n : Nat) : tget 0 (s.consumeWait o).cx.a.c.sem n =
    if n = o.wsem.toNat then tget 0 s.cx.a.c.sem n - o.wthr.zeroExtend 16 else tget 0 s.cx.a.c.sem n := by
  rw [cx_consumeWait]
  dsimp only
  split
  · rename_i hn
    rw [hn, tget_tput_same]
  · rename_i hn
    rw [tget_tput_other _ _ _ hn]

/-- The queue of a command's results is read from the command and the scalars. -/
theorem queueOf_congr {s t : State} (i : Instr) (h : t.cx.a.c.scal = s.cx.a.c.scal) : t.queueOf i = s.queueOf i := by
  have hsr : ∀ r, t.sr r = s.sr r := fun r => by
    unfold State.sr CtlSt.sr
    rw [h]
  unfold State.queueOf
  simp only [hsr]

theorem recordUse_unguarded {s : State} (i : Instr) (h : s.cx.launch.guard = false) : s.recordUse i = s := by
  unfold State.recordUse
  rw [h]
  rfl

/-- A record of use changes neither the registers nor the launch of the context. -/
theorem launch_recordUse (s : State) (i : Instr) : (s.recordUse i).cx.launch = s.cx.launch := by
  unfold State.recordUse
  split
  · rw [cx_modCx]
    rfl
  · rfl

/-- Up to the reservation of its results, a command changes neither the scalars nor the launch of its context. -/
theorem waited_keeps (s : State) (i : Instr) (o : EngArgs) :
    ((s.recordUse i).newCmd.consumeWait o).cx.a.c.scal = s.cx.a.c.scal ∧
    ((s.recordUse i).newCmd.consumeWait o).cx.launch = s.cx.launch := by
  have hcx : (s.recordUse i).newCmd.cx = (s.recordUse i).cx := rfl
  rw [cx_consumeWait, hcx, a_recordUse]
  exact ⟨rfl, launch_recordUse s i⟩

theorem launch_reserve (s : State) (q n : Nat) : (s.reserve q n).2.cx.launch = s.cx.launch := by
  unfold State.reserve
  rw [cx_modCx]
  rfl

theorem engCmd_queue {i : Instr} {o : EngArgs} {s : State} (f : Nat → State → State) {q n : Nat} (h : s.queueOf i = some (q, n)) :
    s.engCmd i o f =
      let r := ((s.recordUse i).newCmd.consumeWait o).reserve q n
      if s.cx.launch.guard && heldEng i then r.2.holdSend i (some r.1) else f r.1 (r.2.beginCmd i o) := by
  obtain ⟨hscal, hlaunch⟩ := waited_keeps s i o
  unfold State.engCmd
  dsimp only
  rw [queueOf_congr i hscal, h]
  dsimp only
  rw [launch_reserve, hlaunch]

theorem engCmd_unqueued {i : Instr} {o : EngArgs} {s : State} (f : Nat → State → State) (h : s.queueOf i = none) :
    s.engCmd i o f =
      let t := (s.recordUse i).newCmd.consumeWait o
      if s.cx.launch.guard && heldEng i then t.holdSend i (some 0) else f 0 (t.beginCmd i o) := by
  obtain ⟨hscal, hlaunch⟩ := waited_keeps s i o
  unfold State.engCmd
  dsimp only
  rw [queueOf_congr i hscal, h]
  dsimp only
  rw [hlaunch]

/-! SCFG: the pair and the STALE of its array (R291, R310). -/

/-- Issue state, vector state and Serac registers of a context. -/
def SameIssue (x y : Ctx) : Prop := y.iss = x.iss ∧ y.a.r = x.a.r

theorem SameIssue.trans {x y z : Ctx} (h : SameIssue x y) (g : SameIssue y z) : SameIssue x z := ⟨g.1.trans h.1, g.2.trans h.2⟩

theorem sameIssue_applyInput (x : Ctx) (i : Input) : SameIssue x (x.applyInput i) := by
  cases i with
  | signal sem inc =>
    simp only [Ctx.applyInput, Ctx.semAdd]
    split <;> exact ⟨rfl, rfl⟩
  | _ => exact ⟨rfl, rfl⟩

/-- A signal or a fill, recorded or waiting, leaves the issue state and the Serac registers. -/
theorem sameIssue_input (x : Ctx) (i : Input) : SameIssue x (x.input i) := by
  unfold Ctx.input
  dsimp only
  split
  · split
    · exact SameIssue.trans ⟨rfl, rfl⟩ (sameIssue_applyInput _ i)
    · exact ⟨rfl, rfl⟩
  · exact sameIssue_applyInput x i

theorem cx_setCtxAt (s : State) (c n : Nat) (x : Ctx) :
    (s.setCtxAt c n x).cx = if c = s.focusCore ∧ n = s.focusCtx then x else s.cx := by
  unfold State.cx State.fcore State.setCtxAt
  rw [setCore_focusCore, setCore_focusCtx]
  by_cases hc : c = s.focusCore
  · by_cases hn : n = s.focusCtx
    · rw [if_pos ⟨hc, hn⟩, ← hc, ← hn, core_setCore, ctx_setCtx]
    · rw [if_neg (fun h => hn h.2), ← hc, core_setCore, ctx_setCtx_other _ _ (Ne.symm hn)]
  · rw [if_neg (fun h => hc h.1), core_setCore_other s _ (Ne.symm hc)]

theorem sameIssue_setCtxAt {s : State} {c n : Nat} {x : Ctx} (h : SameIssue (s.ctxAt c n) x) :
    SameIssue s.cx (s.setCtxAt c n x).cx := by
  rw [cx_setCtxAt]
  split
  · rename_i hf
    obtain ⟨rfl, rfl⟩ := hf
    exact h
  · exact ⟨rfl, rfl⟩

/-- A core whose contexts stand: so does the context in focus. -/
theorem cx_setCore_ctxs {s : State} {c : Nat} {k : Core} (h : k.ctxs = (s.core c).ctxs) : (s.setCore c k).cx = s.cx := by
  refine cx_of_ctxs rfl rfl fun d n => ?_
  by_cases hd : d = c
  · rw [hd, core_setCore, Core.ctx, h]
    rfl
  · rw [core_setCore_other s k hd]

theorem sameIssue_setCore {s : State} {c : Nat} {k : Core} (h : k.ctxs = (s.core c).ctxs) : SameIssue s.cx (s.setCore c k).cx := by
  rw [cx_setCore_ctxs h]
  exact ⟨rfl, rfl⟩

theorem sameIssue_fillRaw (s : State) (c lid code id : Nat) (v : W64) : SameIssue s.cx (s.fillRaw c lid code id v).cx := by
  unfold State.fillRaw
  dsimp only
  split
  · exact sameIssue_setCtxAt (sameIssue_input _ _)
  · exact sameIssue_setCore rfl

theorem sameIssue_signal (s : State) (c lid sem inc : Nat) : SameIssue s.cx (s.signal c lid sem inc).cx := by
  unfold State.signal
  split
  · exact ⟨rfl, rfl⟩
  · dsimp only
    split
    · exact sameIssue_setCtxAt (sameIssue_input _ _)
    · exact sameIssue_setCore rfl

theorem onlyLags_markDone (s : State) (ag : Agent) (o : SyncObj) : OnlyLags s (s.markDone ag o) := by
  unfold State.markDone
  split
  · exact ⟨s.lags, rfl⟩
  · exact ⟨_, rfl⟩

theorem onlyLags_release (s : State) (ag : Agent) (o : SyncObj) (scope : Nat) (p : Nat → Nat → Bool) : OnlyLags s (s.release ag o scope p) := by
  unfold State.release
  split
  · exact ⟨s.lags, rfl⟩
  · exact ⟨_, rfl⟩

theorem onlyLags_completes (s : State) (ag : Agent) (g : Signal) (rel done : SyncObj) : OnlyLags s (s.completes ag g rel done) := by
  unfold State.completes
  split
  · exact (onlyLags_release ..).trans (onlyLags_markDone ..)
  · exact onlyLags_markDone ..

theorem sameIssue_complete (s : State) (org : Origin) (code qid op status detail : Nat) (sig : Option Signal) :
    SameIssue s.cx (s.complete org code qid op status detail sig).cx := by
  have hfill : SameIssue s.cx (s.fillStatus org code qid op status detail).cx := sameIssue_fillRaw ..
  unfold State.complete
  dsimp only
  split
  · refine hfill.trans ?_
    rename_i g
    rw [← (onlyLags_completes (s.fillStatus org code qid op status detail) org.agent g (.slot org.core org.lid code qid)
      (.doneSlot org.core org.lid code qid)).cx_eq]
    unfold State.applySignal
    rw [← (onlyLags_completes _ org.agent g (.sem org.core org.lid g.sem) (.doneSem org.core org.lid g.sem)).cx_eq]
    exact sameIssue_signal ..
  · rw [(onlyLags_markDone ..).cx_eq]
    exact hfill

theorem sameIssue_completeSerac (s : State) (org : Origin) (op qid status detail : Nat) (sig : Signal) :
    SameIssue s.cx (s.completeSerac org op qid status detail sig).cx := by
  have hput (old : Bool) (x : Ctx) (i : Input) : SameIssue x (if old then x.input i else x.applyInput i) := by
    split
    · exact sameIssue_input x i
    · exact sameIssue_applyInput x i
  unfold State.completeSerac
  dsimp only
  split
  · exact sameIssue_setCtxAt ((hput _ _ _).trans (hput _ _ _))
  · exact sameIssue_complete ..

/-- Field n, of 6 bits, of the pairs. -/
theorem extract_putPair (b : BitVec 24) (p : BitVec 6) {n : Nat} (h : n < 4) :
    ((b &&& ~~~((0x3F : BitVec 24) <<< (6 * n))) ||| (p.zeroExtend 24 <<< (6 * n))).extractLsb' (6 * n) 6 = p := by
  apply BitVec.eq_of_getLsbD_eq
  intro i hi
  have hones : (0x3F : BitVec 24).getLsbD i = true := by
    have : ∀ i : Fin 6, (0x3F : BitVec 24).getLsbD i = true := by decide
    exact this ⟨i, hi⟩
  have hlt : 6 * n + i < 24 := by omega
  simp only [BitVec.getLsbD_extractLsb', BitVec.getLsbD_or, BitVec.getLsbD_and, BitVec.getLsbD_not, BitVec.getLsbD_shiftLeft, hi, hlt,
    decide_true, Bool.true_and, Nat.not_lt.mpr (Nat.le_add_right (6 * n) i), decide_false, Bool.not_false, Nat.add_sub_cancel_left,
    hones, Bool.not_true, Bool.and_false, Bool.false_or, BitVec.getLsbD_setWidth, Nat.lt_trans hi (by decide : 6 < 24)]

theorem getLsbD_setBit4 (b : BitVec 4) {n : Nat} (h : n < 4) : (setBit4 b n true).getLsbD n = true := by
  have hshift : ∀ n : Fin 4, (1 <<< n.val : BitVec 4).getLsbD n = true := by decide
  rw [setBit4, if_pos rfl, BitVec.getLsbD_or, hshift ⟨n, h⟩, Bool.or_true]

/-- The Serac registers after an SCFG of an array: the pair, unless refused, and STALE where a new pair meets a DIRTY array. -/
def scfgSer (r : SerSt) (no : Bool) (arr : Nat) (pair : BitVec 6) : SerSt :=
  if no || r.spair.extractLsb' (6 * arr) 6 = pair then r
  else { r with stale := if r.dirty.getLsbD arr then setBit4 r.stale arr true else r.stale,
                spair := (r.spair &&& ~~~ ((0x3F : BitVec 24) <<< (6 * arr))) ||| (pair.zeroExtend 24 <<< (6 * arr)) }

theorem spair_scfgSer (r : SerSt) (no : Bool) {arr : Nat} (pair : BitVec 6) (h : arr < 4) :
    (scfgSer r no arr pair).spair.extractLsb' (6 * arr) 6 = if no then r.spair.extractLsb' (6 * arr) 6 else pair := by
  unfold scfgSer
  by_cases heq : r.spair.extractLsb' (6 * arr) 6 = pair
  · simp only [heq, decide_true, Bool.or_true, ↓reduceIte, ite_self]
  · cases no with
    | true => rfl
    | false =>
      simp only [heq, decide_false, Bool.or_false, Bool.false_eq_true, ↓reduceIte]
      exact extract_putPair r.spair pair h

theorem stale_scfgSer (r : SerSt) (no : Bool) {arr : Nat} (pair : BitVec 6) (h : arr < 4) :
    (scfgSer r no arr pair).stale.getLsbD arr =
      (r.stale.getLsbD arr || (!no && r.spair.extractLsb' (6 * arr) 6 != pair && r.dirty.getLsbD arr)) := by
  unfold scfgSer
  by_cases heq : r.spair.extractLsb' (6 * arr) 6 = pair
  · simp [heq]
  · cases no with
    | true => simp
    | false =>
      by_cases hd : r.dirty.getLsbD arr = true
      · simp [heq, hd, getLsbD_setBit4 _ h]
      · simp [heq, hd]

/-- An SCFG at its array, with its result's slot: ownership, the pair and STALE, its completion, and its signal after the bundle. -/
def scfgSend (o : EngArgs) (q : Nat) (s : State) : State :=
  let arr := o.pf 22 2
  let a := (s.fcore.arr arr).take s.cx.launch.lid (s.focusCtx == 4)
  let refused := serBits (o.pf 19 3) == 4 && !a.cap4
  let r1 := scfgSer s.cx.a.r refused arr (BitVec.ofNat 6 (8 * o.pf 19 3 + o.pf 16 3))
  let s1 := (s.setFcore (s.fcore.setArr arr a)).modSer (fun _ => r1)
  (s1.completeSerac s1.origin 0x0F q (if refused then 0x23 else 0) (if refused then 0 else (r1.spair.extractLsb' (6 * arr) 6).toNat)
    { EngArgs.signal o with inc := 0 }).post (.semAdd o.ssem.toNat o.sinc.toNat)

/-- Its registers are those of `scfgSer`, and its signal joins what follows the bundle. -/
theorem cx_scfgSend (o : EngArgs) (q : Nat) (t : State) :
    (scfgSend o q t).cx.iss.post = t.cx.iss.post ++ [.semAdd o.ssem.toNat o.sinc.toNat] ∧
    (scfgSend o q t).cx.a.r = scfgSer t.cx.a.r
      (serBits (o.pf 19 3) == 4 && !((t.fcore.arr (o.pf 22 2)).take t.cx.launch.lid (t.focusCtx == 4)).cap4)
      (o.pf 22 2) (BitVec.ofNat 6 (8 * o.pf 19 3 + o.pf 16 3)) := by
  have hcx (n : Nat) (a : Arr) (r : SerSt) :
      ((t.setFcore (t.fcore.setArr n a)).modSer (fun _ => r)).cx = { t.cx with a := { t.cx.a with r := r } } := by
    have hset : (t.setFcore (t.fcore.setArr n a)).cx = t.cx := cx_setCore_ctxs rfl
    rw [State.modSer, cx_modCx, hset]
  unfold scfgSend
  dsimp only
  rw [cx_post]
  obtain ⟨hiss, hser⟩ := sameIssue_completeSerac _ _ _ _ _ _ _
  exact ⟨by rw [hiss, hcx], by rw [hser, hcx]⟩

/-- Settles O39. -/
theorem engSlot : Obligations.EngSlot := by
  refine ⟨fun o => ⟨fun _ hr => slot_ready hr, fun _ hr => slot_ready hr, fun _ hr => slot_ready hr, fun _ hr => slot_ready hr,
    fun _ hr => slot_ready hr, fun _ hr => slot_ready hr, fun _ hr => slot_ready hr, fun _ hr => slot_ready hr,
    fun _ hr => slot_ready hr, fun _ hr => slot_ready hr, fun _ hr => slot_ready hr, fun _ hr => slot_ready hr,
    fun _ hr => slot_ready hr, fun _ hr => slot_ready hr, fun _ hr => slot_ready hr, fun _ hr => slot_ready hr,
    fun _ hr => slot_ready hr, fun _ hr => slot_ready hr, fun _ hr => slot_ready hr, fun _ hr => slot_ready hr,
    fun _ hr => slot_ready hr, fun _ hr => slot_ready hr, fun _ hr => slot_ready hr, fun _ hr => slot_ready hr,
    fun _ hr => ⟨scfgSend o, slot_ready hr, fun q t => ?_⟩, ?_, ?_, ?_, sem_consumeWait o⟩, fun q code n _ => reserve_appends q code n, popHead_takes⟩
  · obtain ⟨hpost, hser⟩ := cx_scfgSend o q t
    have harr : o.pf 22 2 < 4 := (o.p.extractLsb' 22 2).isLt
    dsimp only
    rw [hser, spair_scfgSer _ _ _ harr, stale_scfgSer _ _ _ harr]
    exact ⟨hpost, rfl, rfl⟩
  · intro i s f hg hq
    rw [engCmd_unqueued f hq, hg, recordUse_unguarded i hg]
    rfl
  · intro i s f q n hg hq
    rw [engCmd_queue f hq, hg, recordUse_unguarded i hg]
    rfl
  · intro i s f q n hg hh hq
    rw [engCmd_queue f hq, hg, hh]
    rfl

end Sys2Proof.Machine
end

section
/-! SUPPORT. Words as fields: what a field of a concatenation is, and which bits a mask finds clear (R64, R72). -/

namespace Sys2Proof.Machine

open Sys2Proof

/-! The mask of the reserved bits (R72). -/

/-- A field whose bits a mask covers is 0 where the mask finds nothing set. -/
theorem field_clear {n : Nat} {w : BitVec n} {r : Nat} (h : w.toNat &&& r = 0) {s l : Nat} (hm : r / 2 ^ s % 2 ^ l = 2 ^ l - 1) :
    w.extractLsb' s l = 0#l := by
  apply BitVec.eq_of_getLsbD_eq
  intro i hi
  have hr : r.testBit (s + i) = true := by
    have := congrArg (fun m => Nat.testBit m i) hm
    simpa [Nat.testBit_mod_two_pow, Nat.testBit_div_two_pow, Nat.testBit_two_pow_sub_one, hi, Nat.add_comm] using this
  have hw := congrArg (fun m => Nat.testBit m (s + i)) h
  simp only [Nat.testBit_and, hr, Bool.and_true, Nat.zero_testBit] at hw
  simp only [BitVec.getLsbD_extractLsb', hi, decide_true, Bool.true_and, BitVec.getLsbD_zero]
  exact hw

theorem and_eq_zero_iff (m r : Nat) : m &&& r = 0 ↔ ∀ i, r.testBit i = true → m.testBit i = false := by
  constructor
  · intro h i hi
    have hw := congrArg (fun m => Nat.testBit m i) h
    simpa [hi] using hw
  · intro h
    apply Nat.eq_of_testBit_eq
    intro i
    rw [Nat.testBit_and, Nat.zero_testBit]
    cases hr : r.testBit i with
    | false => rw [Bool.and_false]
    | true => rw [h i hr, Bool.false_and]

/-- A mask finds nothing set in a concatenation where it finds nothing in its parts. -/
theorem toNat_append_and {a b : Nat} (x : BitVec a) (y : BitVec b) (r : Nat) :
    (x ++ y).toNat &&& r = 0 ↔ x.toNat &&& (r / 2 ^ b) = 0 ∧ y.toNat &&& (r % 2 ^ b) = 0 := by
  simp only [and_eq_zero_iff, Nat.testBit_div_two_pow, Nat.testBit_mod_two_pow, BitVec.testBit_toNat, BitVec.getLsbD_append,
    Bool.and_eq_true, decide_eq_true_eq]
  constructor
  · intro h
    refine ⟨fun i hi => ?_, fun i hi => ?_⟩
    · have := h (i + b) hi
      rwa [if_neg (by omega), Nat.add_sub_cancel] at this
    · have := h i hi.2
      rwa [if_pos hi.1] at this
  · rintro ⟨hx, hy⟩ i hi
    split
    · exact hy i ⟨‹_›, hi⟩
    · exact hx (i - b) (by rwa [Nat.sub_add_cancel (by omega)])

theorem and_ofNat_eq_zero {n : Nat} (w : BitVec n) (r : Nat) : w &&& BitVec.ofNat n r = 0#n ↔ w.toNat &&& r = 0 := by
  rw [← BitVec.toNat_inj, BitVec.toNat_and, BitVec.toNat_ofNat, BitVec.toNat_ofNat, Nat.zero_mod]
  have h := Nat.and_mod_two_pow (a := w.toNat) (b := r) (n := n)
  rw [Nat.mod_eq_of_lt w.isLt] at h
  rw [← h, Nat.mod_eq_of_lt (Nat.lt_of_le_of_lt Nat.and_le_left w.isLt)]

/-- A word is taken as an instruction where its reserved bits are 0 and the instruction's fields are admitted. -/
theorem checked_eq_ok {n : Nat} {w : BitVec n} {r : Nat} {i j : Instr} :
    checked w r i = .ok j ↔ w.toNat &&& r = 0 ∧ legal i = true ∧ i = j := by
  rw [← and_ofNat_eq_zero]
  unfold checked
  by_cases hw : w &&& BitVec.ofNat n r = 0#n <;> by_cases hl : legal i = true <;> simp [hw, hl]

theorem checked_ok {n : Nat} {w : BitVec n} {r : Nat} {i : Instr} (hw : w.toNat &&& r = 0) (hl : legal i = true) :
    checked w r i = .ok i := checked_eq_ok.mpr ⟨hw, hl, rfl⟩

/-! The fields of a word. -/

/-- A word is a concatenation where its two fields are the parts. -/
theorem append_eq_iff {a b : Nat} {x : BitVec a} {y : BitVec b} {w : BitVec (a + b)} :
    x ++ y = w ↔ x = w.extractLsb' b a ∧ y = w.extractLsb' 0 b := by
  constructor
  · rintro rfl
    rw [BitVec.extractLsb'_append_eq_left, BitVec.extractLsb'_append_eq_right]
    exact ⟨rfl, rfl⟩
  · rintro ⟨rfl, rfl⟩
    rw [BitVec.extractLsb'_append_extractLsb'_eq_extractLsb' (by omega)]
    exact BitVec.extractLsb'_eq_self

theorem extract_extract {n : Nat} (w : BitVec n) {s l s' l' : Nat} (h : s' + l' ≤ l) :
    (w.extractLsb' s l).extractLsb' s' l' = w.extractLsb' (s + s') l' := by
  apply BitVec.eq_of_getLsbD_eq
  intro i hi
  simp [hi, show s' + i < l by omega, Nat.add_assoc]

end Sys2Proof.Machine
end

section
/-! SUPPORT. The words of CTL, SCA, SCB, Moraine and Serac: each decoder gives back what the encoder writes (R72 to R74, R316 to
R323, R336). -/

namespace Sys2Proof.Machine

open Sys2Proof

theorem decodeCtl_encode32 {i : Instr} (hl : legal i = true) (hi : slotOf i = .ctl) : decodeCtl (encode32 i) = .ok i := by
  cases i with
  | br | brc | jr | call | ret | loop | loopi | lbrk | wait | post | waitp | yield | ckpt | trap | eret | halt | fence | acq | rel
  | mfs | mts =>
    dsimp only [encode32]
    simp (disch := decide) only [decodeCtl, BitVec.extractLsb'_append_eq_of_le, BitVec.extractLsb'_append_eq_of_add_le,
      BitVec.extractLsb'_eq_self, BitVec.toNat_ofNat, BitVec.ofNat_eq_ofNat, Nat.reduceSub, Nat.reduceMod, Nat.reducePow]
    exact checked_ok (by simp only [toNat_append_and, Nat.reduceDiv, Nat.reduceMod, Nat.reducePow, Nat.and_zero, BitVec.toNat_ofNat,
      Nat.zero_mod, Nat.zero_and, and_self]) hl
  | _ => cases hi

theorem decodeScalarBoth_encode32 {i : Instr} (hl : legal i = true) (hi : isScalarArith i = true) :
    decodeScalarBoth (encode32 i) = .ok i := by
  cases i with
  | add | sub | addi | and | or | xor | andi | ori | xori | shl | shr | sra | shli | shri | srai | mul | mulh | mulhu
  | divs | divu | min | max | minu | maxu | slt | sltu | seq | sne | selz | li | lui | clz | popc =>
    dsimp only [encode32]
    simp (disch := decide) only [decodeScalarBoth, BitVec.extractLsb'_append_eq_of_le, BitVec.extractLsb'_append_eq_of_add_le,
      BitVec.extractLsb'_eq_self, BitVec.toNat_ofNat, BitVec.ofNat_eq_ofNat, Nat.reduceSub, Nat.reduceMod, Nat.reducePow]
    exact checked_ok (by simp only [toNat_append_and, Nat.reduceDiv, Nat.reduceMod, Nat.reducePow, Nat.and_zero, BitVec.toNat_ofNat,
      Nat.zero_mod, Nat.zero_and, and_self]) hl
  | _ => cases hi

/-- The scalar instructions of SCB alone: scalar memory and handles (R74). -/
def isScalarB : Instr → Bool
  | .lds .. | .sts .. | .ldf .. | .stf .. | .hset .. | .hget .. | .hadv .. | .htile .. | .hname .. => true
  | _ => false

theorem decodeScalarB_encode32 {i : Instr} (hl : legal i = true) (hi : isScalarB i = true) :
    decodeScalarB (encode32 i) = .ok i := by
  cases i with
  | lds | sts | ldf | stf | hset | hget | hadv | htile | hname =>
    dsimp only [encode32]
    simp (disch := decide) only [decodeScalarB, BitVec.extractLsb'_append_eq_of_le, BitVec.extractLsb'_append_eq_of_add_le,
      BitVec.extractLsb'_eq_self, BitVec.toNat_ofNat, BitVec.ofNat_eq_ofNat, Nat.reduceSub, Nat.reduceMod, Nat.reducePow]
    exact checked_ok (by simp only [toNat_append_and, Nat.reduceDiv, Nat.reduceMod, Nat.reducePow, Nat.and_zero, BitVec.toNat_ofNat,
      Nat.zero_mod, Nat.zero_and, and_self]) hl
  | _ => cases hi

theorem decodeMoraine_encode32 {i : Instr} (hl : legal i = true) (hi : isMoraine i = true) :
    decodeMoraine (encode32 i) = .ok i := by
  cases i with
  | moraineVld | moraineVst | moraineFadd | moraineFsub | moraineFmul | moraineFma | moraineFmin | moraineFmax | moraineFcmp
  | moraineFsel | moraineRcp | moraineRsq | moraineCvtb | movi | moraineBcast | loopa | loopb | moraineEnd | mbxs | mbxw =>
    dsimp only [encode32]
    simp (disch := decide) only [decodeMoraine, BitVec.extractLsb'_append_eq_of_le, BitVec.extractLsb'_append_eq_of_add_le,
      BitVec.extractLsb'_eq_self, BitVec.toNat_ofNat, BitVec.ofNat_eq_ofNat, Nat.reduceSub, Nat.reduceMod, Nat.reducePow]
    exact checked_ok (by simp only [toNat_append_and, Nat.reduceDiv, Nat.reduceMod, Nat.reducePow, Nat.and_zero, BitVec.toNat_ofNat,
      Nat.zero_mod, Nat.zero_and, and_self]) hl
  | _ => cases hi

theorem decodeMicro_encode64 {i : Instr} (hl : legal i = true) (hi : isMicro i = true) : decodeMicro (encode64 i) = .ok i := by
  cases i with
  | sldw | sstrm | soutr | sacc | sdrn | sgath | mloop | madd | yp | msig | mwait | mend =>
    dsimp only [encode64]
    simp (disch := decide) only [decodeMicro, BitVec.extractLsb'_append_eq_of_le, BitVec.extractLsb'_append_eq_of_add_le,
      BitVec.extractLsb'_eq_self, BitVec.toNat_ofNat, BitVec.ofNat_eq_ofNat, Nat.reduceSub, Nat.reduceMod, Nat.reducePow]
    exact checked_ok (by simp only [toNat_append_and, Nat.reduceDiv, Nat.reduceMod, Nat.reducePow, Nat.and_zero, BitVec.toNat_ofNat,
      Nat.zero_mod, Nat.zero_and, and_self]) hl
  | _ => cases hi

end Sys2Proof.Machine
end

section
/-! SUPPORT. The words of VEA, VEB, MOV, MEM and ENG, whose fields do not depend on the opcode (R75 to R79). -/

namespace Sys2Proof.Machine

open Sys2Proof

/-! The opcode tables of the encoder are those of the decoder. -/

theorem vecOfOp_vecOp {i : Instr} {op : BitVec 7} {o : VArgs} (h : vecOp i = some (op, o)) :
    vecOfOp op.toNat o = some i ∧ encode32 i = 0 ∧ encode64 i = encodeVec op o := by
  cases i with
  | fadd | fsub | fmul | fma | fms | fnma | fmin | fmax | fabs | fneg | fcmp | fsel | fclass | rndi | ftoi | itof | getexp | getmant
  | expins | faddx | fsubx | fmulx | dwadd | dwsub | dwmul | dwadds | dwnorm | dwtof | rsum | rsumc | rmax | rmin | rsumi | fdot4
  | idotb | idotn | cvtf | cvtn | cvtb | iadd | isub | imul | imulh | imin | imax | iand | ior | ixor | ishl | ishr | isra | icmp
  | iabs | laneid | bcast | perm =>
    cases h
    exact ⟨rfl, rfl, rfl⟩
  | _ => cases h

theorem movOfOp_movOp {i : Instr} {op : BitVec 5} {o : MovArgs} (h : movOp i = some (op, o)) :
    movOfOp op.toNat o = some i ∧ encode32 i = encodeMov op o := by
  cases i with
  | movp | movr | xgc | pop | kmov | kand | kor | movs | movv | srseed =>
    cases h
    exact ⟨rfl, rfl⟩
  | _ => cases h

theorem memOfOp_memOp {i : Instr} {op : BitVec 6} {o : MemArgs} (h : memOp i = some (op, o)) :
    memOfOp op.toNat o = some i ∧ encode32 i = 0 ∧ encode64 i = encodeMem op o := by
  cases i with
  | vld | vst | vldx | vstx | ldg | ldr | reld | vatom | vred =>
    cases h
    exact ⟨rfl, rfl, rfl⟩
  | _ => cases h

theorem engOfOp_engOp {i : Instr} {op : BitVec 6} {o : EngArgs} (h : engOp i = some (op, o)) :
    engOfOp op.toNat o = some i ∧ encode32 i = 0 ∧ encode64 i = encodeEng op o := by
  unfold engOp at h
  split at h <;> cases h <;> exact ⟨rfl, rfl, rfl⟩

/-! The fields of the forms. -/

theorem vArgsOf_encodeVec (op : BitVec 7) (o : VArgs) :
    (encodeVec op o).extractLsb' 57 7 = op ∧ vArgsOf (encodeVec op o) = o := by
  have hx : o.x.extractLsb' 8 5 ++ o.x.extractLsb' 0 8 = o.x := append_eq_iff.mpr ⟨rfl, rfl⟩
  dsimp only [encodeVec, vArgsOf]
  simp (disch := decide) only [BitVec.extractLsb'_append_eq_of_le, BitVec.extractLsb'_append_eq_of_add_le,
      BitVec.extractLsb'_eq_self, Nat.reduceSub, hx, and_self]

theorem movArgsOf_encodeMov (op : BitVec 5) (o : MovArgs) :
    (encodeMov op o).extractLsb' 27 5 = op ∧ movArgsOf (encodeMov op o) = o := by
  dsimp only [encodeMov, movArgsOf]
  simp (disch := decide) only [BitVec.extractLsb'_append_eq_of_le, BitVec.extractLsb'_append_eq_of_add_le,
      BitVec.extractLsb'_eq_self, Nat.reduceSub, and_self]

theorem memArgsOf_encodeMem (op : BitVec 6) (o : MemArgs) :
    (encodeMem op o).extractLsb' 58 6 = op ∧ memArgsOf (encodeMem op o) = o ∧ (encodeMem op o).toNat &&& 0xF00000000 = 0 := by
  dsimp only [encodeMem, memArgsOf]
  simp (disch := decide) only [BitVec.extractLsb'_append_eq_of_le, BitVec.extractLsb'_append_eq_of_add_le,
      BitVec.extractLsb'_eq_self, Nat.reduceSub, toNat_append_and, Nat.reduceDiv, Nat.reduceMod, Nat.reducePow, Nat.and_zero,
      BitVec.ofNat_eq_ofNat, BitVec.toNat_ofNat, Nat.zero_mod, Nat.zero_and, and_self]

theorem engArgsOf_encodeEng (op : BitVec 6) (o : EngArgs) :
    (encodeEng op o).extractLsb' 58 6 = op ∧ engArgsOf (encodeEng op o) = o ∧ (encodeEng op o).toNat &&& 0x100000000 = 0 := by
  dsimp only [encodeEng, engArgsOf]
  simp (disch := decide) only [BitVec.extractLsb'_append_eq_of_le, BitVec.extractLsb'_append_eq_of_add_le,
      BitVec.extractLsb'_eq_self, Nat.reduceSub, toNat_append_and, Nat.reduceDiv, Nat.reduceMod, Nat.reducePow, Nat.and_zero,
      BitVec.ofNat_eq_ofNat, BitVec.toNat_ofNat, Nat.zero_mod, Nat.zero_and, and_self]

/-! Each decoder gives back what the encoder writes. -/

theorem decodeVea_encode64 {i : Instr} {op : BitVec 7} {o : VArgs} (hl : legal i = true) (h : vecOp i = some (op, o)) :
    decodeVea (encode64 i) = .ok i := by
  obtain ⟨hop, -, henc⟩ := vecOfOp_vecOp h
  obtain ⟨hfield, hargs⟩ := vArgsOf_encodeVec op o
  rw [decodeVea, henc, hfield, hargs, hop]
  exact checked_ok (Nat.and_zero _) hl

theorem decodeMov_encode32 {i : Instr} {op : BitVec 5} {o : MovArgs} (hl : legal i = true) (h : movOp i = some (op, o)) :
    decodeMov (encode32 i) = .ok i := by
  obtain ⟨hop, henc⟩ := movOfOp_movOp h
  obtain ⟨hfield, hargs⟩ := movArgsOf_encodeMov op o
  rw [decodeMov, henc, hfield, hargs, hop]
  exact checked_ok (Nat.and_zero _) hl

theorem decodeMem_encode64 {i : Instr} {op : BitVec 6} {o : MemArgs} (hl : legal i = true) (h : memOp i = some (op, o)) :
    decodeMem (encode64 i) = .ok i := by
  obtain ⟨hop, -, henc⟩ := memOfOp_memOp h
  obtain ⟨hfield, hargs, hclear⟩ := memArgsOf_encodeMem op o
  rw [decodeMem, henc, hfield, hargs, hop]
  exact checked_ok hclear hl

theorem decodeEng_encode64 {i : Instr} {op : BitVec 6} {o : EngArgs} (hl : legal i = true) (h : engOp i = some (op, o)) :
    decodeEng (encode64 i) = .ok i := by
  obtain ⟨hop, -, henc⟩ := engOfOp_engOp h
  obtain ⟨hfield, hargs, hclear⟩ := engArgsOf_encodeEng op o
  rw [decodeEng, henc, hfield, hargs, hop]
  exact checked_ok hclear hl

end Sys2Proof.Machine
end

section
/-! SUPPORT. Every slot decodes the bytes that encode what it takes (R64, R72 to R79). -/

namespace Sys2Proof.Machine

open Sys2Proof

/-! Words as bytes (R2). -/

theorem length_leBytes (n v : Nat) : (leBytes n v).length = n := by
  induction n generalizing v with
  | zero => rfl
  | succ n ih => rw [leBytes, List.length_cons, ih]

theorem leNat_leBytes (n v : Nat) : leNat (leBytes n v) = v % 256 ^ n := by
  induction n generalizing v with
  | zero => simp [leBytes, leNat, Nat.mod_one]
  | succ n ih =>
    have hpow : 256 ^ (n + 1) = 256 * 256 ^ n := Nat.pow_succ'
    simp only [leBytes, leNat, ih, BitVec.toNat_ofNat, hpow, Nat.mod_mul, Nat.reducePow]

theorem field_leBytes {n : Nat} (w : BitVec (8 * n)) (r : List Byte) : field (leBytes n w.toNat ++ r) 0 n = w := by
  have htake : (leBytes n w.toNat ++ r).take n = leBytes n w.toNat := by
    rw [List.take_append_of_le_length (Nat.le_of_eq (length_leBytes n _).symm), List.take_of_length_le (Nat.le_of_eq (length_leBytes n _))]
  rw [field, List.drop_zero, htake, leNat_leBytes, show 256 ^ n = 2 ^ (8 * n) by rw [Nat.pow_mul], Nat.mod_eq_of_lt w.isLt,
    BitVec.ofNat_toNat, BitVec.setWidth_eq]

/-- The slots of 32 bits decode the word that their bytes hold, whatever follows. -/
theorem decodeSlot_word32 (w : W32) (r : List Byte) :
    decodeSlot .ctl (leBytes 4 w.toNat ++ r) = decodeCtl w ∧ decodeSlot .sca (leBytes 4 w.toNat ++ r) = decodeSca w ∧
    decodeSlot .scb (leBytes 4 w.toNat ++ r) = decodeScb w ∧ decodeSlot .mov (leBytes 4 w.toNat ++ r) = decodeMov w := by
  have hlen : ¬(leBytes 4 w.toNat ++ r).length < 4 := by
    rw [List.length_append, length_leBytes]
    omega
  have hf : field (leBytes 4 w.toNat ++ r) 0 4 = w := field_leBytes (n := 4) w r
  exact ⟨(if_neg hlen).trans (congrArg decodeCtl hf), (if_neg hlen).trans (congrArg decodeSca hf),
    (if_neg hlen).trans (congrArg decodeScb hf), (if_neg hlen).trans (congrArg decodeMov hf)⟩

/-- The slots of 64 bits decode the word that their bytes hold, whatever follows. -/
theorem decodeSlot_word64 (w : W64) (r : List Byte) :
    decodeSlot .vea (leBytes 8 w.toNat ++ r) = decodeVea w ∧ decodeSlot .veb (leBytes 8 w.toNat ++ r) = decodeVeb w ∧
    decodeSlot .mem (leBytes 8 w.toNat ++ r) = decodeMem w ∧ decodeSlot .eng (leBytes 8 w.toNat ++ r) = decodeEng w := by
  have hlen : ¬(leBytes 8 w.toNat ++ r).length < 8 := by
    rw [List.length_append, length_leBytes]
    omega
  have hf : field (leBytes 8 w.toNat ++ r) 0 8 = w := field_leBytes (n := 8) w r
  exact ⟨(if_neg hlen).trans (congrArg decodeVea hf), (if_neg hlen).trans (congrArg decodeVeb hf),
    (if_neg hlen).trans (congrArg decodeMem hf), (if_neg hlen).trans (congrArg decodeEng hf)⟩

theorem encode_word32 {i : Instr} (h : encode32 i ≠ 0) : encode i = leBytes 4 (encode32 i).toNat := by
  rw [encode, if_pos (bne_iff_ne.mpr h)]

theorem encode_word64 {i : Instr} (h0 : encode32 i = 0) (h : encode64 i ≠ 0) : encode i = leBytes 8 (encode64 i).toNat := by
  rw [encode, if_neg (by rw [h0]; decide), if_pos (bne_iff_ne.mpr h)]

/-- A word that decodes is not 0, whose opcode no map assigns. -/
theorem ne_zero_of_decodes {n : Nat} {d : BitVec n → Except Reject Instr} {w : BitVec n} {i : Instr} (h : d w = .ok i)
    (h0 : d 0 = .error (.unassigned 0)) : w ≠ 0 := by
  rintro rfl
  rw [h0] at h
  cases h

/-! What each slot takes (R72, R79). -/

/-- VEB takes the vector instructions but those of the opcodes 0x17 to 0x24. -/
theorem vecOp_of_vShape {i : Instr} {sh : VShape} {o : VArgs} (h : vShape i = some (sh, o)) :
    ∃ op, vecOp i = some (op, o) ∧ sh.veb = !(decide (0x17 ≤ op.toNat) && decide (op.toNat ≤ 0x24)) := by
  unfold vShape at h
  split at h <;> cases h <;> exact ⟨_, rfl, rfl⟩

theorem engOp_of_engArgs {i : Instr} {o : EngArgs} (h : engArgs i = some o) : ∃ op, engOp i = some (op, o) := by
  unfold engArgs at h
  split at h <;> cases h <;> exact ⟨_, rfl⟩

/-- Beside the instructions of VEA, MOV, MEM and ENG, the slots take those of CTL and the scalar ones. -/
theorem scalar_of_inSlot {i : Instr} (h : ((vShape i).isNone && (movOp i).isNone && (memOp i).isNone && (engArgs i).isNone &&
    !isMicro i && !isMoraine i && inSlot i) = true) :
    slotOf i = .ctl ∨ slotOf i = .scb ∧ (isScalarArith i = true ∨ isScalarB i = true) := by
  cases i with
  | br | brc | jr | call | ret | loop | loopi | lbrk | wait | post | waitp | yield | ckpt | trap | eret | halt | fence | acq | rel
  | mfs | mts => exact .inl rfl
  | add | sub | addi | and | or | xor | andi | ori | xori | shl | shr | sra | shli | shri | srai | mul | mulh | mulhu
  | divs | divu | min | max | minu | maxu | slt | sltu | seq | sne | selz | li | lui | clz | popc => exact .inr ⟨rfl, .inl rfl⟩
  | lds | sts | ldf | stf | hset | hget | hadv | htile | hname => exact .inr ⟨rfl, .inr rfl⟩
  | _ => cases h

/-- The slot of an instruction that slots take, and the form of its word. -/
theorem slotOf_cases {i : Instr} (hs : inSlot i = true) :
    (slotOf i = .vea ∧ ∃ op o, vecOp i = some (op, o)) ∨ (slotOf i = .mov ∧ ∃ op o, movOp i = some (op, o)) ∨
    (slotOf i = .mem ∧ ∃ op o, memOp i = some (op, o)) ∨ (slotOf i = .eng ∧ ∃ op o, engOp i = some (op, o)) ∨
    slotOf i = .ctl ∨ slotOf i = .scb ∧ (isScalarArith i = true ∨ isScalarB i = true) := by
  by_cases hv : (vShape i).isSome = true
  · obtain ⟨⟨sh, o⟩, hp⟩ := Option.isSome_iff_exists.mp hv
    obtain ⟨op, hop, -⟩ := vecOp_of_vShape hp
    exact .inl ⟨if_pos hv, op, o, hop⟩
  by_cases hm : (movOp i).isSome = true
  · obtain ⟨⟨op, o⟩, hp⟩ := Option.isSome_iff_exists.mp hm
    exact .inr (.inl ⟨(if_neg hv).trans (if_pos hm), op, o, hp⟩)
  by_cases he : (memOp i).isSome = true
  · obtain ⟨⟨op, o⟩, hp⟩ := Option.isSome_iff_exists.mp he
    exact .inr (.inr (.inl ⟨(if_neg hv).trans ((if_neg hm).trans (if_pos he)), op, o, hp⟩))
  by_cases hg : (engArgs i).isSome = true
  · obtain ⟨o, hp⟩ := Option.isSome_iff_exists.mp hg
    obtain ⟨op, hop⟩ := engOp_of_engArgs hp
    exact .inr (.inr (.inr (.inl ⟨(if_neg hv).trans ((if_neg hm).trans ((if_neg he).trans (if_pos hg))), op, o, hop⟩)))
  · rw [Option.not_isSome_iff_eq_none] at hv hm he hg
    obtain ⟨hmicro, hmoraine⟩ : (!isMicro i) = true ∧ (!isMoraine i) = true := by
      simp only [inSlot, Bool.and_eq_true] at hs
      exact ⟨hs.1.2, hs.2⟩
    exact .inr (.inr (.inr (.inr (scalar_of_inSlot (by rw [hs, hv, hm, he, hg, hmicro, hmoraine]; rfl)))))

/-! The opcodes of the scalar words (R79). -/

theorem op_of_scalarBoth {w : W32} {i : Instr} (h : decodeScalarBoth w = .ok i) : (w.extractLsb' 26 6).toNat < 0x22 := by
  unfold decodeScalarBoth at h
  split at h
  case h_34 => cases h
  all_goals omega

theorem op_of_scalarB {w : W32} {i : Instr} (h : decodeScalarB w = .ok i) : 0x22 ≤ (w.extractLsb' 26 6).toNat := by
  unfold decodeScalarB at h
  split at h
  case h_10 => cases h
  all_goals omega

theorem decodeScb_encode32 {i : Instr} (hl : legal i = true) (hi : isScalarArith i = true ∨ isScalarB i = true) :
    decodeScb (encode32 i) = .ok i := by
  rcases hi with hi | hi
  · have h := decodeScalarBoth_encode32 hl hi
    rw [decodeScb, if_pos (op_of_scalarBoth h), h]
  · have h := decodeScalarB_encode32 hl hi
    rw [decodeScb, if_neg (Nat.not_lt.mpr (op_of_scalarB h)), h]

/-- SCA takes the scalar instructions of the opcodes below 0x22. -/
theorem decodeSca_encode32 {i : Instr} (hl : legal i = true) (hi : isScalarArith i = true ∨ isScalarB i = true)
    (hop : (encode32 i).toNat / 2 ^ 26 < 0x22) : decodeSca (encode32 i) = .ok i := by
  rw [← toNat_extractLsb'_top (k := 26) (n := 6)] at hop
  rcases hi with hi | hi
  · rw [decodeSca, if_neg (by omega), decodeScalarBoth_encode32 hl hi]
  · exact absurd (op_of_scalarB (decodeScalarB_encode32 hl hi)) (Nat.not_le.mpr hop)

/-- VEB takes the vector instructions that it shares with VEA. -/
theorem decodeVeb_encode64 {i : Instr} {sh : VShape} {o : VArgs} (hl : legal i = true) (h : vShape i = some (sh, o))
    (hveb : sh.veb = true) : decodeVeb (encode64 i) = .ok i := by
  obtain ⟨op, hop, hrange⟩ := vecOp_of_vShape h
  obtain ⟨-, -, henc⟩ := vecOfOp_vecOp hop
  have hfield : ((encode64 i).extractLsb' 57 7).toNat = op.toNat := by rw [henc, (vArgsOf_encodeVec op o).1]
  rw [decodeVeb, if_neg ?_, decodeVea_encode64 hl hop]
  rintro ⟨hlo, hhi⟩
  rw [hfield] at hlo hhi
  rw [hveb, decide_eq_true hlo, decide_eq_true hhi] at hrange
  cases hrange

/-! The round trip of each slot, through bytes. -/

theorem encode_ctl {i : Instr} (hl : legal i = true) (hi : slotOf i = .ctl) : encode i = leBytes 4 (encode32 i).toNat :=
  encode_word32 (ne_zero_of_decodes (decodeCtl_encode32 hl hi) rfl)

theorem encode_scalar {i : Instr} (hl : legal i = true) (hi : isScalarArith i = true ∨ isScalarB i = true) :
    encode i = leBytes 4 (encode32 i).toNat :=
  encode_word32 (ne_zero_of_decodes (decodeScb_encode32 hl hi) rfl)

theorem encode_mov {i : Instr} {op : BitVec 5} {o : MovArgs} (hl : legal i = true) (h : movOp i = some (op, o)) :
    encode i = leBytes 4 (encode32 i).toNat :=
  encode_word32 (ne_zero_of_decodes (decodeMov_encode32 hl h) rfl)

theorem encode_vec {i : Instr} {op : BitVec 7} {o : VArgs} (hl : legal i = true) (h : vecOp i = some (op, o)) :
    encode i = leBytes 8 (encode64 i).toNat :=
  encode_word64 (vecOfOp_vecOp h).2.1 (ne_zero_of_decodes (decodeVea_encode64 hl h) rfl)

theorem encode_mem {i : Instr} {op : BitVec 6} {o : MemArgs} (hl : legal i = true) (h : memOp i = some (op, o)) :
    encode i = leBytes 8 (encode64 i).toNat :=
  encode_word64 (memOfOp_memOp h).2.1 (ne_zero_of_decodes (decodeMem_encode64 hl h) rfl)

theorem encode_eng {i : Instr} {op : BitVec 6} {o : EngArgs} (hl : legal i = true) (h : engOp i = some (op, o)) :
    encode i = leBytes 8 (encode64 i).toNat :=
  encode_word64 (engOfOp_engOp h).2.1 (ne_zero_of_decodes (decodeEng_encode64 hl h) rfl)

/-- An instruction in its own slot. -/
theorem decodeSlot_own {i : Instr} (hl : legal i = true) (hs : inSlot i = true) (r : List Byte) :
    decodeSlot (slotOf i) (encode i ++ r) = .ok i := by
  rcases slotOf_cases hs with ⟨hslot, op, o, h⟩ | ⟨hslot, op, o, h⟩ | ⟨hslot, op, o, h⟩ | ⟨hslot, op, o, h⟩ | hslot | ⟨hslot, h⟩
  · rw [hslot, encode_vec hl h, (decodeSlot_word64 _ r).1, decodeVea_encode64 hl h]
  · rw [hslot, encode_mov hl h, (decodeSlot_word32 _ r).2.2.2, decodeMov_encode32 hl h]
  · rw [hslot, encode_mem hl h, (decodeSlot_word64 _ r).2.2.1, decodeMem_encode64 hl h]
  · rw [hslot, encode_eng hl h, (decodeSlot_word64 _ r).2.2.2, decodeEng_encode64 hl h]
  · rw [encode_ctl hl hslot, hslot, (decodeSlot_word32 _ r).1, decodeCtl_encode32 hl hslot]
  · rw [hslot, encode_scalar hl h, (decodeSlot_word32 _ r).2.2.1, decodeScb_encode32 hl h]

/-- An instruction in every slot that takes it, whatever bytes follow. -/
theorem decodeSlot_encode {sl : Slot} {i : Instr} (hl : legal i = true) (ht : Takes sl i) (r : List Byte) :
    decodeSlot sl (encode i ++ r) = .ok i := by
  obtain ⟨hs, hslot | ⟨rfl, hslot, hop⟩ | ⟨rfl, sh, o, hsh, hveb⟩⟩ := ht
  · exact hslot ▸ decodeSlot_own hl hs r
  · obtain ⟨h, -⟩ | ⟨h, -⟩ | ⟨h, -⟩ | ⟨h, -⟩ | h | ⟨-, h⟩ := slotOf_cases hs
    case inr.inr.inr.inr.inr => rw [encode_scalar hl h, (decodeSlot_word32 _ r).2.1, decodeSca_encode32 hl h hop]
    all_goals
      rw [hslot] at h
      cases h
  · obtain ⟨op, hop, -⟩ := vecOp_of_vShape hsh
    rw [encode_vec hl hop, (decodeSlot_word64 _ r).2.1, decodeVeb_encode64 hl hsh hveb]

/-- Settles O1. -/
theorem slotWordsRoundTrip : Obligations.SlotWordsRoundTrip := by
  intro sl i hl ht
  have h := decodeSlot_encode hl ht []
  rwa [List.append_nil] at h

end Sys2Proof.Machine
end

section
/-! SUPPORT. A bundle: its header names the slots, and their words follow in header-bit order (R64 to R66). -/

namespace Sys2Proof.Machine

open Sys2Proof

/-! The header (R64). -/

theorem mem_allSlots (a : Slot) : a ∈ allSlots := by
  cases a <;> decide

theorem bit_injective {a b : Slot} (h : a.bit = b.bit) : a = b := by
  have hall : ∀ a ∈ allSlots, ∀ b ∈ allSlots, a.bit = b.bit → a = b := by decide
  exact hall a (mem_allSlots a) b (mem_allSlots b) h

/-- Of slots in rising order, the header whose bits they are names them. -/
theorem headerSlots_sum {l : List Slot} (hl : l.Pairwise (fun a b => a.bit < b.bit)) :
    headerSlots (BitVec.ofNat 8 ((l.map (fun a => 2 ^ a.bit)).sum)) = l := by
  have hirrefl : Std.Irrefl (fun a b : Slot => a.bit < b.bit) := ⟨fun a => Nat.lt_irrefl _⟩
  have hanti : Std.Antisymm (fun a b : Slot => a.bit < b.bit) := ⟨fun a b h g => absurd h (Nat.lt_asymm g)⟩
  have hbits : (l.map Slot.bit).SortedLT := List.sortedLT_iff_pairwise.mpr (List.pairwise_map.mpr hl)
  have hsum : (l.map (fun a : Slot => 2 ^ a.bit)).sum.bitIndices = l.map Slot.bit := by
    rw [← Nat.bitIndices_sum_map_two_pow hbits, List.map_map]
    rfl
  have hall : allSlots.Pairwise (fun a b => a.bit < b.bit) := by decide
  refine (hall.filter _).eq_of_mem_iff hl fun (a : Slot) => ?_
  have hlt : a.bit < 8 := by cases a <;> decide
  rw [List.mem_filter, BitVec.getLsbD_ofNat, decide_eq_true hlt, Bool.true_and, ← Nat.mem_bitIndices, hsum]
  constructor
  · rintro ⟨-, hmem⟩
    obtain ⟨b, hb, heq⟩ := List.mem_map.mp hmem
    exact bit_injective heq ▸ hb
  · exact fun ha => ⟨mem_allSlots a, List.mem_map_of_mem ha⟩

/-! The words (R64). -/

theorem length_encode_own {i : Instr} (hl : legal i = true) (hs : inSlot i = true) : (encode i).length = (slotOf i).bytes := by
  rcases slotOf_cases hs with ⟨hslot, op, o, h⟩ | ⟨hslot, op, o, h⟩ | ⟨hslot, op, o, h⟩ | ⟨hslot, op, o, h⟩ | hslot | ⟨hslot, h⟩
  · rw [hslot, encode_vec hl h, length_leBytes]
    rfl
  · rw [hslot, encode_mov hl h, length_leBytes]
    rfl
  · rw [hslot, encode_mem hl h, length_leBytes]
    rfl
  · rw [hslot, encode_eng hl h, length_leBytes]
    rfl
  · rw [encode_ctl hl hslot, hslot, length_leBytes]
    rfl
  · rw [hslot, encode_scalar hl h, length_leBytes]
    rfl

/-- An instruction takes the bytes of each slot that takes it. -/
theorem length_encode {sl : Slot} {i : Instr} (hl : legal i = true) (ht : Takes sl i) : (encode i).length = sl.bytes := by
  obtain ⟨hs, hslot | ⟨rfl, hslot, -⟩ | ⟨rfl, sh, o, hsh, -⟩⟩ := ht
  · exact hslot ▸ length_encode_own hl hs
  · rw [length_encode_own hl hs, hslot]
    rfl
  · obtain ⟨op, hop, -⟩ := vecOp_of_vShape hsh
    rw [encode_vec hl hop, length_leBytes]
    rfl

/-- The words of a bundle's slots decode in order, whatever follows them. -/
theorem decodeSlots_encode {l : List (Slot × Instr)} (h : ∀ p ∈ l, legal p.2 = true ∧ Takes p.1 p.2) (rest : List Byte) :
    decodeSlots (l.map Prod.fst) (l.flatMap (fun p => encode p.2) ++ rest) = .ok l := by
  induction l with
  | nil => rfl
  | cons p l ih =>
    obtain ⟨⟨hleg, ht⟩, hrest⟩ := List.forall_mem_cons.mp h
    rw [List.map_cons, List.flatMap_cons, List.append_assoc, decodeSlots, decodeSlot_encode hleg ht]
    dsimp only
    rw [← length_encode hleg ht, List.drop_left, ih hrest]

theorem length_words {l : List (Slot × Instr)} (h : ∀ p ∈ l, legal p.2 = true ∧ Takes p.1 p.2) :
    (l.flatMap (fun p => encode p.2)).length = (l.map (fun p => p.1.bytes)).sum := by
  rw [List.length_flatMap]
  congr 1
  exact List.map_congr_left fun p hp => length_encode (h p hp).1 (h p hp).2

/-- Settles O6. -/
theorem bundlesDecode : Obligations.BundlesDecode := by
  intro l rest hne hsort h
  have hslots : headerSlots (BitVec.ofNat 8 ((l.map (fun p => 2 ^ p.1.bit)).sum)) = l.map Prod.fst := by
    have := headerSlots_sum (l := l.map Prod.fst) (List.pairwise_map.mpr hsort)
    rwa [List.map_map] at this
  have hlen := length_words h
  have hdec := decodeSlots_encode h rest
  revert hlen hdec hslots
  generalize l.flatMap (fun p => encode p.2) = ws, BitVec.ofNat 8 ((l.map (fun p => 2 ^ p.1.bit)).sum) = head
  intro hslots hlen hdec
  obtain ⟨p, l', rfl⟩ := List.exists_cons_of_ne_nil hne
  have hnz : head ≠ 0 := by
    rintro rfl
    cases hslots
  have hpos : 0 < p.1.bytes := by cases p.1 <;> decide
  obtain ⟨b, bs, hbs⟩ : ∃ b bs, ws ++ rest = b :: bs := by
    refine List.exists_cons_of_length_pos ?_
    rw [List.length_append, hlen, List.map_cons, List.sum_cons]
    omega
  have hfit : ¬(head :: b :: bs).length < 1 + ((headerSlots head).map Slot.bytes).sum := by
    rw [← hbs, hslots, List.length_cons, List.length_append, hlen, List.map_map]
    exact Nat.not_lt.mpr (by simp only [Function.comp_def]; omega)
  rw [List.cons_append, hbs, decodeLine, if_neg hnz, if_neg hfit, List.drop_one, List.tail_cons, ← hbs, hslots, hdec, List.map_map]
  rfl

end Sys2Proof.Machine
end

section
/-! SUPPORT. A word that decodes is the encoding of what it decodes to (R72 to R79, R80). -/

namespace Sys2Proof.Machine

open Sys2Proof

/-- A concatenation is a word where its two parts are the word's fields. -/
theorem toNat_append_eq_iff {a b n : Nat} {x : BitVec a} {y : BitVec b} {w : BitVec n} (hn : a + b = n) :
    (x ++ y).toNat = w.toNat ↔ x.toNat = (w.extractLsb' b a).toNat ∧ y.toNat = (w.extractLsb' 0 b).toNat := by
  subst hn
  rw [BitVec.toNat_inj, BitVec.toNat_inj, BitVec.toNat_inj, append_eq_iff]

theorem encode32_decodeCtl {w : W32} {i : Instr} (h : decodeCtl w = .ok i) : encode32 i = w := by
  unfold decodeCtl at h
  split at h
  case h_22 => cases h
  all_goals
    rename_i hop
    obtain ⟨hclear, -, rfl⟩ := checked_eq_ok.mp h
    have hzero := fun s l => field_clear hclear (s := s) (l := l)
    apply BitVec.eq_of_toNat_eq
    dsimp only [encode32]
    simp (disch := decide) only [toNat_append_eq_iff, extract_extract]
    simp (disch := decide) only [hop, hzero, Nat.reduceAdd, BitVec.ofNat_eq_ofNat, BitVec.toNat_ofNat, Nat.reduceMod, Nat.reducePow,
      and_self]

theorem encode32_decodeScalarBoth {w : W32} {i : Instr} (h : decodeScalarBoth w = .ok i) : encode32 i = w := by
  unfold decodeScalarBoth at h
  split at h
  case h_34 => cases h
  all_goals
    rename_i hop
    obtain ⟨hclear, -, rfl⟩ := checked_eq_ok.mp h
    have hzero := fun s l => field_clear hclear (s := s) (l := l)
    apply BitVec.eq_of_toNat_eq
    dsimp only [encode32]
    simp (disch := decide) only [toNat_append_eq_iff, extract_extract]
    simp (disch := decide) only [hop, hzero, Nat.reduceAdd, BitVec.ofNat_eq_ofNat, BitVec.toNat_ofNat, Nat.reduceMod, Nat.reducePow,
      and_self]

theorem encode32_decodeScalarB {w : W32} {i : Instr} (h : decodeScalarB w = .ok i) : encode32 i = w := by
  unfold decodeScalarB at h
  split at h
  case h_10 => cases h
  all_goals
    rename_i hop
    obtain ⟨hclear, -, rfl⟩ := checked_eq_ok.mp h
    have hzero := fun s l => field_clear hclear (s := s) (l := l)
    apply BitVec.eq_of_toNat_eq
    dsimp only [encode32]
    simp (disch := decide) only [toNat_append_eq_iff, extract_extract]
    simp (disch := decide) only [hop, hzero, Nat.reduceAdd, BitVec.ofNat_eq_ofNat, BitVec.toNat_ofNat, Nat.reduceMod, Nat.reducePow,
      and_self]

theorem encode64_decodeMicro {w : W64} {i : Instr} (h : decodeMicro w = .ok i) : encode64 i = w := by
  unfold decodeMicro at h
  split at h
  case h_13 => cases h
  all_goals
    rename_i hop
    obtain ⟨hclear, -, rfl⟩ := checked_eq_ok.mp h
    have hzero := fun s l => field_clear hclear (s := s) (l := l)
    apply BitVec.eq_of_toNat_eq
    dsimp only [encode64]
    simp (disch := decide) only [toNat_append_eq_iff, extract_extract]
    simp (disch := decide) only [hop, hzero, Nat.reduceAdd, BitVec.ofNat_eq_ofNat, BitVec.toNat_ofNat, Nat.reduceMod, Nat.reducePow,
      and_self]

theorem encode32_decodeMoraine {w : W32} {i : Instr} (h : decodeMoraine w = .ok i) : encode32 i = w := by
  unfold decodeMoraine at h
  split at h
  case h_21 => cases h
  all_goals
    rename_i hop
    obtain ⟨hclear, -, rfl⟩ := checked_eq_ok.mp h
    have hzero := fun s l => field_clear hclear (s := s) (l := l)
    apply BitVec.eq_of_toNat_eq
    dsimp only [encode32]
    simp (disch := decide) only [toNat_append_eq_iff, extract_extract]
    simp (disch := decide) only [hop, hzero, Nat.reduceAdd, BitVec.ofNat_eq_ofNat, BitVec.toNat_ofNat, Nat.reduceMod, Nat.reducePow,
      and_self]

/-! The tables of VEA, MOV, MEM and ENG. -/

theorem vecOp_vecOfOp {n : Nat} {i : Instr} {o : VArgs} (h : vecOfOp n o = some i) : vecOp i = some (BitVec.ofNat 7 n, o) := by
  unfold vecOfOp at h
  split at h <;> cases h <;> rfl

theorem movOp_movOfOp {n : Nat} {i : Instr} {o : MovArgs} (h : movOfOp n o = some i) : movOp i = some (BitVec.ofNat 5 n, o) := by
  unfold movOfOp at h
  split at h <;> cases h <;> rfl

theorem memOp_memOfOp {n : Nat} {i : Instr} {o : MemArgs} (h : memOfOp n o = some i) : memOp i = some (BitVec.ofNat 6 n, o) := by
  unfold memOfOp at h
  split at h <;> cases h <;> rfl

theorem engOp_engOfOp {n : Nat} {i : Instr} {o : EngArgs} (h : engOfOp n o = some i) : engOp i = some (BitVec.ofNat 6 n, o) := by
  unfold engOfOp at h
  split at h <;> cases h <;> rfl

theorem encodeVec_vArgsOf (w : W64) : encodeVec (BitVec.ofNat 7 (w.extractLsb' 57 7).toNat) (vArgsOf w) = w := by
  apply BitVec.eq_of_toNat_eq
  dsimp only [encodeVec, vArgsOf]
  rw [BitVec.ofNat_toNat, BitVec.setWidth_eq]
  simp (disch := decide) only [BitVec.extractLsb'_append_eq_of_le, BitVec.extractLsb'_append_eq_of_add_le, toNat_append_eq_iff, extract_extract]
  simp only [Nat.reduceAdd, Nat.reduceSub, and_self]

theorem encodeMov_movArgsOf (w : W32) : encodeMov (BitVec.ofNat 5 (w.extractLsb' 27 5).toNat) (movArgsOf w) = w := by
  apply BitVec.eq_of_toNat_eq
  dsimp only [encodeMov, movArgsOf]
  rw [BitVec.ofNat_toNat, BitVec.setWidth_eq]
  simp (disch := decide) only [toNat_append_eq_iff, extract_extract]
  simp only [Nat.reduceAdd, and_self]

theorem encodeMem_memArgsOf {w : W64} (hclear : w.toNat &&& 0xF00000000 = 0) :
    encodeMem (BitVec.ofNat 6 (w.extractLsb' 58 6).toNat) (memArgsOf w) = w := by
  have hzero : w.extractLsb' 32 4 = 0#4 := field_clear hclear (by decide)
  apply BitVec.eq_of_toNat_eq
  dsimp only [encodeMem, memArgsOf]
  rw [BitVec.ofNat_toNat, BitVec.setWidth_eq]
  simp (disch := decide) only [toNat_append_eq_iff, extract_extract]
  simp only [Nat.reduceAdd, hzero, BitVec.ofNat_eq_ofNat, and_self]

theorem encodeEng_engArgsOf {w : W64} (hclear : w.toNat &&& 0x100000000 = 0) :
    encodeEng (BitVec.ofNat 6 (w.extractLsb' 58 6).toNat) (engArgsOf w) = w := by
  have hzero : w.extractLsb' 32 1 = 0#1 := field_clear hclear (by decide)
  apply BitVec.eq_of_toNat_eq
  dsimp only [encodeEng, engArgsOf]
  rw [BitVec.ofNat_toNat, BitVec.setWidth_eq]
  simp (disch := decide) only [toNat_append_eq_iff, extract_extract]
  simp only [Nat.reduceAdd, hzero, BitVec.ofNat_eq_ofNat, and_self]

theorem encode64_decodeVea {w : W64} {i : Instr} (h : decodeVea w = .ok i) : encode64 i = w := by
  unfold decodeVea at h
  dsimp only at h
  split at h
  · rename_i j hop
    obtain ⟨-, -, rfl⟩ := checked_eq_ok.mp h
    rw [(vecOfOp_vecOp (vecOp_vecOfOp hop)).2.2, encodeVec_vArgsOf]
  · cases h

theorem encode64_decodeVeb {w : W64} {i : Instr} (h : decodeVeb w = .ok i) : encode64 i = w := by
  unfold decodeVeb at h
  dsimp only at h
  split at h
  · cases h
  · exact encode64_decodeVea h

theorem encode32_decodeMov {w : W32} {i : Instr} (h : decodeMov w = .ok i) : encode32 i = w := by
  unfold decodeMov at h
  dsimp only at h
  split at h
  · rename_i j hop
    obtain ⟨-, -, rfl⟩ := checked_eq_ok.mp h
    rw [(movOfOp_movOp (movOp_movOfOp hop)).2, encodeMov_movArgsOf]
  · cases h

theorem encode64_decodeMem {w : W64} {i : Instr} (h : decodeMem w = .ok i) : encode64 i = w := by
  unfold decodeMem at h
  dsimp only at h
  split at h
  · rename_i j hop
    obtain ⟨hclear, -, rfl⟩ := checked_eq_ok.mp h
    rw [(memOfOp_memOp (memOp_memOfOp hop)).2.2, encodeMem_memArgsOf hclear]
  · cases h

theorem encode64_decodeEng {w : W64} {i : Instr} (h : decodeEng w = .ok i) : encode64 i = w := by
  unfold decodeEng at h
  dsimp only at h
  split at h
  · rename_i j hop
    obtain ⟨hclear, -, rfl⟩ := checked_eq_ok.mp h
    rw [(engOfOp_engOp (engOp_engOfOp hop)).2.2, encodeEng_engArgsOf hclear]
  · cases h

theorem encode32_decodeSca {w : W32} {i : Instr} (h : decodeSca w = .ok i) : encode32 i = w := by
  unfold decodeSca at h
  dsimp only at h
  split at h
  · cases h
  · exact encode32_decodeScalarBoth h

theorem encode32_decodeScb {w : W32} {i : Instr} (h : decodeScb w = .ok i) : encode32 i = w := by
  unfold decodeScb at h
  split at h
  · exact encode32_decodeScalarBoth h
  · exact encode32_decodeScalarB h

/-- Settles O3. -/
theorem wordsReencode : Obligations.WordsReencode :=
  ⟨fun _ _ => encode32_decodeCtl, fun _ _ => encode32_decodeSca, fun _ _ => encode32_decodeScb, fun _ _ => encode32_decodeMov,
    fun _ _ => encode64_decodeVea, fun _ _ => encode64_decodeVeb, fun _ _ => encode64_decodeMem, fun _ _ => encode64_decodeEng,
    fun _ _ => encode64_decodeMicro, fun _ _ => encode32_decodeMoraine⟩

end Sys2Proof.Machine
end

section
/-! SUPPORT. The records of 32 and 64 bytes: Moraine commands and Drift entries (R343, R368). -/

namespace Sys2Proof.Machine

open Sys2Proof

/-! Fields of a record, from its front. -/

theorem field_succ (b : Byte) (r : List Byte) (off n : Nat) : field (b :: r) (off + 1) n = field r off n := rfl

theorem field_byte (b : Byte) (r : List Byte) : field (b :: r) 0 1 = b := by
  apply BitVec.eq_of_toNat_eq
  have hb := b.isLt
  simp only [field, List.drop_zero, List.take_succ_cons, List.take_zero, leNat, BitVec.toNat_ofNat]
  omega

/-- Past the bytes of a number. -/
theorem field_skip {n off : Nat} (v : Nat) (r : List Byte) (m : Nat) (h : n ≤ off) :
    field (leBytes n v ++ r) off m = field r (off - n) m := by
  unfold field
  rw [List.drop_append, List.drop_of_length_le (by rw [length_leBytes]; exact h), length_leBytes, List.nil_append]

theorem field_last {n : Nat} (w : BitVec (8 * n)) : field (leBytes n w.toNat) 0 n = w := by
  have h := field_leBytes w []
  rwa [List.append_nil] at h

/-! The bytes outside the named ranges are 0. -/

/-- A byte's offset lies in a named range. -/
def inNamed (named : List (Nat × Nat)) (k : Nat) : Bool := named.any (fun r => r.1 ≤ k && k < r.1 + r.2)

/-- The bytes of a list, from an offset on, are 0 outside the named ranges. -/
def zeroFrom (named : List (Nat × Nat)) (k : Nat) (bs : List Byte) : Bool := (bs.zipIdx k).all (fun p => p.1 == 0 || inNamed named p.2)

theorem zeroOutside_eq (bs : List Byte) (named : List (Nat × Nat)) : zeroOutside bs named = zeroFrom named 0 bs := rfl

theorem zeroFrom_nil (named : List (Nat × Nat)) (k : Nat) : zeroFrom named k [] = true := rfl

theorem zeroFrom_cons (named : List (Nat × Nat)) (k : Nat) (b : Byte) (r : List Byte) :
    zeroFrom named k (b :: r) = ((b == 0 || inNamed named k) && zeroFrom named (k + 1) r) := rfl

theorem zeroFrom_cons_named {named : List (Nat × Nat)} {k : Nat} (b : Byte) (r : List Byte) (h : inNamed named k = true) :
    zeroFrom named k (b :: r) = zeroFrom named (k + 1) r := by
  rw [zeroFrom_cons, h, Bool.or_true, Bool.true_and]

theorem zeroFrom_cons_zero (named : List (Nat × Nat)) (k : Nat) (r : List Byte) :
    zeroFrom named k (0#8 :: r) = zeroFrom named (k + 1) r := Bool.true_and _

theorem zeroFrom_append (named : List (Nat × Nat)) (k : Nat) (a b : List Byte) :
    zeroFrom named k (a ++ b) = (zeroFrom named k a && zeroFrom named (k + a.length) b) := by
  unfold zeroFrom
  rw [List.zipIdx_append, List.all_append]

/-- Bytes that are all named. -/
theorem zeroFrom_named {named : List (Nat × Nat)} {k : Nat} (n v : Nat) (h : (List.range' k n).all (inNamed named) = true) :
    zeroFrom named k (leBytes n v) = true := by
  induction n generalizing k v with
  | zero => rfl
  | succ n ih =>
    rw [List.range'_succ, List.all_cons, Bool.and_eq_true] at h
    rw [leBytes, zeroFrom_cons, h.1, Bool.or_true, Bool.true_and, ih _ h.2]

theorem zeroFrom_zero (named : List (Nat × Nat)) (k n : Nat) : zeroFrom named k (leBytes n 0) = true := by
  induction n generalizing k with
  | zero => rfl
  | succ n ih =>
    rw [leBytes, zeroFrom_cons, Nat.zero_div, ih]
    rfl

/-- A record is taken as an instruction where its unnamed bytes are 0 and the instruction's fields are admitted. -/
theorem checkedBytes_ok {bs : List Byte} {named : List (Nat × Nat)} {i : Instr} (hz : zeroFrom named 0 bs = true)
    (hl : legal i = true) : checkedBytes bs named i = .ok i := by
  unfold checkedBytes
  rw [zeroOutside_eq, hz, hl]
  rfl

/-! Moraine commands. -/

theorem decodeCommand_encodeRecord {i : Instr} (hl : legal i = true) (hi : isCommand i = true) :
    decodeCommand (encodeRecord i) = .ok i := by
  cases i with
  | loadp | run | rowsh | mbx | trig | fencem | relm | annm =>
    dsimp only [encodeRecord]
    simp only [List.append_assoc, List.cons_append, List.nil_append]
    unfold decodeCommand
    rw [if_neg (by simp only [List.length_cons, List.length_append, length_leBytes, ne_eq, not_true_eq_false, not_false_eq_true])]
    simp (disch := decide) only [field_succ, field_byte, field_leBytes, field_skip, Nat.reduceSub, BitVec.ofNat_eq_ofNat,
      BitVec.toNat_ofNat, Nat.reduceMod, Nat.reducePow]
    refine checkedBytes_ok ?_ hl
    simp (disch := decide) only [zeroFrom_append, zeroFrom_cons_zero, zeroFrom_cons_named, zeroFrom_zero, zeroFrom_named,
      length_leBytes, Nat.reduceAdd, Bool.and_self]
  | _ => cases hi

/-! Drift entries (R368). -/

/-- The header's bytes: TRIG takes two of its four. -/
theorem encodeDhdr_eq (op : Nat) (h : DHdr) : encodeDhdr op h = BitVec.ofNat 8 op :: ((0 : BitVec 3) ++ h.rel ++ h.acq ++ h.scope) ::
    (h.re ++ h.rn) :: 0#8 :: (leBytes 2 (h.trig.zeroExtend 16).toNat ++ leBytes 2 0 ++ leBytes 4 h.thresh.toNat ++
    leBytes 2 h.ctra.toNat ++ leBytes 2 h.ctrb.toNat) := by
  have htrig := h.trig.isLt
  have hlow : (h.trig.zeroExtend 16).toNat = h.trig.toNat := by
    rw [BitVec.toNat_setWidth, Nat.mod_eq_of_lt (by omega)]
  have hbytes : leBytes 4 h.trig.toNat = leBytes 2 (h.trig.zeroExtend 16).toNat ++ leBytes 2 0 := by
    rw [hlow]
    simp only [leBytes, List.cons_append, List.nil_append, Nat.div_div_eq_div_mul, Nat.reduceMul, Nat.zero_div]
    rw [Nat.div_eq_of_lt (by omega : h.trig.toNat < 65536), Nat.div_eq_of_lt (by omega : h.trig.toNat < 16777216)]
  rw [encodeDhdr, hbytes]
  rfl

theorem trig_fields (t : BitVec 12) : (t.zeroExtend 16).extractLsb' 0 12 = t ∧ (t.zeroExtend 16).extractLsb' 12 4 = 0#4 := by
  have ht := t.isLt
  constructor
  · apply BitVec.eq_of_toNat_eq
    rw [BitVec.extractLsb'_toNat, BitVec.toNat_setWidth, Nat.shiftRight_eq_div_pow]
    omega
  · apply BitVec.eq_of_toNat_eq
    rw [BitVec.extractLsb'_toNat, BitVec.toNat_setWidth, Nat.shiftRight_eq_div_pow, BitVec.toNat_ofNat]
    omega

/-- What decodes of a record that begins with the bytes of a header. -/
theorem header_fields (op : Nat) (h : DHdr) (r : List Byte) :
    dhdrReserved (encodeDhdr op h ++ r) = true ∧ dhdrOf (encodeDhdr op h ++ r) = h ∧
    field (encodeDhdr op h ++ r) 0 1 = BitVec.ofNat 8 op := by
  rw [encodeDhdr_eq]
  simp only [List.append_assoc, List.cons_append, List.nil_append]
  unfold dhdrReserved dhdrOf
  simp (disch := decide) only [field_succ, field_byte, field_leBytes, field_skip, field_last, Nat.reduceSub,
    BitVec.extractLsb'_append_eq_of_le, BitVec.extractLsb'_append_eq_of_add_le, BitVec.extractLsb'_eq_self,
    (trig_fields h.trig).1, (trig_fields h.trig).2]
  exact ⟨rfl, trivial, trivial⟩

theorem length_encodeDhdr (op : Nat) (h : DHdr) : (encodeDhdr op h).length = 16 := by
  simp only [encodeDhdr, List.length_append, List.length_cons, List.length_nil, length_leBytes]

theorem field_header (op : Nat) (h : DHdr) (r : List Byte) {off : Nat} (n : Nat) (ho : 16 ≤ off) :
    field (encodeDhdr op h ++ r) off n = field r (off - 16) n := by
  unfold field
  rw [List.drop_append, List.drop_of_length_le (by rw [length_encodeDhdr]; exact ho), length_encodeDhdr, List.nil_append]

/-- The bytes that a header names. -/
def headerBytes : List Nat := [0, 1, 2, 4, 5] ++ List.range' 8 8

theorem zeroFrom_header {named : List (Nat × Nat)} (op : Nat) (h : DHdr) (r : List Byte)
    (hn : headerBytes.all (inNamed named) = true) : zeroFrom named 0 (encodeDhdr op h ++ r) = zeroFrom named 16 r := by
  have hin := List.all_eq_true.mp hn
  have hrange : ∀ k n, (∀ j ∈ List.range' k n, j ∈ headerBytes) → (List.range' k n).all (inNamed named) = true :=
    fun k n hk => List.all_eq_true.mpr fun j hj => hin j (hk j hj)
  have htrig := zeroFrom_named 2 (h.trig.zeroExtend 16).toNat (hrange 4 2 (by decide))
  have hthresh := zeroFrom_named 4 h.thresh.toNat (hrange 8 4 (by decide))
  have hctra := zeroFrom_named 2 h.ctra.toNat (hrange 12 2 (by decide))
  have hctrb := zeroFrom_named 2 h.ctrb.toNat (hrange 14 2 (by decide))
  rw [encodeDhdr_eq]
  simp only [List.cons_append, List.append_assoc]
  rw [zeroFrom_cons_named _ _ (hin 0 (by decide)), zeroFrom_cons_named _ _ (hin 1 (by decide)),
    zeroFrom_cons_named _ _ (hin 2 (by decide)), zeroFrom_cons_zero]
  simp only [zeroFrom_append, length_leBytes, Nat.reduceAdd, zeroFrom_zero, htrig, hthresh, hctra, hctrb, Bool.true_and]

theorem decodeDrift_encodeRecord {i : Instr} (hl : legal i = true) (hi : (driftHdr i).isSome = true) :
    decodeDrift (encodeRecord i) = .ok i := by
  cases i with
  | put hd | putred hd | putmc hd | get hd | signal hd | rsstep hd | deliver hd =>
    dsimp only [encodeRecord]
    simp only [List.append_assoc, List.cons_append, List.nil_append]
    unfold decodeDrift
    rw [if_neg (by simp only [List.length_cons, List.length_append, length_leBytes, length_encodeDhdr, List.length_nil, ne_eq, not_true_eq_false, not_false_eq_true]),
      (header_fields _ hd _).1, (header_fields _ hd _).2.1, (header_fields _ hd _).2.2]
    simp (disch := decide) only [field_header, field_succ, field_byte, field_leBytes, field_skip, field_last, Nat.reduceSub,
      BitVec.ofNat_eq_ofNat, BitVec.toNat_ofNat, Nat.reduceMod, Nat.reducePow, Bool.not_true, Bool.false_eq_true, ↓reduceIte]
    refine checkedBytes_ok ?_ hl
    rw [zeroFrom_header _ _ _ (by decide)]
    simp (disch := decide) only [zeroFrom_append, zeroFrom_cons_zero, zeroFrom_cons_named, zeroFrom_zero, zeroFrom_named,
      length_leBytes, Nat.reduceAdd, Bool.and_self]
  | _ => cases hi

/-- Settles O2. -/
theorem engineWordsRoundTrip : Obligations.EngineWordsRoundTrip :=
  ⟨⟨fun _ => decodeMicro_encode64, fun _ => decodeMoraine_encode32⟩, fun _ => decodeCommand_encodeRecord, fun _ => decodeDrift_encodeRecord⟩

end Sys2Proof.Machine
end

section
/-! SUPPORT. The phases of a barrier object (R250, R251). -/

namespace Sys2Proof.Machine

open Sys2Proof

/-! Fields of the object. -/

theorem field_eq_extract (b : Barrier) (lo n : Nat) : b.field lo n = (b.extractLsb' lo n).toNat := by
  rw [Barrier.field, BitVec.extractLsb'_toNat, Nat.shiftRight_eq_div_pow]

theorem field_putBits_same (b : Barrier) {lo n : Nat} (v : Nat) (h : lo + n ≤ 256) :
    Barrier.field (putBits b lo n v) lo n = v % 2 ^ n := by
  rw [field_eq_extract, extract_putBits_same b v h, BitVec.toNat_ofNat]

theorem field_putBits_other (b : Barrier) {lo n a m : Nat} (v : Nat) (h : a + m ≤ lo ∨ lo + n ≤ a) :
    Barrier.field (putBits b lo n v) a m = b.field a m := by
  rw [field_eq_extract, field_eq_extract, extract_putBits_other b v h]

theorem signed_eq_zero {b : Barrier} {lo : Nat} : b.signed lo = 0 ↔ b.field lo 40 = 0 := by
  rw [Barrier.signed, field_eq_extract, ← BitVec.toInt_zero (w := 40), BitVec.toInt_inj, ← BitVec.toNat_inj, BitVec.toNat_zero]

/-- A sum that stays in its range is held as it is. -/
theorem addBytes_of_range {b : Barrier} {lo : Nat} {n : Int} (h : -(2 ^ 39) ≤ b.signed lo + n ∧ b.signed lo + n < 2 ^ 39) :
    b.addBytes lo n = putBits b lo 40 ((b.signed lo + n) % 2 ^ 40).toNat := by
  have hheld : max (-(2 ^ 39)) (min (b.signed lo + n) (2 ^ 39 - 1)) = b.signed lo + n := by omega
  unfold Barrier.addBytes
  dsimp only
  rw [hheld, if_pos rfl]

theorem signed_range (b : Barrier) (lo : Nat) : -(2 ^ 39) ≤ b.signed lo ∧ b.signed lo < 2 ^ 39 := by
  have hlo := BitVec.le_toInt (b.extractLsb' lo 40)
  have hhi := BitVec.toInt_lt (x := b.extractLsb' lo 40)
  unfold Barrier.signed
  omega

theorem signed_mod (b : Barrier) (lo : Nat) : (b.signed lo % 2 ^ 40).toNat = b.field lo 40 := by
  have h := (b.extractLsb' lo 40).isLt
  have hmod : (b.extractLsb' lo 40).toInt % ((2 ^ 40 : Nat) : Int) = ((b.extractLsb' lo 40).toNat : Int) % ((2 ^ 40 : Nat) : Int) := by
    rw [BitVec.toInt_eq_toNat_bmod, Int.bmod_emod]
  rw [field_eq_extract, Barrier.signed]
  omega

/-- Adding no bytes leaves the sum. -/
theorem addBytes_zero (b : Barrier) (lo : Nat) : b.addBytes lo 0 = putBits b lo 40 (b.field lo 40) := by
  rw [addBytes_of_range (by rw [add_zero]; exact signed_range b lo), add_zero, signed_mod]

/-! Complete() (R251). -/

/-- Where the arrivals or the bytes of the phase are not all in, nothing completes. -/
theorem complete_waits {b : Barrier} (h : b.arrived ≠ b.expect ∨ b.field 64 40 ≠ 0) (k : Nat) : b.complete k = b := by
  cases k with
  | zero => rfl
  | succ k =>
    rw [Barrier.complete, if_pos]
    simp only [Bool.or_eq_true, bne_iff_ne]
    exact h.elim (fun h => .inl (.inr h)) (fun h => .inr fun hp => h (signed_eq_zero.mp hp))

/-- The object at the end of a phase: PHASE flips, GEN steps, and the next count starts from what has come for it. -/
def Barrier.turned (b : Barrier) : Barrier :=
  let a := min b.nextArr b.expect
  let b1 := putBits (putBits b 63 1 (if b.phase then 0 else 1)) 192 64 (b.gen + 1)
  let b2 := putBits (putBits b1 0 21 a) 168 21 (b.nextArr - a)
  putBits (putBits b2 64 40 (b.field 128 40)) 128 40 0

theorem complete_turns {b : Barrier} (hperr : b.perr = false) (hexp : b.expect ≠ 0) (harr : b.arrived = b.expect)
    (hpend : b.field 64 40 = 0) (k : Nat) : b.complete (k + 1) = b.turned.complete k := by
  rw [Barrier.complete, if_neg]
  · rfl
  · simp [hperr, hexp, harr, Barrier.pending, signed_eq_zero.mpr hpend]

theorem turned_fields (b : Barrier) : b.turned.arrived = min b.nextArr b.expect ∧ b.turned.nextArr = b.nextArr - min b.nextArr b.expect ∧
    b.turned.phase = !b.phase ∧ b.turned.gen = (b.gen + 1) % 2 ^ 64 ∧ b.turned.expect = b.expect := by
  have harr : min b.nextArr b.expect < 2 ^ 21 := Nat.lt_of_le_of_lt (Nat.min_le_left ..) (Nat.mod_lt _ (by decide))
  have hnext : b.nextArr - min b.nextArr b.expect < 2 ^ 21 := Nat.lt_of_le_of_lt (Nat.sub_le ..) (Nat.mod_lt _ (by decide))
  unfold Barrier.turned
  refine ⟨?_, ?_, ?_, ?_, ?_⟩
  · simp (disch := decide) only [Barrier.arrived, field_putBits_other, field_putBits_same, Nat.mod_eq_of_lt harr]
  · rw [Barrier.nextArr, field_putBits_other _ _ (by decide), field_putBits_other _ _ (by decide),
      field_putBits_same _ _ (by decide), Nat.mod_eq_of_lt hnext]
  · show (Barrier.field _ 63 1 == 1) = !b.phase
    simp (disch := decide) only [field_putBits_other, field_putBits_same]
    cases b.phase <;> rfl
  · simp (disch := decide) only [Barrier.gen, field_putBits_other, field_putBits_same]
  · simp (disch := decide) only [Barrier.expect, field_putBits_other, field_putBits_same]

/-- A phase that is over ends, and no further one where the next has not all its arrivals. -/
theorem settle_turns {b : Barrier} (hperr : b.perr = false) (harr : b.arrived = b.expect) (hpend : b.field 64 40 = 0)
    (hnext : b.nextArr < b.expect) : b.settle = b.turned := by
  obtain ⟨ha, -, -, -, he⟩ := turned_fields b
  rw [Barrier.settle, complete_turns hperr (by omega) harr hpend]
  exact complete_waits (.inl (by rw [ha, he]; omega)) _

/-! Arrivals and deliveries (R251). -/

/-- An arrival that adds no bytes, while the phase lacks some. -/
theorem came_counts {b : Barrier} (h : b.arrived < b.expect) :
    b.came 0 = (putBits (putBits b 0 21 (b.arrived + 1)) 64 40 (b.field 64 40), false) := by
  unfold Barrier.came
  dsimp only
  rw [if_pos h, if_neg (by decide), addBytes_zero, field_putBits_other _ _ (by decide)]

theorem came_fields {b : Barrier} (h : b.arrived < b.expect) : (b.came 0).2 = false ∧ Barrier.arrived (b.came 0).1 = b.arrived + 1 ∧
    Barrier.expect (b.came 0).1 = b.expect ∧ Barrier.nextArr (b.came 0).1 = b.nextArr ∧ Barrier.phase (b.came 0).1 = b.phase ∧
    Barrier.gen (b.came 0).1 = b.gen ∧ Barrier.perr (b.came 0).1 = b.perr ∧ Barrier.field (b.came 0).1 64 40 = b.field 64 40 := by
  have hexp : b.expect < 2 ^ 21 := Nat.mod_lt _ (by decide)
  have hpend : b.field 64 40 < 2 ^ 40 := Nat.mod_lt _ (by decide)
  rw [came_counts h]
  refine ⟨rfl, ?_, ?_, ?_, ?_, ?_, ?_, ?_⟩
  · rw [Barrier.arrived, field_putBits_other _ _ (by decide), field_putBits_same _ _ (by decide), Nat.mod_eq_of_lt (by omega)]
  · simp (disch := decide) only [Barrier.expect, field_putBits_other]
  · simp (disch := decide) only [Barrier.nextArr, field_putBits_other]
  · simp (disch := decide) only [Barrier.phase, field_putBits_other]
  · simp (disch := decide) only [Barrier.gen, field_putBits_other]
  · simp (disch := decide) only [Barrier.perr, field_putBits_other]
  · rw [field_putBits_same _ _ (by decide), Nat.mod_eq_of_lt hpend]

/-- An arrival past the count. -/
theorem came_overruns {b : Barrier} (h : b.expect ≤ b.arrived) :
    b.came 0 = (putBits (putBits (putBits b 62 1 1) 168 21 (min (b.nextArr + 1) (2 ^ 21 - 1))) 128 40 (b.field 128 40), true) := by
  unfold Barrier.came
  dsimp only
  rw [if_neg (by omega), if_neg (by decide), addBytes_zero, field_putBits_other _ _ (by decide), field_putBits_other _ _ (by decide)]

/-- The last bytes of the phase under way are delivered. -/
theorem took_all {b : Barrier} {n : Nat} (hf : b.field 64 40 = n) (hn : n < 2 ^ 39) : b.took n b.phase = putBits b 64 40 0 := by
  have hsigned : b.signed 64 = n := by
    rw [Barrier.signed, BitVec.toInt_eq_toNat_of_lt (by rw [← field_eq_extract]; omega), ← field_eq_extract, hf]
  unfold Barrier.took
  rw [if_pos (beq_self_eq_true _), addBytes_of_range (by omega), hsigned, Int.add_right_neg]
  rfl

/-- Settles O42. -/
theorem barrierPhases : Obligations.BarrierPhases := by
  refine ⟨fun b n hn => ?_, fun b h => ?_, fun b hperr harr hpend hnext => ?_, fun b h hpend => ?_, fun b n hperr harr hpend hpos hn hnext => ?_⟩
  · simp (disch := decide) only [Barrier.init, Barrier.expect, Barrier.arrived, Barrier.nextArr, Barrier.phase, Barrier.gen,
      field_putBits_other, field_putBits_same, Nat.mod_eq_of_lt hn, Nat.zero_mod, and_self]
  · obtain ⟨hover, harr, hexp, -, hphase, hgen, -⟩ := came_fields (Nat.lt_of_succ_lt h)
    have hsettle : (b.arrive 0).1 = (b.came 0).1 := complete_waits (.inl (by rw [harr, hexp]; omega)) _
    rw [hsettle]
    exact ⟨harr, hphase, hgen, hover⟩
  · obtain ⟨hover, hcarr, hcexp, hcnext, hcphase, hcgen, hcperr, hcpend⟩ := came_fields (b := b) (by omega)
    have hsettle : (b.arrive 0).1 = Barrier.turned (b.came 0).1 :=
      settle_turns (hcperr.trans hperr) (by rw [hcarr, hcexp, harr]) (hcpend.trans hpend) (by rw [hcnext, hcexp]; exact hnext)
    obtain ⟨htarr, htnext, htphase, htgen, -⟩ := turned_fields (b.came 0).1
    rw [hsettle, htarr, htnext, htphase, htgen, hcnext, hcexp, hcphase, hcgen, Nat.min_eq_left (Nat.le_of_lt hnext)]
    exact ⟨rfl, Nat.sub_self _, rfl, rfl, hover⟩
  · have hnext : min (b.nextArr + 1) (2 ^ 21 - 1) < 2 ^ 21 := by omega
    have hsettle : (b.arrive 0).1 = (b.came 0).1 := by
      refine complete_waits (.inr ?_) _
      rw [came_overruns h]
      simpa (disch := decide) only [field_putBits_other] using hpend
    rw [hsettle, Barrier.arrive, came_overruns h]
    refine ⟨rfl, ?_, ?_, ?_, ?_⟩
    · simp (disch := decide) only [field_putBits_other, field_putBits_same, Nat.reducePow, Nat.reduceMod]
    · simp (disch := decide) only [Barrier.arrived, field_putBits_other]
    · rw [Barrier.nextArr, field_putBits_other _ _ (by decide), field_putBits_same _ _ (by decide), Nat.mod_eq_of_lt hnext]
    · simp (disch := decide) only [Barrier.phase, field_putBits_other]
  · have htook := took_all hpend hn
    have hfields : Barrier.expect (putBits b 64 40 0) = b.expect ∧ Barrier.arrived (putBits b 64 40 0) = b.arrived ∧
        Barrier.nextArr (putBits b 64 40 0) = b.nextArr ∧ Barrier.phase (putBits b 64 40 0) = b.phase ∧
        Barrier.perr (putBits b 64 40 0) = b.perr := by
      simp (disch := decide) only [Barrier.expect, Barrier.arrived, Barrier.nextArr, Barrier.phase, Barrier.perr, field_putBits_other,
        and_self]
    obtain ⟨hcexp, hcarr, hcnext, hcphase, hcperr⟩ := hfields
    have hsettle : b.delivered n b.phase = Barrier.turned (putBits b 64 40 0) := by
      rw [Barrier.delivered, htook]
      exact settle_turns (hcperr.trans hperr) (by rw [hcarr, hcexp, harr]) (field_putBits_same _ _ (by decide))
        (by rw [hcnext, hcexp]; exact hnext)
    obtain ⟨htarr, -, htphase, -⟩ := turned_fields (putBits b 64 40 0)
    rw [hsettle, htphase, htarr, hcphase, hcnext, hcexp, Nat.min_eq_left (Nat.le_of_lt hnext)]
    exact ⟨rfl, rfl⟩

end Sys2Proof.Machine
end

section
/-! SUPPORT. Names: routers and homes (R253 to R261). -/

namespace Sys2Proof.Machine

open Sys2Proof

/-! An interest that fails changes no record and no seal of a die. -/

theorem OnlyLags.dies_eq {s t : State} (h : OnlyLags s t) : t.dies = s.dies := by
  obtain ⟨l, rfl⟩ := h
  rfl

theorem dies_fillRaw (s : State) (c lid code id : Nat) (v : W64) : (s.fillRaw c lid code id v).dies = s.dies := by
  unfold State.fillRaw
  dsimp only
  split <;> rfl

theorem dies_signal (s : State) (c lid sem inc : Nat) : (s.signal c lid sem inc).dies = s.dies := by
  unfold State.signal
  split
  · rfl
  · dsimp only
    split <;> rfl

theorem dies_complete (s : State) (org : Origin) (code qid op status detail : Nat) (sig : Option Signal) :
    (s.complete org code qid op status detail sig).dies = s.dies := by
  unfold State.complete
  dsimp only
  split
  · rw [State.applySignal, dies_signal, (onlyLags_completes ..).dies_eq, (onlyLags_completes ..).dies_eq]
    exact dies_fillRaw ..
  · rw [(onlyLags_markDone ..).dies_eq]
    exact dies_fillRaw ..

theorem dies_endAcq (s : State) (id : Nat) (o : Origin) (st : Nat) : (s.endAcq id o st).dies = s.dies := by
  unfold State.endAcq
  dsimp only
  split <;> rfl

theorem dies_trigEnds (s : State) (u id st : Nat) : (s.trigEnds u id st).dies = s.dies := by
  unfold State.trigEnds
  dsimp only
  split
  · split
    · split <;> rfl
    · rfl
  · rfl

theorem dies_endRequest_error (s : State) (id st : Nat) : (s.endRequest id (.error st)).dies = s.dies := by
  unfold State.endRequest
  split
  · exact dies_complete ..
  · exact dies_endAcq ..
  · exact dies_trigEnds ..
  · rfl

theorem dies_sendTile (s : State) (r : Nat) (f : Face) (name : W64) (res : Except Nat (List Byte)) :
    (s.sendTile r f name res).dies = s.dies := by
  unfold State.sendTile
  split
  · split <;> rfl
  · rfl

theorem dies_foldl {α : Type} {f : State → α → State} (hf : ∀ s a, (f s a).dies = s.dies) (l : List α) (s : State) :
    (l.foldl f s).dies = s.dies := by
  induction l generalizing s with
  | nil => rfl
  | cons a l ih => rw [List.foldl_cons, ih, hf]

theorem dies_serveAll_error (s : State) (r : Nat) (name : W64) (st : Nat) : (s.serveAll r name (.error st)).dies = s.dies := by
  unfold State.serveAll
  refine (dies_foldl (fun s e => ?_) _ _).trans rfl
  refine (dies_foldl (fun s q => ?_) _ _).trans (dies_foldl (fun s f => dies_sendTile ..) _ _)
  split <;> exact dies_endRequest_error ..

theorem dies_answer_error (s : State) (r : Nat) (f : Face) (req : Option Nat) (name : W64) (st : Nat) :
    (s.answer r f req name (.error st)).dies = s.dies := by
  unfold State.answer
  split
  · exact dies_endRequest_error ..
  · exact dies_sendTile ..

/-- A seal that its die has: the die's table takes the later of the two, and the interests that it covers fail. -/
theorem sealHome_covered {s : State} {r tensor iter old : Nat} (h : tfind (s.die (dieKey r)).seals tensor = some old) :
    (s.sealHome r tensor iter).1 = false ∧ (s.sealHome r tensor iter).2.dies = (s.setDie (dieKey r) { s.die (dieKey r) with
      seals := tset (s.die (dieKey r)).seals tensor (max iter old) }).dies := by
  unfold State.sealHome
  dsimp only
  rw [h, Option.isNone_some, Bool.false_and, if_neg Bool.false_ne_true]
  refine ⟨rfl, ?_⟩
  refine (dies_foldl (fun s q => ?_) _ _).trans ((dies_foldl (fun s n => dies_serveAll_error ..) _ _).trans rfl)
  split
  · exact dies_answer_error ..
  · rfl

/-- A seal that its die has rises, and never falls. -/
theorem sealHome_rises {s : State} {r tensor iter old : Nat} (h : tfind (s.die (dieKey r)).seals tensor = some old) :
    ∃ t, s.sealHome r tensor iter = (false, t) ∧ tfind (t.die (dieKey r)).seals tensor = some (max iter old) := by
  obtain ⟨hroom, hdies⟩ := sealHome_covered (iter := iter) h
  refine ⟨(s.sealHome r tensor iter).2, by rw [← hroom], ?_⟩
  rw [State.die, hdies, State.setDie, tget_tput_same]
  exact tfind_tset_same _ _ _

/-- Settles O44. -/
theorem namesAtHome : Obligations.NamesAtHome := by
  refine ⟨fun s r name f req ex hops turn e he hn => ?_, fun s r name f req ex hops turn he hs => ?_, fun s r name pg len fl hs => ?_,
    fun s r name pg len fl e hs he hlt => ?_, fun s r name pg len fl hs he hfull => ?_, fun s r tensor iter old h => sealHome_rises h⟩
  · unfold State.interestHome
    dsimp only
    rw [he]
    exact if_pos hn
  · unfold State.interestHome
    dsimp only
    cases hrec : (s.die (dieKey r)).record name with
    | none => exact if_pos hs
    | some e => exact (if_neg (he e hrec)).trans (if_pos hs)
  · unfold State.announceHome
    dsimp only
    rw [if_pos hs]
    exact ⟨rfl, rfl⟩
  · unfold State.announceHome
    dsimp only
    rw [if_neg (Bool.eq_false_iff.mp hs), he]
    exact if_pos hlt
  · unfold State.announceHome
    dsimp only
    rw [if_neg (Bool.eq_false_iff.mp hs), he]
    exact if_pos hfull

/-! Messages that reach their router (R253 to R261). -/

/-- An interest can merge where an entry for its name has room. -/
theorem joins_isSome {x : Router} {name : W64} {req : Option Nat} :
    (x.joins name req).isSome = true ↔ ∃ e ∈ x.pit, e.name = name ∧ (req = none ∨ e.locals.length < 8) := by
  unfold Router.joins
  rw [List.findIdx?_isSome, List.any_eq_true]
  simp only [Bool.and_eq_true, beq_iff_eq, Bool.or_eq_true, Option.isNone_iff_eq_none, decide_eq_true_eq]

theorem letsIn_iff {s : State} {router r : Nat} {name : W64} {f : Face} {req : Option Nat} {ex hops : Nat} {rest : List Packet}
    (hw : (s.router router).wait = .interest r name f req ex hops :: rest) :
    s.letsIn router = true ↔ (s.router router).pit.length < 512 ∨
      (∃ e ∈ (s.router router).pit, e.name = name ∧ (req = none ∨ e.locals.length < 8)) ∨
      (s.homeOf router name = some router ∧
        ((∃ e, (s.die (dieKey router)).record name = some e ∧ e.name = name) ∨ (s.die (dieKey router)).sealedAt name = true)) := by
  unfold State.letsIn
  dsimp only
  rw [hw]
  simp only [Bool.or_eq_true, Bool.and_eq_true, decide_eq_true_eq, joins_isSome, beq_iff_eq, Option.map_eq_some_iff, or_assoc]

/-- Where every entry stands upstream, none goes there. -/
theorem promote_sent {l : List PitEnt} (all : List PitEnt) (h : ∀ e ∈ l, e.sent = true) : promote all l = (l, []) := by
  induction l with
  | nil => rfl
  | cons e l ih =>
    obtain ⟨he, hl⟩ := List.forall_mem_cons.mp h
    rw [promote, he, Bool.not_true, Bool.false_and, if_neg Bool.false_ne_true, ih hl]

theorem interestExpiry_sent {s : State} {router : Nat} (hsent : ∀ e ∈ (s.router router).pit, e.sent = true)
    (hw : (s.router router).wait = []) :
    let now := s.wallus.toNat
    let left (e : PitEnt) : PitEnt :=
      { e with faces := e.faces.filter (fun f => now ≤ f.2), locals := e.locals.filter (fun q => now ≤ q.2) }
    let pit := ((s.router router).pit.map left).filter (fun e => !(e.faces.isEmpty && e.locals.isEmpty))
    exec (.interestExpiry router) s = .next (
      ((s.router router).pit.flatMap (fun e => (e.locals.filter (fun q => q.2 < now)).map Prod.fst)).foldl
        (fun t id => t.endRequest id (.error 6)) (s.setRouter router { wait := [], pit := pit })) := by
  intro now left pit
  have hstand : ∀ e ∈ pit, e.sent = true := fun e he => by
    obtain ⟨e', he', rfl⟩ := List.mem_map.mp (List.mem_filter.mp he).1
    exact hsent e' he'
  show execInterestExpiry router s = _
  unfold execInterestExpiry
  dsimp only
  rw [hw, splitWait]
  dsimp only
  rw [List.append_nil]
  rw [promote_sent pit hstand]
  rfl

theorem arriveOrdered_only {s : State} {p r : Nat} {k : Packet} (hp : s.packets = [(p, k)]) (ho : k.ordered = some r) :
    s.arriveOrdered p = s.arrive p := by
  unfold State.arriveOrdered
  rw [hp]
  simp [tfind, ho]

/-- Settles O43. -/
theorem nameEvents : Obligations.NameEvents := by
  refine ⟨fun s p r name f req ex hops h => ?_, fun s router r name f req ex hops rest hw => ?_, fun s router => interestExpiry_sent,
    fun s p r name res h => ?_, fun s p r name pg len fl hops h => ?_, fun s p r home tensor iter fl hops h => ?_⟩
  · show execInterestArrival p s = _
    unfold execInterestArrival
    rw [h]
  · dsimp only
    rw [← letsIn_iff hw]
    have he : exec (.interestAdmit router) s = _ := (rfl : _ = execInterestAdmit router s)
    rw [he]
    unfold execInterestAdmit
    dsimp only
    rw [hw]
    exact ⟨fun hl => if_pos hl, fun hl => if_neg hl⟩
  · show execTileArrival p s = _
    unfold execTileArrival
    rw [h]
  · have hf : tfind s.packets p = some (.announce r name pg len fl hops) := by rw [h]; exact if_pos rfl
    show execAnnouncementArrival p s = _
    unfold execAnnouncementArrival
    rw [hf]
    dsimp only
    rw [arriveOrdered_only h rfl, State.arrive, hf, h]
    simp [tdel]
  · have hf : tfind s.packets p = some (.seal r home tensor iter fl hops) := by rw [h]; exact if_pos rfl
    show execSealArrival p s = _
    unfold execSealArrival
    rw [hf]
    dsimp only
    rw [arriveOrdered_only h rfl, State.arrive, hf, h]
    simp [tdel]

end Sys2Proof.Machine
end

section
/-! SUPPORT. What an atomic does at its home (R220, R246, R247, R270). -/

namespace Sys2Proof.Machine

open Sys2Proof

/-! The word at the home. -/

/-- The memory of this device, of the host's side excepted (R47). -/
theorem applyWord_own {s : State} {d : Nat} (h : regionOf d = .hbm ∨ regionOf d = .firn ∨ regionOf d = .window) (ags : List Agent)
    (w op v c : Nat) : s.applyWord ags d w op v c = if s.ueIn d w then .error 1 else
      .ok (readNat s.mem d w, s.storeMem ags d (bytesOfNat w (aopNew op (8 * w) (readNat s.mem d w) (v % 2 ^ (8 * w)) (c % 2 ^ (8 * w))))) := by
  unfold State.applyWord
  rcases h with h | h | h <;> rw [h]

/-- A store of memory changes what agents have not seen, the bytes, their errors and the doorbells. -/
theorem storeMem_frame (s : State) (ags : List Agent) (a : Nat) (bs : List Byte) :
    (s.storeMem ags a bs).mem = writeBytes s.mem a bs ∧ (s.storeMem ags a bs).cores = s.cores ∧ (s.storeMem ags a bs).flights = s.flights := by
  obtain ⟨l, hl⟩ := onlyLags_noteAt s ags a bs
  rw [State.storeMem, hl]
  exact ⟨rfl, rfl, rfl⟩

theorem applyWord_stores {s t : State} {ags : List Agent} {d w op v c old : Nat}
    (h : regionOf d = .hbm ∨ regionOf d = .firn ∨ regionOf d = .window) (ha : s.applyWord ags d w op v c = .ok (old, t)) :
    old = readNat s.mem d w ∧
    readNat t.mem d w = aopNew op (8 * w) old (v % 2 ^ (8 * w)) (c % 2 ^ (8 * w)) % 2 ^ (8 * w) ∧
    (∀ a, (a < d ∨ d + w ≤ a) → t.byte a = s.byte a) ∧ t.cores = s.cores ∧ t.flights = s.flights := by
  rw [applyWord_own h] at ha
  split at ha <;> cases ha
  obtain ⟨hmem, hcores, hflights⟩ := storeMem_frame s ags d
    (bytesOfNat w (aopNew op (8 * w) (readNat s.mem d w) (v % 2 ^ (8 * w)) (c % 2 ^ (8 * w))))
  refine ⟨rfl, ?_, fun a hout => ?_, hcores, hflights⟩
  · rw [hmem, readNat_writeBytes_same]
  · rw [State.byte, hmem, tget_writeBytes_other _ _ _ (by rw [bytesOfNat_length]; exact hout)]
    rfl

/-! The operations (R270). -/

/-- The signed reading of a number of w bits. -/
def signedNat (w x : Nat) : Int := if x ≥ 2 ^ w / 2 then (x : Int) - (2 ^ w : Nat) else x

theorem signedNat_eq_toInt {w x : Nat} (hw : w = 32 ∨ w = 64) (hx : x < 2 ^ w) : signedNat w x = (BitVec.ofNat w x).toInt := by
  rw [signedNat, BitVec.toInt_eq_toNat_cond, BitVec.toNat_ofNat, Nat.mod_eq_of_lt hx]
  rcases hw with rfl | rfl
  · split <;> split <;> omega
  · split <;> split <;> omega

theorem aopNew_min (w a v c : Nat) : aopNew 1 w a v c = if signedNat w v < signedNat w a then v else a := rfl
theorem aopNew_max (w a v c : Nat) : aopNew 2 w a v c = if signedNat w a < signedNat w v then v else a := rfl

theorem aopNew_results {w a v c : Nat} (hw : w = 32 ∨ w = 64) (ha : a < 2 ^ w) (hv : v < 2 ^ w) :
    aopNew 0 w a v c = (a + v) % 2 ^ w ∧
    aopNew 1 w a v c = (if (BitVec.ofNat w v).toInt < (BitVec.ofNat w a).toInt then v else a) ∧
    aopNew 2 w a v c = (if (BitVec.ofNat w a).toInt < (BitVec.ofNat w v).toInt then v else a) ∧
    aopNew 3 w a v c = min a v ∧ aopNew 4 w a v c = max a v ∧
    BitVec.ofNat w (aopNew 5 w a v c) = BitVec.ofNat w a &&& BitVec.ofNat w v ∧
    BitVec.ofNat w (aopNew 6 w a v c) = BitVec.ofNat w a ||| BitVec.ofNat w v ∧
    BitVec.ofNat w (aopNew 7 w a v c) = BitVec.ofNat w a ^^^ BitVec.ofNat w v ∧
    aopNew 8 w a v c = v ∧ aopNew 12 w a v c = (if a = c then v else a) := by
  refine ⟨rfl, ?_, ?_, rfl, rfl, BitVec.ofNat_and, BitVec.ofNat_or, BitVec.ofNat_xor, rfl, rfl⟩
  · rw [aopNew_min, signedNat_eq_toInt hw ha, signedNat_eq_toInt hw hv]
  · rw [aopNew_max, signedNat_eq_toInt hw ha, signedNat_eq_toInt hw hv]

/-- The least of three by a key, the first of equal ones, in either order of choice. -/
theorem least_assoc (f : Nat → Int) (a v v' : Nat) :
    (if f v' < f (if f v < f a then v else a) then v' else if f v < f a then v else a) =
      if f (if f v' < f v then v' else v) < f a then (if f v' < f v then v' else v) else a := by
  by_cases hva : f v < f a <;> by_cases hvv : f v' < f v <;> simp only [hva, hvv, ↓reduceIte]
  · rw [if_pos (hvv.trans hva)]
  · exact if_neg fun h => hvv (by omega)

/-- Two operations one after the other are one with the values combined. -/
theorem aopNew_combines {w op : Nat} (a v v' : Nat) (hop : op ≤ 7) :
    aopNew op w (aopNew op w a v 0) v' 0 = aopNew op w a (aopNew op w v v' 0) 0 := by
  match op, hop with
  | 0, _ =>
    show ((a + v) % 2 ^ w + v') % 2 ^ w = (a + (v + v') % 2 ^ w) % 2 ^ w
    rw [Nat.mod_add_mod, Nat.add_mod_mod, Nat.add_assoc]
  | 1, _ => exact least_assoc (signedNat w) a v v'
  | 2, _ =>
    have h := least_assoc (fun x => -signedNat w x) a v v'
    simp only [neg_lt_neg_iff] at h
    exact h
  | 3, _ => exact Nat.min_assoc a v v'
  | 4, _ => exact Nat.max_assoc a v v'
  | 5, _ => exact Nat.and_assoc a v v'
  | 6, _ => exact Nat.or_assoc a v v'
  | 7, _ => exact Nat.xor_assoc a v v'

/-- Settles O41. -/
theorem atomicsAtHome : Obligations.AtomicsAtHome :=
  ⟨⟨fun _ _ _ _ _ _ _ _ _ h => applyWord_stores h, fun s ags d w op v c h hue => (applyWord_own h ags w op v c).trans (if_pos hue)⟩,
    fun _ _ _ _ hw ha hv _ => aopNew_results hw ha hv, fun _ _ a v v' _ _ _ _ hop => aopNew_combines a v v' hop⟩

end Sys2Proof.Machine
end

section
/-! SUPPORT. Copies, atomics, reductions and barriers where they are performed (R61, R241 to R252, R268 to R274). -/

namespace Sys2Proof.Machine

open Sys2Proof

/-! Copies and rendezvous (R241, R243, R268, R269). -/

theorem copyCompletion_moved {s : State} {c n : Nat} {e : CopyEnt} {m : Nat × Nat} (h : tfind (s.core c).copies n = some e)
    (hop : e.op ≠ 3) (hm : e.moved = some m) : exec (.copyCompletion c n) s = .next (s.endCopy c n e) := by
  show execCopyCompletion c n s = _
  unfold execCopyCompletion
  rw [h]
  dsimp only
  rw [if_neg hop, hm, Option.isNone_some, if_neg Bool.false_ne_true, h]

theorem copyCompletion_moves {s : State} {c n : Nat} {e : CopyEnt} (h : tfind (s.core c).copies n = some e)
    (hop : e.op ≠ 3) (hm : e.moved = none) :
    exec (.copyCompletion c n) s = .next (match tfind ((s.moveCopy c n e).core c).copies n with
      | some e' => (s.moveCopy c n e).endCopy c n e'
      | none => s.moveCopy c n e) := by
  show execCopyCompletion c n s = _
  unfold execCopyCompletion
  rw [h]
  dsimp only
  rw [if_neg hop, hm, Option.isNone_none, if_pos rfl]
  cases tfind ((s.moveCopy c n e).core c).copies n <;> rfl

theorem barrierDelivered_decrements {s : State} {c n len : Nat} {r : List Nat} {e : CopyEnt} {dpa : Nat} {b : Barrier}
    (h : tfind (s.core c).copies n = some e) (hd : e.delivers = len :: r) :
    let s1 := (s.modCopy c n (fun e => { e with delivers := r })).freeCopy c n
    s.xlate (s.core c).tlb (s.envOf (e.origin c)).asid e.barrier .atomic = .ok dpa → s1.barrier dpa = some b →
    exec (.barrierDelivered c n) s = .next ((s1.release (e.origin c).agent (.barrier dpa) e.eng.scope.toNat
      (s1.inWin (e.origin c) e.hd)).putBarrier dpa (b.took len (e.eng.pf (if e.op = 1 then 7 else 1) 1 == 1))) := by
  intro s1 hx hb
  show execBarrierDelivered c n s = _
  unfold execBarrierDelivered
  rw [h]
  dsimp only
  rw [hd]
  dsimp only
  rw [hx]
  dsimp only
  rw [show ((s.modCopy c n (fun e => { e with delivers := r })).freeCopy c n).barrier dpa = some b from hb]

theorem rotqExchange_full {s : State} {lnch quad id : Nat} {r : Rot} (h : s.rotOf lnch quad true = some (id, r)) :
    let s1 := { s with rots := tdel s.rots id }
    exec (.rotqExchange lnch quad) s = .next (match s1.rotFail r with | none => s1.rotate r | some st => s1.endRot r st) := by
  intro s1
  show execRotqExchange lnch quad s = _
  unfold execRotqExchange
  rw [h]
  dsimp only
  split <;> split <;> simp_all [s1]

theorem rotTimeout_late {s : State} {lnch quad id : Nat} {r : Rot} (h : s.rotOf lnch quad false = some (id, r))
    (hlate : r.since + 1000 ≤ s.wallus.toNat) :
    exec (.rotTimeout lnch quad) s = .next ({ s with rots := tdel s.rots id }.endRot r 0x0C) := by
  show execRotTimeout lnch quad s = _
  unfold execRotTimeout
  rw [h]
  exact if_pos hlate

/-! What is kept before an atomic or a reduction (R61). -/

theorem keptBefore_iff (g f : Flight) : g.keptBefore f = true ↔
    (∃ o ∈ g.owners, o ∈ f.owners) ∧ (∃ p ∈ g.spans, ∃ q ∈ f.spans, meets p.1 p.2 q.1 q.2 = true) ∧
    (g.isRed = true → f.isRed = true) := by
  have hspans : (∃ q ∈ f.spans, ∃ p ∈ g.spans, meets p.1 p.2 q.1 q.2 = true) ↔
      ∃ p ∈ g.spans, ∃ q ∈ f.spans, meets p.1 p.2 q.1 q.2 = true :=
    ⟨fun ⟨q, hq, p, hp, h⟩ => ⟨p, hp, q, hq, h⟩, fun ⟨p, hp, q, hq, h⟩ => ⟨q, hq, p, hp, h⟩⟩
  unfold Flight.keptBefore Flight.touches
  simp only [Bool.and_eq_true, List.any_eq_true, List.contains_iff_mem, hspans, and_assoc]
  cases g.isRed <;> cases f.isRed <;> simp

theorem meets_iff (a n b m : Nat) :
    meets a n b m = true ↔ (a < b + m ∧ b < a + n) ∨ (regionOf a = .window ∧ regionOf b = .window) := by
  unfold meets
  simp only [Bool.or_eq_true, Bool.and_eq_true, decide_eq_true_eq, beq_iff_eq]

/-- Of a list of flights in issue order, those that satisfy a test and those kept before one of them. -/
def keptFrom (p : Nat → Flight → Bool) : List (Nat × Flight) → List (Nat × Flight)
  | [] => []
  | q :: r => if p q.1 q.2 || (keptFrom p r).any (fun f => q.2.keptBefore f.2) then q :: keptFrom p r else keptFrom p r

theorem withEarlier_eq (s : State) (p : Nat → Flight → Bool) : s.withEarlier p = keptFrom p s.flights := by
  unfold State.withEarlier
  rw [List.foldl_reverse]
  induction s.flights with
  | nil => rfl
  | cons q r ih => rw [List.foldr_cons, ih, keptFrom]

theorem keptFrom_sublist (p : Nat → Flight → Bool) (l : List (Nat × Flight)) : (keptFrom p l).Sublist l := by
  induction l with
  | nil => exact .slnil
  | cons q r ih =>
    rw [keptFrom]
    split
    · exact ih.cons_cons q
    · exact ih.cons q

/-- What lies behind an element decides it, and what lies before does not. -/
theorem mem_keptFrom_append {p : Nat → Flight → Bool} {xs ys : List (Nat × Flight)} {q : Nat × Flight} (hq : q ∉ xs) :
    q ∈ keptFrom p (xs ++ ys) ↔ q ∈ keptFrom p ys := by
  induction xs with
  | nil => exact Iff.rfl
  | cons x xs ih =>
    obtain ⟨hne, hnot⟩ := not_or.mp (mt List.mem_cons.mpr hq)
    rw [List.cons_append, keptFrom]
    split
    · rw [List.mem_cons, ih hnot]
      exact ⟨fun h => h.resolve_left hne, .inr⟩
    · exact ih hnot

theorem mem_keptFrom_cons {p : Nat → Flight → Bool} {ys : List (Nat × Flight)} {q : Nat × Flight} (hq : q ∉ ys) :
    q ∈ keptFrom p (q :: ys) ↔ p q.1 q.2 = true ∨ ∃ f ∈ keptFrom p ys, q.2.keptBefore f.2 = true := by
  have hnot : q ∉ keptFrom p ys := fun h => hq ((keptFrom_sublist p ys).subset h)
  rw [keptFrom]
  split
  · rename_i h
    rw [Bool.or_eq_true, List.any_eq_true] at h
    exact ⟨fun _ => h, fun _ => List.mem_cons_self⟩
  · rename_i h
    rw [Bool.or_eq_true, List.any_eq_true] at h
    exact ⟨fun hm => absurd hm hnot, fun hc => absurd hc h⟩

theorem withEarlier_mem {s : State} (n : Nat) (hnd : (s.flights.map Prod.fst).Nodup) :
    let l := s.withEarlier (fun j _ => j == n)
    l.Sublist s.flights ∧ ∀ (xs ys : List (Nat × Flight)) (p : Nat × Flight), s.flights = xs ++ p :: ys →
      (p ∈ l ↔ p.1 = n ∨ ∃ q ∈ l, q ∈ ys ∧ p.2.keptBefore q.2 = true) := by
  intro l
  have hl : l = keptFrom (fun j _ => j == n) s.flights := withEarlier_eq s _
  rw [hl]
  refine ⟨keptFrom_sublist _ _, fun xs ys p heq => ?_⟩
  rw [heq] at hnd ⊢
  have hnodup : (xs ++ p :: ys).Nodup := List.Nodup.of_map _ hnd
  obtain ⟨-, hys, hdis⟩ := List.nodup_append.mp hnodup
  obtain ⟨hpy, -⟩ := List.nodup_cons.mp hys
  have hpx : p ∉ xs := fun h => hdis p h p List.mem_cons_self rfl
  have hlater : ∀ q ∈ ys, (q ∈ keptFrom (fun j _ => j == n) (xs ++ p :: ys) ↔ q ∈ keptFrom (fun j _ => j == n) ys) := fun q hq => by
    have hqx : q ∉ xs ++ [p] := fun h => by
      rcases List.mem_append.mp h with h | h
      · exact hdis q h q (List.mem_cons_of_mem _ hq) rfl
      · exact hpy (List.mem_singleton.mp h ▸ hq)
    rw [← mem_keptFrom_append (ys := ys) hqx, List.append_assoc]
    rfl
  rw [mem_keptFrom_append hpx, mem_keptFrom_cons hpy, beq_iff_eq]
  refine or_congr_right ⟨?_, ?_⟩
  · rintro ⟨q, hq, hk⟩
    have hqy := (keptFrom_sublist _ _).subset hq
    exact ⟨q, (hlater q hqy).mpr hq, hqy, hk⟩
  · rintro ⟨q, hq, hqy, hk⟩
    exact ⟨q, (hlater q hqy).mp hq, hk⟩

theorem keptFrom_none {p : Nat → Flight → Bool} {l : List (Nat × Flight)} (h : ∀ q ∈ l, p q.1 q.2 = false) : keptFrom p l = [] := by
  induction l with
  | nil => rfl
  | cons q r ih =>
    obtain ⟨hq, hr⟩ := List.forall_mem_cons.mp h
    rw [keptFrom, ih hr, hq]
    rfl

/-- What is kept before none of those behind it, and fails the test itself, adds nothing. -/
theorem keptFrom_skip {p : Nat → Flight → Bool} {xs ys : List (Nat × Flight)}
    (h : ∀ q ∈ xs, p q.1 q.2 = false ∧ ∀ f ∈ keptFrom p ys, q.2.keptBefore f.2 = false) : keptFrom p (xs ++ ys) = keptFrom p ys := by
  induction xs with
  | nil => rfl
  | cons q r ih =>
    obtain ⟨⟨hp, hk⟩, hr⟩ := List.forall_mem_cons.mp h
    rw [List.cons_append, keptFrom, ih hr, hp, List.any_eq_false.mpr fun f hf => Bool.eq_false_iff.mp (hk f hf)]
    rfl

/-- Alone, where no earlier flight is kept before it. -/
theorem withEarlier_alone {s : State} {n : Nat} {f : Flight} {xs ys : List (Nat × Flight)} (h : s.flights = xs ++ (n, f) :: ys)
    (hx : ∀ p ∈ xs, p.1 ≠ n ∧ p.2.keptBefore f = false) (hy : ∀ p ∈ ys, p.1 ≠ n) : s.withEarlier (fun j _ => j == n) = [(n, f)] := by
  have hown : keptFrom (fun j _ => j == n) ((n, f) :: ys) = [(n, f)] := by
    rw [keptFrom, keptFrom_none fun q hq => beq_false_of_ne (hy q hq)]
    simp only [beq_self_eq_true, Bool.true_or, if_true]
  rw [withEarlier_eq, h, keptFrom_skip fun q hq => ⟨beq_false_of_ne (hx q hq).1, ?_⟩, hown]
  rw [hown]
  exact List.forall_mem_singleton.mpr (hx q hq).2

theorem tfind_own {f : Flight} {n : Nat} {xs ys : List (Nat × Flight)} (hx : ∀ p ∈ xs, p.1 ≠ n) : tfind (xs ++ (n, f) :: ys) n = some f := by
  induction xs with
  | nil => exact if_pos rfl
  | cons q r ih =>
    obtain ⟨hq, hr⟩ := List.forall_mem_cons.mp hx
    exact (if_neg (Ne.symm hq)).trans (ih hr)

theorem performOrdered_alone {s : State} {n : Nat} {f : Flight} {xs ys : List (Nat × Flight)} (h : s.flights = xs ++ (n, f) :: ys)
    (hx : ∀ p ∈ xs, p.1 ≠ n ∧ p.2.keptBefore f = false) (hy : ∀ p ∈ ys, p.1 ≠ n) :
    tfind s.flights n = some f ∧ s.performOrdered n = s.performFlight n := by
  refine ⟨by rw [h]; exact tfind_own fun p hp => (hx p hp).1, ?_⟩
  rw [State.performOrdered, State.drain, withEarlier_alone h hx hy]
  rfl

theorem ueIn_dropFlight (s : State) (n d w : Nat) : (s.dropFlight n).ueIn d w = s.ueIn d w := rfl

theorem atomApply_alone {s : State} {n : Nat} {org : Origin} {va : W64} {d w op : Nat} {v c : W64} {q : Nat} {sig : Signal}
    {xs ys : List (Nat × Flight)} (h : s.flights = xs ++ (n, .atom org va d w op v c q sig) :: ys)
    (hx : ∀ p ∈ xs, p.1 ≠ n ∧ p.2.keptBefore (.atom org va d w op v c q sig) = false) (hy : ∀ p ∈ ys, p.1 ≠ n)
    (hd : regionOf d = .hbm ∨ regionOf d = .firn ∨ regionOf d = .window) (hue : s.ueIn d w = false) :
    exec (.atomApply n) s = .next (
      (((((s.dropFlight n).storeMem [org.ctxAgent, org.agent] d
        (bytesOfNat w (aopNew op (8 * w) (readNat s.mem d w) (v.toNat % 2 ^ (8 * w)) (c.toNat % 2 ^ (8 * w))))).fillRaw
        org.core org.lid qMem q (BitVec.ofNat 64 (readNat s.mem d w))).completes org.agent sig (.slot org.core org.lid qMem q)
        (.doneSlot org.core org.lid qMem q)).applySignal org sig)) := by
  obtain ⟨hf, hp⟩ := performOrdered_alone h hx hy
  show execAtomApply n s = _
  unfold execAtomApply
  rw [hf]
  dsimp only
  rw [hp, State.performFlight, State.performLost, hf]
  dsimp only
  rw [applyWord_own hd, ueIn_dropFlight, hue, if_neg Bool.false_ne_true]
  rfl

theorem redApply_alone {s : State} {n d w op : Nat} {v : W64} {who : List RedWho} {h : Bool} {xs ys : List (Nat × Flight)}
    (hfl : s.flights = xs ++ (n, .red d w op v who h) :: ys)
    (hx : ∀ p ∈ xs, p.1 ≠ n ∧ p.2.keptBefore (.red d w op v who h) = false) (hy : ∀ p ∈ ys, p.1 ≠ n)
    (hd : regionOf d = .hbm ∨ regionOf d = .firn ∨ regionOf d = .window) (hue : s.ueIn d w = false) :
    exec (.redApply n) s = .next (who.foldl
      (fun t x =>
        let u := match x.vred with | some g => t.vredLane g.1 g.2 x.va none | none => t
        match x.sig with | some sig => u.applySignal x.org sig | none => u)
      ((s.dropFlight n).storeMem (who.flatMap RedWho.agents) d
        (bytesOfNat w (aopNew op (8 * w) (readNat s.mem d w) (v.toNat % 2 ^ (8 * w)) 0)))) := by
  obtain ⟨hf, hp⟩ := performOrdered_alone hfl hx hy
  show execRedApply n s = _
  unfold execRedApply
  rw [hf]
  dsimp only
  rw [hp, State.performFlight, State.performLost, hf]
  dsimp only
  rw [applyWord_own hd, ueIn_dropFlight, hue, if_neg Bool.false_ne_true]
  dsimp only [heard]
  rw [Nat.zero_mod]
  refine congrArg Host.Outcome.next (congrArg (fun g => List.foldl g _ who) (funext fun t => funext fun x => ?_))
  cases x.vred <;> rfl

theorem atomApply_performs {s : State} {n : Nat} {f : Flight} (h : tfind s.flights n = some f)
    (hf : (∃ org va d w op v c q sig, f = .atom org va d w op v c q sig) ∨ ∃ org op lanes qs, f = .vatom org op lanes qs) :
    exec (.atomApply n) s = .next (s.performOrdered n) := by
  have hx : exec (.atomApply n) s = execAtomApply n s := rfl
  rw [execAtomApply, h] at hx
  obtain ⟨_, _, _, _, _, _, _, _, _, rfl⟩ | ⟨_, _, _, _, rfl⟩ := hf <;> exact hx

theorem redApply_performs {s : State} {n d w op : Nat} {v : W64} {who : List RedWho} {held : Bool}
    (h : tfind s.flights n = some (.red d w op v who held)) : exec (.redApply n) s = .next (s.performOrdered n) := by
  show execRedApply n s = _
  rw [execRedApply, h]

/-! Reductions at a router (R61, R272). -/

theorem routerRedMerge_held {s : State} {a b d w op : Nat} {v v' : W64} {who who' : List RedWho} (hne : a ≠ b)
    (ha : tfind s.flights a = some (.red d w op v who true)) (hb : tfind s.flights b = some (.red d w op v' who' true))
    (hop : op ≤ 7 ∨ op = 10 ∨ op = 11) (hd : regionOf d ≠ .counters) :
    exec (.routerRedMerge a b) s = .next (
      let both : Flight := .red d w op
        (BitVec.ofNat 64 (aopNew op (8 * w) (v.toNat % 2 ^ (8 * w)) (v'.toNat % 2 ^ (8 * w)) 0)) (who ++ who') true
      if s.between (min a b) (max a b) (if b < a then who else who') d w op false = false then
        (s.dropFlight (max a b)).setFlight (min a b) both
      else if s.between (min a b) (max a b) (if a < b then who else who') d w op true = false then
        (s.dropFlight (min a b)).setFlight (max a b) both
      else s) := by
  have hm : mergeable op = true := by
    unfold mergeable
    simpa [or_assoc] using hop
  have hhi : a = max a b ↔ b < a := by omega
  have hlo : a = min a b ↔ a < b := by omega
  show execRouterRedMerge a b s = _
  unfold execRouterRedMerge
  rw [ha, hb]
  have hcond : (a != b && d = d && w = w && op = op && mergeable op && regionOf d != .counters) = true := by
    simp only [hm, bne_iff_ne.mpr hne, bne_iff_ne.mpr hd, decide_true, Bool.and_self]
  dsimp only
  rw [if_pos hcond]
  simp only [hhi, hlo, Bool.not_eq_true', apply_ite Host.Outcome.next]

theorem redHoldExpiry_unheld {s : State} {n d w op : Nat} {v : W64} {who : List RedWho} {h : Bool}
    (hf : tfind s.flights n = some (.red d w op v who h)) :
    exec (.redHoldExpiry n) s = .next (s.setFlight n (.red d w op v who false)) := by
  show execRedHoldExpiry n s = _
  unfold execRedHoldExpiry
  rw [hf]

/-! Barriers (R249 to R252, R275). -/

/-- Alone, where no earlier flight of its context goes to the same barrier. -/
theorem performBarriers_alone {s : State} {n : Nat} {f : Flight} {key : Origin × Nat} {xs ys : List (Nat × Flight)}
    (h : s.flights = xs ++ (n, f) :: ys) (hkey : f.toBarrier = some key)
    (hout : ∀ p ∈ xs ++ ys, p.1 ≠ n ∧ (p.1 < n → p.2.toBarrier ≠ some key)) :
    tfind s.flights n = some f ∧ s.performBarriers n = s.performBarrier n := by
  have hf : tfind s.flights n = some f := by
    rw [h]
    exact tfind_own fun p hp => (hout p (List.mem_append_left _ hp)).1
  have hfails : ∀ p ∈ xs ++ ys, (decide (p.1 ≤ n) && p.2.toBarrier == some key) = false := fun p hp => by
    obtain ⟨hne, hkept⟩ := hout p hp
    rw [Bool.and_eq_false_iff, decide_eq_false_iff_not, beq_eq_false_iff_ne]
    by_cases hle : p.1 ≤ n
    · exact .inr (hkept (Nat.lt_of_le_of_ne hle hne))
    · exact .inl hle
  have hown : s.flights.filter (fun p => p.1 ≤ n && p.2.toBarrier == some key) = [(n, f)] := by
    rw [h, List.filter_append, List.filter_cons_of_pos (by simp [hkey]),
      List.filter_eq_nil_iff.mpr fun p hp => Bool.eq_false_iff.mp (hfails p (List.mem_append_left _ hp)),
      List.filter_eq_nil_iff.mpr fun p hp => Bool.eq_false_iff.mp (hfails p (List.mem_append_right _ hp))]
    rfl
  refine ⟨hf, ?_⟩
  unfold State.performBarriers
  rw [hf, Option.bind_some, hkey]
  dsimp only
  rw [hown]
  rfl

theorem barrierInit_performs {s : State} {n : Nat} {org : Origin} {a cnt : Nat} {sg : Option (Nat × Nat × Nat × Nat)} {q : Nat}
    {sig : Signal} (h : tfind s.flights n = some (.binit org a cnt sg q sig)) :
    exec (.barrierInit n) s = .next (s.performBarriers n) := by
  show execBarrierInit n s = _
  rw [execBarrierInit, h]

theorem barrierArrive_performs {s : State} {n : Nat} {org : Origin} {a op : Nat} {x : Int} {q : Nat} {sig : Signal}
    (h : tfind s.flights n = some (.barr org a op x q sig)) : exec (.barrierArrive n) s = .next (s.performBarriers n) := by
  show execBarrierArrive n s = _
  rw [execBarrierArrive, h]

theorem barrierWait_performs {s : State} {n : Nat} {org : Origin} {a op : Nat} {ph : Bool} {lim : Option Nat} {once : Bool}
    {g : Option Nat} {q : Nat} {sig : Signal} (h : tfind s.flights n = some (.bwait org a op ph lim once g q sig)) :
    exec (.barrierWaitArrival n) s = .next (s.performBarriers n) := by
  show execBarrierWaitArrival n s = _
  rw [execBarrierWaitArrival, h]

theorem performBarriers_eq {s : State} {n : Nat} {f : Flight} {key : Origin × Nat} (h : tfind s.flights n = some f)
    (hkey : f.toBarrier = some key) : s.performBarriers n =
      (s.flights.filter (fun p => p.1 ≤ n && p.2.toBarrier == some key)).foldl (fun t p => t.performBarrier p.1) s := by
  unfold State.performBarriers
  rw [h, Option.bind_some, hkey]

theorem barrierInit_alone {s : State} {n : Nat} {org : Origin} {a cnt : Nat} {sg : Option (Nat × Nat × Nat × Nat)} {q : Nat}
    {sig : Signal} {b : Barrier} {xs ys : List (Nat × Flight)} (h : s.flights = xs ++ (n, .binit org a cnt sg q sig) :: ys)
    (hout : ∀ p ∈ xs ++ ys, p.1 ≠ n ∧ (p.1 < n → p.2.toBarrier ≠ some (org.own, a))) (hb : s.barrier a = some b) :
    exec (.barrierInit n) s = .next (((s.dropFlight n).putBarrier a (b.init cnt sg)).complete org qMem q 0x09 0 cnt (some sig)) := by
  obtain ⟨hf, hp⟩ := performBarriers_alone h rfl hout
  rw [barrierInit_performs hf, hp, State.performBarrier, hf]
  dsimp only
  rw [show (s.dropFlight n).barrier a = some b from hb]
  rfl

theorem barrierArrive_alone {s : State} {n : Nat} {org : Origin} {a op : Nat} {x : Int} {q : Nat} {sig : Signal} {b : Barrier}
    {xs ys : List (Nat × Flight)} (h : s.flights = xs ++ (n, .barr org a op x q sig) :: ys)
    (hout : ∀ p ∈ xs ++ ys, p.1 ≠ n ∧ (p.1 < n → p.2.toBarrier ≠ some (org.own, a))) (hb : s.barrier a = some b)
    (hadm : b.admits org.core = true) :
    let s0 := s.dropFlight n
    exec (.barrierArrive n) s = .next (
      ((s0.release org.ctxAgent (.barrier a) sig.scope (s0.boundTo (s0.envOf org) 1 a)).putBarrier a (b.came x).1).complete org qMem q op 0
      ((if (b.came x).2 then 2 ^ 31 else 0) + b.gen % 2 ^ 31) (some sig)) := by
  intro s0
  obtain ⟨hf, hp⟩ := performBarriers_alone h rfl hout
  rw [barrierArrive_performs hf, hp, State.performBarrier, hf]
  dsimp only
  rw [show (s.dropFlight n).barrier a = some b from hb]
  dsimp only
  rw [hadm]
  rfl

theorem barrierWait_come {s : State} {n : Nat} {org : Origin} {a op : Nat} {ph once : Bool} {q : Nat} {sig : Signal} {b : Barrier}
    {xs ys : List (Nat × Flight)} (h : s.flights = xs ++ (n, .bwait org a op ph none once none q sig) :: ys)
    (hout : ∀ p ∈ xs ++ ys, p.1 ≠ n ∧ (p.1 < n → p.2.toBarrier ≠ some (org.own, a))) (hb : s.barrier a = some b)
    (hph : b.phase = ph) :
    exec (.barrierWaitArrival n) s = .next (s.endWait n org a op b.gen q sig) := by
  obtain ⟨hf, hp⟩ := performBarriers_alone h rfl hout
  rw [barrierWait_performs hf, hp, State.performBarrier, hf]
  dsimp only
  rw [hb]
  dsimp only
  rw [hph, beq_self_eq_true]
  rfl

theorem barrierWait_stays {s : State} {n : Nat} {org : Origin} {a op : Nat} {ph : Bool} {q : Nat} {sig : Signal} {b : Barrier}
    {xs ys : List (Nat × Flight)} (h : s.flights = xs ++ (n, .bwait org a op ph none false none q sig) :: ys)
    (hout : ∀ p ∈ xs ++ ys, p.1 ≠ n ∧ (p.1 < n → p.2.toBarrier ≠ some (org.own, a))) (hb : s.barrier a = some b)
    (hph : b.phase ≠ ph) :
    exec (.barrierWaitArrival n) s = .next (s.setFlight n (.bwait org a op ph none false (some (b.gen % 2 ^ 32)) q sig)) := by
  obtain ⟨hf, hp⟩ := performBarriers_alone h rfl hout
  rw [barrierWait_performs hf, hp, State.performBarrier, hf]
  dsimp only
  rw [hb]
  dsimp only
  rw [beq_false_of_ne hph]
  rfl

theorem btwaitTimeout_late {s : State} {n : Nat} {org : Origin} {a op lim : Nat} {ph once : Bool} {g q : Nat} {sig : Signal}
    (h : tfind s.flights n = some (.bwait org a op ph (some lim) once (some g) q sig)) (hlate : lim < s.wallus.toNat) :
    exec (.btwaitTimeout n) s = .next ((s.dropFlight n).complete org qMem q op 0x0E g (some sig)) := by
  show execBtwaitTimeout n s = _
  unfold execBtwaitTimeout
  rw [h]
  exact if_pos hlate

/-! FLUSHH (R58, R274). -/

/-- The pages of a window are translated at one state, where none faults. -/
theorem foldl_stays {α β : Type} {f : β → α → β} {b : β} {l : List α} (h : ∀ a ∈ l, f b a = b) : l.foldl f b = b := by
  induction l with
  | nil => rfl
  | cons a l ih =>
    obtain ⟨ha, hl⟩ := List.forall_mem_cons.mp h
    rw [List.foldl_cons, ha]
    exact ih hl

/-- A walk reads the page tables and the translation contexts (R402, R403). -/
theorem walkFrom_congr {s t : State} (h : ∀ a, t.pte a = s.pte a) (asid : BitVec 16) (va : W64) (ls : List Level) :
    ∀ base, t.walkFrom asid va ls base = s.walkFrom asid va ls base := by
  induction ls with
  | nil => exact fun _ => rfl
  | cons l ls ih =>
    intro base
    unfold State.walkFrom
    simp only [h, ih]

theorem pageOf_congr {s t : State} (hpte : ∀ a, t.pte a = s.pte a) (hregs : t.regs = s.regs) (l : List TlbEnt) (asid : BitVec 16)
    (va : W64) : t.pageOf l asid va = s.pageOf l asid va := by
  unfold State.pageOf State.walk
  simp only [walkFrom_congr hpte, hregs]

theorem xlate_congr {s t : State} (hpte : ∀ a, t.pte a = s.pte a) (hregs : t.regs = s.regs) (l : List TlbEnt) (asid : BitVec 16)
    (va : W64) (a : Acc) : t.xlate l asid va a = s.xlate l asid va a := by
  unfold State.xlate
  rw [pageOf_congr hpte hregs]

theorem xlate_dropFlight (s : State) (n c : Nat) (asid : BitVec 16) (va : W64) (a : Acc) :
    (s.dropFlight n).xlate ((s.dropFlight n).core c).tlb asid va a = s.xlate (s.core c).tlb asid va a := by
  rw [show (s.dropFlight n).core c = s.core c from rfl]
  have hpte : ∀ a, (s.dropFlight n).pte a = s.pte a := fun _ => rfl
  have hregs : (s.dropFlight n).regs = s.regs := rfl
  exact xlate_congr hpte hregs (s.core c).tlb asid va a

theorem flushhCompletion_reaches {s : State} {n : Nat} {org : Origin} {h : W256} {sig : Signal}
    (hf : tfind s.flights n = some (.flush org h sig))
    (hok : ∀ va ∈ pagesOf (hBase h) (hBytes h), ∃ d, s.xlate (s.core org.core).tlb (s.envOf org).asid va .load = .ok d) :
    let t := (s.dropFlight n).flushWin org h
    exec (.flushhCompletion n) s = .next (
      (if sig.rel then t.release org.agent (.sem org.core org.lid sig.sem) 6 (t.inWin org h) else t).applySignal org sig) := by
  intro t
  show execFlushhCompletion n s = _
  unfold execFlushhCompletion
  rw [hf]
  dsimp only
  rw [foldl_stays]
  intro va hva
  obtain ⟨d, hd⟩ := hok va hva
  rw [xlate_dropFlight, hd]

/-- No write that satisfies the test is left behind the last that does. -/
theorem upTo_unseen (g : Lag) (p : Unseen → Bool) : ∀ w ∈ (g.upTo p).unseen, p w = false := by
  unfold Lag.upTo
  have hvals : g.unseen.zipIdx.map Prod.fst = g.unseen := List.zipIdx_map_fst ..
  cases hfind : (g.unseen.zipIdx).reverse.find? (fun q => p q.1) with
  | none =>
    intro w hw
    rw [← hvals] at hw
    obtain ⟨q, hq, rfl⟩ := List.mem_map.mp hw
    exact Bool.eq_false_iff.mpr (List.find?_eq_none.mp hfind q (List.mem_reverse.mpr hq))
  | some q =>
    obtain ⟨-, as, bs, hsplit, has⟩ := List.find?_eq_some_iff_append.mp hfind
    have hlist : g.unseen.zipIdx = bs.reverse ++ q :: as.reverse := by
      rw [← List.reverse_reverse g.unseen.zipIdx, hsplit]
      simp
    have hidx : q.2 = bs.reverse.length := by
      have hat : g.unseen.zipIdx[bs.reverse.length]? = some q := by
        rw [hlist, List.getElem?_append_right (Nat.le_refl _), Nat.sub_self]
        rfl
      rw [List.getElem?_zipIdx] at hat
      obtain ⟨w, -, rfl⟩ := Option.map_eq_some_iff.mp hat
      exact Nat.zero_add _
    have hrest : g.unseen.drop (q.2 + 1) = as.reverse.map Prod.fst := by
      rw [← hvals, hlist, hidx, ← List.map_drop, List.drop_append, List.drop_of_length_le (Nat.le_succ _), Nat.add_sub_cancel_left]
      rfl
    intro w hw
    dsimp only at hw
    rw [hrest] at hw
    obtain ⟨r, hr, rfl⟩ := List.mem_map.mp hw
    exact Bool.not_eq_true' _ ▸ has r (List.mem_reverse.mp hr)

theorem upTo_subset (g : Lag) (p : Unseen → Bool) : ∀ w ∈ (g.upTo p).unseen, w ∈ g.unseen := by
  unfold Lag.upTo
  split
  · exact fun w hw => List.mem_of_mem_drop hw
  · exact fun w hw => hw

/-- What `reachLags` leaves lies where it lay, and of what it reaches nothing that satisfies the test is left. -/
theorem mem_reachLags {s : State} {whose : Lag → Bool} {p : Lag → Unseen → Bool} {g : Lag} (hg : g ∈ (s.reachLags whose p).lags) :
    ∃ g0 : Lag, (g.agent = g0.agent ∧ g.dev = g0.dev ∧ g.at' = g0.at') ∧ (whose g0 = true → ∀ w ∈ g.unseen, p g0 w = false) := by
  unfold State.reachLags at hg
  split at hg
  · rename_i hemp
    rw [List.isEmpty_iff.mp hemp] at hg
    exact absurd hg List.not_mem_nil
  · obtain ⟨g1, hg1, rfl⟩ := List.mem_map.mp hg
    obtain ⟨g0, -, rfl⟩ := List.mem_map.mp hg1
    refine ⟨g0, ?_, fun hw w hmem => ?_⟩
    · split
      · obtain ⟨ha, hd, hat⟩ := upTo_place g0 (p g0)
        rw [← ha, ← hd, ← hat]
        exact upTo_place _ _
      · exact upTo_place _ _
    · have hin := upTo_subset _ _ w hmem
      rw [if_pos hw] at hin
      exact upTo_unseen g0 (p g0) w hin

theorem flushWin_reaches {s : State} {org : Origin} {h : W256} {g : Lag} (hg : g ∈ (s.flushWin org h).lags)
    (hagent : g.agent = .host) (hin : s.inWin org h (homeTdev g.dev) g.at' = true) : ∀ w ∈ g.unseen, w.heldBy org.agent = false := by
  obtain ⟨g0, ⟨ha, hd, hat⟩, hleft⟩ := mem_reachLags hg
  refine hleft ?_
  rw [← ha, ← hd, ← hat, hagent, hin]
  rfl

/-- Settles O40. -/
theorem homeEvents : Obligations.HomeEvents :=
  ⟨⟨fun _ _ _ _ _ => copyCompletion_moved, fun _ _ _ _ => copyCompletion_moves, fun _ _ _ _ _ _ _ _ h hd => barrierDelivered_decrements h hd,
      fun _ _ _ _ _ => rotqExchange_full, fun _ _ _ _ _ => rotTimeout_late⟩,
    ⟨fun _ _ _ _ _ _ _ _ _ _ _ _ _ => atomApply_alone, fun _ _ _ _ _ _ _ _ _ _ => redApply_alone,
      fun s n f h => by
        cases f with
        | atom => exact atomApply_performs h (.inl ⟨_, _, _, _, _, _, _, _, _, rfl⟩)
        | vatom => exact atomApply_performs h (.inr ⟨_, _, _, _, rfl⟩)
        | red => exact redApply_performs h
        | _ => trivial,
      fun _ n => withEarlier_mem n, keptBefore_iff, meets_iff, fun _ _ _ _ _ _ _ _ _ _ => routerRedMerge_held,
      fun _ _ _ _ _ _ _ _ => redHoldExpiry_unheld⟩,
    fun _ _ _ _ _ _ _ _ _ _ _ => barrierInit_alone, fun _ _ _ _ _ _ _ _ _ _ _ => barrierArrive_alone,
    fun _ _ _ _ _ _ _ _ _ _ _ _ => barrierWait_come, fun _ _ _ _ _ _ _ _ _ _ _ => barrierWait_stays,
    fun s n f key h hkey => by
      rw [← performBarriers_eq h hkey]
      cases f with
      | binit => exact barrierInit_performs h
      | barr => exact barrierArrive_performs h
      | bwait => exact barrierWait_performs h
      | _ => trivial,
    fun _ _ _ _ _ _ _ _ _ _ _ => btwaitTimeout_late, fun _ _ _ _ _ => flushhCompletion_reaches, fun _ _ _ _ => flushWin_reaches⟩

end Sys2Proof.Machine
end

section
/-! SUPPORT. The micro-words of a routine (R315 to R323). -/

namespace Sys2Proof.Machine

open Sys2Proof

/-- A routine is at work without a stop. -/
theorem work_stop {s : State} {c a : Nat} {w : Work} (h : s.work c a = some w) : w.stop = none := by
  unfold State.work at h
  dsimp only at h
  split at h
  · cases h
  · split at h <;> cases h
    rfl

/-- A legal word of a routine that is no library routine goes on after its effect. -/
theorem micro_goes {i : Instr} {s : State} {w : Work} (hl : microLegal i = true) (hw : s.work s.focusCore s.focusArr = some w)
    (hlib : w.r.lib = none) (steps : Nat) (yp : Bool) {eff : Work → Work} (hstop : (eff w).stop = none) :
    micro i s steps yp eff = .next (s.putWork { eff w with r := (eff w).r.after steps yp }) := by
  unfold micro
  rw [hw]
  dsimp only
  rw [hlib, Option.isSome_none, if_neg Bool.false_ne_true, hl, if_pos rfl, hstop]

/-- … or stops. -/
theorem micro_stops {i : Instr} {s : State} {w : Work} (hl : microLegal i = true) (hw : s.work s.focusCore s.focusArr = some w)
    (hlib : w.r.lib = none) (steps : Nat) (yp : Bool) {eff : Work → Work} {st : SStop} (hstop : (eff w).stop = some st) :
    micro i s steps yp eff = .next (s.stopRoutine (eff w) st (w.r.pc % 2048)) := by
  unfold micro
  rw [hw]
  dsimp only
  rw [hlib, Option.isSome_none, if_neg Bool.false_ne_true, hl, if_pos rfl, hstop]

/-- A word whose meaning is its effect behind its checks does what its row says. -/
theorem micro_does {i : Instr} {steps : Nat} {yp : Bool} {fields rows : Work → Bool} {eff : Work → Work}
    (h : ∀ s, exec i s = micro i s steps yp (fun w => w.check (fields w) (rows w) eff)) : MicroDoes i steps yp fields rows eff := by
  intro hl s w hw hlib
  have hgood (hf : fields w = true) (hr : rows w = true) : w.check (fields w) (rows w) eff = eff w := by rw [hf, hr]; rfl
  have hill (hf : fields w = false) : w.check (fields w) (rows w) eff = w.stopped ⟨0x20, none⟩ := by rw [hf]; rfl
  have hrow (hf : fields w = true) (hr : rows w = false) : w.check (fields w) (rows w) eff = w.stopped ⟨1, none⟩ := by rw [hf, hr]; rfl
  rw [h s]
  refine ⟨fun hf hr hstop => ?_, fun hf hr st hstop => ?_, fun hf => ?_, fun hf hr => ?_⟩
  · rw [micro_goes hl hw hlib steps yp (by rw [hgood hf hr]; exact hstop), hgood hf hr]
  · rw [micro_stops hl hw hlib steps yp (by rw [hgood hf hr]; exact hstop), hgood hf hr]
  · rw [micro_stops hl hw hlib steps yp (st := ⟨0x20, none⟩) (by rw [hill hf]; rfl), hill hf]
  · rw [micro_stops hl hw hlib steps yp (st := ⟨1, none⟩) (by rw [hrow hf hr]; rfl), hrow hf hr]

theorem mwait_yields {sem val : BitVec 8} {s : State} {w : Work} (hw : s.work s.focusCore s.focusArr = some w) (hlib : w.r.lib = none)
    (h : (tget 0 w.x.a.c.sem sem.toNat).toNat < val.toNat) :
    exec (.mwait sem val) s = .next (s.putWork { w with r := { w.r with atYield := true, sinceYield := 0 } }) := by
  have hhas : w.x.semHas sem val = false := decide_eq_false (Nat.not_le.mpr h)
  show execMwait sem val s = _
  unfold execMwait
  rw [hw]
  dsimp only
  rw [hlib, hhas]
  rfl

theorem mwait_takes {sem val : BitVec 8} {s : State} {w : Work} (hw : s.work s.focusCore s.focusArr = some w) (hlib : w.r.lib = none)
    (h : val.toNat ≤ (tget 0 w.x.a.c.sem sem.toNat).toNat) (hl : microLegal (.mwait sem val) = true) :
    exec (.mwait sem val) s = .next (s.putWork { w with r := w.r.after 0 false, x := w.x.semTake sem val }) := by
  have hhas : w.x.semHas sem val = true := decide_eq_true h
  show execMwait sem val s = _
  unfold execMwait
  rw [hw]
  dsimp only
  rw [hlib, hhas, Option.isNone_none, Bool.not_true, Bool.and_false, if_neg Bool.false_ne_true]
  exact micro_goes hl hw hlib 0 false (show w.stop = none from work_stop hw)

theorem mend_ends {s : State} {w : Work} (hw : s.work s.focusCore s.focusArr = some w) (hlib : w.r.lib = none) :
    exec .mend s = .next (s.endRoutine s.focusCore s.focusArr 0 (w.r.steps % 2 ^ 24)) := by
  show execMend s = _
  unfold execMend
  rw [hw]
  dsimp only
  rw [hlib]
  rfl

/-- Settles O45. -/
theorem microWords : Obligations.MicroWords :=
  ⟨fun _ _ _ _ _ => micro_does fun _ => rfl, fun _ _ _ _ _ _ _ _ => micro_does fun _ => rfl, fun _ _ _ _ _ _ _ _ _ => micro_does fun _ => rfl,
    fun _ _ _ _ _ _ => micro_does fun _ => rfl, fun _ _ _ _ _ _ => micro_does fun _ => rfl, fun _ _ _ _ _ _ => micro_does fun _ => rfl,
    fun _ _ _ _ _ => micro_does fun _ => rfl, fun _ _ _ _ => micro_does fun _ => rfl, micro_does fun _ => rfl,
    fun _ _ => micro_does fun _ => rfl, fun _ _ _ _ hw hlib => ⟨mwait_yields hw hlib, mwait_takes hw hlib⟩, fun _ _ => mend_ends⟩

end Sys2Proof.Machine
end

section
/-! SUPPORT. Routine loops, yield points and the loops of a RUN (R296, R322, R339). -/

namespace Sys2Proof.Machine

open Sys2Proof

theorem microBack_again (l : MicroLoop) (r : List MicroLoop) (h : 1 < l.left) :
    microBack l.last (l :: r) = (some l.start, { l with left := l.left - 1 } :: r) := by
  rw [microBack, if_pos rfl, if_pos h]

theorem microBack_done (l : MicroLoop) (r : List MicroLoop) (h : l.left ≤ 1) : microBack l.last (l :: r) = microBack l.last r := by
  rw [microBack, if_pos rfl, if_neg (Nat.not_lt.mpr h)]

theorem microBack_elsewhere (at' : Nat) (ls : List MicroLoop) (h : ∀ l ∈ ls, l.last ≠ at') : microBack at' ls = (none, ls) := by
  induction ls with
  | nil => rfl
  | cons l ls ih =>
    obtain ⟨hl, hls⟩ := List.forall_mem_cons.mp h
    rw [microBack, if_neg hl, ih hls]

theorem after_routine (r : Routine) (n : Nat) (y : Bool) : (r.after n y).steps = r.steps + n ∧ (r.after n y).mp = r.mp ∧
    (r.after n y).cmd = r.cmd ∧ ((r.after n y).atYield = true ↔ (y = true ∨ 48 ≤ r.sinceYield + n)) := by
  refine ⟨rfl, rfl, rfl, ?_⟩
  show (y || decide (48 ≤ r.sinceYield + n)) = true ↔ _
  rw [Bool.or_eq_true, decide_eq_true_eq]

theorem turn_again {l : MorLoop} (h : 1 < l.left) :
    l.turn = (some l.start, some { l with left := l.left - 1, done := l.done + 1 }) := if_pos h

theorem turn_done {l : MorLoop} (h : l.left ≤ 1) : l.turn = (none, none) := if_neg (Nat.not_lt.mpr h)

theorem inner_again {m : MUnit} {l : MorLoop} (hi : m.inner = some l) (h : 1 < l.left) :
    m.after l.last = (l.start, { m with inner := some { l with left := l.left - 1, done := l.done + 1 } }) := by
  unfold MUnit.after
  simp only [hi, turn_again h, if_true]

theorem outer_again {m : MUnit} {l o : MorLoop} (hi : m.inner = some l) (hl : l.left ≤ 1) (ho : m.outer = some o) (hat : o.last = l.last)
    (h : 1 < o.left) :
    m.after l.last = (o.start, { m with inner := none, outer := some { o with left := o.left - 1, done := o.done + 1 } }) := by
  unfold MUnit.after
  simp only [hi, ho, hat, turn_done hl, turn_again h, if_true, Option.getD_some]

theorem both_done {m : MUnit} {l o : MorLoop} (hi : m.inner = some l) (hl : l.left ≤ 1) (ho : m.outer = some o) (hat : o.last = l.last)
    (h : o.left ≤ 1) : m.after l.last = (l.last + 1, { m with inner := none, outer := none }) := by
  unfold MUnit.after
  simp only [hi, ho, hat, turn_done hl, turn_done h, if_true, Option.getD_none]

theorem after_elsewhere {m : MUnit} {a : Nat} (hi : ∀ l, m.inner = some l → l.last ≠ a) (ho : ∀ l, m.outer = some l → l.last ≠ a) :
    m.after a = (a + 1, m) := by
  unfold MUnit.after
  cases hinner : m.inner with
  | none => cases houter : m.outer with
    | none => simp only [houter]
    | some o => simp only [houter, if_neg (ho o houter)]
  | some l => cases houter : m.outer with
    | none => simp only [houter, if_neg (hi l hinner)]
    | some o => simp only [houter, if_neg (hi l hinner), if_neg (ho o houter)]

/-- Settles O46. -/
theorem engineLoops : Obligations.EngineLoops :=
  ⟨⟨microBack_again, microBack_done, microBack_elsewhere, after_routine⟩, fun _ _ => inner_again, fun _ _ _ => outer_again,
    fun _ _ _ => both_done, fun _ _ => after_elsewhere⟩

end Sys2Proof.Machine
end

section
/-! SUPPORT. What Serac arrays do by themselves (R292 to R299, R303, R311 to R313). -/

namespace Sys2Proof.Machine

open Sys2Proof

theorem arr_setArr (k : Core) (n : Nat) (a : Arr) : (k.setArr n a).arr n = a := tget_tput_same ..

theorem routineStart_runs {s : State} {c a start : Nat} {q : ArrCmd} {lib : Option Nat} (h : s.startable c a = some q)
    (he : (s.core c).entry (q.eng.pf 14 8) = some (start, lib)) (hcap : ¬(serBits q.sf = 4 ∧ ((s.core c).arr a).cap4 = false)) :
    ∃ (t : State) (r : Routine), exec (.routineStart c a) s = .next t ∧ ((t.core c).arr a).run = some r ∧
      r.cmd = q ∧ r.pc = start ∧ r.lib = lib ∧ r.mp = q.mp ∧ r.steps = 0 ∧ r.flags = 0 ∧ r.loops = [] ∧
      ((t.core c).arr a).queue = ((s.core c).arr a).queue.filter (fun d => !(d.lid == q.lid && d.qid == q.qid)) := by
  have hfits : ¬(serBits q.sf = 4 && !((s.core c).arr a).cap4) = true := by
    rw [Bool.and_eq_true, decide_eq_true_eq, Bool.not_eq_true']
    exact hcap
  have hx : exec (.routineStart c a) s = execRoutineStart c a s := rfl
  unfold execRoutineStart at hx
  rw [h] at hx
  dsimp only at hx
  rw [he] at hx
  dsimp only at hx
  rw [if_neg hfits] at hx
  refine ⟨_, ⟨q, start, lib, q.mp, [], none, 0, 0, 0, true⟩, hx, ?_⟩
  rw [core_setCore, arr_setArr]
  refine ⟨rfl, rfl, rfl, rfl, rfl, rfl, rfl, rfl, ?_⟩
  dsimp only
  split <;> rfl

theorem routineStart_noEntry {s : State} {c a : Nat} {q : ArrCmd} (h : s.startable c a = some q)
    (he : (s.core c).entry (q.eng.pf 14 8) = none) :
    exec (.routineStart c a) s = .next ((s.setCore c ((s.core c).setArr a { (s.core c).arr a with
      queue := ((s.core c).arr a).queue.filter (fun d => !(d.lid == q.lid && d.qid == q.qid)) })).completeSerac (q.origin c) 0x0E q.qid
        0x21 0 (EngArgs.signal q.eng)) := by
  show execRoutineStart c a s = _
  unfold execRoutineStart
  rw [h]
  dsimp only
  rw [he]

theorem routineSuspend_yields {s : State} {c a : Nat} {r : Routine} (hr : ((s.core c).arr a).run = some r)
    (hs : ((s.core c).arr a).susp = none) (hy : r.atYield = true) (hsh : r.cmd.shadow = false)
    (hw : ((s.core c).arr a).wantsShadow = true) :
    exec (.routineSuspend c a) s = .next (s.setCore c ((s.core c).setArr a { (s.core c).arr a with run := none, susp := some r })) := by
  show execRoutineSuspend c a s = _
  unfold execRoutineSuspend
  dsimp only
  rw [hr, hs]
  dsimp only
  rw [hy, hsh, hw]
  rfl

theorem routineResume_goes {s : State} {c a : Nat} {r : Routine} (hr : ((s.core c).arr a).run = none)
    (hs : ((s.core c).arr a).susp = some r) (hw : ((s.core c).arr a).wantsShadow = false) :
    exec (.routineResume c a) s = .next (s.setCore c ((s.core c).setArr a { (s.core c).arr a with run := some r, susp := none })) := by
  show execRoutineResume c a s = _
  unfold execRoutineResume
  dsimp only
  rw [hr, hs]
  dsimp only
  rw [hw]
  rfl

theorem gatherFill_fetches {s : State} {c a : Nat} {w : Work} {g : Gather} {row : LatchRow} (h : s.work c a = some w)
    (hg : w.r.gather = some g) (hleft : g.left ≠ 0) (hroom : g.latch.length < 64) (hrow : w.fetchRow (serPer w.r.cmd.sf) g = .ok row) :
    exec (.gatherFill c a) s = .next (s.putWork { w with r := { w.r with gather := some { g.next with latch := g.latch ++ [row] } } }) := by
  have hgoes : ¬(g.left = 0 || 64 ≤ g.latch.length) = true := by
    rw [Bool.or_eq_true, decide_eq_true_eq, decide_eq_true_eq]
    omega
  show execGatherFill c a s = _
  unfold execGatherFill
  rw [h]
  dsimp only
  rw [hg]
  dsimp only
  rw [if_neg hgoes, hrow]

theorem sdrain_ends {s : State} {c a : Nat} {q : ArrCmd} (h : ((s.core c).arr a).drained = some q) :
    ∃ t : State, exec (.sdrainCompletion c a) s = .next (t.completeSerac (q.origin c) 0x10 q.qid 0 0 (EngArgs.signal q.eng)) ∧
      ((t.core c).arr a).queue = ((s.core c).arr a).queue.filter (fun d => !(d.lid == q.lid && d.qid == q.qid)) ∧
      ((t.core c).arr a).owner = (if q.eng.pf 21 1 = 1 && !q.shadow && ((s.core c).arr a).owner == some q.lid then none
        else ((s.core c).arr a).owner) := by
  have hx : exec (.sdrainCompletion c a) s = execSdrainCompletion c a s := rfl
  unfold execSdrainCompletion at hx
  dsimp only at hx
  rw [h] at hx
  dsimp only at hx
  refine ⟨_, hx, ?_⟩
  rw [core_setCore, arr_setArr]
  exact ⟨rfl, rfl⟩

theorem smload_performed {s : State} {n q : Nat} {org : Origin} {o : EngArgs} {h : W256} {sig : Signal}
    (hf : tfind s.flights n = some (.smload org o h q sig)) (hb : s.loadBehind n org = false) :
    exec (.smloadWrite n) s = .next (s.loadMicro n) := by
  show execSmloadWrite n s = _
  unfold execSmloadWrite
  rw [hf]
  dsimp only
  rw [hb]
  rfl

theorem seracDataError_stops {s : State} {c a : Nat} {w : Work} (h : (s.logUe c 0 4).work c a = some w)
    (hb : (s.logUe c 0 4).rollsBack c w.n = false) :
    let u := s.logUe c 0 4
    let other := !w.r.cmd.shadow
    exec (.seracDataError c a) s = .next ((({ u with free := u.free + 10753 } : State).putWork { w with
      k := w.k.setArr a ((w.k.arr a).setPlane other (((w.k.arr a).plane other).free (u.free + 5376)))
      p := w.p.free u.free
      x := { w.x with a := { w.x.a with p := { w.x.a.p with mchk := some (w.x.a.p.mchk.getD (BitVec.ofNat 64 (256 * a + 2))) } } } }).endRoutine
        c a 0x22 (if w.r.lib.isSome then (Config.freeWord (u.free + 10752)).toNat % 256 else w.r.pc % 2048)) := by
  intro u other
  show execSeracDataError c a s = _
  unfold execSeracDataError
  dsimp only
  rw [h]
  dsimp only
  rw [hb, if_neg Bool.false_ne_true]

theorem seracDataError_rollsBack {s : State} {c a : Nat} {w : Work} (h : (s.logUe c 0 4).work c a = some w)
    (hb : (s.logUe c 0 4).rollsBack c w.n = true) :
    exec (.seracDataError c a) s = .next ((s.logUe c 0 4).enqueue (.rollback c w.n)) := by
  show execSeracDataError c a s = _
  unfold execSeracDataError
  dsimp only
  rw [h]
  dsimp only
  rw [hb, if_pos rfl]

theorem cap4Off_loses {s : State} {c a : Nat} (ho : ((s.core c).arr a).owner = none) (hp : ((s.core c).arr a).pending = 0)
    (hc : ((s.core c).arr a).cap4 = true) :
    exec (.cap4Off c a) s = .next (((s.setCore c ((s.core c).setArr a { (s.core c).arr a with cap4 := false })).log c 0x0009
      [BitVec.ofNat 8 a]).log 0x3FF 0x0015 (bytesOfNat 2 c ++ [BitVec.ofNat 8 a])) := by
  show execCap4Off c a s = _
  unfold execCap4Off
  dsimp only
  rw [ho, hp, hc]
  rfl

/-- Settles O47. -/
theorem arrayEvents : Obligations.ArrayEvents :=
  ⟨fun _ _ _ _ _ _ => routineStart_runs, fun _ _ _ _ => routineStart_noEntry, fun _ _ _ _ => routineSuspend_yields,
    fun _ _ _ _ => routineResume_goes, fun _ _ _ _ _ _ => gatherFill_fetches, fun _ _ _ _ => sdrain_ends,
    fun _ _ _ _ _ _ _ => smload_performed, fun _ _ _ _ => seracDataError_stops, fun _ _ _ _ => seracDataError_rollsBack,
    fun _ _ _ => cap4Off_loses⟩

end Sys2Proof.Machine
end

section
/-! SUPPORT. The Moraine instructions and commands (R336 to R347). -/

namespace Sys2Proof.Machine

open Sys2Proof

/-! An instruction of a RUN (R336). -/

/-- An instruction whose meaning is its effect does what its row says. -/
theorem mor_does {i : Instr} {f : Nat → MUnit → State → Except MStop (MUnit × Nat × State)} {ok : Nat → MUnit → State → Prop}
    {eff : Nat → MUnit → State → MUnit × Nat × State} (h : ∀ s, exec i s = morRun i s f)
    (hf : ∀ pc s, ok pc (s.unit s.focusUnit) s → f pc (s.unit s.focusUnit) s = .ok (eff pc (s.unit s.focusUnit) s)) :
    MorDoes i ok eff := by
  intro hl s x pc lim hx hph hlim hz hok
  rw [h s]
  unfold morRun
  dsimp only
  rw [hx]
  dsimp only
  rw [hph]
  dsimp only
  rw [hlim, if_neg Bool.false_ne_true, hl, hz, hf pc s hok]
  rfl

theorem morLanes_does {i : Instr} {zd : BitVec 5} {f : MUnit → Nat → W32} (h : ∀ s, exec i s = morLanes i zd s f) : MorLanes i zd f :=
  mor_does h fun _ _ _ => rfl

theorem moraineVld_whole {z : BitVec 5} {st : BitVec 3} {bs : List Byte} :
    MorDoes (.moraineVld z st 0)
      (fun _ m s => (tget 0 m.cur st.toNat).toNat % 64 = 0 ∧ s.unitRead s.focusUnit (s.morAsid m) (tget 0 m.cur st.toNat) 64 = .ok bs)
      (fun pc m s =>
        let t := s.unitFill s.focusUnit (s.morAsid m) (tget 0 m.cur st.toNat) 64
        (({ m with tlb := (t.unit s.focusUnit).tlb }.setZ z (rowOfBytes bs)).streamed st.toNat, pc, t)) := by
  refine mor_does (fun s => show execMoraineVld z st 0 s = _ from rfl) fun pc s hok => ?_
  obtain ⟨halign, hread⟩ := hok
  dsimp only
  rw [show morSize 0 = 64 from rfl, halign, hread]
  rfl

theorem moraineVld_half {z : BitVec 5} {st : BitVec 3} {bs : List Byte} (fmt : BitVec 2) (hfmt : fmt ≠ 0) :
    MorDoes (.moraineVld z st fmt)
      (fun _ m s => (tget 0 m.cur st.toNat).toNat % 32 = 0 ∧ s.unitRead s.focusUnit (s.morAsid m) (tget 0 m.cur st.toNat) 32 = .ok bs)
      (fun pc m s =>
        let t := s.unitFill s.focusUnit (s.morAsid m) (tget 0 m.cur st.toNat) 32
        (({ m with tlb := (t.unit s.focusUnit).tlb }.setZ z
          (rowOf (fun l => BitVec.ofNat 32 (natOfBytes ((bs.drop (2 * l)).take 2) * 2 ^ 16)))).streamed st.toNat, pc, t)) := by
  refine mor_does (fun s => show execMoraineVld z st fmt s = _ from rfl) fun pc s hok => ?_
  obtain ⟨halign, hread⟩ := hok
  dsimp only
  rw [show morSize fmt = 32 from if_neg hfmt, halign, hread]
  dsimp only
  rw [if_neg hfmt]
  rfl

/-- A page brought into a unit's cache leaves what units do, and the blocks (R335, R406). -/
theorem unitFill_frame (s : State) (u : Nat) (asid : BitVec 16) (va : W64) (n v : Nat) :
    ((s.unitFill u asid va n).unit v).exec = (s.unit v).exec ∧ (s.unitFill u asid va n).blocks = s.blocks := by
  unfold State.unitFill
  induction pageStarts va n generalizing s with
  | nil => exact ⟨rfl, rfl⟩
  | cons p ps ih =>
    obtain ⟨hexec, hblocks⟩ := ih (s.setUnit u { s.unit u with tlb := s.tlbAdd (s.unit u).tlb 64 asid p })
    refine ⟨hexec.trans ?_, hblocks⟩
    unfold State.unit State.setUnit
    dsimp only
    by_cases h : v = u
    · subst h
      rw [tget_tput_same]
    · rw [tget_tput_other _ _ _ h]

theorem unitWriters_unitFill (s : State) (u : Nat) (asid : BitVec 16) (va : W64) (n v : Nat) :
    (s.unitFill u asid va n).unitWriters v = s.unitWriters v := by
  obtain ⟨hexec, hblocks⟩ := unitFill_frame s u asid va n v
  unfold State.unitWriters
  rw [hexec, hblocks]

theorem moraineVst_stores {z : BitVec 5} {st : BitVec 3} {fmt : BitVec 2} {d n : Nat} {r : List (Nat × Nat)} :
    MorDoes (.moraineVst z st fmt)
      (fun _ m s => (tget 0 m.cur st.toNat).toNat % morSize fmt = 0 ∧
        s.unitXl s.focusUnit (s.morAsid m) (tget 0 m.cur st.toNat) (morSize fmt) .store true = .ok ((d, n) :: r))
      (fun pc m s =>
        let t := s.unitFill s.focusUnit (s.morAsid m) (tget 0 m.cur st.toNat) (morSize fmt)
        ({ m with tlb := (t.unit s.focusUnit).tlb }.streamed st.toNat, pc, t.storeMem (t.unitWriters s.focusUnit) d (if fmt = 0 then bytesOfRow (m.zr z)
          else (List.range 16).flatMap (fun l => bytesOfNat 2 ((lane (m.zr z) l).toNat / 2 ^ 16))))) := by
  refine mor_does (fun s => show execMoraineVst z st fmt s = _ from rfl) fun pc s hok => ?_
  obtain ⟨halign, hxl⟩ := hok
  dsimp only
  rw [halign, hxl, unitWriters_unitFill]
  rfl

theorem loopa_starts {cs : BitVec 1} {q : BitVec 3} {eo : BitVec 7} {cnt : BitVec 16} :
    let n (m : MUnit) : Nat := if cs = 1 then (m.qr q).toNat else cnt.toNat
    MorDoes (.loopa cs q eo cnt) (fun pc m _ => pc < eo.toNat ∧ m.outer = none ∧ m.inner = none) (fun pc m s =>
      if n m = 0 then (m, eo.toNat, s)
      else ({ m with outer := some { start := pc + 1, last := eo.toNat, left := n m, done := 0 } }, pc, s)) := by
  refine mor_does (fun s => show execLoopa cs q eo cnt s = _ from rfl) fun pc s hok => ?_
  obtain ⟨hlt, ho, hi⟩ := hok
  have hgood : ¬(eo.toNat ≤ pc || (s.unit s.focusUnit).outer.isSome || (s.unit s.focusUnit).inner.isSome) = true := by
    rw [ho, hi]
    simpa using hlt
  dsimp only
  rw [if_neg hgood, apply_ite Except.ok]
  rfl

theorem loopb_starts {cs : BitVec 1} {q : BitVec 3} {eo : BitVec 7} {cnt : BitVec 16} :
    let n (m : MUnit) : Nat := if cs = 1 then (m.qr q).toNat else cnt.toNat
    MorDoes (.loopb cs q eo cnt) (fun pc m _ => pc < eo.toNat ∧ m.inner = none ∧ ∀ l, m.outer = some l → eo.toNat ≤ l.last)
      (fun pc m s =>
        if n m = 0 then (m, eo.toNat, s)
        else ({ m with inner := some { start := pc + 1, last := eo.toNat, left := n m, done := 0 } }, pc, s)) := by
  refine mor_does (fun s => show execLoopb cs q eo cnt s = _ from rfl) fun pc s hok => ?_
  obtain ⟨hlt, hi, ho⟩ := hok
  have hgood : ¬(eo.toNat ≤ pc || (s.unit s.focusUnit).inner.isSome || (s.unit s.focusUnit).outer.any (fun l => l.last < eo.toNat)) = true := by
    rw [hi]
    simpa [hlt, Option.any_eq_false] using ho
  dsimp only
  rw [if_neg hgood, apply_ite Except.ok]
  rfl

theorem moraineEnd_ends {s : State} {x : MorExec} {pc : Nat} {lim : Option Nat} (hx : (s.unit s.focusUnit).exec = some x)
    (hph : x.phase = .running pc lim) (hlim : s.expired lim = false) : exec .moraineEnd s = .next (s.morNext s.focusUnit) := by
  show execMoraineEnd s = _
  unfold execMoraineEnd
  dsimp only
  rw [hx]
  dsimp only
  rw [hph]
  dsimp only
  rw [hlim]
  rfl

theorem mbxw_takes {q : BitVec 3} {msk : BitVec 16} {i : Nat} :
    MorDoes (.mbxw q msk) (fun _ m s => m.awake (s.morLid m) msk = some i) (fun pc m s =>
      let w := (tget (0, 0) m.mbox i).1
      ((({ m with wake := m.wake &&& ~~~ ((1 : BitVec 16) <<< i) }.setQ q.toNat (w.truncate 32)).setQ (q.toNat + 1)
        (BitVec.ofNat 32 (16 * (w.extractLsb' 32 8).toNat + i))), pc, s)) := by
  intro hl s x pc lim hx hph hlim hz hok
  show execMbxw q msk s = _
  unfold execMbxw
  dsimp only
  rw [hx]
  dsimp only
  rw [hph]
  dsimp only
  rw [hok, Option.isNone_some, Bool.and_false, Bool.false_and, if_neg Bool.false_ne_true]
  unfold morRun
  dsimp only
  rw [hx]
  dsimp only
  rw [hph]
  dsimp only
  rw [hlim, if_neg Bool.false_ne_true, hl, hz, hok]
  rfl

/-! A command (R343). -/

/-- A command whose meaning is its effect does what its row says. -/
theorem command_does {i : Instr} {f : Nat → MUnit → Block → State → Except MStop State} {ok : Nat → MUnit → MorExec → Block → State → Prop}
    {eff : Nat → MUnit → MorExec → Block → State → State} (h : ∀ s, exec i s = morCmd i s f)
    (hf : ∀ s x b, (s.unit s.focusUnit).exec = some x → ok s.focusUnit (s.unit s.focusUnit) x b s →
      f s.focusUnit (s.unit s.focusUnit) b s = .ok (eff s.focusUnit (s.unit s.focusUnit) x b s)) : CommandDoes i ok eff := by
  intro hl s x b hx hb hph hok
  rw [h s]
  unfold morCmd
  dsimp only
  rw [hx, hb]
  dsimp only
  rw [hph]
  dsimp only
  rw [hl, hf s x b hx hok]
  rfl

theorem loadp_instructions {first count : BitVec 8} {addr : W64} {bs : List Byte} :
    CommandDoes (.loadp 0 first count addr) (fun u _ _ b s => s.unitRead u b.asid addr (4 * count.toNat) = .ok bs)
      (fun u m _ b s =>
        let t := s.unitFill u b.asid addr (4 * count.toNat)
        (t.setUnit u { m with tlb := (t.unit u).tlb, ib := (List.range count.toNat).foldl (fun i k =>
          tput 0 i (first.toNat + k) (BitVec.ofNat 32 (natOfBytes ((bs.drop (4 * k)).take 4)))) m.ib }).morNext u) := by
  refine command_does (fun s => show execLoadp 0 first count addr s = _ from rfl) fun s x b _ hread => ?_
  dsimp only
  rw [if_pos rfl, hread]
  rfl

theorem loadp_parameters {first count : BitVec 8} {addr : W64} {bs : List Byte} (kind : BitVec 8) (hkind : kind ≠ 0) :
    CommandDoes (.loadp kind first count addr) (fun u _ _ b s => s.unitRead u b.asid addr 160 = .ok bs)
      (fun u m _ b s =>
        let t := s.unitFill u b.asid addr 160
        (t.setUnit u ({ m with tlb := (t.unit u).tlb }.params bs)).morNext u) := by
  refine command_does (fun s => show execLoadp kind first count addr s = _ from rfl) fun s x b _ hread => ?_
  dsimp only
  rw [if_neg hkind, hread]
  dsimp only
  rw [if_neg hkind]

theorem run_starts {start : BitVec 8} {limit : BitVec 16} :
    CommandDoes (.run start limit) (fun _ _ _ _ _ => True) (fun u m x b s =>
      let rank := (b.units.findIdx? (fun v => v == u)).getD 0
      s.setUnit u { m with
        cur := (List.range 8).foldl (fun t i => tput 0 t i (tget 0 m.base i + BitVec.ofNat 64 rank * (tget 0 m.rstep i).signExtend 64)) []
        accs := [], outer := none, inner := none, exec := some { x with phase := .running start.toNat (s.limitOf limit.toNat) } }) := by
  refine command_does (fun s => show execRun start limit s = _ from rfl) fun s x b hx _ => ?_
  dsimp only
  rw [hx]

theorem rowsh_copies {src dst : W64} {p q : Nat} (hsrc : src.toNat % 1024 = 0) (hdst : dst.toNat % 1024 = 0) :
    CommandDoes (.rowsh src dst) (fun u _ _ b s =>
      (∃ r n, s.unitXl u b.asid src 1024 .load true = .ok ((p, n) :: r)) ∧
      (∃ r n, s.unitXl u b.asid dst 1024 .store true = .ok ((q, n) :: r)) ∧ ownChannel u p = true ∧ ownChannel u q = true ∧
      p / 2 ^ 10 % 2 ^ 4 = q / 2 ^ 10 % 2 ^ 4 ∧ p / 2 ^ 14 % 2 ^ 9 = q / 2 ^ 14 % 2 ^ 9 ∧
      (p / 2 ^ 23 % 256 = q / 2 ^ 23 % 256 + 1 ∨ q / 2 ^ 23 % 256 = p / 2 ^ 23 % 256 + 1))
      (fun u _ _ b s =>
        let ue := (List.range 128).foldl (fun t k => tput false t (q / 8 + k) (tget false s.memUe (p / 8 + k))) s.memUe
        let t := ((s.noteAt (s.unitWriters u) q (readBytes s.mem p 1024)).unitFill u b.asid src 1024).unitFill u b.asid dst 1024
        ({ t with mem := writeBytes s.mem q (readBytes s.mem p 1024), memUe := ue } : State).morNext u) := by
  refine command_does (fun s => show execRowsh src dst s = _ from rfl) fun s x b _ hok => ?_
  obtain ⟨⟨r, n, hp⟩, ⟨r', n', hq⟩, hownp, hownq, hbank, hrow, hsub⟩ := hok
  dsimp only
  rw [hsrc, hdst, hp, hq, if_neg (show ¬((0 : Nat) != 0 || (0 : Nat) != 0) = true by decide)]
  dsimp only
  have hnear : (p / 2 ^ 23 % 256 == q / 2 ^ 23 % 256 + 1 || q / 2 ^ 23 % 256 == p / 2 ^ 23 % 256 + 1) = true := by
    rw [Bool.or_eq_true, beq_iff_eq, beq_iff_eq]
    exact hsub
  rw [hownp, hownq, beq_iff_eq.mpr hbank, beq_iff_eq.mpr hrow, hnear]
  rfl

theorem trig_latch {scope : BitVec 8} {limit : W32} {obj target : W64} {a : Nat} :
    CommandDoes (.trig 0 scope limit obj target) (fun u _ _ b s => s.unitLatch u b.asid obj .load = .ok a) (fun u _ x b s =>
      let t := s.unitFill u b.asid obj 8
      t.setUnit u { t.unit u with exec := some { x with
        phase := .trigWait (.trig 0 scope limit obj target) (t.limitOf limit.toNat) none none } }) := by
  refine command_does (fun s => show execTrig 0 scope limit obj target s = _ from rfl) fun s x b hx hlatch => ?_
  dsimp only
  rw [hx]
  dsimp only
  rw [if_pos rfl, hlatch]

theorem trig_name {kind scope : BitVec 8} {limit : W32} {obj target : W64} (hkind : kind ≠ 0) :
    CommandDoes (.trig kind scope limit obj target) (fun _ _ _ _ _ => True) (fun u m x _ s =>
      let f := s.addFlight (.trigName u (s.wallus.toNat + Config.defaultLife))
      (f.2.placeInterest (unitRouter u) obj f.1 (s.wallus.toNat + Config.defaultLife)).setUnit u { m with exec := some { x with
        phase := .trigWait (.trig kind scope limit obj target)
          ((f.2.placeInterest (unitRouter u) obj f.1 (s.wallus.toNat + Config.defaultLife)).limitOf limit.toNat) (some f.1) none } }) := by
  refine command_does (fun s => show execTrig kind scope limit obj target s = _ from rfl) fun s x b hx _ => ?_
  dsimp only
  rw [hx]
  dsimp only
  rw [if_neg hkind]
  rfl

/-- A command that the unit performs itself (R347). -/
theorem sync_performs {i : Instr} {ok : Nat → MUnit → MorExec → Block → State → Prop}
    {eff : Nat → MUnit → MorExec → Block → State → State} (h : ∀ s, exec i s = morSync i 0 s)
    (hf : ∀ s x b, (s.unit s.focusUnit).exec = some x → ok s.focusUnit (s.unit s.focusUnit) x b s →
      s.morRelease [s.focusUnit] s.focusUnit b i = .ok (eff s.focusUnit (s.unit s.focusUnit) x b s)) : CommandDoes i ok eff :=
  command_does h fun s x b hx hok => (if_pos rfl).trans (hf s x b hx hok)

theorem fencem_performs {scope : BitVec 8} :
    CommandDoes (.fencem scope 0) (fun _ _ _ _ _ => True) (fun u _ _ _ s =>
      ((s.performStores (.unit u) scope.toNat).joinWrites [u] u).morNext u) :=
  sync_performs (fun _ => rfl) fun _ _ _ _ _ => rfl

theorem relm_adds {scope : BitVec 8} {latch inc : W64} {a : Nat} :
    CommandDoes (.relm scope 0 latch inc)
      (fun u _ _ b s => ((s.performStores (.unit u) scope.toNat).joinWrites [u] u).unitLatch u b.asid latch .atomic = .ok a)
      (fun u _ _ b s =>
        let t := ((s.performStores (.unit u) scope.toNat).joinWrites [u] u).unitFill u b.asid latch 8
        (((t.storeMem (t.unitWriters u) a (bytesOfNat 8 (min (readNat t.mem a 8 + inc.toNat) (2 ^ 64 - 1)))).release (.unit u) (.latch a) scope.toNat
          (fun _ _ => true)).wakeLatch a).morNext u) := by
  refine sync_performs (fun _ => rfl) fun s x b hx hlatch => ?_
  unfold State.morRelease
  dsimp only
  rw [show morScope (.relm scope 0 latch inc) = scope.toNat from rfl, List.foldl_cons, List.foldl_nil, hlatch]
  rfl

theorem onlyLags_joinWrites (s : State) (us : List Nat) (u : Nat) : OnlyLags s (s.joinWrites us u) := by
  unfold State.joinWrites
  split <;> exact ⟨_, rfl⟩

theorem exec_performed (s : State) (ag : Agent) (scope : Nat) (us : List Nat) (u v : Nat) :
    (((s.performStores ag scope).joinWrites us u).unit v).exec = (s.unit v).exec := by
  obtain ⟨l, hl⟩ := (onlyLags_reachLags s _ _).trans (onlyLags_joinWrites (s.performStores ag scope) us u)
  rw [hl]
  rfl

theorem exec_addFlight (s : State) (f : Flight) (v : Nat) : ((s.addFlight f).2.unit v).exec = (s.unit v).exec := rfl

theorem annm_announces {scope : BitVec 8} {len : W32} {name src : W64} {ps : List (Nat × Nat)} :
    CommandDoes (.annm scope 0 len name src)
      (fun u _ _ b s => ((s.performStores (.unit u) scope.toNat).joinWrites [u] u).unitXl u b.asid src len.toNat .load false = .ok ps ∧
        ∀ p ∈ ps, annReach u p.1 = true)
      (fun u _ x b s =>
        let t := ((s.performStores (.unit u) scope.toNat).joinWrites [u] u).unitFill u b.asid src len.toNat
        let f := t.addFlight (.annUnit u scope.toNat)
        (f.2.setUnit u { f.2.unit u with exec := some { x with phase := .annWait f.1 none } }).addPacket
          (.announce (unitRouter u) name ps len.toNat f.1 0)) := by
  refine sync_performs (fun _ => rfl) fun s x b hx hok => ?_
  obtain ⟨hxl, hreach⟩ := hok
  have hnone : ps.find? (fun p => !annReach s.focusUnit p.1) = none := List.find?_eq_none.mpr fun p hp => by
    rw [hreach p hp]
    exact Bool.false_ne_true
  unfold State.morRelease
  dsimp only
  rw [show morScope (.annm scope 0 len name src) = scope.toNat from rfl, List.foldl_cons, List.foldl_nil, hxl]
  dsimp only
  rw [hnone]
  dsimp only
  rw [exec_addFlight, (unitFill_frame ..).1, exec_performed, hx]

theorem sync_joins {i : Instr} {join : BitVec 8} (hjoin : join ≠ 0) (h : ∀ s, exec i s = morSync i join s) :
    CommandDoes i (fun _ _ _ _ _ => True) (fun u m x _ s => s.setUnit u { m with exec := some { x with phase := .joined i } }) := by
  refine command_does h fun s x b hx _ => ?_
  rw [if_neg hjoin, hx]

/-- Settles O48. -/
theorem moraineWords : Obligations.MoraineWords :=
  ⟨⟨fun _ _ _ _ => ⟨morLanes_does fun _ => rfl, morLanes_does fun _ => rfl, morLanes_does fun _ => rfl, morLanes_does fun _ => rfl,
        morLanes_does fun _ => rfl, morLanes_does fun _ => rfl, fun _ => morLanes_does fun _ => rfl, morLanes_does fun _ => rfl,
        morLanes_does fun _ => rfl, morLanes_does fun _ => rfl, morLanes_does fun _ => rfl, fun _ => morLanes_does fun _ => rfl⟩,
      fun q half imm => mor_does (fun s => show execMovi q half imm s = _ from rfl) fun _ _ _ => rfl, fun _ _ _ => ⟨moraineVld_whole, moraineVld_half⟩,
      fun _ _ _ _ _ _ => moraineVst_stores, fun _ _ _ _ => ⟨loopa_starts, loopb_starts⟩, fun _ _ _ _ => moraineEnd_ends,
      fun unit slot q => mor_does (fun s => show execMbxs unit slot q s = _ from rfl) fun _ _ _ => rfl, fun _ _ _ => mbxw_takes⟩,
    fun _ _ _ _ => ⟨loadp_instructions, loadp_parameters⟩, fun _ _ => run_starts, fun _ _ _ _ => rowsh_copies,
    fun unit slot v => command_does (fun s => show execMbx unit slot v s = _ from rfl) fun _ _ _ _ _ => rfl, fun _ _ _ _ _ => trig_latch, fun _ _ _ _ _ => trig_name,
    fun _ => fencem_performs, fun _ _ _ _ => relm_adds, fun _ _ _ _ _ => annm_announces,
    fun _ _ _ _ _ _ _ hjoin => ⟨sync_joins hjoin fun _ => rfl, sync_joins hjoin fun _ => rfl, sync_joins hjoin fun _ => rfl⟩⟩

end Sys2Proof.Machine
end

section
/-! SUPPORT. What Moraine units do by themselves (R340 to R347). -/

namespace Sys2Proof.Machine

open Sys2Proof

theorem unit_setUnit (s : State) (u : Nat) (m : MUnit) : (s.setUnit u m).unit u = m := tget_tput_same ..

/-- A unit that is at something is not as at reset, so that its entry stands where the next write finds it. -/
theorem setUnit_setUnit (s : State) (u : Nat) {m : MUnit} (n : MUnit) (h : m.exec ≠ none) :
    (s.setUnit u m).setUnit u n = s.setUnit u n := by
  have hne : m ≠ MUnit.reset := fun he => h (by rw [he]; rfl)
  unfold State.setUnit
  dsimp only
  rw [tput_tput _ _ (.inl hne)]

/-- What a unit is at in its block does not bear on its loops. -/
theorem after_exec (m : MUnit) (e : Option MorExec) (at' : Nat) :
    ({ m with exec := e } : MUnit).after at' = ((m.after at').1, { (m.after at').2 with exec := e }) := by
  obtain ⟨ib, z, zpois, q, base, stride, rstep, cur, accs, outer, inner, mbox, wake, queue, exec, bstat, must, lastLid, tlb, clock⟩ := m
  unfold MUnit.after
  cases inner with
  | none => cases outer with
    | none => rfl
    | some o => dsimp only; split <;> rfl
  | some l => cases outer with
    | none =>
      dsimp only
      rcases l.turn with ⟨_ | pc, l'⟩ <;> split <;> rfl
    | some o =>
      dsimp only
      rcases l.turn with ⟨_ | pc, l'⟩ <;> by_cases hl : l.last = at' <;> by_cases ho : o.last = at' <;> simp only [hl, ho, ↓reduceIte]

theorem trigSatisfied_met {s : State} {u : Nat} {x : MorExec} {kind scope : BitVec 8} {limit : W32} {obj target : W64} {lim f st : Option Nat}
    (hx : (s.unit u).exec = some x) (hph : x.phase = .trigWait (.trig kind scope limit obj target) lim f st) (hmet : s.trigNow u = .met) :
    exec (.trigSatisfied u) s = .next ((s.acquire (.unit u) scope.toNat (fun o =>
      if kind = 0 then (match s.unitLatch u (s.morAsid (s.unit u)) obj .load with | .ok a => o == .latch a | .error _ => false)
      else o == .name obj)).morNext u) := by
  show execTrigSatisfied u s = _
  unfold execTrigSatisfied
  rw [hmet]
  dsimp only
  rw [hx, Option.map_some, hph]
  rfl

theorem trigSatisfied_fails {s : State} {u : Nat} {e : MStop} (h : s.trigNow u = .fails e) :
    exec (.trigSatisfied u) s = .next (s.morStop u e) := by
  show execTrigSatisfied u s = _
  unfold execTrigSatisfied
  rw [h]

theorem limitExpiry_stops {s : State} {u : Nat} {x : MorExec} {pc t : Nat} (hx : (s.unit u).exec = some x)
    (hph : x.phase = .running pc (some t) ∨ x.phase = .mbxWait pc (some t)) (hlate : t < s.wallus.toNat) :
    exec (.moraineLimitExpiry u) s = .next (s.morStop u (MStop.of 0x0E)) := by
  show execMoraineLimitExpiry u s = _
  unfold execMoraineLimitExpiry
  rw [hx]
  dsimp only
  rcases hph with hph | hph <;> rw [hph] <;> exact if_pos (decide_eq_true hlate)

theorem joinComplete_performs {s v : State} {n u k : Nat} {b : Block} {i : Instr} {r : List (Nat × Nat × Instr)}
    (hb : tfind s.blocks n = some b) (hj : s.joiners n b = (u, k, i) :: r) (hends : ∀ e ∈ b.ends, e.code = 0)
    (hall : r.length + 1 = b.units.length) (hok : (r.foldl (fun s j => s.morNext j.1) s).morRelease b.units u b i = .ok v) :
    exec (.joinComplete n) s = .next v := by
  have hnone : b.ends.any (fun e => e.code != 0) = false := List.any_eq_false.mpr fun e he => by
    rw [hends e he]
    exact Bool.false_ne_true
  show execJoinComplete n s = _
  unfold execJoinComplete
  rw [hb]
  dsimp only
  rw [hj, List.isEmpty_cons, if_neg Bool.false_ne_true, hnone, if_neg Bool.false_ne_true, List.length_cons, if_pos hall]
  dsimp only
  rw [hok]

theorem joinComplete_stops {s : State} {n : Nat} {b : Block} (hb : tfind s.blocks n = some b) (hj : s.joiners n b ≠ [])
    (hends : ∃ e ∈ b.ends, e.code ≠ 0) :
    exec (.joinComplete n) s = .next ((s.joiners n b).foldl (fun s j => s.morStop j.1 (MStop.of 0x31)) s) := by
  have hsome : b.ends.any (fun e => e.code != 0) = true := List.any_eq_true.mpr (by simpa using hends)
  show execJoinComplete n s = _
  unfold execJoinComplete
  rw [hb]
  dsimp only
  rw [if_neg (mt List.isEmpty_iff.mp hj), hsome]
  rfl

theorem blockStart_same {s : State} {u n : Nat} {r : List Nat} {b : Block} (hx : (s.unit u).exec = none) (hq : (s.unit u).queue = n :: r)
    (hb : tfind s.blocks n = some b) (hl : (s.unit u).lastLid = b.org.lid) :
    exec (.blockStart u) s = .next (s.setUnit u { s.unit u with queue := r, exec := some { blk := n, cmd := 0, phase := .atCmd } }) := by
  show execBlockStart u s = _
  unfold execBlockStart
  dsimp only
  rw [hx, hq]
  dsimp only
  rw [hb]
  dsimp only
  rw [if_pos hl]

theorem blockStart_other {s : State} {u n : Nat} {r : List Nat} {b : Block} (hx : (s.unit u).exec = none) (hq : (s.unit u).queue = n :: r)
    (hb : tfind s.blocks n = some b) (hl : (s.unit u).lastLid ≠ b.org.lid) :
    exec (.blockStart u) s = .next (s.setUnit u { MUnit.reset with
      bstat := (s.unit u).bstat, must := (s.unit u).must, tlb := (s.unit u).tlb, lastLid := b.org.lid, queue := r,
      exec := some { blk := n, cmd := 0, phase := .atCmd } }) := by
  show execBlockStart u s = _
  unfold execBlockStart
  dsimp only
  rw [hx, hq]
  dsimp only
  rw [hb]
  dsimp only
  rw [if_neg hl]

theorem msubCompletion_reports {s : State} {n : Nat} {b : Block} (hb : tfind s.blocks n = some b) (hends : b.ends.length = b.units.length) :
    exec (.msubCompletion n) s = .next (({ s with blocks := tdel s.blocks n } : State).complete b.org qMor b.qid 0x13
      (match b.report with | none => 0 | some e => e.code)
      (match b.report with | none => 0 | some e => e.unit * 2 ^ 24 + e.cmd * 2 ^ 18 + min e.elem 0x3FFFF) (some b.sig)) := by
  show execMsubCompletion n s = _
  unfold execMsubCompletion
  rw [hb]
  dsimp only
  rw [if_neg (by simpa using hends)]
  cases b.report <;> rfl

/-- A unit whose MBXW has taken wake bit i into q and q + 1 (R340). -/
def MUnit.woken (m : MUnit) (q : BitVec 3) (i : Nat) : MUnit :=
  ({ m with wake := m.wake &&& ~~~ ((1 : BitVec 16) <<< i) }.setQ q.toNat ((tget (0, 0) m.mbox i).1.truncate 32)).setQ (q.toNat + 1)
    (BitVec.ofNat 32 (16 * ((tget (0, 0) m.mbox i).1.extractLsb' 32 8).toNat + i))

theorem woken_exec (m : MUnit) (e : Option MorExec) (q : BitVec 3) (i : Nat) :
    ({ m with exec := e } : MUnit).woken q i = { m.woken q i with exec := e } := rfl

theorem mailboxWake_takes {s : State} {u pc i : Nat} {lim : Option Nat} {x : MorExec} {q : BitVec 3} {msk : BitVec 16}
    (hx : (s.unit u).exec = some x) (hph : x.phase = .mbxWait pc lim) (hdec : decodeMoraine (tget 0 (s.unit u).ib pc) = .ok (.mbxw q msk))
    (hl : moraineLegal (.mbxw q msk) = true) (hlim : s.expired lim = false) (ha : (s.unit u).awake (s.morLid (s.unit u)) msk = some i) :
    let r := ((s.unit u).woken q i).after pc
    exec (.mailboxWake u) s = .next (s.setUnit u { r.2 with exec := some { x with phase := .running r.1 lim } }) := by
  intro r
  obtain ⟨m', hm'⟩ : ∃ m' : MUnit, m' = { s.unit u with exec := some { x with phase := .running pc lim } } := ⟨_, rfl⟩
  obtain ⟨t, ht⟩ : ∃ t : State, t = { s with focusUnit := u }.setUnit u m' := ⟨_, rfl⟩
  have hfocus : t.focusUnit = u := by rw [ht]; rfl
  have hunit : t.unit u = m' := by rw [ht, unit_setUnit]
  have hrest : t.setUnit u { r.2 with exec := some { x with phase := .running r.1 lim } } =
      { s with focusUnit := u }.setUnit u { r.2 with exec := some { x with phase := .running r.1 lim } } := by
    rw [ht, setUnit_setUnit]
    rw [hm']
    exact Option.some_ne_none _
  have hawake : m'.awake (t.morLid m') msk = some i := by
    have hlid : t.morLid m' = s.morLid (s.unit u) := by
      unfold State.morLid State.morBlock
      rw [hm', ht, hx]
      rfl
    rw [hlid, hm']
    exact ha
  have hrun : exec (.mbxw q msk) t = .next (t.setUnit u { r.2 with exec := some { x with phase := .running r.1 lim } }) := by
    have hafter : (m'.woken q i).after pc = (r.1, { r.2 with exec := some { x with phase := .running pc lim } }) := by
      rw [hm', woken_exec, after_exec]
    have htake := mbxw_takes (q := q) (i := i) hl t { x with phase := .running pc lim } pc lim (by rw [hfocus, hunit, hm']) rfl
      (by rw [ht]; exact hlim) rfl (by rw [hfocus, hunit]; exact hawake)
    rw [hfocus, hunit] at htake
    refine htake.trans ?_
    show Host.Outcome.next (t.setUnit u { ((m'.woken q i).after pc).2 with
      exec := some { x with phase := .running ((m'.woken q i).after pc).1 lim } }) = _
    rw [hafter]
  show execMailboxWake u s = _
  unfold execMailboxWake
  dsimp only
  rw [hx]
  dsimp only
  rw [hph]
  dsimp only
  rw [hdec]
  dsimp only
  rw [ha, Option.isSome_some, if_pos rfl, ← hm', ← ht, show execMbxw q msk t = _ from hrun, hrest]
  rfl

/-- Settles O49. -/
theorem moraineEvents : Obligations.MoraineEvents :=
  ⟨fun _ _ _ _ _ _ _ _ => mailboxWake_takes, fun _ _ _ _ _ _ _ _ _ _ _ => trigSatisfied_met, fun _ _ _ => trigSatisfied_fails,
    fun _ _ _ _ _ => limitExpiry_stops, fun _ _ _ _ _ _ _ _ => joinComplete_performs, fun _ _ _ => joinComplete_stops,
    fun _ _ _ _ _ => blockStart_same, fun _ _ _ _ _ => blockStart_other, fun _ _ _ => msubCompletion_reports⟩

end Sys2Proof.Machine
end

section
/-! SUPPORT. What a fired Drift entry does (R369 to R372, R380, R381). -/

namespace Sys2Proof.Machine

open Sys2Proof

/-- An entry whose meaning is its effect does what its row says. -/
theorem drift_does {i : Instr} {f eff : Nat → DriftEnt → DriftList → State → State} {ok : Nat → DriftEnt → DriftList → State → Prop}
    (h : ∀ s, exec i s = drift s f) (hf : ∀ n e l s, ok n e l s → f n e l s = eff n e l s) : DriftDoes i ok eff := by
  intro s e he hph hok
  rw [h s]
  unfold drift
  rw [he]
  dsimp only
  rw [hph]
  dsimp only
  rw [hf _ _ _ _ hok]

/-! The lines of an entry are written for the same agents throughout: stores leave the lists (R50). -/

/-- A store at a device changes what agents have not seen, memory, its errors, the doorbells and the peers. -/
def OnlyStores (s t : State) : Prop :=
  ∃ l m ue bells peers, t = { s with lags := l, mem := m, memUe := ue, doorbells := bells, peers := peers }

theorem onlyStores_storeDev (s : State) (ags : List Agent) (dev a : Nat) (bs : List Byte) : OnlyStores s (s.storeDev ags dev a bs) := by
  obtain ⟨l, hl⟩ := onlyLags_noteBytes s ags dev (bytesAt a bs)
  unfold State.storeDev
  rw [hl, State.writeDev]
  split
  · exact ⟨_, _, _, _, _, rfl⟩
  · exact ⟨_, _, _, _, _, rfl⟩

theorem OnlyStores.entAgents_eq {s t : State} (h : OnlyStores s t) (e : DriftEnt) : t.entAgents e = s.entAgents e := by
  obtain ⟨l, m, ue, bells, peers, rfl⟩ := h
  rfl

theorem targetWrite_stores {s t : State} {ags : List Agent} {d a : Nat} {bs : List Byte} (h : s.targetWrite ags d a bs = .ok t) :
    OnlyStores s t := by
  unfold State.targetWrite at h
  split at h
  · cases h
  · split at h <;> cases h
    exact onlyStores_storeDev ..

theorem targetAdd_stores {s t : State} {ags : List Agent} {d a fop v : Nat} (h : s.targetAdd ags d a fop v = .ok t) : OnlyStores s t := by
  unfold State.targetAdd at h
  split at h
  · cases h
  · split at h
    · cases h
    · split at h <;> cases h
      exact onlyStores_storeDev ..

theorem targetAdds_agents {ags : List Agent} {d fop : Nat} {e : DriftEnt} (n : Nat) {s t : State} {a : Nat} {bs : List Byte}
    (h : s.targetAdds ags d a fop n bs = .ok t) : t.entAgents e = s.entAgents e := by
  induction n generalizing s a bs with
  | zero => cases h; rfl
  | succ n ih =>
    unfold State.targetAdds at h
    split at h
    · cases h; rfl
    · split at h
      · cases h
      · rename_i s1 hs1
        exact (ih h).trans ((targetAdd_stores hs1).entAgents_eq e)

theorem putAt_agents {s t : State} {ags : List Agent} {w : W64} {n a : Nat} (h : s.putAt ags w n = .ok (a, t)) (e : DriftEnt) :
    t.entAgents e = s.entAgents e := by
  unfold State.putAt State.claimRow at h
  split at h
  · cases h
  · dsimp only at h
    repeat' split at h
    all_goals cases h
    · exact (onlyStores_storeDev ..).entAgents_eq e
    · rfl

/-- Lines that are written alike while the writers are the same are written alike. -/
theorem putLines_agents {e : DriftEnt} {wr : List Agent → State → Nat → List Byte → Except Nat State} {ags : List Agent}
    (hkeep : ∀ u off b v, u.entAgents e = ags → wr ags u off b = .ok v → v.entAgents e = ags) (q : Option Nat) (ls : List Nat) :
    ∀ (off : Nat) (bs : List Byte) (s : State) (k : Nat), s.entAgents e = ags →
      putLines (fun u => wr (u.entAgents e) u) q ls off bs s k = putLines (wr ags) q ls off bs s k := by
  induction ls with
  | nil => exact fun _ _ _ _ _ => rfl
  | cons n r ih =>
    intro off bs s k hs
    unfold putLines
    rw [hs]
    split
    · rfl
    · split
      · rfl
      · rename_i t ht
        exact ih _ _ _ _ (hkeep _ _ _ _ hs ht)

theorem put_writes {hd : DHdr} {src dst : W64} {len : W32} {rctr : BitVec 16} {a st k : Nat} {bs : List Byte} {q : Option Nat} {t v : State} :
    DriftDoes (.put hd src dst len rctr)
    (fun _ e l s => s.putAt (s.entAgents e) dst len.toNat = .ok (a, t) ∧ t.srcBytes l src 0 len.toNat = (bs, q) ∧
      putLines (fun u off b => u.targetWrite (s.entAgents e) (descTdev dst) (a + off) b) q (driftLines a len.toNat) 0 bs t 0 = (v, st, k))
    (fun n e _ _ => (if st = 0 then v.rctr e (descTdev dst) rctr else v).endEnt n st k) := by
  refine drift_does (fun s => show execPut hd src dst len rctr s = _ from rfl) fun n e l s hok => ?_
  obtain ⟨hat, hsrc, hlines⟩ := hok
  have hsame := putLines_agents (e := e) (wr := fun ags u off b => u.targetWrite ags (descTdev dst) (a + off) b) (ags := s.entAgents e)
    (fun u off b v hu hv => ((targetWrite_stores hv).entAgents_eq e).trans hu) q (driftLines a len.toNat) 0 bs t 0 (putAt_agents hat e)
  dsimp only
  rw [hat]
  dsimp only
  rw [hsrc]
  dsimp only
  rw [hsame, hlines]

theorem put_fails {hd : DHdr} {src dst : W64} {len : W32} {rctr : BitVec 16} {st : Nat} :
    DriftDoes (.put hd src dst len rctr) (fun _ e _ s => s.putAt (s.entAgents e) dst len.toNat = .error st)
      (fun n _ _ s => s.endEnt n st 0) := by
  refine drift_does (fun s => show execPut hd src dst len rctr s = _ from rfl) fun n e l s hat => ?_
  dsimp only
  rw [hat]

theorem putred_adds {hd : DHdr} {src dst : W64} {len : W32} {rctr : BitVec 16} {fop : BitVec 8} {a st k : Nat} {bs : List Byte}
    {q : Option Nat} {v : State} : DriftDoes (.putred hd src dst len rctr fop)
    (fun _ e l s => s.plainWin dst len.toNat = .ok a ∧ s.srcBytes l src 0 len.toNat = (bs, q) ∧
      putLines (fun u off b => u.targetAdds (s.entAgents e) (descTdev dst) (a + off) fop.toNat 1 b) q ((List.range (len.toNat / 4)).map (fun _ => 4))
        0 bs s 0 = (v, st, k))
    (fun n e _ _ => (if st = 0 then v.rctr e (descTdev dst) rctr else v).endEnt n st 0) := by
  refine drift_does (fun s => show execPutred hd src dst len rctr fop s = _ from rfl) fun n e l s hok => ?_
  obtain ⟨hat, hsrc, hlines⟩ := hok
  have hsame := putLines_agents (e := e) (wr := fun ags u off b => u.targetAdds ags (descTdev dst) (a + off) fop.toNat 1 b)
    (ags := s.entAgents e) (fun u off b v hu hv => (targetAdds_agents 1 hv).trans hu) q ((List.range (len.toNat / 4)).map (fun _ => 4)) 0 bs s 0 rfl
  dsimp only
  rw [hat]
  dsimp only
  rw [hsrc]
  dsimp only
  rw [hsame, hlines]

theorem putmc_starts {hd : DHdr} {src dst : W64} {len : W32} {rctr : BitVec 16} {ack : W64} {g : Group} :
    DriftDoes (.putmc hd src dst len rctr ack)
    (fun _ _ _ s => s.usableGroup (descGroup dst) = some g ∧ descOff dst + len.toNat ≤ min g.size (2 ^ 30))
    (fun n e _ s => s.setEnt n { e with phase := .sending, mcOff := 0 }) := by
  refine drift_does (fun s => show execPutmc hd src dst len rctr ack s = _ from rfl) fun n e l s hok => ?_
  obtain ⟨hg, hfits⟩ := hok
  dsimp only
  rw [hg]
  exact if_neg (Nat.not_lt.mpr hfits)

theorem putmc_unreachable {hd : DHdr} {src dst : W64} {len : W32} {rctr : BitVec 16} {ack : W64} :
    DriftDoes (.putmc hd src dst len rctr ack) (fun _ _ _ s => s.usableGroup (descGroup dst) = none) (fun n _ _ s => s.endEnt n 0x42 0) := by
  refine drift_does (fun s => show execPutmc hd src dst len rctr ack s = _ from rfl) fun n e l s hg => ?_
  dsimp only
  rw [hg]

/-- Bytes that end within a line are one line of it. -/
theorem driftLines_one {a n : Nat} (h0 : 0 < n) (h : n ≤ 64 - a % 64) : driftLines a n = [n] := by
  unfold driftLines
  rw [lineSizes, if_neg (by omega), Nat.min_eq_left h]
  dsimp only
  rw [Nat.sub_self, lineSizes, if_pos rfl]

theorem get_line {hd : DHdr} {src dst : W64} {len : W32} {a : Nat} : DriftDoes (.get hd src dst len)
    (fun _ _ _ s => s.plainWin src len.toNat = .ok a ∧ len.toNat ≤ 64 - a % 64 ∧ 0 < len.toNat ∧ plainDpa a len.toNat = true ∧
      (descTdev src = ownTdev → s.ueIn a len.toNat = false))
    (fun n e l s =>
      let r := s.driftPut (s.entAgents e) l.asid dst (s.asSeen .drift (descTdev src) a (readBytes (s.devMem (descTdev src)) a len.toNat)) len.toNat none
      r.1.endEnt n r.2.1 r.2.2) := by
  refine drift_does (fun s => show execGet hd src dst len s = _ from rfl) fun n e l s hok => ?_
  obtain ⟨hat, hline, hpos, hplain, hue⟩ := hok
  have hgood : ¬(descTdev src = ownTdev && s.ueIn a len.toNat) = true := fun h => by
    obtain ⟨hown, hbad⟩ := Bool.and_eq_true_iff.mp h
    rw [hue (of_decide_eq_true hown)] at hbad
    exact Bool.false_ne_true hbad
  dsimp only
  rw [hat]
  dsimp only
  rw [driftLines_one hpos hline, List.foldl_cons, List.foldl_nil]
  dsimp only
  rw [Nat.add_zero, hplain, Bool.not_true, if_neg Bool.false_ne_true, if_neg hgood]
  rfl

theorem signal_counts {hd : DHdr} {dst : W64} {inc : W32} {rctr : BitVec 16} : DriftDoes (.signal hd dst inc rctr)
    (fun _ _ _ s => s.reach (descTdev dst) = none)
    (fun n e _ s => (if rctr.getLsbD 15 then s.entCtr e (descTdev dst) (rctr.extractLsb' 0 12).toNat inc else s).endEnt n 0 0) := by
  refine drift_does (fun s => show execSignal hd dst inc rctr s = _ from rfl) fun n e l s h => ?_
  dsimp only
  rw [h]

theorem signal_unreachable {hd : DHdr} {dst : W64} {inc : W32} {rctr : BitVec 16} {st : Nat} : DriftDoes (.signal hd dst inc rctr)
    (fun _ _ _ s => s.reach (descTdev dst) = some st) (fun n _ _ s => s.endEnt n st 0) := by
  refine drift_does (fun s => show execSignal hd dst inc rctr s = _ from rfl) fun n e l s h => ?_
  dsimp only
  rw [h]

theorem rsstep_first {hd : DHdr} {src dst : W64} {len : W32} {recv : W64} {succ sctr : BitVec 16} {np q : BitVec 8} {sig : W64}
    {bs : List Byte} (hnp : 1 < np.toNat) : DriftDoes (.rsstep hd src recv dst len succ sctr np q 0 sig)
      (fun _ _ l s =>
        let sh := shardOf len.toNat np.toNat (stepShard np.toNat q.toNat 0)
        s.driftBytes l.asid (src + BitVec.ofNat 64 sh.1) sh.2 = (bs, none) ∧ s.reach succ.toNat = none)
      (fun n e _ s =>
        let m : RingMsg := { src := .ent n, dest := succ.toNat, sctr := sctr.toNat, st := 0, data := bs,
                             sig := s.hopSig succ.toNat (sigContributor 0 ownTdev) }
        ({ s with rings := tset s.rings s.nextRing m } : State).setEnt n { e with phase := .sending }) := by
  refine drift_does (fun s => show execRsstep hd src recv dst len succ sctr np q 0 sig s = _ from rfl) fun n e l s hok => ?_
  obtain ⟨hmine, hreach⟩ := hok
  dsimp only
  rw [if_pos rfl, show (0 : BitVec 8).toNat = 0 from rfl, hmine]
  dsimp only
  rw [if_pos (by omega), hreach]

theorem deliver_starts {hd : DHdr} {src dst : W64} {len tsize : W32} {name : W64} {bs : List Byte} {q : Option Nat} {k : Nat} {v : State} :
    DriftDoes (.deliver hd src dst len tsize name)
      (fun _ e l s => s.driftBytes l.asid src len.toNat = (bs, q) ∧
        putLines (deliverLine (s.entAgents e) l.asid dst) q (driftLines dst.toNat len.toNat) 0 bs s 0 = (v, 0, k))
      (fun n e l _ => v.deliverTile n e l dst len.toNat tsize.toNat name 0 k) := by
  intro s e he hph hok
  obtain ⟨hsrc, hlines⟩ := hok
  show execDeliver hd src dst len tsize name s = _
  unfold execDeliver
  dsimp only
  rw [he]
  dsimp only
  rw [hph]
  dsimp only
  rw [hsrc]
  dsimp only
  rw [hlines]
  rfl

/-- Settles O50. -/
theorem driftEntries : Obligations.DriftEntries :=
  fun _ _ _ _ _ => ⟨fun _ _ _ _ _ _ _ => put_writes, fun _ => put_fails, fun _ _ _ _ _ _ _ => putred_adds, fun _ _ => putmc_starts,
    fun _ => putmc_unreachable, fun _ => get_line, fun _ => signal_counts, fun _ _ => signal_unreachable,
    fun _ _ _ _ _ _ _ => rsstep_first, fun _ _ _ _ _ _ => deliver_starts⟩

end Sys2Proof.Machine
end

section
/-! SUPPORT. The ends, retries, lists and messages of the Drift engine (R367, R368, R371, R373 to R380). -/

namespace Sys2Proof.Machine

open Sys2Proof

/-! Entries and lists (R371, R373). -/

theorem driftEnd_closes {s : State} {n st k : Nat} {e : DriftEnt} (he : tfind s.drifts n = some e) (hph : e.phase = .ended st k) :
    exec (.driftEntryCompletion n) s = .next (s.closeEnt n e st k) := by
  show execDriftEntryCompletion n s = _
  unfold execDriftEntryCompletion
  dsimp only
  rw [he]
  dsimp only
  rw [hph]

theorem driftRetry_fires {s : State} {n t : Nat} {e : DriftEnt} (he : tfind s.drifts n = some e) (hph : e.phase = .retry t)
    (hdue : t ≤ s.wallus.toNat) : exec (.driftRetry n) s = .next (s.setEnt n { e with phase := .fired }) := by
  show execDriftRetry n s = _
  unfold execDriftRetry
  rw [he]
  dsimp only
  rw [hph]
  exact if_pos hdue

theorem darmCompletion_reports {s : State} {n : Nat} {l : DriftList} (hl : tfind s.dlists n = some l) (hleft : l.left = 0)
    (hwait : l.waiting = none) (hq : l.qid2 = none) :
    exec (.darmCompletion n) s = .next (({ s with dlists := tdel s.dlists n } : State).complete l.org qDrift l.qid
      (if l.dput then 0x16 else 0x15) l.status l.detail (some l.sig)) := by
  show execDarmCompletion n s = _
  unfold execDarmCompletion
  rw [hl]
  dsimp only
  rw [hleft, hwait, hq]
  rfl

/-! Messages of a ring (R380). -/

theorem ringSlot_unreachable {s : State} {n st : Nat} {m : RingMsg} (hm : tfind s.rings n = some m) (hr : s.reach m.dest = some st) :
    exec (.ringSlotTransfer n) s = .next (({ s with rings := tdel s.rings n } : State).ringEnd m st) := by
  show execRingSlotTransfer n s = _
  unfold execRingSlotTransfer
  rw [hm]
  dsimp only
  rw [hr]

theorem ringSlot_other {s : State} {n : Nat} {m : RingMsg} (hm : tfind s.rings n = some m) (hr : s.reach m.dest = none)
    (hother : m.dest ≠ ownTdev) :
    let p := s.peer m.dest
    let s0 : State := { s with rings := tdel s.rings n }
    (tmem p.slots m.key = true → exec (.ringSlotTransfer n) s = .next s) ∧
    (tmem p.slots m.key = false → exec (.ringSlotTransfer n) s =
      .next ((s0.setPeer m.dest { p with slots := tset p.slots m.key (m.data, m.sig) }).ringDone m [])) := by
  intro p s0
  have hx : exec (.ringSlotTransfer n) s = if tmem p.slots m.key then .next s else
      .next ((s0.setPeer m.dest { p with slots := tset p.slots m.key (m.data, m.sig) }).ringDone m []) := by
    show execRingSlotTransfer n s = _
    unfold execRingSlotTransfer
    rw [hm]
    dsimp only
    rw [hr]
    exact if_pos (bne_iff_ne.mpr hother)
  rw [hx]
  exact ⟨fun h => if_pos h, fun h => if_neg (Bool.eq_false_iff.mp h)⟩

theorem ringSlot_own {s : State} {n a : Nat} {m : RingMsg} {asid : BitVec 16} {va : W64} (hm : tfind s.rings n = some m)
    (hr : s.reach m.dest = none) (hown : m.dest = ownTdev) (hdest : s.ringDest m = some (asid, va)) (hxl : s.driftXl asid va .store = .ok a)
    (hhome : ringHome a = true) :
    ((∃ r ∈ s.ringSlots, r.addr = a) → exec (.ringSlotTransfer n) s = .next s) ∧
    ((∀ r ∈ s.ringSlots, r.addr ≠ a) → ∀ (t : State) (k : Nat),
      ({ s with rings := tdel s.rings n } : State).driftPut (s.ringAgents m) asid va m.data m.data.length none = (t, 0, k) →
      exec (.ringSlotTransfer n) s = .next (({ t with ringSlots := t.ringSlots ++ [⟨a, m.sig⟩] } : State).ringDone m
        [(a, m.data.length)])) := by
  have htaken : s.ringSlots.any (fun r => r.addr == a) = true ↔ ∃ r ∈ s.ringSlots, r.addr = a := by
    simp only [List.any_eq_true, beq_iff_eq]
  have hgo : exec (.ringSlotTransfer n) s = execRingSlotTransfer n s := rfl
  unfold execRingSlotTransfer at hgo
  rw [hm] at hgo
  dsimp only at hgo
  rw [hr] at hgo
  dsimp only at hgo
  rw [if_neg (fun h => bne_iff_ne.mp h hown), hdest] at hgo
  dsimp only at hgo
  rw [hxl] at hgo
  dsimp only at hgo
  rw [hhome, Bool.not_true, if_neg Bool.false_ne_true] at hgo
  refine ⟨fun h => hgo.trans (if_pos (htaken.mpr h)), fun h t k hput => ?_⟩
  rw [hgo, if_neg (fun hc => let ⟨r, hr, he⟩ := htaken.mp hc; h r hr he), hput]
  rfl

theorem ringDone_entry {s : State} {m : RingMsg} {ps : List (Nat × Nat)} {k : Nat} {e : DriftEnt} (hsrc : m.src = .ent k)
    (he : tfind s.drifts k = some e) :
    s.ringDone m ps = (s.entCtr e m.dest m.sctr 1).endEnt k 0 0 ∧ ∀ st, s.ringEnd m st = s.endEnt k st 0 := by
  unfold State.ringDone State.ringEnd
  rw [hsrc]
  dsimp only
  rw [he]
  exact ⟨rfl, fun _ => rfl⟩

theorem ringDone_device {s : State} {m : RingMsg} {ps : List (Nat × Nat)} {d : Nat} (hsrc : m.src = .dev d none) :
    s.ringDone m ps = s.bumpCtr m.dest m.sctr 1 ∧ ∀ st, s.ringEnd m st = s := by
  unfold State.ringDone State.ringEnd
  rw [hsrc]
  exact ⟨rfl, fun _ => rfl⟩

/-! Counters (R367, R368). -/

theorem entCtr_counts (s : State) (e : DriftEnt) (d c : Nat) (n : W32) :
    ((s.entRel e).1 = false → s.entCtr e d c n = s.bumpCtr d c n) ∧ s.bumpCtr ownTdev c n = s.setCtr c (tget 0 s.ctrs c + n) := by
  refine ⟨fun h => ?_, ?_⟩
  · unfold State.entCtr
    dsimp only
    rw [h]
    rfl
  · unfold State.bumpCtr State.setDevCtr State.devCtrs
    rw [if_pos rfl, if_pos rfl]

theorem counterAccess_performs {c : Nat} (s : State) (v : W64) (h : c < 4096) :
    exec (.driftCounterAccess .load c v) s = .next s ∧
    exec (.driftCounterAccess .store c v) s = .next (s.setCtr c (v.truncate 32)) ∧
    exec (.driftCounterAccess .add c v) s = .next (s.setCtr c (tget 0 s.ctrs c + v.truncate 32)) := by
  have hin : ¬4096 ≤ c := Nat.not_le.mpr h
  exact ⟨if_neg hin, if_neg hin, if_neg hin⟩

theorem armed_phase {s : State} {lst idx : Nat} {i : Instr} {h : DHdr} (hh : driftHdr i = some h) :
    ((s.armed lst idx i).phase = .fired ↔ h.thresh.toNat ≤ (tget 0 s.ctrs h.trig.toNat).toNat) ∧
    ((s.armed lst idx i).phase = .armed ↔ (tget 0 s.ctrs h.trig.toNat).toNat < h.thresh.toNat) := by
  unfold State.armed
  dsimp only
  rw [hh]
  dsimp only
  split
  · rename_i hle
    exact ⟨iff_of_true rfl hle, iff_of_false (fun hc => by cases hc) (Nat.not_lt.mpr hle)⟩
  · rename_i hlt
    exact ⟨iff_of_false (fun hc => by cases hc) hlt, iff_of_true rfl (Nat.not_le.mp hlt)⟩

theorem ctrs_setCtr (s : State) (c : Nat) (v : W32) :
    tget 0 (s.setCtr c v).ctrs c = v ∧ ∀ k, k ≠ c → tget 0 (s.setCtr c v).ctrs k = tget 0 s.ctrs k :=
  ⟨tget_tput_same .., fun _ h => tget_tput_other _ _ _ h⟩

theorem setCtr_fires {s : State} {c : Nat} {v : W32} {p : Nat × DriftEnt} {h : DHdr} (hp : p ∈ (s.setCtr c v).drifts)
    (hh : driftHdr p.2.entry = some h) (htrig : h.trig.toNat = c) (hle : h.thresh.toNat ≤ v.toNat) : p.2.phase ≠ .armed := by
  obtain ⟨p0, -, rfl⟩ := List.mem_map.mp hp
  split at hh
  · rename_i h0 hph0 hh0
    split at hh
    · rename_i hfires
      rw [if_pos hfires]
      exact fun hc => by cases hc
    · rename_i hstays
      obtain rfl : h0 = h := Option.some_inj.mp (hh0.symm.trans hh)
      exact absurd (by rw [decide_eq_true htrig, decide_eq_true hle]; rfl) hstays
  · rename_i hother
    exact fun hc => hother h hc hh

/-! The lines of a put through the aperture (R377, R378). -/

theorem multicastLine_sends {s : State} {n : Nat} {e : DriftEnt} {hd : DHdr} {src dst ack : W64} {len : W32} {rctr : BitVec 16} {g : Group}
    {bs : List Byte} {q : Option Nat} {naks : List (Nat × Nat)} {t : State} (he : tfind s.drifts n = some e) (hph : e.phase = .sending)
    (hent : e.entry = .putmc hd src dst len rctr ack) (hlen : e.mcOff + 64 ≤ len.toNat) (halign : (descOff dst + e.mcOff) % 64 = 0)
    (hfits : descOff dst + e.mcOff + 64 ≤ min g.size (2 ^ 30)) (hsrc : (s.dlist e.list).src = some (bs, q))
    (hg : s.usableGroup (descGroup dst) = some g) (hbs : e.mcOff + 64 ≤ bs.length) (hkind : g.kind = 0)
    (hto : s.multicastTo (s.entAgents e) (descGroup dst) g (descOff dst + e.mcOff) ((bs.drop e.mcOff).take 64) Config.devId.toNat = (naks, t)) :
    exec (.multicastLine n) s = .next (t.setEnt n { e with mcOff := e.mcOff + 64, naks := addNaks e.naks naks }) := by
  have hmore : e.allSent = false := by
    unfold DriftEnt.allSent
    rw [hent]
    exact decide_eq_false (by omega)
  have hsize : min (len.toNat - e.mcOff) (64 - (descOff dst + e.mcOff) % 64) = 64 := by omega
  have hbytes : s.srcBytes (s.dlist e.list) src e.mcOff 64 = ((bs.drop e.mcOff).take 64, q) := by
    unfold State.srcBytes
    rw [hsrc]
  have hfull : ¬((bs.drop e.mcOff).take 64).length < 64 := by
    rw [List.length_take, List.length_drop]
    omega
  show execMulticastLine n s = _
  unfold execMulticastLine
  rw [he]
  dsimp only
  rw [hph, hent]
  dsimp only
  rw [hmore, if_neg Bool.false_ne_true, hsrc, Option.isSome_some, if_pos rfl, hg, hsize]
  dsimp only
  rw [if_neg (Nat.not_lt.mpr hfits), if_neg (by decide), hbytes]
  dsimp only
  rw [if_neg hfull, if_pos hkind, hto, ← hph, ← hent]

/-- Settles O51. -/
theorem driftEvents : Obligations.DriftEvents :=
  ⟨⟨fun _ _ _ _ _ => driftEnd_closes, fun _ _ _ _ => driftRetry_fires, fun _ _ _ => darmCompletion_reports, fun _ _ _ => ringSlot_other,
      fun _ _ _ _ => ringSlot_unreachable, fun _ _ _ _ _ _ => ringSlot_own, fun _ _ _ _ _ => ringDone_entry, fun _ _ _ _ => ringDone_device,
      entCtr_counts, fun s _ v => counterAccess_performs s v, fun _ _ _ _ _ _ _ _ _ _ _ _ _ _ => multicastLine_sends⟩,
    fun _ _ _ _ _ => armed_phase, fun s c v _ => ctrs_setCtr s c v, fun _ _ _ _ _ => setCtr_fires⟩

end Sys2Proof.Machine
end

section
/-! SUPPORT. Panel traffic, isolation and links (R363 to R366, R375, R378). -/

namespace Sys2Proof.Machine

open Sys2Proof

/-! What members and peers do here (R365, R366, R375, R378). -/

theorem reduceContribution_taken {s : State} {m g off : Nat} {bs : List Byte} (hv : (s.group g).valid = true)
    (hk : (s.group g).kind = 1 ∨ (s.group g).kind = 2) (hm : m ∈ (s.group g).list) (hlen : bs.length = 64) (halign : off % 64 = 0)
    (hfits : off + 64 ≤ (s.group g).size) :
    exec (.reduceContribution m g off bs) s = .next (s.contribute g (s.group g) off m (rowOfBytes bs) (.other m)) := by
  show execReduceContribution m g off bs s = _
  unfold execReduceContribution
  refine if_pos ?_
  simp only [hv, hlen, halign, hfits, decide_true, Bool.and_true, Bool.true_and, Bool.and_eq_true, Bool.or_eq_true, decide_eq_true_eq]
  exact ⟨hk, List.contains_iff_mem.mpr hm⟩

theorem apertureLoad_answers {s : State} {c n d g off : Nat} {l : LdsOut} (hl : (s.ctxAt c n).lds = some l)
    (hx : s.xlate (s.core c).tlb (s.ctxAt c n).launch.asid l.va .load = .ok d) (hd : regionOf d = .aperture g off) :
    exec (.apertureLoad c n l.va) s = .next (s.setCtxAt c n { s.ctxAt c n with lds := some { l with
      result := match s.readDpa d (szBytes l.sz) with | .ok bs => .ok (szExtend l.sz bs) | .error e => .error e } }) := by
  show execApertureLoad c n l.va s = _
  unfold execApertureLoad
  dsimp only
  rw [hl]
  dsimp only
  rw [hx]
  dsimp only
  rw [hd]
  dsimp only
  simp only [bne_self_eq_false, Bool.false_eq_true, if_false] <;> rfl

theorem regionOf_plain {a : Nat} (h : regionOf a = .hbm ∨ regionOf a = .firn ∨ regionOf a = .window) : a < Config.windowEnd := by
  unfold regionOf at h
  split_ifs at h with hhbm hfirn hwin
  · exact Nat.lt_of_lt_of_le hhbm (by decide)
  · exact Nat.lt_of_lt_of_le hfirn (by decide)
  · exact hwin.2
  all_goals simp at h

/-- Plain memory is none of the counters' (R47). -/
theorem plainDpa_notCounters {d n : Nat} (h : plainDpa d n = true) : inCounters d n = false := by
  have hlow : d < Config.windowEnd := by
    unfold plainDpa at h
    split at h
    case h_5 => cases h
    all_goals rename_i hr _; exact regionOf_plain (by rw [hr]; simp)
  have hbelow : Config.windowEnd ≤ Config.countersDpa := by decide
  exact Bool.and_eq_false_iff.mpr (.inl (decide_eq_false (by omega)))

/-- An access that the exposure table lets in is served (R365). -/
theorem peerAccess_served {s : State} {acc : PeerAcc} {d n : Nat} {bs : List Byte} (hn : (peerSpan acc n bs).1 ≠ 0) (hcut : s.cutOff = false)
    (hex : exposed s.regs (peerSpan acc n bs).2 d (peerSpan acc n bs).1 = true) :
    exec (.peerAccess acc d n bs) s = .next (s.peerServe acc d bs) := by
  show execPeerAccess acc d n bs s = _
  unfold execPeerAccess
  dsimp only
  rw [hcut, hex, decide_eq_false hn]
  rfl

theorem peerStore_stores {s : State} {from' d : Nat} {bs : List Byte} (hbs : bs ≠ []) (hcut : s.cutOff = false)
    (hex : exposed s.regs true d bs.length = true) (hplain : plainDpa d bs.length = true)
    (hwhole : bs.length ≤ 8 → s.partBad d bs.length = false) :
    exec (.peerAccess (.store from') d 0 bs) s = .next (s.storeMem [.peer (panelTdev from')] d bs) := by
  have hgood : ¬(!plainDpa d bs.length || (decide (bs.length ≤ 8) && s.partBad d bs.length)) = true := by
    rw [hplain]
    simpa using hwhole
  rw [peerAccess_served (acc := .store from') (n := 0) (fun h => hbs (List.length_eq_zero_iff.mp h)) hcut hex]
  unfold State.peerServe
  dsimp only
  rw [plainDpa_notCounters hplain, Bool.false_and, Bool.false_and, if_neg Bool.false_ne_true, if_neg hgood]

theorem peerAccess_unexposed {s : State} {acc : PeerAcc} {d n : Nat} {bs : List Byte} (hl : exposed s.regs false d n = false)
    (hs : exposed s.regs true d bs.length = false) (h4 : exposed s.regs true d 4 = false) (h8 : exposed s.regs true d 8 = false) :
    exec (.peerAccess acc d n bs) s = .next s := by
  have hspan : exposed s.regs (peerSpan acc n bs).2 d (peerSpan acc n bs).1 = false := by
    cases acc with
    | load => exact hl
    | store => exact hs
    | atomic _ _ wide _ => cases wide <;> assumption
  show execPeerAccess acc d n bs s = _
  unfold execPeerAccess
  dsimp only
  rw [hspan, Bool.not_false, Bool.or_true, if_pos rfl]

theorem peerAccess_cutOff {s : State} {acc : PeerAcc} {d n : Nat} {bs : List Byte} (hcut : s.cutOff = true) :
    exec (.peerAccess acc d n bs) s = .next s := by
  show execPeerAccess acc d n bs s = _
  unfold execPeerAccess
  dsimp only
  rw [hcut, Bool.or_true, Bool.true_or, if_pos rfl]

theorem peerAtomic_applies {s t : State} {from' d old op : Nat} {wide : Bool} {bs : List Byte} :
    let w := if wide then 8 else 4
    s.cutOff = false → exposed s.regs true d w = true → plainDpa d w = true → inCounters d w = false → d % w = 0 → op ≤ 12 →
    (wide = true → op ≤ 8 ∨ op = 12) →
    s.applyWord [.peer (panelTdev from')] d w op (natOfBytes (bs.take w)) (natOfBytes ((bs.drop w).take w)) = .ok (old, t) →
    exec (.peerAccess (.atomic from' op wide none) d 0 bs) s = .next t := by
  intro w hcut hex hplain hctr halign hop hwide happly
  have hw : w ≠ 0 := by cases wide <;> decide
  have hknown : ¬(decide (12 < op) || (wide && decide (9 ≤ op) && decide (op ≤ 11)) || d % w != 0) = true := by
    rw [halign]
    cases wide with
    | false => simpa using hop
    | true =>
      have := hwide rfl
      simp
      omega
  rw [peerAccess_served (acc := .atomic from' op wide none) (n := 0) (bs := bs) hw hcut hex]
  unfold State.peerServe
  dsimp only
  rw [if_neg hknown, hctr, hplain, if_neg (by decide), happly]

/-! Links (R363, R364). -/

/-- What no step of a fold changes, the fold does not change. -/
theorem foldl_keeps {α β γ : Type} {f : β → γ} {g : β → α → β} (h : ∀ b a, f (g b a) = f b) (l : List α) (b : β) :
    f (l.foldl g b) = f b := by
  induction l generalizing b with
  | nil => rfl
  | cons a l ih => exact (ih (g b a)).trans (h b a)

theorem OnlyStores.links_eq {s t : State} (h : OnlyStores s t) : t.links = s.links := by
  obtain ⟨l, m, ue, bells, peers, rfl⟩ := h
  rfl

theorem links_smemErr (s : State) (o : Origin) (c : Nat) (va : W64) : (s.smemErr o c va).links = s.links := by
  unfold State.smemErr
  dsimp only
  repeat' split
  all_goals rfl

theorem links_ackLine (s : State) (g off : Nat) (w : LineWriter) (neg : List (Nat × Nat)) (sig : W64) (dead : Option Nat) :
    (s.ackLine g off w neg sig dead).links = s.links := by
  have hnaks (o : Origin) (va : W64) : (s.lineNaks o va neg).links = s.links := by
    unfold State.lineNaks
    split
    · rfl
    · exact links_smemErr s o 3 va
  have hcopy (t : State) (c n : Nat) (f : CopyEnt → CopyEnt) : (t.modCopy c n f).links = t.links := by
    unfold State.modCopy
    dsimp only
    split <;> rfl
  unfold State.ackLine
  cases w with
  | other => rfl
  | cmd => rfl
  | copy c n =>
    dsimp only
    split
    · rfl
    · rw [hcopy]
      split
      · rfl
      · exact hnaks _ _
  | drift n =>
    dsimp only
    repeat' split
    all_goals rfl

theorem links_settleLine (g : Nat) (e : Group) (off n : Nat) (s : State) : (s.settleLine g e off n).links = s.links := by
  induction n generalizing s with
  | zero => rfl
  | succ n ih =>
    unfold State.settleLine
    dsimp only
    split
    · rfl
    · split
      · rw [ih, links_ackLine]
        rfl
      · split
        · rw [ih, links_ackLine]
          refine foldl_keeps (f := fun r : List (Nat × Nat) × State => r.2.links) (fun r d => ?_) _ _
          repeat' split
          · rfl
          · rfl
          · exact (onlyStores_storeDev ..).links_eq
        · rfl

theorem links_settleAll (s : State) : s.settleAll.links = s.links :=
  foldl_keeps (f := State.links) (fun t l => links_settleLine ..) _ _

theorem link_setLink (s : State) (n : Nat) (l : LinkState) : (s.setLink n l).link n = l := tget_tput_same ..

theorem linkFailure_holds {s : State} {n : Nat} (h : s.link n = .up) : exec (.linkFailure n) s = .next (s.setLink n (.held 0)) := by
  show execLinkFailure n s = _
  unfold execLinkFailure
  rw [h]

theorem linkRetrain_agrees {s : State} {n : Nat} (b : Beat) (h : s.link n ≠ .down) : exec (.linkRetrain n b b) s = .next (s.setLink n .up) := by
  show execLinkRetrain n b b s = _
  unfold execLinkRetrain
  dsimp only
  split
  · rename_i hd
    exact absurd hd h
  · exact if_pos rfl

theorem linkRetrain_last {s : State} {n : Nat} {a b : Beat} (hne : a ≠ b) (h : s.link n = .held 2) :
    ∃ t : State, exec (.linkRetrain n a b) s = .next t ∧ t.link n = .down := by
  have hx : exec (.linkRetrain n a b) s = execLinkRetrain n a b s := rfl
  unfold execLinkRetrain at hx
  rw [h] at hx
  dsimp only at hx
  rw [if_neg hne, if_pos (Nat.le_refl 3)] at hx
  refine ⟨_, hx, ?_⟩
  unfold State.link
  rw [links_settleAll]
  exact tget_tput_same LinkState.up _ n LinkState.down

theorem linkRetrain_again {s : State} {n k : Nat} {a b : Beat} (hne : a ≠ b) (h : s.link n = .held k) (hk : k < 2) :
    ∃ t : State, exec (.linkRetrain n a b) s = .next t ∧ t.link n = .held (k + 1) := by
  have hx : exec (.linkRetrain n a b) s = execLinkRetrain n a b s := rfl
  unfold execLinkRetrain at hx
  rw [h] at hx
  dsimp only at hx
  rw [if_neg hne, if_neg (by omega)] at hx
  exact ⟨_, hx, link_setLink ..⟩

/-! Isolation (R366). -/

theorem panelTdev_inj {d p : Nat} (h : panelTdev d = panelTdev p) : d = p := Nat.add_left_cancel h

theorem peerIsolation_isolates (s : State) (p : Nat) (byReset : Bool) : ∃ u : State, exec (.peerIsolation p byReset) s = .next u.settleAll ∧
    tget false u.isolated (panelTdev p) = true ∧ u.devDown (panelTdev p) = true ∧ u.mem = s.mem ∧
    ∀ d, d ≠ p → tget false u.isolated (panelTdev d) = tget false s.isolated (panelTdev d) := by
  have hset (t : Tbl Bool) : tget false (tput false t (panelTdev p) true) (panelTdev p) = true := tget_tput_same ..
  have hother (t : Tbl Bool) (d : Nat) (hd : d ≠ p) : tget false (tput false t (panelTdev p) true) (panelTdev d) = tget false t (panelTdev d) :=
    tget_tput_other _ _ _ fun h => hd (panelTdev_inj h)
  refine ⟨_, rfl, hset _, ?_, ?_, fun d hd => (hother _ d hd).trans ?_⟩
  · exact Bool.or_eq_true_iff.mpr (.inl (hset _))
  · dsimp only
    split <;> rfl
  · split <;> rfl

/-- Settles O52. -/
theorem panelEvents : Obligations.PanelEvents :=
  ⟨fun _ _ _ _ _ => reduceContribution_taken, fun _ _ _ _ _ _ _ => apertureLoad_answers, fun _ _ _ _ => peerStore_stores,
    fun _ _ _ _ _ => peerAccess_unexposed, fun _ _ _ _ _ => peerAccess_cutOff, fun _ _ _ _ _ _ _ _ => peerAtomic_applies,
    peerIsolation_isolates, fun _ _ => linkFailure_holds, fun _ _ b => linkRetrain_agrees b, fun _ _ _ _ => linkRetrain_last,
    fun _ _ _ _ _ => linkRetrain_again⟩

end Sys2Proof.Machine
end

section
/-! SUPPORT. What contexts and cores do between bundles (R36, R37, R40, R41, R138, R144, R156, R215). -/

namespace Sys2Proof.Machine

open Sys2Proof

theorem emptyBundle_runs {s t : State} {n : Nat} (h : s.prepare = .run n t) : exec .emptyBundle s = .next (t.finishRun n) := by
  show execEmptyBundle s = _
  unfold execEmptyBundle
  rw [h]

theorem ctxAt_setCtxAt (s : State) (c n : Nat) (x : Ctx) : (s.setCtxAt c n x).ctxAt c n = x := by
  rw [State.ctxAt, State.setCtxAt, core_setCore, ctx_setCtx]

/-! Results and loads (R144, R156, R202, R215). -/

theorem arrived_landing (a : Arch) (slot g : Nat) : (a.arrived slot g).v.landing = a.v.landing.map (fun e => if e.slot = some slot then
    { e with groups := e.groups.map (fun x => if x.grp = g then { x with late := false } else x) } else e) := rfl

/-- A load's result of a group that has arrived is late there no more. -/
theorem arrived_early {l : List Landing} {slot g : Nat} {e : Landing}
    (he : e ∈ l.map (fun e : Landing => if e.slot = some slot then
      { e with groups := e.groups.map (fun x => if x.grp = g then { x with late := false } else x) } else e))
    (hslot : e.slot = some slot) : ∀ x ∈ e.groups, x.grp = g → x.late = false := by
  obtain ⟨e0, -, rfl⟩ := List.mem_map.mp he
  split at hslot
  · rename_i h0
    rw [if_pos h0]
    intro x hx hg
    obtain ⟨x0, -, rfl⟩ := List.mem_map.mp hx
    split at hg
    · rename_i hx0
      rw [if_pos hx0]
    · rename_i hx0
      exact absurd hg hx0
  · rename_i h0
    exact absurd hslot h0

/-- What an arrival leaves of a context's registers (R215). -/
theorem arrived_arch (a : Arch) (f : Landing → Landing) (slot g : Nat) :
    let b := (a.mapLanding f).arrived slot g
    b.v.landing.length = a.v.landing.length ∧
    (∀ e ∈ b.v.landing, e.slot = some slot → ∀ x ∈ e.groups, x.grp = g → x.late = false) ∧
    (∀ h, b.c.held = some h → ∀ e ∈ h.landing, e.slot = some slot → ∀ x ∈ e.groups, x.grp = g → x.late = false) ∧
    { b.c with held := none } = { a.c with held := none } ∧ b.v.vreg = a.v.vreg := by
  refine ⟨(List.length_map _).trans (List.length_map _), fun e he => arrived_early he, fun h hh e he => ?_, rfl, rfl⟩
  obtain ⟨h0, -, rfl⟩ := Option.map_eq_some_iff.mp hh
  exact arrived_early he

theorem loadDataArrival_holds (s : State) (c n slot g : Nat) : ∃ t : State, exec (.loadDataArrival c n slot g) s = .next t ∧
    (t.ctxAt c n).a.v.landing.length = (s.ctxAt c n).a.v.landing.length ∧
    (∀ e ∈ (t.ctxAt c n).a.v.landing, e.slot = some slot → ∀ x ∈ e.groups, x.grp = g → x.late = false) ∧
    (∀ h, (t.ctxAt c n).a.c.held = some h → ∀ e ∈ h.landing, e.slot = some slot → ∀ x ∈ e.groups, x.grp = g → x.late = false) ∧
    { (t.ctxAt c n).a.c with held := none } = { (s.ctxAt c n).a.c with held := none } ∧
    (t.ctxAt c n).a.v.vreg = (s.ctxAt c n).a.v.vreg ∧ t.mem = s.mem := by
  have hread : ∃ f : Landing → Landing, ({ s with focusCore := c, focusCtx := n } : State).readLoads (fun m _ gl => m == slot && gl.grp == g) =
      ({ s with focusCore := c, focusCtx := n } : State).modCx (fun x => { x with a := x.a.mapLanding f }) := ⟨_, rfl⟩
  obtain ⟨f, hf⟩ := hread
  obtain ⟨t, ht⟩ : ∃ t : State, t = (({ s with focusCore := c, focusCtx := n } : State).modCx (fun x => { x with a := x.a.mapLanding f })).modCx
      (fun x => { x with a := x.a.arrived slot g }) := ⟨_, rfl⟩
  have hx : exec (.loadDataArrival c n slot g) s = execLoadDataArrival c n slot g s := rfl
  unfold execLoadDataArrival at hx
  dsimp only at hx
  rw [hf, ← ht] at hx
  have hfocus : t.focusCore = c ∧ t.focusCtx = n ∧ t.mem = s.mem := by rw [ht]; exact ⟨rfl, rfl, rfl⟩
  obtain ⟨hc, hn, hmem⟩ := hfocus
  have harch : t.cx.a = ((s.ctxAt c n).a.mapLanding f).arrived slot g := by
    rw [ht, cx_modCx, cx_modCx]
    rfl
  have hctx : ({ t with focusCore := s.focusCore, focusCtx := s.focusCtx } : State).ctxAt c n = t.cx := by
    rw [State.cx, State.fcore, hc, hn]
    rfl
  refine ⟨_, hx, ?_⟩
  rw [hctx, harch]
  obtain ⟨hlen, hland, hheld, hctl, hvreg⟩ := arrived_arch ((s.ctxAt c n).a) f slot g
  exact ⟨hlen, hland, hheld, hctl, hvreg, hmem⟩

theorem ldsReturn_lands {s : State} {c n : Nat} {l : LdsOut} {v : W64} (hl : (s.ctxAt c n).lds = some l) (hv : l.result = .ok v)
    (hg : (s.ctxAt c n).env.any LaunchEnv.guard = false) :
    ∃ t : State, exec (.ldsDataReturn c n) s = .next t ∧ (t.ctxAt c n).lds = none ∧
      (t.ctxAt c n).a.v.landing = (s.ctxAt c n).a.v.landing.take l.pos ++
        [{ count := 0, dest := .scal l.dst, groups := [], value := v.zeroExtend 256, slot := none }] ++
        (s.ctxAt c n).a.v.landing.drop l.pos := by
  have hx : exec (.ldsDataReturn c n) s = execLdsDataReturn c n s := rfl
  unfold execLdsDataReturn at hx
  dsimp only at hx
  rw [hl] at hx
  dsimp only at hx
  rw [hg, hv] at hx
  simp only [Bool.false_eq_true, if_false] at hx
  refine ⟨_, hx, ?_⟩
  rw [ctxAt_setCtxAt]
  exact ⟨rfl, rfl⟩

theorem ldsReturn_fails {s : State} {c n e : Nat} {l : LdsOut} (hl : (s.ctxAt c n).lds = some l) (hv : l.result = .error e)
    (hg : (s.ctxAt c n).env.any LaunchEnv.guard = false) :
    ∃ t : State, exec (.ldsDataReturn c n) s = .next t ∧ (t.ctxAt c n).lds = none ∧
      (t.ctxAt c n).a.p.sdata = some (BitVec.ofNat 64 (l.dst * 256 + e)) ∧
      (t.ctxAt c n).a.v.landing = (s.ctxAt c n).a.v.landing := by
  have hx : exec (.ldsDataReturn c n) s = execLdsDataReturn c n s := rfl
  unfold execLdsDataReturn at hx
  dsimp only at hx
  rw [hl] at hx
  dsimp only at hx
  rw [hg, hv] at hx
  simp only [Bool.false_eq_true, if_false] at hx
  refine ⟨_, hx, ?_⟩
  rw [ctxAt_setCtxAt]
  exact ⟨rfl, rfl, rfl⟩

theorem stsError_recorded {s : State} {c n e : Nat} {va : W64} {x : LaunchEnv} (h : (s.ctxAt c n).env = some x) :
    exec (.stsErrorResponse c n e va) s = .next (s.smemErr { core := c, lid := x.lid, shadow := n == 4, cmd := 0 } e va) := by
  show execStsErrorResponse c n e va s = _
  unfold execStsErrorResponse
  rw [h]

theorem trapEntry_enters (s : State) (c : Cause) (info : W64) : exec (.trapEntry c.code info) s = .next (s.enterTrap c info s.nextAddr) := by
  have hc : causeOf c.code = some c := by cases c <;> rfl
  show execTrapEntry c.code info s = _
  unfold execTrapEntry
  rw [hc]

/-! Which context of a core issues (R40, R41). -/

theorem fairnessSwitch_turns {s : State} {c n : Nat} (h : s.fairNext c = some n) : exec (.fairnessSwitch c) s = .next (s.switchTo c n) := by
  show Host.Outcome.next (s.fairness c) = _
  unfold State.fairness
  rw [h]

theorem priorityTakeover_freezes {s : State} {c : Nat} (h : s.takesOver c = true) :
    exec (.priorityTakeover c) s = .next (s.setCore c { s.core c with frozen := true, shYield := 0 }) :=
  congrArg Host.Outcome.next (if_pos h)

theorem normalResume_thaws {s : State} {c : Nat} (hf : (s.core c).frozen = true) (h : s.takesOver c = false) :
    exec (.normalResume c) s = .next (s.setCore c { s.core c with frozen := false }) :=
  congrArg Host.Outcome.next (if_pos (by rw [hf, h]; rfl))

/-! Tile tasks (R36, R37). -/

theorem tileTaskStart_enters {s : State} {c n : Nat} {e : LaunchEnv} {tx ty tz : Nat} (he : (s.ctxAt c n).env = some e)
    (htile : (s.ctxAt c n).tile = none) (hnext : (s.ctxAt c n).next = some (tx, ty, tz)) (hdue : (s.ctxAt c n).guard.commitDue = false)
    (hstop : s.stopping e.lid = false) :
    ∃ t : State, exec (.tileTaskStart c n) s = .next t ∧ (t.ctxAt c n).tile = some (tx, ty, tz) ∧ (t.ctxAt c n).next = none ∧
      (t.ctxAt c n).a = (s.ctxAt c n).a.entry e (tx, ty, tz) := by
  have hx : exec (.tileTaskStart c n) s = execTileTaskStart c n s := rfl
  unfold execTileTaskStart at hx
  dsimp only at hx
  rw [he, htile, hnext] at hx
  dsimp only at hx
  rw [hdue, hstop, Bool.or_false, if_neg Bool.false_ne_true] at hx
  refine ⟨_, hx, ?_⟩
  rw [ctxAt_setCtxAt]
  exact ⟨rfl, rfl, rfl⟩

/-- The registers at a tile task's entry (R37). -/
theorem entry_registers (a : Arch) (e : LaunchEnv) (tx ty tz : Nat) :
    (a.entry e (tx, ty, tz)).c.sr 0 = BitVec.ofNat 64 tx ∧ (a.entry e (tx, ty, tz)).c.sr 1 = BitVec.ofNat 64 ty ∧
    (a.entry e (tx, ty, tz)).c.sr 2 = BitVec.ofNat 64 tz ∧ (a.entry e (tx, ty, tz)).c.sr 3 = e.param ∧
    (∀ r, 4 ≤ r → (a.entry e (tx, ty, tz)).c.sr r = 0) ∧ tget 0 (a.entry e (tx, ty, tz)).c.hnd 0 = e.h0 ∧
    (∀ r, r ≠ 0 → tget 0 (a.entry e (tx, ty, tz)).c.hnd r = 0) := by
  have hsr (r : Nat) (hr : r ≠ 63) : (a.entry e (tx, ty, tz)).c.sr r =
      tget 0 (tput 0 (tput 0 (tput 0 (tput 0 [] 0 (BitVec.ofNat 64 tx)) 1 (BitVec.ofNat 64 ty)) 2 (BitVec.ofNat 64 tz)) 3 e.param) r := if_neg hr
  refine ⟨?_, ?_, ?_, ?_, fun r hr => ?_, tget_tput_same .., fun r hr => tget_tput_other _ _ _ hr⟩
  · rw [hsr 0 (by decide), tget_tput_other _ _ _ (by decide), tget_tput_other _ _ _ (by decide), tget_tput_other _ _ _ (by decide), tget_tput_same]
  · rw [hsr 1 (by decide), tget_tput_other _ _ _ (by decide), tget_tput_other _ _ _ (by decide), tget_tput_same]
  · rw [hsr 2 (by decide), tget_tput_other _ _ _ (by decide), tget_tput_same]
  · rw [hsr 3 (by decide), tget_tput_same]
  · by_cases h63 : r = 63
    · exact if_pos h63
    · rw [hsr r h63, tget_tput_other _ _ _ (by omega), tget_tput_other _ _ _ (by omega), tget_tput_other _ _ _ (by omega),
        tget_tput_other _ _ _ (by omega)]
      rfl

theorem firstTile_iff (e : LaunchEnv) (c x y z : Nat) : e.firstTile c = some (x, y, z) ↔
    (x = coreX c - e.ox ∧ y = coreY c - e.oy ∧ z = 0 ∧ x < e.gx ∧ y < e.gy ∧ 0 < e.gz) := by
  unfold LaunchEnv.firstTile
  dsimp only
  constructor
  · intro h
    split at h
    · rename_i hin
      cases h
      simpa [and_assoc] using hin
    · cases h
  · rintro ⟨rfl, rfl, rfl, hx, hy, hz⟩
    exact if_pos (by simp [hx, hy, hz])

theorem tileAfter_rises {e : LaunchEnv} {x y z x' y' z' : Nat} (hw : 0 < e.w) (hh : 0 < e.h) (hx : x < e.gx) (hy : y < e.gy) (hz : z < e.gz)
    (h : e.tileAfter (x, y, z) = some (x', y', z')) :
    x' < e.gx ∧ y' < e.gy ∧ z' < e.gz ∧ x' % e.w = x % e.w ∧ y' % e.h = y % e.h ∧
    (z < z' ∨ z' = z ∧ (y < y' ∨ y' = y ∧ x < x')) := by
  have hxm : x % e.w < e.gx := Nat.lt_of_le_of_lt (Nat.mod_le ..) hx
  have hym : y % e.h < e.gy := Nat.lt_of_le_of_lt (Nat.mod_le ..) hy
  unfold LaunchEnv.tileAfter at h
  dsimp only at h
  split at h
  · rename_i hin
    cases h
    exact ⟨hin, hy, hz, Nat.add_mod_right .., rfl, .inr ⟨rfl, .inr ⟨rfl, by omega⟩⟩⟩
  · split at h
    · rename_i hin
      cases h
      exact ⟨hxm, hin, hz, Nat.mod_mod .., Nat.add_mod_right .., .inr ⟨rfl, .inl (by omega)⟩⟩
    · split at h <;> cases h
      rename_i hin
      exact ⟨hxm, hym, hin, Nat.mod_mod .., Nat.mod_mod .., .inl (by omega)⟩

/-- Settles O53. -/
theorem contextEvents : Obligations.ContextEvents :=
  ⟨⟨fun _ _ _ => emptyBundle_runs, fun _ => ⟨rfl, rfl, rfl⟩, loadDataArrival_holds, arrived_landing,
      fun _ _ _ _ _ hl hv _ hg => ldsReturn_lands hl hv hg, fun _ _ _ _ _ => ldsReturn_fails, fun _ _ _ _ _ _ => stsError_recorded,
      trapEntry_enters, fun _ _ _ => fairnessSwitch_turns, fun _ _ => priorityTakeover_freezes, fun _ _ => normalResume_thaws⟩,
    fun s c n e tx ty tz he htile hnext hdue hstop => by
      obtain ⟨t, hx, ht, hn, ha⟩ := tileTaskStart_enters he htile hnext hdue hstop
      refine ⟨t, hx, ht, hn, ?_⟩
      rw [ha]
      obtain ⟨h0, h1, h2, h3, hs, hh0, hh⟩ := entry_registers (s.ctxAt c n).a e tx ty tz
      exact ⟨h0, h1, h2, h3, hs, hh0, hh, rfl, rfl, rfl, rfl, rfl⟩,
    firstTile_iff, fun _ _ _ _ _ _ _ => tileAfter_rises⟩

end Sys2Proof.Machine
end

section
/-! SUPPORT. A launch from its record to its completion (R27 to R34, R43, R273). -/

namespace Sys2Proof.Machine

open Sys2Proof

/-! Records (R27, R30). -/

theorem take_bytesOfNat (n m v : Nat) : (bytesOfNat (n + m) v).take n = bytesOfNat n v := by
  induction n generalizing v with
  | zero => rfl
  | succ n ih =>
    rw [Nat.add_right_comm]
    exact congrArg _ (ih _)

theorem drop_bytesOfNat (n m v : Nat) : (bytesOfNat (n + m) v).drop n = bytesOfNat m (v / 256 ^ n) := by
  induction n generalizing v with
  | zero => rw [Nat.zero_add, pow_zero, Nat.div_one]; rfl
  | succ n ih =>
    rw [Nat.add_right_comm, pow_succ', ← Nat.div_div_eq_div_mul]
    exact ih _

/-- The fields of a completion record (R30). -/
theorem completionRecord_fields {lid refusals code tasks : Nat} (hlid : lid < 2 ^ 32) (hcode : code < 256) (htasks : tasks < 2 ^ 64) :
    let b := completionRecord lid refusals code tasks
    b.length = 16 ∧ natOfBytes (b.take 1) = code ∧ natOfBytes ((b.drop 1).take 2) = min refusals 0xFFFF ∧
    natOfBytes ((b.drop 4).take 4) = lid ∧ natOfBytes (b.drop 8) = tasks := by
  intro b
  obtain ⟨v, hv⟩ : ∃ v, v = lid * 2 ^ 32 + min refusals 0xFFFF * 256 + code := ⟨_, rfl⟩
  have hb : b = bytesOfNat 8 v ++ bytesOfNat 8 tasks := by rw [hv]; rfl
  have hlow (n : Nat) (l : List Byte) (hn : n ≤ 8) : (bytesOfNat 8 v ++ l).drop n = (bytesOfNat 8 v).drop n ++ l :=
    List.drop_append_of_le_length (by rw [bytesOfNat_length]; exact hn)
  rw [hb]
  refine ⟨by rw [List.length_append, bytesOfNat_length, bytesOfNat_length], ?_, ?_, ?_, ?_⟩
  · rw [List.take_append_of_le_length (by rw [bytesOfNat_length]; decide), take_bytesOfNat 1 7, natOfBytes_bytesOfNat]
    omega
  · rw [hlow 1 _ (by decide), drop_bytesOfNat 1 7, List.take_append_of_le_length (by rw [bytesOfNat_length]; decide), take_bytesOfNat 2 5,
      natOfBytes_bytesOfNat]
    omega
  · rw [hlow 4 _ (by decide), drop_bytesOfNat 4 4, List.take_append_of_le_length (by rw [bytesOfNat_length]), List.take_of_length_le
      (by rw [bytesOfNat_length]), natOfBytes_bytesOfNat]
    omega
  · rw [hlow 8 _ (Nat.le_refl 8), drop_bytesOfNat 8 0, show ∀ w, bytesOfNat 0 w = [] from fun _ => rfl, List.nil_append,
      natOfBytes_bytesOfNat]
    exact Nat.mod_eq_of_lt htasks

theorem launchRecordCopy_takes {s : State} {n : Nat} {r : List Nat} (hbell : s.doorbells = (0x008010000000 + 128 * n) :: r) (hn : n < 256)
    (hbit : (s.byte (0x008010000000 + 128 * n)).getLsbD 0 = true) (hadm : s.admits = true) :
    exec (.launchRecordCopy n) s = .next ((s.storeMem [.launcher 0] (0x008010000000 + 128 * n)
      [s.byte (0x008010000000 + 128 * n) &&& 0xFE]).takeRecord (.slot n)
        (s.asSeen (.launcher 0) ownTdev (0x008010000000 + 128 * n) (readBytes s.mem (0x008010000000 + 128 * n) 128))) := by
  have hslot : launchSlot n = 0x008010000000 + 128 * n := rfl
  have hbase : Config.windowBase = 0x008010000000 := rfl
  have hend : launchSlot 256 = 0x008010000000 + 128 * 256 := rfl
  have hdue : s.slotDue = some n := by
    unfold State.slotDue
    rw [hbell, hend, List.find?_cons_of_pos (by rw [decide_eq_true_eq]; omega), Option.map_some, hbase]
    exact congrArg some (by omega)
  show execLaunchRecordCopy n s = _
  unfold execLaunchRecordCopy
  dsimp only
  rw [hslot]
  refine if_pos ?_
  rw [hdue, hadm, Bool.and_true, decide_eq_true rfl, Bool.true_and]
  exact hbit

/-! Queues and reservation (R28, R29). -/

theorem countBlockRead_counts {s : State} {r : Nat} {l : Launch} {x y z : Nat} (hl : tfind s.launches r = some l) (hph : l.phase = .queued)
    (hc : l.counted = false) (hhead : s.headOf l.die = some r) (hready : s.countReady l = true) :
    let t := (s.acquireCount l).lunitFill l.die l.asid (BitVec.ofNat 64 (l.field 0x48 8)) 16
    t.countBlock l = some (x, y, z) → 0 < x → x ≤ 2 ^ 24 → 0 < y → y ≤ 2 ^ 24 → 0 < z → z ≤ 2 ^ 24 →
    exec (.countBlockRead r) s = .next (t.setLaunch r { l with gx := x, gy := y, gz := z, counted := true }) := by
  intro t hblock hx0 hx hy0 hy hz0 hz
  have hnone : ¬(x = 0 || y = 0 || z = 0) = true := by simp; omega
  have hfit : ¬(2 ^ 24 < x || 2 ^ 24 < y || 2 ^ 24 < z) = true := by simp; omega
  show execCountBlockRead r s = _
  unfold execCountBlockRead
  rw [hl]
  dsimp only
  rw [hph]
  dsimp only
  rw [hc, hhead, bne_self_eq_false, Bool.or_false, if_neg Bool.false_ne_true, hready, if_pos rfl]
  rw [show ((s.acquireCount l).lunitFill l.die l.asid (BitVec.ofNat 64 (l.field 0x48 8)) 16).countBlock l = some (x, y, z) from hblock]
  dsimp only
  rw [if_neg hfit, if_neg hnone]
  rfl

theorem reservationRound_starts {s : State} {r : Nat} {l : Launch} {ox oy : Nat} (hl : tfind s.launches r = some l) (hph : l.phase = .queued)
    (hc : l.counted = true) (hhead : s.headOf l.die = some r) (hadm : s.admits = true) (ho : s.originOf l.record = some (ox, oy)) :
    exec (.reservationRound r) s = .next { s.setLaunch r { l with
      ox := ox, oy := oy, phase := .round s.nextRound (rectCores ox oy (recW l.record) (recH l.record)) false }
        with nextRound := s.nextRound + 1 } := by
  show execReservationRound r s = _
  unfold execReservationRound
  rw [hl]
  dsimp only
  rw [hph]
  dsimp only
  rw [hc, hhead, bne_self_eq_false, hadm, if_neg (by decide), ho]

theorem reserve_grants {s : State} {r c num : Nat} {l : Launch} {left : List Nat} {no : Bool} (hl : tfind s.launches r = some l)
    (hph : l.phase = .round num left no) (hc : c ∈ left) (hturn : s.earlierRound num c = false) (hret : tget false s.nun.retired c = false)
    (hfree : s.ctxFree c l.prio = true) (hls : recLsneed l.record ≤ (s.core c).lsFree) :
    exec (.reserve r c) s = .next ((s.setLaunch r { l with phase := .round num (left.erase c) no }).setCore c
      { s.core c with grants := (s.core c).grants ++ [(r, recLsneed l.record)] }) := by
  show execReserve r c s = _
  unfold execReserve
  rw [hl]
  dsimp only
  rw [hph]
  dsimp only
  rw [List.contains_iff_mem.mpr hc, hturn, if_neg (by decide), hret, hfree, decide_eq_true hls]
  simp only [Bool.not_false, Bool.and_self, Bool.not_true, Bool.or_false, if_true]

theorem reserve_refuses {s : State} {r c num : Nat} {l : Launch} {left : List Nat} {no : Bool} (hl : tfind s.launches r = some l)
    (hph : l.phase = .round num left no) (hc : c ∈ left) (hturn : s.earlierRound num c = false)
    (hno : tget false s.nun.retired c = true ∨ s.ctxFree c l.prio = false ∨ (s.core c).lsFree < recLsneed l.record) :
    exec (.reserve r c) s = .next (s.setLaunch r { l with phase := .round num (left.erase c) true }) := by
  have hbad : (!tget false s.nun.retired c && s.ctxFree c l.prio && decide (recLsneed l.record ≤ (s.core c).lsFree)) = false := by
    rcases hno with h | h | h
    · rw [h]; rfl
    · rw [h, Bool.and_false, Bool.false_and]
    · rw [decide_eq_false (Nat.not_le.mpr h), Bool.and_false]
  show execReserve r c s = _
  unfold execReserve
  rw [hl]
  dsimp only
  rw [hph]
  dsimp only
  rw [List.contains_iff_mem.mpr hc, hturn, if_neg (by decide), hbad]
  simp only [Bool.not_false, Bool.or_true, Bool.false_eq_true, if_false]

theorem release_refuses {s : State} {r num : Nat} {l : Launch} (hl : tfind s.launches r = some l) (hph : l.phase = .round num [] true) :
    exec (.release r) s = .next (s.refuseRound r l) := by
  show execRelease r s = _
  unfold execRelease
  rw [hl]
  dsimp only
  rw [hph]

theorem backoff_ends {s : State} {r t : Nat} {l : Launch} (hl : tfind s.launches r = some l) (hph : l.phase = .backoff t)
    (hdue : t ≤ s.wallus.toNat) : exec (.backoffExpiry r) s = .next (s.enqueueLaunch r l) := by
  show execBackoffExpiry r s = _
  unfold execBackoffExpiry
  rw [hl]
  dsimp only
  rw [hph]
  exact if_pos hdue

/-! Commit (R29, R32). -/

/-- A page brought into a launch unit's cache leaves the rest (R406). -/
theorem lunitFill_frame (s : State) (die : Nat) (asid : BitVec 16) (va : W64) (n : Nat) :
    ∃ t, s.lunitFill die asid va n = { s with unitTlbs := t } := by
  unfold State.lunitFill
  induction pageStarts va n generalizing s with
  | nil => exact ⟨s.unitTlbs, rfl⟩
  | cons p ps ih =>
    obtain ⟨t, ht⟩ := ih { s with unitTlbs := tput [] s.unitTlbs die (s.tlbAdd (s.lunitTlb die) 64 asid p) }
    exact ⟨t, ht⟩

/-- Cores set one after another leave the others, and what is not of cores. -/
theorem foldl_setCore_frame (f : State → Nat → Core) (l : List Nat) (s : State) :
    (∀ c, c ∉ l → (l.foldl (fun s c => s.setCore c (f s c)) s).core c = s.core c) ∧
    (l.foldl (fun s c => s.setCore c (f s c)) s).launches = s.launches ∧ (l.foldl (fun s c => s.setCore c (f s c)) s).mem = s.mem := by
  induction l generalizing s with
  | nil => exact ⟨fun _ _ => rfl, rfl, rfl⟩
  | cons d l ih =>
    obtain ⟨hcore, hlaunches, hmem⟩ := ih (s.setCore d (f s d))
    refine ⟨fun c hc => ?_, hlaunches, hmem⟩
    obtain ⟨hne, hnot⟩ := not_or.mp (mt List.mem_cons.mpr hc)
    exact (hcore c hnot).trans (core_setCore_other _ _ hne)

theorem commit_runs {s : State} {r num : Nat} {l : Launch} (hl : tfind s.launches r = some l) (hph : l.phase = .round num [] false)
    (hret : ∀ c ∈ rectCores l.ox l.oy (recW l.record) (recH l.record), tget false s.nun.retired c = false) (himg : l.field 0x78 4 = 0) :
    ∃ t : State, exec (.commit r) s = .next t ∧ tfind t.launches r = some { l with
        lid := s.lidFrom s.launches.length s.nextLid, phase := .running } ∧ t.mem = s.mem ∧
      (∀ c, c ∉ rectCores l.ox l.oy (recW l.record) (recH l.record) → t.core c = s.core c) := by
  have hgood : (rectCores l.ox l.oy (recW l.record) (recH l.record)).any (tget false s.nun.retired) = false :=
    List.any_eq_false.mpr fun c hc => Bool.eq_false_iff.mp (hret c hc)
  obtain ⟨tlb, htlb⟩ := lunitFill_frame s l.die l.asid (BitVec.ofNat 64 (l.field 0x30 8)) 1
  have hnone (t : State) : t.lsImage l = some [] := if_pos himg
  have hx : exec (.commit r) s = execCommit r s := rfl
  unfold execCommit at hx
  rw [hl] at hx
  dsimp only at hx
  rw [hph] at hx
  dsimp only at hx
  rw [hgood, if_neg Bool.false_ne_true, himg, if_pos rfl, htlb, hnone, Option.isSome_some, if_pos rfl, if_pos rfl] at hx
  obtain ⟨hcore, hlaunches, hmem⟩ := foldl_setCore_frame (fun t c => (t.core c).enrol r c _ _) (rectCores l.ox l.oy (recW l.record) (recH l.record)) _
  refine ⟨_, hx, ?_, hmem, hcore⟩
  rw [hlaunches]
  exact tfind_tset_same ..

/-! Completion (R30, R43). -/

/-- What a launch's end leaves before its record is written. -/
def State.launchGone (s : State) (r : Nat) (l : Launch) : State :=
  let s0 := s.lunitFill l.die l.asid (BitVec.ofNat 64 (l.field 0x68 8)) 16
  { s0.unqueue r l with
    launches := tdel s0.launches r
    cores := if l.lid = 0 then s0.cores else s0.cores.map (fun (p : Nat × Core) => (p.1, p.2.freeLaunch l.lid)) }

/-- The record of a launch and its release, before the log has it. -/
def State.launchDone (v : State) (l : Launch) (code : Nat) : State :=
  match v.doneAt l with
  | some a => (v.storeMem [.launcher l.die] a (completionRecord l.lid l.refusals code l.tasks)).releaseLaunch l (some a)
  | none => v.releaseLaunch l none

/-- … and with the log's entry, where the record is lost or the code is an error's. -/
def State.launchLogged (v : State) (l : Launch) (code : Nat) : State :=
  if v.doneAt l = none ∨ 2 ≤ code then
    (v.launchDone l code).log 0x3FF 0x0003 (bytesOfNat 8 l.lid ++ [BitVec.ofNat 8 code, if v.doneAt l = none then 1 else 0])
  else v.launchDone l code

/-- The record and the log in the model's own words. -/
def State.launchWritten (v : State) (l : Launch) (code : Nat) : State :=
  let done := v.doneAt l
  let (s2, lost) := match done with
    | some a => ((v.storeMem [.launcher l.die] a (completionRecord l.lid l.refusals code l.tasks)).releaseLaunch l done, false)
    | none => (v.releaseLaunch l none, true)
  if lost || 2 ≤ code then s2.log 0x3FF 0x0003 (bytesOfNat 8 l.lid ++ [BitVec.ofNat 8 code, if lost then 1 else 0]) else s2

theorem launchWritten_eq (v : State) (l : Launch) (code : Nat) : v.launchWritten l code = v.launchLogged l code := by
  unfold State.launchWritten State.launchLogged State.launchDone
  cases v.doneAt l with
  | none => simp
  | some a => simp

theorem launchCompletion_eq {s : State} {r code : Nat} {l : Launch} (hl : tfind s.launches r = some l) (hend : s.launchEnd l = some code) :
    exec (.launchCompletion r) s = .next (match l.src with
      | .cmd o _ _ sig => ((s.launchGone r l).launchLogged l code).applySignal o sig
      | .slot _ => (s.launchGone r l).launchLogged l code) := by
  rw [← launchWritten_eq]
  show execLaunchCompletion r s = _
  unfold execLaunchCompletion
  rw [hl]
  dsimp only
  rw [hend]
  rfl

theorem storeMem_keeps (s : State) (ags : List Agent) (a : Nat) (bs : List Byte) :
    (s.storeMem ags a bs).launches = s.launches ∧ (s.storeMem ags a bs).cores = s.cores ∧ (s.storeMem ags a bs).mem = writeBytes s.mem a bs := by
  obtain ⟨l, hl⟩ := onlyLags_noteAt s ags a bs
  rw [State.storeMem, hl]
  exact ⟨rfl, rfl, rfl⟩

theorem onlyLags_releaseLaunch (s : State) (l : Launch) (a : Option Nat) : OnlyLags s (s.releaseLaunch l a) := by
  unfold State.releaseLaunch
  split
  · exact ⟨s.lags, rfl⟩
  · dsimp only
    split
    · exact OnlyLags.trans ⟨_, rfl⟩ (onlyLags_release ..)
    · exact ⟨_, rfl⟩

theorem launchDone_keeps (v : State) (l : Launch) (code : Nat) : (v.launchDone l code).launches = v.launches ∧
    (v.launchDone l code).cores = v.cores ∧
    ∀ a, v.doneAt l = some a → (v.launchDone l code).mem = writeBytes v.mem a (completionRecord l.lid l.refusals code l.tasks) := by
  unfold State.launchDone
  cases v.doneAt l with
  | none =>
    obtain ⟨g, hg⟩ := onlyLags_releaseLaunch v l none
    dsimp only
    rw [hg]
    exact ⟨rfl, rfl, fun _ h => by cases h⟩
  | some a =>
    obtain ⟨g, hg⟩ := onlyLags_releaseLaunch (v.storeMem [.launcher l.die] a (completionRecord l.lid l.refusals code l.tasks)) l (some a)
    obtain ⟨hlaunches, hcores, hmem⟩ := storeMem_keeps v [.launcher l.die] a (completionRecord l.lid l.refusals code l.tasks)
    dsimp only
    rw [hg]
    refine ⟨hlaunches, hcores, fun b h => ?_⟩
    cases h
    exact hmem

theorem tfind_tdel_same {α : Type} (t : Tbl α) (j : Nat) : tfind (tdel t j) j = none := by
  induction t with
  | nil => rfl
  | cons p t ih =>
    unfold tdel
    rw [List.filter_cons]
    split
    · rename_i h
      exact (if_neg (Ne.symm (bne_iff_ne.mp h))).trans ih
    · exact ih

theorem launchCompletion_refused {s : State} {r code n : Nat} {l : Launch} (hl : tfind s.launches r = some l) (hph : l.phase = .ended code)
    (hlid : l.lid = 0) (hsrc : l.src = .slot n) :
    ∃ t u : State, exec (.launchCompletion r) s = .next t ∧ (t = u ∨ ∃ d, t = u.log 0x3FF 0x0003 d) ∧
      tfind t.launches r = none ∧ t.cores = s.cores ∧
      (let v := { (s.lunitFill l.die l.asid (BitVec.ofNat 64 (l.field 0x68 8)) 16).unqueue r l with launches := tdel s.launches r }
       ∀ a, v.doneAt l = some a → u.mem = writeBytes s.mem a (completionRecord 0 l.refusals code l.tasks)) := by
  have hend : s.launchEnd l = some code := by
    unfold State.launchEnd
    rw [hph]
  have hx : exec (.launchCompletion r) s = .next ((s.launchGone r l).launchLogged l code) := by
    rw [launchCompletion_eq hl hend, hsrc]
  obtain ⟨tlb, htlb⟩ := lunitFill_frame s l.die l.asid (BitVec.ofNat 64 (l.field 0x68 8)) 16
  have hgone : s.launchGone r l = { (s.lunitFill l.die l.asid (BitVec.ofNat 64 (l.field 0x68 8)) 16).unqueue r l with launches := tdel s.launches r } := by
    unfold State.launchGone
    dsimp only
    rw [if_pos hlid, htlb]
    rfl
  have hkept : (s.launchGone r l).launches = tdel s.launches r ∧ (s.launchGone r l).cores = s.cores ∧ (s.launchGone r l).mem = s.mem := by
    rw [hgone, htlb]
    exact ⟨rfl, rfl, rfl⟩
  obtain ⟨hgl, hgc, hgm⟩ := hkept
  obtain ⟨hlaunches, hcores, hmem⟩ := launchDone_keeps (s.launchGone r l) l code
  refine ⟨_, (s.launchGone r l).launchDone l code, hx, ?_, ?_, ?_, ?_⟩
  · unfold State.launchLogged
    split
    · exact .inr ⟨_, rfl⟩
    · exact .inl rfl
  · have : ((s.launchGone r l).launchLogged l code).launches = tdel s.launches r := by
      unfold State.launchLogged
      split <;> exact hlaunches.trans hgl
    rw [this]
    exact tfind_tdel_same ..
  · have : ((s.launchGone r l).launchLogged l code).cores = s.cores := by
      unfold State.launchLogged
      split <;> exact hcores.trans hgc
    exact this
  · intro v a ha
    rw [← hgm, ← hlid]
    exact hmem a (by rw [hgone]; exact ha)

/-! What a launch leaves of a core when it has ended (R43). -/

theorem tget_cases {α : Type} (d : α) (t : Tbl α) (j : Nat) : tget d t j = d ∨ (j, tget d t j) ∈ t := by
  induction t with
  | nil => exact .inl rfl
  | cons p t ih =>
    by_cases h : j = p.1
    · exact .inr (by rw [show tget d (p :: t) j = p.2 from if_pos h, h]; exact List.mem_cons_self)
    · rw [show tget d (p :: t) j = tget d t j from if_neg h]
      exact ih.imp_right (List.mem_cons_of_mem _)

theorem freeLaunch_frees (k : Core) (lid : Nat) :
    (∀ n e, ((k.freeLaunch lid).ctx n).env = some e → e.lid ≠ lid) ∧ (∀ p ∈ (k.freeLaunch lid).units, p.2 ≠ lid) ∧
    (∀ p ∈ (k.freeLaunch lid).arrays, p.2.owner ≠ some lid) ∧ (∀ p ∈ (k.freeLaunch lid).parking, p.lid ≠ lid) ∧
    (∀ p ∈ k.units, p.2 ≠ lid → p ∈ (k.freeLaunch lid).units) ∧ (k.freeLaunch lid).ls = k.ls := by
  refine ⟨fun n e he => ?_, fun p hp => bne_iff_ne.mp (List.mem_filter.mp hp).2, fun p hp => ?_,
    fun p hp => bne_iff_ne.mp (List.mem_filter.mp hp).2, fun p hp h => List.mem_filter.mpr ⟨hp, bne_iff_ne.mpr h⟩, rfl⟩
  · rcases tget_cases Ctx.reset (k.freeLaunch lid).ctxs n with h | h
    · rw [show (k.freeLaunch lid).ctx n = Ctx.reset from h] at he
      cases he
    · obtain ⟨q, -, hq⟩ := List.mem_map.mp (List.mem_filter.mp h).1
      have hctx : (k.freeLaunch lid).ctx n = if q.2.env.any (fun e => e.lid == lid) then Ctx.reset else q.2 :=
        (congrArg Prod.snd hq).symm
      rw [hctx] at he
      split at he
      · cases he
      · rename_i hnot
        intro hl
        refine hnot ?_
        rw [he]
        exact beq_iff_eq.mpr hl
  · obtain ⟨q, -, rfl⟩ := List.mem_map.mp hp
    split
    · exact fun h => by cases h
    · assumption

/-- Settles O54. -/
theorem launchEvents : Obligations.LaunchEvents :=
  ⟨fun _ _ _ => launchRecordCopy_takes, fun _ _ _ _ _ _ => countBlockRead_counts, fun _ _ _ _ _ => reservationRound_starts,
    fun _ _ _ _ _ _ _ => reserve_grants, fun _ _ _ _ _ _ _ => reserve_refuses, fun _ _ _ _ => commit_runs, fun _ _ _ _ => release_refuses,
    fun _ _ _ _ => backoff_ends, fun _ _ _ _ _ => launchCompletion_refused,
    fun s r code l hl hlid hend => by
      have hx := launchCompletion_eq hl hend
      unfold State.launchGone at hx
      dsimp only at hx
      rw [if_neg hlid] at hx
      exact hx,
    freeLaunch_frees, fun _ _ _ _ => completionRecord_fields⟩

end Sys2Proof.Machine
end

section
/-! SUPPORT (ours, not the spec's). A commit, a rollback, and the comparison of the reruns (R300 to R304). -/

namespace Sys2Proof.Machine
open Sys2Proof

theorem exec_checkpointCommit (c n : Nat) (s : State) : exec (.checkpointCommit c n) s = execCheckpointCommit c n s := rfl

theorem exec_rollback (c n : Nat) (s : State) : exec (.rollback c n) s = execRollback c n s := rfl

theorem exec_rerunCompare (c n : Nat) (s : State) : exec (.rerunCompare c n) s = execRerunCompare c n s := rfl

theorem checkpointCommit_ready {s : State} {c n : Nat} (hr : (s.at' c n).commitReady = true) (h0 : (s.ctxAt c n).guard.rerun = 0) :
    execCheckpointCommit c n s = .next (s.onCtx c n State.commitNow) :=
  if_pos (by simp [hr, h0])

section
variable {s : State} {c n : Nat} {a : Arch} (henv : (s.ctxAt c n).env.any LaunchEnv.guard = true)
  (hpoint : (s.ctxAt c n).guard.point = some a)
include henv hpoint

/-- A context that holds a guarded launch and a recovery point passes the first test of a rollback. -/
theorem rollback_applies : (!(s.ctxAt c n).env.any LaunchEnv.guard || (s.ctxAt c n).guard.point.isNone) = false := by
  simp [henv, hpoint]

theorem rollback_first (h0 : (s.ctxAt c n).guard.rerun = 0) (hs : (s.core c).snapped (s.ctxAt c n).launch.lid = true) :
    execRollback c n s = .next (s.onCtx c n (fun s => s.unwind 1)) := by
  simp [execRollback, rollback_applies henv hpoint, h0, hs]

theorem rollback_unsnapped (h0 : (s.ctxAt c n).guard.rerun = 0) (hs : (s.core c).snapped (s.ctxAt c n).launch.lid = false) :
    execRollback c n s = .next (s.unguarded c n) := by
  simp [execRollback, rollback_applies henv hpoint, h0, hs]

theorem rollback_again (h0 : (s.ctxAt c n).guard.rerun ≠ 0) : execRollback c n s = .next (s.unsound c n) := by
  simp [execRollback, rollback_applies henv hpoint, h0]

end

section
variable {s : State} {c n : Nat} (hr : (s.at' c n).commitReady = true)
include hr

theorem rerunCompare_first (h1 : (s.at' c n).cx.guard.rerun = 1)
    (hs : (s.core c).snapped (s.at' c n).cx.launch.lid = true) :
    execRerunCompare c n s = .next (s.onCtx c n (fun t => (t.modCx (fun x => { x with guard := { x.guard with
      firstAclk := (s.at' c n).cx.guard.aclk, firstCrc := (s.at' c n).rerunCrc } })).unwind 2)) := by
  simp [execRerunCompare, hr, h1, hs]

theorem rerunCompare_agrees (h2 : (s.at' c n).cx.guard.rerun = 2)
    (ha : (s.at' c n).cx.guard.aclk = (s.at' c n).cx.guard.firstAclk)
    (hc : (s.at' c n).rerunCrc = (s.at' c n).cx.guard.firstCrc) :
    execRerunCompare c n s = .next ((s.logRollback c n false).onCtx c n State.commitNow) := by
  simp [execRerunCompare, hr, h2, ha, hc]

theorem rerunCompare_differs (h2 : (s.at' c n).cx.guard.rerun = 2)
    (hne : (s.at' c n).cx.guard.aclk ≠ (s.at' c n).cx.guard.firstAclk ∨
      (s.at' c n).rerunCrc ≠ (s.at' c n).cx.guard.firstCrc) :
    execRerunCompare c n s = .next (s.unsound c n) := by
  have hd : ¬ ((s.at' c n).cx.guard.aclk = (s.at' c n).cx.guard.firstAclk ∧
      (s.at' c n).rerunCrc = (s.at' c n).cx.guard.firstCrc) := fun ⟨ha, hc⟩ => hne.elim (· ha) (· hc)
  simp [execRerunCompare, hr, h2, hd]

end

/-- Settles O55: each event is decided by the commit's readiness, the count of reruns and the arrays' snapshots, which the
premises of its clause name. -/
theorem guardEvents : Obligations.GuardEvents :=
  ⟨fun _ _ _ hr h0 => checkpointCommit_ready hr h0,
   fun _ _ _ _ henv hp h0 hs => rollback_first henv hp h0 hs,
   fun _ _ _ _ henv hp h0 hs => rollback_unsnapped henv hp h0 hs,
   fun _ _ _ _ henv hp h0 => rollback_again henv hp h0,
   fun _ _ _ hr h1 hs => rerunCompare_first hr h1 hs,
   fun s c n hr h2 ha hc => ⟨s.logRollback c n false, rfl, rerunCompare_agrees hr h2 ha hc⟩,
   fun _ _ _ hr h2 hne => rerunCompare_differs hr h2 hne⟩

end Sys2Proof.Machine
end

section
/-! SUPPORT (ours, not the spec's). What a commit sends and keeps, and what a rollback restores (R300, R302, R303). -/

namespace Sys2Proof.Machine
open Sys2Proof

/-! Writing back a journal. -/

/-- Writes of chunks leave what none of them covers. -/
theorem tget_foldl_writeBytes_outside (j : Tbl (List Byte)) (t : Tbl Byte) {o : Nat}
    (h : ∀ p ∈ j, o < p.1 ∨ p.1 + p.2.length ≤ o) :
    tget 0 (j.foldl (fun t p => writeBytes t p.1 p.2) t) o = tget 0 t o := by
  induction j generalizing t with
  | nil => rfl
  | cons p j ih =>
    rw [List.foldl_cons, ih _ (fun q hq => h q (List.mem_cons_of_mem _ hq))]
    exact tget_writeBytes_other t p.1 p.2 (h p List.mem_cons_self)

/-- A read depends on the bytes that it covers alone. -/
theorem readBytes_of_tget_eq {t u : Tbl Byte} {a n : Nat} (h : ∀ o, a ≤ o → o < a + n → tget 0 t o = tget 0 u o) :
    readBytes t a n = readBytes u a n := by
  induction n generalizing a with
  | zero => rfl
  | succ n ih =>
    rw [readBytes, readBytes, h a (Nat.le_refl a) (by omega), ih (fun o ho hn => h o (by omega) (by omega))]

/-- Of chunks that follow one another, each reads back as it was written. -/
theorem readBytes_foldl_writeBytes {j : Tbl (List Byte)} (hj : j.Pairwise (fun p q => p.1 + p.2.length ≤ q.1)) (t : Tbl Byte) :
    ∀ p ∈ j, readBytes (j.foldl (fun t p => writeBytes t p.1 p.2) t) p.1 p.2.length = p.2 := by
  induction j generalizing t with
  | nil => exact fun _ hp => nomatch hp
  | cons q j ih =>
    obtain ⟨hq, hrest⟩ := List.pairwise_cons.mp hj
    intro p hp
    rw [List.foldl_cons]
    rcases List.mem_cons.mp hp with rfl | hp
    · rw [readBytes_of_tget_eq (u := writeBytes t p.1 p.2)
        (fun o _ ho => tget_foldl_writeBytes_outside _ _ (fun r hr => Or.inl (Nat.lt_of_lt_of_le ho (hq r hr))))]
      exact readBytes_writeBytes_same t p.1 p.2
    · exact ih hrest _ p hp

/-! The commit. -/

theorem cx_setFcore_of_ctxs {s : State} {k : Core} (h : k.ctxs = s.fcore.ctxs) : (s.setFcore k).cx = s.cx := by
  show (s.setFcore k).fcore.ctx s.focusCtx = s.fcore.ctx s.focusCtx
  rw [fcore_setFcore, Core.ctx, h, Core.ctx]

/-- The core in focus after a commit: plane set 1 of every array of the launch is plane set 0 as it stands, and ACYCLE has counted
96 for each. -/
def State.committedCore (s : State) : Core :=
  let owned := s.fcore.owned s.cx.launch.lid
  { owned.foldl (fun k a => k.setArr a { k.arr a with p1 := (k.arr a).p0, snapv := true }) s.fcore with
    acycle := s.acycleOf s.focusCore + BitVec.ofNat 64 (96 * owned.length) }

theorem committedCore_ctxs (s : State) : s.committedCore.ctxs = s.fcore.ctxs :=
  foldl_keeps (f := Core.ctxs) (g := fun k a => k.setArr a { k.arr a with p1 := (k.arr a).p0, snapv := true })
    (fun _ _ => rfl) (s.fcore.owned s.cx.launch.lid) s.fcore

/-- With no signal of a replay left over, a commit gives the held effects their turn and renews the recovery point. -/
theorem commitNow_eq {s : State} (h : s.cx.guard.replayLeft = []) :
    let t := s.cx.guard.hold.foldl State.releaseHeld s
    s.commitNow = (t.setFcore t.committedCore).modCx (fun x =>
      { x with guard := { Guard.none with point := some x.a, tile := x.tile }, blocked := false }) := by
  unfold State.commitNow
  rw [h]
  rfl

theorem commitNow_restarts (s : State) (h : s.cx.guard.replayLeft = []) :
    let t := s.cx.guard.hold.foldl State.releaseHeld s
    s.commitNow.cx.guard.hold = [] ∧ s.commitNow.cx.guard.journal = [] ∧ s.commitNow.cx.guard.record = [] ∧
    s.commitNow.cx.guard.point = some t.cx.a ∧ s.commitNow.cx.a = t.cx.a ∧ SameMem t s.commitNow := by
  intro t
  have hcx : s.commitNow.cx =
      { t.cx with guard := { Guard.none with point := some t.cx.a, tile := t.cx.tile }, blocked := false } := by
    rw [commitNow_eq h, cx_modCx, cx_setFcore_of_ctxs (committedCore_ctxs t)]
  have hmem : SameMem t s.commitNow := by
    rw [commitNow_eq h]
    exact fun _ => rfl
  rw [hcx]
  exact ⟨rfl, rfl, rfl, rfl, rfl, hmem⟩

/-! The rollback. -/

/-- A rollback leaves memory, and its context is the one of the recovery point, with nothing held. -/
theorem unwind_restores (s : State) (n : Nat) (a : Arch) (h : s.cx.guard.point = some a) :
    (s.unwind n).cx.a = a ∧ (s.unwind n).cx.guard.hold = [] ∧ (s.unwind n).cx.guard.rerun = n ∧ SameMem s (s.unwind n) := by
  have hmem : (s.unwind n).mem = s.mem := by
    unfold State.unwind
    dsimp only
    rw [modCx_mem]
    split <;> exact dropAcq_mem s
  refine ⟨?_, ?_, ?_, fun b => congrArg (tget 0 · b) hmem⟩
  all_goals
    unfold State.unwind
    dsimp only
    rw [cx_modCx]
  exact (congrArg (Option.getD · _) h).trans rfl

theorem modCx_fcore_ls (s : State) (f : Ctx → Ctx) : (s.modCx f).fcore.ls = s.fcore.ls := by
  unfold State.modCx State.setCx
  rw [fcore_setFcore]
  rfl

/-- A rollback leaves the local store with the journal written back. -/
theorem unwind_ls (s : State) (n : Nat) : (s.unwind n).fcore.ls = (s.fcore.unjournal s.cx.guard.journal).ls := by
  have harrays : ∀ k : Core, ([0, 1, 2, 3].foldl (fun k a => k.setArr a ((k.arr a).unwind s.cx.launch.lid)) k).ls = k.ls :=
    fun k => foldl_keeps (f := Core.ls) (g := fun k a => k.setArr a ((k.arr a).unwind s.cx.launch.lid)) (fun _ _ => rfl) _ k
  have hset : ∀ (t : State) (k : Core) (l : Tbl Launch), ({ t.setFcore k with launches := l } : State).fcore.ls = k.ls :=
    fun t k _ => congrArg Core.ls (fcore_setFcore t k)
  unfold State.unwind
  dsimp only
  rw [modCx_fcore_ls]
  split
  · exact (hset _ _ _).trans (harrays _)
  · rw [fcore_setFcore]
    exact harrays _

/-- Settles O56: a commit is its held effects and a fresh guard; a rollback puts the recovery point back, and the journal's chunks
over the local store. -/
theorem guardRestores : Obligations.GuardRestores :=
  ⟨commitNow_restarts, fun _ _ _ => rfl, fun _ _ _ _ _ _ _ _ => rfl,
   fun _ _ _ => ⟨rfl, rfl, rfl, rfl, rfl, rfl, rfl, rfl, rfl, rfl, rfl, rfl, rfl, rfl, rfl, rfl, rfl, rfl, rfl⟩,
   fun _ _ _ => rfl, fun _ _ _ _ _ => rfl, unwind_restores,
   fun s n hj => ⟨fun p hp => (congrArg (readBytes · _ _) (unwind_ls s n)).trans (readBytes_foldl_writeBytes hj _ p hp),
     fun o ho => (congrArg (tget 0 · o) (unwind_ls s n)).trans (tget_foldl_writeBytes_outside _ _ ho)⟩,
   fun k j _ ho => tget_foldl_writeBytes_outside j k.ls ho,
   fun k o bs => readBytes_writeBytes_same k.ls o bs⟩

end Sys2Proof.Machine
end

section
/-! SUPPORT (ours, not the spec's). Walks and invalidations, and the control block's commands (R399 to R401, R406, R407). -/

namespace Sys2Proof.Machine
open Sys2Proof

/-! A walk is answered (R406). -/

theorem exec_translationWalk (asid : Nat) (va : W64) (s : State) :
    exec (.translationWalk asid va) s = execTranslationWalk asid va s := rfl

/-- The requesters of a walk are told how it came out, and it is no longer under way. -/
def State.walkTold (s : State) (w : Walk) (out : Except XFault TlbEnt) : State :=
  w.reqs.foldl (fun s q => s.tellWalk { page := w.page, out := out } q) { s with walks := s.walks.erase w }

section
variable {s : State} {asid : Nat} {va : W64} {w : Walk}
  (hw : s.walks.find? (fun w => w.asid == BitVec.ofNat 16 asid && w.page == pageNo va && s.walking w) = some w)
include hw

theorem translationWalk_installs {e : TlbEnt} (ho : s.walk (BitVec.ofNat 16 asid) w.va = .ok e)
    (hb : (s.xinvBusy && s.xinvCovers e) = false) :
    execTranslationWalk asid va s = .next (w.reqs.foldl (fun s q => s.tlbFill q.1 (BitVec.ofNat 16 asid) w.va)
      (s.walkTold w (s.walk (BitVec.ofNat 16 asid) w.va))) := by
  simp only [execTranslationWalk, hw, ho, hb, Bool.false_eq_true, if_false]
  rfl

theorem translationWalk_under_invalidation {e : TlbEnt} (ho : s.walk (BitVec.ofNat 16 asid) w.va = .ok e)
    (hb : (s.xinvBusy && s.xinvCovers e) = true) :
    execTranslationWalk asid va s = .next (s.walkTold w (s.walk (BitVec.ofNat 16 asid) w.va)) := by
  simp only [execTranslationWalk, hw, ho, hb, if_true]
  rfl

theorem translationWalk_faults {f : XFault} (ho : s.walk (BitVec.ofNat 16 asid) w.va = .error f) :
    execTranslationWalk asid va s = .next (s.walkTold w (s.walk (BitVec.ofNat 16 asid) w.va)) := by
  simp only [execTranslationWalk, hw, ho]
  rfl

end

/-! A context asks for a walk (R406). -/

/-- The walk of the page of `va` for the address space of the context in focus, on its die. -/
def State.walkIs (s : State) (va : W64) (w : Walk) : Bool :=
  w.die == coreDie s.focusCore && w.asid == s.cx.launch.asid && w.page == pageNo va

theorem walkIs_iff {s : State} {va : W64} {w : Walk} :
    s.walkIs va w = true ↔ w.die = coreDie s.focusCore ∧ w.asid = s.cx.launch.asid ∧ w.page = pageNo va := by
  simp [State.walkIs, and_assoc]

/-- A walk that a context has joined. -/
def Walk.joined (w : Walk) (me : Nat × Nat) : Walk := if w.reqs.contains me then w else { w with reqs := w.reqs ++ [me] }

theorem mem_joined (w : Walk) (me : Nat × Nat) : me ∈ (w.joined me).reqs := by
  unfold Walk.joined
  split
  next h => exact List.contains_iff_mem.mp h
  next => simp

theorem joined_of_mem {w : Walk} {me : Nat × Nat} (h : me ∈ w.reqs) : w.joined me = w := if_pos (List.contains_iff_mem.mpr h)

theorem walkIs_joined (s : State) (va : W64) (w : Walk) (me : Nat × Nat) : s.walkIs va (w.joined me) = s.walkIs va w := by
  unfold Walk.joined
  split <;> rfl

/-- The context in focus, as a walk names it. -/
def State.asker (s : State) : Nat × Nat := (s.focusCore, s.cx.launch.lid)

theorem askWalk_joins {s : State} {va : W64} (h : s.walks.any (s.walkIs va) = true) :
    s.askWalk va = { s with walks := s.walks.map (fun w => if s.walkIs va w then w.joined s.asker else w) } := by
  unfold State.askWalk
  refine (if_pos h).trans ?_
  refine congrArg (fun l => { s with walks := l }) (List.map_congr_left fun w _ => ?_)
  show (if (s.walkIs va w && !w.reqs.contains s.asker) = true then _ else w) = _
  unfold Walk.joined
  cases s.walkIs va w <;> cases w.reqs.contains s.asker <;> rfl

theorem askWalk_starts {s : State} {va : W64} (h : s.walks.any (s.walkIs va) = false) :
    s.askWalk va = { s with walks := s.walks ++
      [{ die := coreDie s.focusCore, asid := s.cx.launch.asid, page := pageNo va, reqs := [s.asker] }] } :=
  if_neg (ne_true_of_eq_false h)

/-- A context that asks is then named by a walk of its page. -/
theorem askWalk_names (s : State) (va : W64) :
    ∃ w ∈ (s.askWalk va).walks, s.walkIs va w = true ∧ s.asker ∈ w.reqs := by
  cases h : s.walks.any (s.walkIs va) with
  | true =>
    obtain ⟨w, hw, hit⟩ := List.any_eq_true.mp h
    rw [askWalk_joins h]
    exact ⟨w.joined s.asker, List.mem_map.mpr ⟨w, hw, if_pos hit⟩, (walkIs_joined s va w _).trans hit, mem_joined w _⟩
  | false =>
    rw [askWalk_starts h]
    exact ⟨_, List.mem_append_right _ List.mem_cons_self, walkIs_iff.mpr ⟨rfl, rfl, rfl⟩, List.mem_singleton.mpr rfl⟩

/-- Where a context already stands among the requesters of every walk of its page, and there is one, asking changes nothing. -/
theorem askWalk_again {t : State} {va : W64} (hany : t.walks.any (t.walkIs va) = true)
    (hall : ∀ w ∈ t.walks, t.walkIs va w = true → t.asker ∈ w.reqs) : t.askWalk va = t := by
  rw [askWalk_joins hany]
  have hmap : t.walks.map (fun w => if t.walkIs va w then w.joined t.asker else w) = t.walks := by
    refine (List.map_congr_left fun w hw => ?_).trans (List.map_id t.walks)
    split
    next h => exact joined_of_mem (hall w hw h)
    next => rfl
  rw [hmap]

theorem askWalk_askWalk (s : State) (va : W64) : (s.askWalk va).askWalk va = s.askWalk va := by
  obtain ⟨w, hw, hit, -⟩ := askWalk_names s va
  have hany : (s.askWalk va).walks.any (s.walkIs va) = true := List.any_eq_true.mpr ⟨w, hw, hit⟩
  have hall : ∀ w ∈ (s.askWalk va).walks, s.walkIs va w = true → s.asker ∈ w.reqs := by
    intro w hw hit
    cases h : s.walks.any (s.walkIs va) with
    | true =>
      rw [askWalk_joins h] at hw
      obtain ⟨v, _, rfl⟩ := List.mem_map.mp hw
      split at hit
      next hv => rw [if_pos hv]; exact mem_joined v _
      next hv => exact absurd hit hv
    | false =>
      rw [askWalk_starts h] at hw
      rcases List.mem_append.mp hw with hw | hw
      · exact absurd hit (by simpa using List.any_eq_false.mp h w hw)
      · rw [List.mem_singleton.mp hw]
        exact List.mem_singleton.mpr rfl
  have hsame : (s.askWalk va).walkIs va = s.walkIs va ∧ (s.askWalk va).asker = s.asker := by
    cases h : s.walks.any (s.walkIs va) with
    | true => rw [askWalk_joins h]; exact ⟨rfl, rfl⟩
    | false => rw [askWalk_starts h]; exact ⟨rfl, rfl⟩
  obtain ⟨his, hme⟩ := hsame
  exact askWalk_again (his ▸ hany) (by rw [his, hme]; exact hall)

/-- A context asks: it is named by a walk of its page, it joins one that is under way, and to ask again is nothing new. -/
theorem askWalk_spec (s : State) (va : W64) :
    (∃ w ∈ (s.askWalk va).walks, w.die = coreDie s.focusCore ∧ w.asid = s.cx.launch.asid ∧ w.page = pageNo va ∧
      (s.focusCore, s.cx.launch.lid) ∈ w.reqs) ∧
    ((∃ w ∈ s.walks, w.die = coreDie s.focusCore ∧ w.asid = s.cx.launch.asid ∧ w.page = pageNo va) →
      (s.askWalk va).walks.length = s.walks.length) ∧
    (s.askWalk va).askWalk va = s.askWalk va := by
  refine ⟨?_, ?_, askWalk_askWalk s va⟩
  · obtain ⟨w, hw, hit, hme⟩ := askWalk_names s va
    obtain ⟨hd, ha, hp⟩ := walkIs_iff.mp hit
    exact ⟨w, hw, hd, ha, hp, hme⟩
  · rintro ⟨w, hw, hit⟩
    rw [askWalk_joins (List.any_eq_true.mpr ⟨w, hw, walkIs_iff.mpr hit⟩)]
    exact List.length_map _

/-- Of the walks of a die the first 64 are under way. -/
theorem walking_iff {s : State} {w : Walk} {xs ys : List Walk} (hs : s.walks = xs ++ w :: ys) (hx : w ∉ xs) :
    s.walking w = true ↔ (xs.filter (fun v => v.die == w.die)).length < 64 := by
  have hfilter : s.walks.filter (fun v => v.die == w.die) =
      xs.filter (fun v => v.die == w.die) ++ w :: ys.filter (fun v => v.die == w.die) := by simp [hs]
  have hnot : w ∉ xs.filter (fun v => v.die == w.die) := fun h => hx (List.mem_filter.mp h).1
  unfold State.walking
  rw [hfilter, List.contains_iff_mem, List.take_append]
  generalize xs.filter (fun v => v.die == w.die) = before at hnot
  constructor
  · intro h
    by_contra hlen
    rcases List.mem_append.mp h with h | h
    · exact hnot (List.mem_of_mem_take h)
    · rw [Nat.sub_eq_zero_of_le (Nat.le_of_not_lt hlen)] at h
      exact absurd h List.not_mem_nil
  · intro hlen
    obtain ⟨k, hk⟩ := Nat.exists_eq_add_of_lt hlen
    rw [show 64 - before.length = k + 1 by omega, List.take_succ_cons]
    exact List.mem_append_right _ List.mem_cons_self

/-! An invalidation (R407). -/

theorem exec_invalidationComplete (s : State) : exec .invalidationComplete s = execInvalidationComplete s := rfl

theorem invalidation_waits {s : State} (hw : ∃ w ∈ s.walks, s.xinvCovers (s.walkEnt w) = true) :
    execInvalidationComplete s = .next s := by
  have hany : s.walks.any (fun w => s.xinvCovers (s.walkEnt w)) = true := List.any_eq_true.mpr hw
  simp [execInvalidationComplete, hany]

/-- What an invalidation leaves of a cache. -/
def State.kept (s : State) (t : List TlbEnt) : List TlbEnt := t.filter (fun e => !s.xinvCovers e)

theorem not_covered_of_mem_kept {s : State} {t : List TlbEnt} {e : TlbEnt} (h : e ∈ s.kept t) : s.xinvCovers e = false := by
  simpa using (List.mem_filter.mp h).2

theorem invalidation_clears {s : State} (hb : s.xinvBusy = true) (hw : ∀ w ∈ s.walks, s.xinvCovers (s.walkEnt w) = false) :
    ∃ t : State, exec .invalidationComplete s = .next t ∧ t.xinvBusy = false ∧
    (∀ p ∈ t.cores, ∀ e ∈ p.2.tlb, s.xinvCovers e = false) ∧ (∀ p ∈ t.units, ∀ e ∈ p.2.tlb, s.xinvCovers e = false) ∧
    (∀ e ∈ t.driftTlb, s.xinvCovers e = false) ∧ (∀ p ∈ t.unitTlbs, ∀ e ∈ p.2, s.xinvCovers e = false) ∧ t.mem = s.mem := by
  have hany : s.walks.any (fun w => s.xinvCovers (s.walkEnt w)) = false :=
    List.any_eq_false.mpr fun w hm => ne_true_of_eq_false (hw w hm)
  refine ⟨_, (exec_invalidationComplete s).trans (if_pos (by rw [hb, hany]; rfl)), rfl, ?_, ?_,
    fun e he => not_covered_of_mem_kept he, ?_, rfl⟩
  · intro p hp e he
    obtain ⟨q, _, rfl⟩ := List.mem_map.mp hp
    exact not_covered_of_mem_kept he
  · intro p hp e he
    obtain ⟨q, _, rfl⟩ := List.mem_map.mp hp
    exact not_covered_of_mem_kept he
  · intro p hp e he
    obtain ⟨q, _, rfl⟩ := List.mem_map.mp (List.mem_filter.mp hp).1
    exact not_covered_of_mem_kept he

/-! The control block's commands (R399 to R401). -/

theorem exec_evict (c : Nat) (s : State) : exec (.evict c) s = execEvict c s := rfl

theorem exec_restore (c : Nat) (s : State) : exec (.restore c) s = execRestore c s := rfl

theorem evict_takes {s : State} {c : Nat} (hcmd : (s.core c).evCmd = 1) (hn : (s.core c).evCtx < 4)
    (ht : ((s.core c).ctx (s.core c).evCtx).tile.isSome = true) (hp : (s.core c).parking.length < 8)
    (hi : imageAt (s.core c).evImage.toNat = true) (he : s.evictable c (s.core c).evCtx = true) :
    execEvict c s = .next (s.evictNow c (s.core c).evCtx (s.core c).evImage.toNat) := by
  have hnone : ((s.core c).ctx (s.core c).evCtx).tile.isNone = false := by rw [← Option.not_isSome, ht]; rfl
  simp [execEvict, hcmd, Nat.not_le.mpr hn, hnone, Nat.not_le.mpr hp, hi, he]

theorem evict_idle {s : State} {c : Nat} (hcmd : (s.core c).evCmd = 1) (ht : ((s.core c).ctx (s.core c).evCtx).tile = none) :
    execEvict c s = .next (s.evDone c 3) := by
  simp [execEvict, hcmd, ht]

theorem restore_bad_address {s : State} {c : Nat} (hcmd : (s.core c).evCmd = 2) (hi : imageAt (s.core c).evImage.toNat = false) :
    execRestore c s = .next (s.evDone c 7) := by
  simp [execRestore, hcmd, hi]

/-- The context that RESTORE reads from the image at `img`. -/
def State.imageCtx (s : State) (c : Nat) (p : Parking) (img : Nat) : Ctx :=
  let rd := fun off len => readNat s.mem (img + off) len
  loadImage c p.ctx rd (evictRecords (readBytes s.mem (img + 0x9D00) (8 * rd 6 2)))

/-- The core beside its context `n` after a RESTORE of `x`, parked as `p`. -/
def Core.restoring (k : Core) (now : W64) (n : Nat) (p : Parking) (x : Ctx) : Core :=
  { k.unpacked now x with
    parking := k.parking.filter (fun q => q.lid != p.lid), late := k.late.erase n ++ [n], evCmd := 0, evStatus := 2
    issued := if k.run = n then 0 else k.issued, heldAclk := if k.run = n then 0 else k.heldAclk }

/-- A RESTORE of an image that is good, for a launch that is parked and a context that is free. -/
theorem restore_loads {s : State} {c n : Nat} {p : Parking} (hcmd : (s.core c).evCmd = 2)
    (hi : imageAt (s.core c).evImage.toNat = true) :
    let img := (s.core c).evImage.toNat
    let rd := fun off len => readNat s.mem (img + off) len
    s.ueIn img (40192 + 8 * rd 6 2) = false → rd 0 4 = 0x43564153 → rd 4 2 = 1 → s.runs (rd 8 8) = true →
    BitVec.ofNat 64 (rd 0x10 8) = coreXY c → (s.core c).parking.find? (fun q => q.lid == rd 8 8) = some p →
    s.ctxFree c false = true → [0, 1, 2, 3].find? (fun n => ((s.core c).ctx n).env.isNone) = some n →
    execRestore c s = .next (s.setCore c (((s.core c).restoring (s.acycleOf c) n p (s.imageCtx c p img)).setCtx n
      (p.unpark { s.imageCtx c p img with blocked := false, waited := 0, routines := [], pendCmds := [] }))) := by
  intro img rd hue hmagic hversion hruns hplace hparked hfree hctx
  have hgood : (!imageAt img || s.ueIn img (40192 + 8 * rd 6 2) || rd 0 4 != 0x43564153 || rd 4 2 != 1) = false := by
    rw [hi, hue, hmagic, hversion]
    rfl
  have hhere : (!s.runs (rd 8 8) || BitVec.ofNat 64 (rd 0x10 8) != coreXY c) = false := by
    rw [hruns, hplace, bne_self_eq_false]
    rfl
  unfold execRestore
  dsimp only
  rw [if_neg (by rw [hcmd]; decide), if_neg (ne_true_of_eq_false hgood), if_neg (ne_true_of_eq_false hhere), hparked]
  dsimp only
  rw [if_pos hfree, hctx]
  dsimp only [Core.restoring, State.imageCtx, img]

theorem restore_spec (s : State) (c n : Nat) (p : Parking) (hcmd : (s.core c).evCmd = 2)
    (hi : imageAt (s.core c).evImage.toNat = true) :
    let img := (s.core c).evImage.toNat
    let rd := fun off len => readNat s.mem (img + off) len
    s.ueIn img (40192 + 8 * rd 6 2) = false → rd 0 4 = 0x43564153 → rd 4 2 = 1 → s.runs (rd 8 8) = true →
    BitVec.ofNat 64 (rd 0x10 8) = coreXY c → (s.core c).parking.find? (fun q => q.lid == rd 8 8) = some p →
    s.ctxFree c false = true → [0, 1, 2, 3].find? (fun n => ((s.core c).ctx n).env.isNone) = some n →
    ∃ k : Core, k.parking = (s.core c).parking.filter (fun q => q.lid != p.lid) ∧ k.evStatus = 2 ∧
      k.late = (s.core c).late.erase n ++ [n] ∧ exec (.restore c) s = .next (s.setCore c (k.setCtx n (p.unpark {
        loadImage c p.ctx rd (evictRecords (readBytes s.mem (img + 0x9D00) (8 * rd 6 2))) with
        blocked := false, waited := 0, routines := [], pendCmds := [] }))) := by
  intro img rd hue hmagic hversion hruns hplace hparked hfree hctx
  refine ⟨(s.core c).restoring (s.acycleOf c) n p (s.imageCtx c p img), ?_, ?_, ?_, ?_⟩
  · rfl
  · rfl
  · rfl
  · rw [exec_restore, restore_loads hcmd hi hue hmagic hversion hruns hplace hparked hfree hctx]
    dsimp only [State.imageCtx, img, rd]

/-- Settles O57: walks are joined by the page they are for, an invalidation keeps what it does not cover, and the control block's
commands follow their tests. -/
theorem translationAndEvictionEvents : Obligations.TranslationAndEvictionEvents := by
  refine ⟨?_, askWalk_spec, ?_, ?_, ?_, ?_, ?_, ?_, ?_, restore_spec, ?_⟩
  · intro s asid va w hw
    dsimp only
    refine ⟨fun e ho hb => ?_, fun e ho hb => ?_, fun f ho => ?_⟩
    · exact (exec_translationWalk asid va s).trans (translationWalk_installs hw ho hb)
    · exact (exec_translationWalk asid va s).trans (translationWalk_under_invalidation hw ho hb)
    · exact (exec_translationWalk asid va s).trans (translationWalk_faults hw ho)
  · exact fun _ _ _ _ hs hx => walking_iff hs hx
  · exact fun _ => rfl
  · exact fun _ _ hw => invalidation_waits hw
  · exact fun _ hb hw => invalidation_clears hb hw
  · exact fun _ _ hcmd hn ht hp hi he => evict_takes hcmd hn ht hp hi he
  · exact fun _ _ hcmd ht => evict_idle hcmd ht
  · exact fun _ _ hcmd hi => restore_bad_address hcmd hi
  · exact fun _ _ => rfl

end Sys2Proof.Machine
end

section
/-! SUPPORT (ours, not the spec's). The commands of the management mailbox (R415, R421 to R423). -/

namespace Sys2Proof.Machine
open Sys2Proof

theorem mgmt_runs {s : State} {n : Nat} (h : s.nun.op = n) (f : State → State) : mgmt n s f = .next (f s) := if_pos h

/-! CANCEL (R422). -/

/-- CANCEL of kind `kind` names a launch: by its LAUNCH_ID, its launch slot, or its signal's address and ASID. -/
def cancelNames (kind a1 a2 : Nat) (l : Launch) : Bool :=
  match kind, l.src with
  | 0, _ => l.lid != 0 && l.lid == a1
  | 1, .slot n => n == a1
  | 2, .cmd _ va asid _ => va.toNat == a1 && asid.toNat == a2
  | _, _ => false

/-- The arguments of CANCEL are out of their ranges. -/
def cancelBad (kind a1 a2 : Nat) : Bool := 2 < kind || (kind == 1 && 256 ≤ a1) || (kind == 2 && 65536 ≤ a2)

theorem cancelBad_iff {kind a1 a2 : Nat} :
    cancelBad kind a1 a2 = true ↔ 2 < kind ∨ (kind = 1 ∧ 256 ≤ a1) ∨ (kind = 2 ∧ 65536 ≤ a2) := by
  simp [cancelBad, or_assoc]

/-- The end of a CANCEL that names the launches `ls`. -/
def State.cancelled (s : State) (ls : List (Nat × Launch)) : State :=
  if ls = [] then s.mgmtDone 3 0 else (ls.foldl (fun s p => s.cancelLaunch p.1 p.2) s).mgmtDone 2 ls.length

theorem execCancel_eq {s : State} (hop : s.nun.op = 1) :
    execCancel s = .next (if cancelBad (mboxArg s 0) (mboxArg s 1) (mboxArg s 2) then s.mgmtDone 4 0
      else s.cancelled (s.launches.filter (fun p => cancelNames (mboxArg s 0) (mboxArg s 1) (mboxArg s 2) p.2))) := by
  refine (mgmt_runs hop _).trans (congrArg Host.Outcome.next ?_)
  unfold State.cancelled
  simp only [← List.isEmpty_iff]
  rfl

theorem cancel_bad {s : State} (hop : s.nun.op = 1)
    (h : 2 < mboxArg s 0 ∨ (mboxArg s 0 = 1 ∧ 256 ≤ mboxArg s 1) ∨ (mboxArg s 0 = 2 ∧ 65536 ≤ mboxArg s 2)) :
    execCancel s = .next (s.mgmtDone 4 0) :=
  (execCancel_eq hop).trans (congrArg Host.Outcome.next (if_pos (cancelBad_iff.mpr h)))

/-- A CANCEL with good arguments, which `f` says whom they name. -/
theorem cancel_selects {s : State} {f : Nat × Launch → Bool} (hop : s.nun.op = 1)
    (hgood : ¬ (2 < mboxArg s 0 ∨ (mboxArg s 0 = 1 ∧ 256 ≤ mboxArg s 1) ∨ (mboxArg s 0 = 2 ∧ 65536 ≤ mboxArg s 2)))
    (hf : ∀ p : Nat × Launch, cancelNames (mboxArg s 0) (mboxArg s 1) (mboxArg s 2) p.2 = f p) :
    execCancel s = .next (s.cancelled (s.launches.filter f)) := by
  rw [execCancel_eq hop, if_neg (mt cancelBad_iff.mp hgood), funext hf]

/-- CANCEL of a LAUNCH_ID. -/
theorem cancel_launchId {s : State} (hop : s.nun.op = 1) (h0 : mboxArg s 0 = 0) :
    execCancel s = .next (s.cancelled (s.launches.filter (fun p => p.2.lid != 0 && p.2.lid == mboxArg s 1))) :=
  cancel_selects hop (by omega) (fun p => by rw [h0]; rfl)

/-! The other commands, where they hold their opcode. -/

section
variable {s : State}

theorem retire_good (hop : s.nun.op = 2) (h : mboxArg s 0 < 512) :
    execRetire s = .next ((s.retireCore (mboxArg s 0) 3).mgmtDone 2 0) :=
  (mgmt_runs hop _).trans (congrArg Host.Outcome.next (if_neg (Nat.not_le.mpr h)))

theorem retire_bad (hop : s.nun.op = 2) (h : 512 ≤ mboxArg s 0) : execRetire s = .next (s.mgmtDone 4 0) :=
  (mgmt_runs hop _).trans (congrArg Host.Outcome.next (if_pos h))

theorem linkup_good (hop : s.nun.op = 3) (h : mboxArg s 0 < 32) :
    execLinkup s = .next (({ s with free := s.free + 1 } : State).retrainUp (mboxArg s 0) (Config.freeChoice s.free % 4)) :=
  (mgmt_runs hop _).trans (congrArg Host.Outcome.next (if_neg (Nat.not_le.mpr h)))

theorem linkup_bad (hop : s.nun.op = 3) (h : 32 ≤ mboxArg s 0) : execLinkup s = .next (s.mgmtDone 4 0) :=
  (mgmt_runs hop _).trans (congrArg Host.Outcome.next (if_pos h))

theorem reinstate_bad (hop : s.nun.op = 4) (h : 64 ≤ mboxArg s 0) : execReinstate s = .next (s.mgmtDone 4 0) :=
  (mgmt_runs hop _).trans (congrArg Host.Outcome.next (if_pos h))

theorem reinstate_silent (hop : s.nun.op = 4) (h : mboxArg s 0 < 64) (hne : panelTdev (mboxArg s 0) ≠ ownTdev)
    (hdown : ((s.rejoin (panelTdev (mboxArg s 0))).peer (panelTdev (mboxArg s 0))).up = false ∨
      (s.rejoin (panelTdev (mboxArg s 0))).cutOff = true) :
    execReinstate s = .next ((s.rejoin (panelTdev (mboxArg s 0))).mgmtDone 3 0) := by
  refine (mgmt_runs hop _).trans (congrArg Host.Outcome.next ((if_neg (Nat.not_le.mpr h)).trans (if_pos ?_)))
  simpa [hne] using hdown

theorem rejoin_up {t : Nat} (h : t = ownTdev ∨ (s.peer t).up = true) : s.rejoin t = s := if_pos (by simpa using h)

theorem reinstate_answers (hop : s.nun.op = 4) (h : mboxArg s 0 < 64)
    (hup : panelTdev (mboxArg s 0) = ownTdev ∨ ((s.peer (panelTdev (mboxArg s 0))).up = true ∧ s.cutOff = false)) :
    execReinstate s =
      .next (({ s with isolated := tput false s.isolated (panelTdev (mboxArg s 0)) false } : State).mgmtDone 2 0) := by
  have hre : s.rejoin (panelTdev (mboxArg s 0)) = s := rejoin_up (hup.imp id And.left)
  refine (mgmt_runs hop _).trans (congrArg Host.Outcome.next ((if_neg (Nat.not_le.mpr h)).trans ?_))
  dsimp only
  rw [hre]
  refine if_neg ?_
  rcases hup with hown | ⟨hpeer, hcut⟩
  · simp [hown]
  · simp [hpeer, hcut]

theorem powercap_good (hop : s.nun.op = 5) (hlo : 400 ≤ mboxArg s 0) (hhi : mboxArg s 0 ≤ 1600) :
    execPowercap s = .next (({ s with nun := { s.nun with capWatts := mboxArg s 0 } } : State).mgmtDone 2 (mboxArg s 0)) :=
  (mgmt_runs hop _).trans (congrArg Host.Outcome.next (if_neg (by simp [hlo, hhi])))

theorem powercap_bad (hop : s.nun.op = 5) (h : mboxArg s 0 < 400 ∨ 1600 < mboxArg s 0) :
    execPowercap s = .next (s.mgmtDone 4 0) :=
  (mgmt_runs hop _).trans (congrArg Host.Outcome.next (if_pos (by simpa using h)))

theorem fwupdate_bad (hop : s.nun.op = 6) (h : hbmObject (mboxArg s 0) (mboxArg s 1) = false) :
    execFwupdate s = .next (s.mgmtDone 4 0) :=
  (mgmt_runs hop _).trans (congrArg Host.Outcome.next (if_pos (by rw [h]; rfl)))

/-- The machine with an object in the firmware slot that is not active, which the next reset makes active. -/
def State.withFirmware (s : State) (o : List Byte) : State :=
  { s with nun := { (s.nun.setSlot (!s.nun.fwActive) {
      object := o, secver := objField o 0x14 4, valid := true, fresh := true }) with fwNext := !s.nun.fwActive } }

/-- FWUPDATE of an object in HBM takes it, or ends with the reason of its refusal. -/
theorem fwupdate_good (hop : s.nun.op = 6) (h : hbmObject (mboxArg s 0) (mboxArg s 1) = true) :
    execFwupdate s = .next ((s.fwRefusal (readBytes s.mem (mboxArg s 0) (mboxArg s 1))).elim
      ((s.withFirmware (readBytes s.mem (mboxArg s 0) (mboxArg s 1))).mgmtDone 2 0) (s.mgmtDone 3)) := by
  refine (mgmt_runs hop _).trans (congrArg Host.Outcome.next ((if_neg (by rw [h]; decide)).trans ?_))
  dsimp only
  cases s.fwRefusal (readBytes s.mem (mboxArg s 0) (mboxArg s 1)) <;> rfl

theorem fwconfirm_stale (hop : s.nun.op = 7) (h : (s.nun.slot s.nun.fwActive).fresh = false) :
    execFwconfirm s = .next (s.mgmtDone 3 0) :=
  (mgmt_runs hop _).trans (congrArg Host.Outcome.next (if_pos (by rw [h]; rfl)))

theorem fwconfirm_fresh (hop : s.nun.op = 7) (h : (s.nun.slot s.nun.fwActive).fresh = true) :
    ∃ t : State, execFwconfirm s = .next t ∧
      t.nun.fuseCnt = max s.nun.fuseCnt (s.nun.slot s.nun.fwActive).secver ∧ t.nun.status = 2 ∧ t.mem = s.mem :=
  ⟨_, (mgmt_runs hop _).trans (congrArg Host.Outcome.next (if_neg (by rw [h]; decide))), rfl, rfl, rfl⟩

theorem keycmd_bad (hop : s.nun.op = 8) (h : hbmObject (mboxArg s 0) 2952 = false ∨ mboxArg s 1 ≠ 2952) :
    execKeycmd s = .next (s.mgmtDone 4 0) :=
  (mgmt_runs hop _).trans (congrArg Host.Outcome.next (if_pos (by simpa using h)))

/-- A KEYCMD of 2,952 bytes ends with the status of its checks; with status 2 one key slot and the sequence number change. -/
theorem keycmd_good (hop : s.nun.op = 8) (h : hbmObject (mboxArg s 0) 2952 = true) (hlen : mboxArg s 1 = 2952) :
    ∃ t : State, execKeycmd s = .next t ∧ t.nun.status = s.keyStatus (readBytes s.mem (mboxArg s 0) 2952) ∧
      (if s.keyStatus (readBytes s.mem (mboxArg s 0) 2952) = 2 then
        t.nun.keySeq = BitVec.ofNat 64 (recField (readBytes s.mem (mboxArg s 0) 2952) 8 8) ∧
        (∀ k, k ≠ recField (readBytes s.mem (mboxArg s 0) 2952) 5 1 → t.nun.key k = s.nun.key k)
      else t = s.mgmtDone (s.keyStatus (readBytes s.mem (mboxArg s 0) 2952)) 0) := by
  have hgood : ¬ (!hbmObject (mboxArg s 0) 2952 || mboxArg s 1 != 2952) = true := by simp [h, hlen]
  by_cases hst : s.keyStatus (readBytes s.mem (mboxArg s 0) 2952) = 2
  · refine ⟨_, (mgmt_runs hop _).trans (congrArg Host.Outcome.next ((if_neg hgood).trans (if_neg (by simp [hst])))), hst.symm, ?_⟩
    rw [if_pos hst]
    exact ⟨rfl, fun k hk => tget_tput_other _ _ _ hk⟩
  · refine ⟨_, (mgmt_runs hop _).trans (congrArg Host.Outcome.next ((if_neg hgood).trans (if_pos (by simp [hst])))), rfl, ?_⟩
    rw [if_neg hst]

theorem attest_good (hop : s.nun.op = 9) (h0 : hbmObject (mboxArg s 0) 32 = true)
    (h1 : hbmObject (mboxArg s 1) (0x60 + 56 * s.images.length + 2776) = true)
    (h2 : 0x60 + 56 * s.images.length + 2776 ≤ mboxArg s 2) :
    execAttest s = .next ((s.publish (mboxArg s 1)
      (s.report (readBytes s.mem (mboxArg s 0) 32))).mgmtDone 2 (0x60 + 56 * s.images.length + 2776)) := by
  refine (mgmt_runs hop _).trans (congrArg Host.Outcome.next ((if_neg ?_).trans (if_neg (Nat.not_lt.mpr h2))))
  rw [Nat.min_eq_left h2, h0, h1]
  decide

theorem idkey_bad (hop : s.nun.op = 10) (h : hbmObject (mboxArg s 0) 152 = false) : execIdkey s = .next (s.mgmtDone 4 0) :=
  (mgmt_runs hop _).trans (congrArg Host.Outcome.next (if_pos (by rw [h]; rfl)))

theorem idkey_good (hop : s.nun.op = 10) (h : hbmObject (mboxArg s 0) 152 = true) :
    execIdkey s = .next ((s.publish (mboxArg s 0) (idEcPub ++ idLmsPub)).mgmtDone 2 152) :=
  (mgmt_runs hop _).trans (congrArg Host.Outcome.next (if_neg (by rw [h]; decide)))

end

end Sys2Proof.Machine
end

section
/-! SUPPORT (ours, not the spec's). What the host does, loads and unloads, the scrub, margins and power (R58, R411, R413, R416 to
R419). -/

namespace Sys2Proof.Machine
open Sys2Proof

/-! The host's accesses (R58, R411). -/

/-- What of the machine an acquire, a release or the end of an ACQ of a context leaves. -/
def State.stored (s : State) : Tbl Byte × List Nat × List Event := (s.mem, s.doorbells, s.queue)

theorem OnlyLags.stored_eq {s t : State} (h : OnlyLags s t) : t.stored = s.stored := by
  obtain ⟨l, rfl⟩ := h
  rfl

theorem stored_endAcq (s : State) (id : Nat) (o : Origin) (st : Nat) : (s.endAcq id o st).stored = s.stored := by
  unfold State.endAcq
  dsimp only
  split <;> rfl

theorem stored_wakeLatch (s : State) (a : Nat) : (s.wakeLatch a).stored = s.stored := by
  refine foldl_keeps (f := State.stored) (fun t p => ?_) s.flights s
  split
  · split
    · exact stored_endAcq ..
    · rfl
  · rfl

theorem stored_hostRelease (s : State) (a : Nat) : (s.hostRelease a).stored = s.stored :=
  (stored_wakeLatch _ a).trans (onlyLags_release ..).stored_eq

theorem stored_slotAcquire (s : State) (a : Nat) : (s.slotAcquire a).stored = s.stored :=
  foldl_keeps (f := State.stored) (fun _ _ => (onlyLags_acquire ..).stored_eq) _ s

theorem stored_storeMem (s : State) (ags : List Agent) (a : Nat) (bs : List Byte) :
    (s.storeMem ags a bs).stored = (s.writeMem a bs).stored := by
  obtain ⟨l, h⟩ := onlyLags_noteAt s ags a bs
  unfold State.storeMem
  rw [h]
  rfl

theorem exec_hostCxlWrite (d : Nat) (bs : List Byte) (s : State) : exec (.hostCxlWrite d bs) s = execHostCxlWrite d bs s := rfl

theorem objectsOf_below {d : Nat} (h : d < Config.windowBase) (n : Nat) : objectsOf d n = [] := if_pos h

/-- A write of HBM by the host meets no latch and no slot. -/
theorem hostCxlWrite_hbm {s : State} {d : Nat} {bs : List Byte} (hd : d + bs.length ≤ Config.hbmEnd) (hne : bs ≠ []) :
    execHostCxlWrite d bs s = .next (s.storeMem [.host] d bs) := by
  have hlen : 0 < bs.length := List.length_pos_iff.mpr hne
  have hbase : Config.hbmEnd < Config.windowBase := by decide
  have hslots : bs.zipIdx.filter (fun p => slotBase (d + p.2) && p.1.getLsbD 0) = [] := by
    refine List.filter_eq_nil_iff.mpr fun p hp => ?_
    have hp2 : p.2 < bs.length := by simpa using List.snd_lt_of_mem_zipIdx hp
    have hlow : ¬ Config.windowBase ≤ d + p.2 := by omega
    simp [slotBase, hlow]
  unfold execHostCxlWrite
  rw [if_pos (by simp [hostReach, hd]), objectsOf_below (by omega), hslots]
  rfl

theorem hostCxlWrite_window {s : State} {d : Nat} {bs : List Byte} (hlo : Config.windowBase ≤ d)
    (hhi : d + bs.length ≤ Config.windowEnd) :
    ∃ t : State, execHostCxlWrite d bs s = .next t ∧ t.stored = (s.writeMem d bs).stored :=
  ⟨_, if_pos (by simp [hostReach, hlo, hhi]),
    (foldl_keeps (f := State.stored) (fun _ _ => stored_slotAcquire _ _) _ _).trans
      ((foldl_keeps (f := State.stored) (fun _ _ => stored_hostRelease _ _) _ _).trans (stored_storeMem s _ d bs))⟩

/-- V of a launch slot, written by its byte, rings the slot or takes it off the list (R35, R411). -/
theorem doorbells_writeMem_slot (s : State) {n : Nat} (b : Byte) (hn : n < 272) :
    (s.writeMem (0x008010000000 + 128 * n) [b]).doorbells =
      if b.getLsbD 0 = false then s.doorbells.erase (0x008010000000 + 128 * n)
      else if (0x008010000000 + 128 * n) ∈ s.doorbells then s.doorbells else s.doorbells ++ [0x008010000000 + 128 * n] := by
  show rung s.doorbells (0x008010000000 + 128 * n) [b] = _
  have hslot : slotBase (0x008010000000 + 128 * n) = true := by
    have hmod : (Config.windowBase + 128 * n - Config.windowBase) % 128 = 0 := by omega
    have hlt : Config.windowBase + 128 * n < Config.windowBase + 128 * 272 := by omega
    show (decide (Config.windowBase ≤ Config.windowBase + 128 * n) && decide (Config.windowBase + 128 * n < Config.windowBase + 128 * 272) &&
      (Config.windowBase + 128 * n - Config.windowBase) % 128 == 0) = true
    rw [hmod, decide_eq_true (Nat.le_add_right _ _), decide_eq_true hlt]
    rfl
  have hin : ¬ (0x008010000000 + 128 * n + 1 ≤ Config.windowBase ∨ Config.windowBase + 128 * 272 ≤ 0x008010000000 + 128 * n) := by
    simp only [Config.windowBase]
    omega
  generalize 0x008010000000 + 128 * n = a at hslot hin
  unfold rung
  rw [if_neg (by simpa using hin)]
  cases hb : b.getLsbD 0 <;> simp [hslot, hb, -BitVec.getLsbD_eq_getElem]

theorem exec_hostCxlRead (d n : Nat) (s : State) : exec (.hostCxlRead d n) s = execHostCxlRead d n s := rfl

theorem hostCxlRead_hbm {s : State} {d n : Nat} (h : d + n ≤ Config.hbmEnd) : execHostCxlRead d n s = .next s := by
  have hbase : Config.hbmEnd < Config.windowBase := by decide
  unfold execHostCxlRead
  rw [objectsOf_below (by omega), if_pos (by simp [hostReach, h])]
  rfl

theorem hostCxlRead_window {s : State} {d n : Nat} (hlo : Config.windowBase ≤ d) (hhi : d + n ≤ Config.windowEnd) :
    execHostCxlRead d n s = .next ((objectsOf d n).foldl (fun t a => t.acquire .host 6 (fun o => o == .latch a)) s) :=
  if_pos (by simp [hostReach, hlo, hhi])

/-! A register's byte (R8, R421). -/

theorem exec_registerWrite (a : Nat) (bs : List Byte) (s : State) : exec (.registerWrite a bs) s = execRegisterWrite a bs s := rfl

theorem registerWrite_byte {s : State} {a : Nat} {b : Byte} (h : regionOf a = .regs) :
    execRegisterWrite a [b] s = .next (s.regByte a b) := by
  have hctr : ctrsIn a [b].length = [] := by
    show (List.map _ ([0].filter _)).eraseDups = []
    rw [List.filter_cons_of_neg (by simp [h])]
    rfl
  unfold execRegisterWrite
  dsimp only
  rw [hctr]
  simp [h]

theorem regByte_plain {s : State} {r : Nat × Nat} {a : Nat} {b : Byte} (hr : r ∈ plainRegs) (hlo : r.1 ≤ a) (hhi : a < r.1 + r.2)
    (hne : a ≠ Config.xinvDpa + 10) : s.regByte a b = { s with regs := tput 0 s.regs a (b &&& regMask a) } :=
  (if_neg hne).trans (if_pos (List.any_eq_true.mpr ⟨r, hr, by simp [hlo, hhi]⟩))

theorem regByte_mailbox (s : State) (b : Byte) : s.regByte (Config.mailboxDpa + 32) b = s.mboxOp b := by
  have hplain : plainRegs.any (fun r => r.1 ≤ Config.mailboxDpa + 32 && Config.mailboxDpa + 32 < r.1 + r.2) = false := by decide
  unfold State.regByte
  rw [if_neg (by decide), if_neg (ne_true_of_eq_false hplain), if_neg (by decide), if_neg (by decide), if_pos rfl]

theorem mailbox_takes {s : State} {b : Byte} (hst : s.nun.status ≠ 1) (hlo : 0 < b.toNat) (hhi : b.toNat ≤ 10) :
    execRegisterWrite (Config.mailboxDpa + 32) [b] s = .next { s with nun := { s.nun with
      op := b.toNat, status := 1,
      args := (List.range 4).map (fun n => BitVec.ofNat 64 (readNat s.regs (Config.mailboxDpa + 8 * n) 8)) } } := by
  have hne : b ≠ 0 := by rintro rfl; exact absurd hlo (by decide)
  rw [registerWrite_byte (by decide), regByte_mailbox]
  refine congrArg Host.Outcome.next ((if_neg hst).trans (if_neg ?_))
  simpa [hhi] using hne

/-! Loads and unloads (R413). -/

theorem exec_loadRequest (n : Nat) (s : State) : exec (.loadRequest n) s = execLoadRequest n s := rfl

theorem loadRequest_good {s t : State} {n : Nat} {l : Loaded} (ha : s.asks n false = true) (hr : s.slotReserved n = false)
    (ho : hbmObject (readNat s.mem (loadSlot n + 8) 8) (readNat s.mem (loadSlot n + 16) 8) = true)
    (hl : s.load (readBytes s.mem (readNat s.mem (loadSlot n + 8) 8) (readNat s.mem (loadSlot n + 16) 8))
      (BitVec.ofNat 16 (readNat s.mem (loadSlot n + 4) 2)) = (l, t)) :
    execLoadRequest n s = .next (t.loadRecord n l
      (objField (readBytes s.mem (readNat s.mem (loadSlot n + 8) 8) (readNat s.mem (loadSlot n + 16) 8)) 0x18 4)) := by
  unfold execLoadRequest
  dsimp only
  rw [if_neg (by rw [ha]; decide), if_neg (by rw [hr, ho]; decide), hl]

theorem exec_unloadRequest (n : Nat) (s : State) : exec (.unloadRequest n) s = execUnloadRequest n s := rfl

theorem unloadRequest_good {s : State} {n : Nat} {i : Image} (ha : s.asks n true = true) (hr : s.slotReserved n = false)
    (hi : s.images.find? (fun i => i.asid == BitVec.ofNat 16 (readNat s.mem (loadSlot n + 4) 2) &&
      i.bases.getD 0 0 == readNat s.mem (loadSlot n + 8) 8) = some i)
    (hu : ∀ p ∈ s.launches, p.2.uses i = false) :
    ∃ u : State, u = i.regions.foldl (fun t m =>
        (t.unmapPages (BitVec.ofNat 16 (readNat s.mem (loadSlot n + 4) 2)).toNat m.va (m.size / 65536)).forget
          (BitVec.ofNat 16 (readNat s.mem (loadSlot n + 4) 2)) m) s ∧
      execUnloadRequest n s = .next (({ u with images := u.images.erase i } : State).loadRecord n (failed 0 0) 0) := by
  have hfree : s.launches.any (fun p => p.2.uses i) = false :=
    List.any_eq_false.mpr fun p hp => ne_true_of_eq_false (hu p hp)
  refine ⟨_, rfl, ?_⟩
  unfold execUnloadRequest
  dsimp only
  rw [if_neg (by rw [ha]; decide), if_neg (by rw [hr]; decide), hi]
  dsimp only
  exact if_neg (ne_true_of_eq_false hfree)

/-! The scrub (R416). -/

theorem tget_filter {α : Type} (q : Nat → Bool) (d : α) (t : Tbl α) (a : Nat) :
    tget d (t.filter (fun p => q p.1)) a = if q a then tget d t a else d := by
  induction t with
  | nil => exact (ite_self d).symm
  | cons p r ih =>
    obtain ⟨k, v⟩ := p
    by_cases hk : a = k
    · subst hk
      cases hq : q a <;> simp [hq, tget, ih]
    · cases hq : q k <;> simp [hq, tget, ih, hk]

theorem scrubDone_clears {s : State} (h : s.nun.scrubbed = false) :
    ∃ t : State, exec .scrubDone s = .next t ∧ t.nun.scrubbed = true ∧
      (∀ a, a < Config.hbmEnd → t.byte a = 0) ∧ (∀ a, Config.hbmEnd ≤ a → t.byte a = s.byte a) := by
  have hbyte := tget_filter (fun k => Config.hbmEnd ≤ k) (0 : Byte) s.mem
  exact ⟨_, show execScrubDone s = _ from if_neg (by rw [h]; decide), rfl,
    fun a ha => (hbyte a).trans (if_neg (by simpa using ha)), fun a ha => (hbyte a).trans (if_pos (by simpa using ha))⟩

/-! Margins and power (R418, R419). -/

theorem marginStep_retires {s : State} {c : Nat} (h : s.nun.aclkMhz ≤ 350) : exec (.marginStep c) s = .next (s.retireCore c 2) :=
  show execMarginStep c s = _ from if_pos h

theorem marginStep_slows {s : State} {c : Nat} (h : 350 < s.nun.aclkMhz) : ∃ t : State, exec (.marginStep c) s = .next t ∧
    t.nun.aclkMhz = max 350 (s.nun.aclkMhz - 25) ∧ t.nun.retired = s.nun.retired :=
  ⟨_, show execMarginStep c s = _ from if_neg (Nat.not_le.mpr h), rfl, rfl⟩

/-- A plan is the highest step of 25 MHz that the request allows, from 350 to 700. -/
theorem planRate_spec (f : Nat) : planRate f % 25 = 0 ∧ 350 ≤ planRate f ∧ planRate f ≤ 700 ∧
    (350 ≤ f → planRate f ≤ f) ∧ (f < 700 → f < planRate f + 25) := by
  unfold planRate
  omega

theorem replan_sets (s : State) (f : Nat) : ∃ t : State, exec (.replan f) s = .next t ∧
    t.nun.planMhz % 25 = 0 ∧ 350 ≤ t.nun.planMhz ∧ t.nun.planMhz ≤ 700 ∧
    (350 ≤ f → t.nun.planMhz ≤ f) ∧ (f < 700 → f < t.nun.planMhz + 25) ∧ t.mem = s.mem ∧
    (s.nun.gating = 0 → t.nun.aclkMhz = t.nun.planMhz) ∧
    (0 < s.nun.gating → t.nun.aclkMhz = min s.nun.aclkMhz t.nun.planMhz ∧ t.nun.gating = s.nun.gating) := by
  obtain ⟨hstep, hlo, hhi, hle, hlt⟩ := planRate_spec f
  exact ⟨_, show execReplan f s = .next _ from rfl, hstep, hlo, hhi, hle, hlt, rfl, fun h => if_pos h,
    fun h => ⟨if_neg (Nat.ne_of_gt h), rfl⟩⟩

theorem powerCapStep_slows {s : State} {w j : Nat} {b : Bool} (hw : s.nun.capWatts < w) (hm : 350 < s.nun.aclkMhz) :
    ∃ t : State, exec (.powerCapStep w j b) s = .next t ∧ t.nun.aclkMhz = s.nun.aclkMhz - 25 ∧ t.nun.gating = s.nun.gating :=
  ⟨_, show execPowerCapStep w j b s = _ from (if_pos (by simp [hw])).trans (if_pos hm), rfl, rfl⟩

theorem powerCapStep_recovers {s : State} {w j : Nat} (hw : w * 100 ≤ s.nun.capWatts * 95) (hj : j < 105) (hg : s.nun.gating = 0)
    (hm : s.nun.aclkMhz < s.nun.planMhz) :
    ∃ t : State, exec (.powerCapStep w j false) s = .next t ∧ t.nun.aclkMhz = min (s.nun.aclkMhz + 25) s.nun.planMhz := by
  have hcool : ¬ (s.nun.capWatts < w ∨ 105 ≤ j) := by omega
  exact ⟨_, show execPowerCapStep w j false s = _ from
    (if_neg (by simpa using hcool)).trans ((if_pos hw).trans ((if_neg (by omega)).trans (if_pos hm))), rfl⟩

end Sys2Proof.Machine
end

section
/-! SUPPORT (ours, not the spec's). Settles what management and the host do, from the commands' and the accesses' own lemmas. -/

namespace Sys2Proof.Machine
open Sys2Proof

section
variable {s : State}

theorem exec_cancel : exec .cancel s = execCancel s := rfl

theorem cancel_unknown (hop : s.nun.op = 1) (h0 : mboxArg s 0 = 0)
    (hn : s.launches.filter (fun p => p.2.lid != 0 && p.2.lid == mboxArg s 1) = []) :
    exec .cancel s = .next (s.mgmtDone 3 0) := by
  rw [exec_cancel, cancel_launchId hop h0, hn]
  rfl

theorem cancel_one {r : Nat} {l : Launch} (hop : s.nun.op = 1) (h0 : mboxArg s 0 = 0)
    (hn : s.launches.filter (fun p => p.2.lid != 0 && p.2.lid == mboxArg s 1) = [(r, l)]) :
    exec .cancel s = .next ((s.cancelLaunch r l).mgmtDone 2 1) := by
  rw [exec_cancel, cancel_launchId hop h0, hn]
  rfl

/-- CANCEL of what a launch slot started. -/
theorem cancel_slot {f : Nat × Launch → Bool} (hop : s.nun.op = 1) (h0 : mboxArg s 0 = 1) (h1 : mboxArg s 1 < 256)
    (hf : ∀ p : Nat × Launch, cancelNames 1 (mboxArg s 1) (mboxArg s 2) p.2 = f p) :
    exec .cancel s = .next (s.cancelled (s.launches.filter f)) :=
  exec_cancel.trans (cancel_selects hop (by omega) (h0 ▸ hf))

/-- CANCEL of what LAUNCHes with a signal started. -/
theorem cancel_signal {f : Nat × Launch → Bool} (hop : s.nun.op = 1) (h0 : mboxArg s 0 = 2) (h2 : mboxArg s 2 < 65536)
    (hf : ∀ p : Nat × Launch, cancelNames 2 (mboxArg s 1) (mboxArg s 2) p.2 = f p) :
    exec .cancel s = .next (s.cancelled (s.launches.filter f)) :=
  exec_cancel.trans (cancel_selects hop (by omega) (h0 ▸ hf))

end

/-- Settles O58: every command by its opcode and its arguments, and every event by its own test. -/
theorem managementAndHost : Obligations.ManagementAndHost := by
  refine ⟨fun s => ⟨cancel_unknown, fun _ _ => cancel_one, fun hop h0 h1 => cancel_slot hop h0 h1 (fun p => ?_),
    fun hop h0 h2 => cancel_signal hop h0 h2 (fun p => ?_), cancel_bad, retire_good, retire_bad, linkup_good, linkup_bad, reinstate_bad,
    reinstate_silent, reinstate_answers, powercap_good, powercap_bad, ?_, fwupdate_bad, fwconfirm_stale, keycmd_bad, idkey_bad,
    fwconfirm_fresh, keycmd_good, attest_good, idkey_good⟩,
    fun s d bs hd hne => (exec_hostCxlWrite d bs s).trans (hostCxlWrite_hbm hd hne), ?_,
    fun s n b hn => doorbells_writeMem_slot s b hn, fun s d n h => (exec_hostCxlRead d n s).trans (hostCxlRead_hbm h),
    fun s d n hlo hhi => (exec_hostCxlRead d n s).trans (hostCxlRead_window hlo hhi),
    fun s b hst hlo hhi => (exec_registerWrite _ _ s).trans (mailbox_takes hst hlo hhi),
    fun s a b h => (exec_registerWrite a [b] s).trans (registerWrite_byte h), ?_,
    fun s t n l ha hr ho hl => (exec_loadRequest n s).trans (loadRequest_good ha hr ho hl),
    fun s n i ha hr hi hu => unloadRequest_good ha hr hi hu, fun s h => scrubDone_clears h, fun s c h => marginStep_retires h,
    fun s c h => marginStep_slows h, replan_sets, fun s w j b hw hm => powerCapStep_slows hw hm,
    fun s w j hw hj hg hm => powerCapStep_recovers hw hj hg hm, fun s j h => if_pos h, fun s j h => if_neg (Nat.not_le.mpr h)⟩
  · unfold cancelNames
    cases p.2.src <;> rfl
  · unfold cancelNames
    cases p.2.src <;> rfl
  · intro hop h
    refine (fwupdate_good hop h).trans (congrArg Host.Outcome.next ?_)
    dsimp only [mboxArg]
    generalize readBytes s.mem _ _ = o
    cases s.fwRefusal o <;> rfl
  · intro s d bs hlo hhi
    obtain ⟨t, ht, hst⟩ := hostCxlWrite_window (s := s) hlo hhi
    obtain ⟨hmem, hbells, hqueue⟩ : t.mem = _ ∧ t.doorbells = _ ∧ t.queue = _ := by simpa [State.stored] using hst
    exact ⟨t, ht, hmem, hbells, hqueue⟩
  · intro s r a b hr hlo hhi hne
    rw [regByte_plain hr hlo hhi hne]
    exact tget_tput_same _ _ _ _

end Sys2Proof.Machine
end
